-- ==== Sys2Proof/Word.lean ====
section
/-! DEFINITION. The word types of the model. -/

namespace Sys2Proof

/-- A byte. -/
abbrev Byte := BitVec 8
/-- A halfword of 16 bits. -/
abbrev W16 := BitVec 16
/-- A word of 32 bits: a near effective address, an index register, the PC. -/
abbrev W32 := BitVec 32
/-- A word of 48 bits: a virtual or device physical address as a field. -/
abbrev W48 := BitVec 48
/-- A word of 64 bits: PSW, ACC.Q and most special registers. -/
abbrev W64 := BitVec 64

end Sys2Proof
end

