-- ==== Sys2Proof/Machine/Bits.lean ====
section
/-! DEFINITION. Helpers on plain data: maps by number, byte orders, fields of words, CRC-32C. -/

namespace Sys2Proof.Machine

/-! ### Maps by number -/

/-- The value listed for `k`, if any. -/
def spGet? {α : Type} : List (Nat × α) → Nat → Option α
  | [], _ => none
  | (j, v) :: r, k => if j = k then some v else spGet? r k

/-- The value listed for `k`, else `d`. -/
def spGet {α : Type} (d : α) (m : List (Nat × α)) (k : Nat) : α := (spGet? m k).getD d

/-- The map with `v` listed for `k`, in rising order of the number. -/
def spPut {α : Type} : List (Nat × α) → Nat → α → List (Nat × α)
  | [], k, v => [(k, v)]
  | (j, w) :: r, k, v =>
    if k < j then (k, v) :: (j, w) :: r
    else if k = j then (k, v) :: r
    else (j, w) :: spPut r k v

/-- The map without `k`. -/
def spDel {α : Type} : List (Nat × α) → Nat → List (Nat × α)
  | [], _ => []
  | (j, w) :: r, k => if j = k then r else (j, w) :: spDel r k

/-- The map with `v` for `k`, where `v = d` is what an unlisted number reads as and is not listed. -/
def cellPut (d : Byte) (m : List Host.Cell) (k : Nat) (v : Byte) : List Host.Cell :=
  if v = d then spDel m k else spPut m k v

/-- The list without the numbers from `a` to `a + n - 1`. -/
def spClear {α : Type} (m : List (Nat × α)) (a n : Nat) : List (Nat × α) :=
  m.filter (fun c => !(decide (a ≤ c.1) && decide (c.1 < a + n)))

/-! ### Bytes -/

/-- The number that bytes spell, most significant first. -/
def beNat (l : List Byte) : Nat := l.foldl (fun a b => a * 256 + b.toNat) 0

/-- The number that bytes spell, least significant first. -/
def leNat : List Byte → Nat
  | [] => 0
  | b :: r => b.toNat + 256 * leNat r

/-- `n` bytes of a number, least significant first. -/
def leBytes : Nat → Nat → List Byte
  | 0, _ => []
  | n + 1, v => BitVec.ofNat 8 v :: leBytes n (v / 256)

/-- `n` bytes of a number, most significant first. -/
def beBytes (n v : Nat) : List Byte := (leBytes n v).reverse

/-- The bytes from `off` on, `n` of them. -/
def slice (l : List Byte) (off n : Nat) : List Byte := (l.drop off).take n

/-- The byte at an offset; 0 past the end. -/
def byteAt (l : List Byte) (off : Nat) : Byte := (l[off]?).getD 0

/-- The little-endian number of `n` bytes at `off`. -/
def leAt (l : List Byte) (off n : Nat) : Nat := leNat (slice l off n)

/-- The big-endian number of `n` bytes at `off`. -/
def beAt (l : List Byte) (off n : Nat) : Nat := beNat (slice l off n)

/-- `l` with `b` in place of the bytes from `off` on. -/
def patch (l : List Byte) (off : Nat) (b : List Byte) : List Byte :=
  l.take off ++ b ++ l.drop (off + b.length)

/-- `n` zero bytes. -/
def zeros (n : Nat) : List Byte := List.replicate n 0

/-- Whether all bytes are zero. -/
def allZero (l : List Byte) : Bool := l.all (fun b => b == 0)

/-- `l` filled with zero bytes, or cut, to `n` bytes. -/
def fit (n : Nat) (l : List Byte) : List Byte := (l ++ zeros (n - l.length)).take n

/-! ### Fields of numbers -/

/-- Bits `lo` to `lo + n - 1` of a number. -/
def bits (v lo n : Nat) : Nat := v / 2 ^ lo % 2 ^ n

/-- Bit `i` of a number. -/
def bit (v i : Nat) : Bool := v / 2 ^ i % 2 == 1

/-- A word with a field replaced. -/
def setField {w : Nat} (x : BitVec w) (lo n v : Nat) : BitVec w :=
  let m : BitVec w := BitVec.ofNat w ((2 ^ n - 1) * 2 ^ lo)
  (x &&& ~~~ m) ||| (BitVec.ofNat w (v % 2 ^ n * 2 ^ lo))

/-- A word with one bit replaced. -/
def setBit {w : Nat} (x : BitVec w) (i : Nat) (b : Bool) : BitVec w := setField x i 1 b.toNat

/-- A word with the bits of `mask` taken from `v`. -/
def blend {w : Nat} (x mask v : BitVec w) : BitVec w := (x &&& ~~~ mask) ||| (v &&& mask)

/-- Sign extension of the low `n` bits of a number to an integer. -/
def sext (n v : Nat) : Int :=
  let r : Nat := v % 2 ^ n
  if n ≠ 0 ∧ 2 ^ (n - 1) ≤ r then (r : Int) - (2 ^ n : Nat) else (r : Int)

/-- An integer modulo `2 ^ n`. -/
def wrapInt (n : Nat) (v : Int) : Nat := (v % ((2 ^ n : Nat) : Int)).toNat

/-- The bits set among the low `n` of a number. -/
def popCount : Nat → Nat → Nat
  | 0, _ => 0
  | n + 1, v => v % 2 + popCount n (v / 2)

/-- Whether the low `n` bits of a number hold an odd number of ones. -/
def oddOnes (n v : Nat) : Bool := popCount n v % 2 == 1

/-! ### CRC-32C (12 R337) -/

/-- Eight steps of the reflected register. -/
def crcShift : Nat → Nat → Nat
  | 0, c => c
  | n + 1, c => crcShift n (if c % 2 = 1 then Nat.xor (c / 2) 0x82F63B78 else c / 2)

/-- CRC-32C of bytes: reflected polynomial 0x82F63B78, initial and final 0xFFFFFFFF (R337). -/
def crc32c (l : List Byte) : Nat :=
  Nat.xor (l.foldl (fun c b => crcShift 8 (Nat.xor c b.toNat)) 0xFFFFFFFF) 0xFFFFFFFF

end Sys2Proof.Machine
end

