-- ==== Sys2Proof/Syntax.lean ====
section
/-! DEFINITION. The commands of the block: one constructor of `Instr` for each row of
spec/opcode_table.json, with the operands the row needs. An operand is what reaches the device from
outside it (the instruction that decode presents, a doorbell value, a happening on a pin, the
outcome of a physical test or of a cryptographic verification). -/

namespace Sys2Proof

/-- A core: ledger engine n (01 R15) or control core CCc. -/
inductive CoreId where
  | eng (n : Fin 128)
  | cc (c : Fin 8)
deriving DecidableEq, Repr

/-- A unit that holds translations or keys (10 Table 10-1), or that awaits responses (15 R411). -/
inductive UnitId where
  | core (c : CoreId)
  | tram (s : Fin 4)
deriving DecidableEq, Repr

/-- The prefix bytes of Table 3-7. -/
inductive Pfx where
  | far
  | far1
  | far2
deriving DecidableEq, Repr

/-- A hardware malfunction that meets the step (15 Table 15-4): the checks of the device find it. -/
inductive HwErr where
  /-- the residues modulo 9 and 11 that the engine forms of its own result (R146, R165), at this depth of an
  Arcade step (R244) -/
  | residue (depth : Nat) (mod9 mod11 : BitVec 4)
  /-- a parity error in a register or buffer (R406) -/
  | parity
  /-- a parity error in the control-store word read at this depth of the step (R251) -/
  | uparity (depth : Nat)
  /-- an uncorrectable error in data read (R408, R409): the first operand loaded, else the instruction's own bytes -/
  | uncorrectable
  /-- an uncorrectable error in the data of operand `i`, from 0 on; in an Arcade step, in the data that the LDM at
  depth `i` loads (R249) -/
  | data (i : Nat)
  /-- a single-bit or one-symbol error, corrected (R408, R409) -/
  | corrected
  /-- a ring seal that fails (R411) -/
  | seal
  /-- an uncorrectable error in a table entry that the walker reads (R273, R274) -/
  | walk
  /-- an uncorrectable error in a key byte that the key fetch reads (R288) -/
  | key
deriving DecidableEq, Repr

/-- The issue of one instruction: the core, the prefix bytes that stand before the opcode byte, and
a malfunction that meets it, if any. -/
structure Issue where
  core : CoreId
  pre : List Pfx
  err : Option HwErr
deriving DecidableEq, Repr

/-- The fields of a format M or format L instruction (Tables 3-2 and 3-3). `d` holds the 16-bit
field of format M in its low half. -/
structure MOp where
  long : Bool
  am : BitVec 3
  len : BitVec 5
  d : W32
deriving DecidableEq, Repr

/-- The fields of an SS instruction (R100): the length fields hold L1 - 1 and L2 - 1. -/
structure SOp where
  l1 : BitVec 5
  l2 : BitVec 5
  d1 : W16
  d2 : W16
deriving DecidableEq, Repr

/-- What comes back for a request (15 R411): data or an acknowledgement, a poisoned response with
the CODE of the server's record, or nothing within 1 ms. -/
inductive Resp where
  | ok
  | poison (code : Byte)
  | timeout
deriving DecidableEq, Repr

/-- A function of a host port (12 R328): port 0 or 1, function 0 the physical one. -/
structure FnId where
  port : Fin 2
  fn : Fin 16
deriving DecidableEq, Repr

/-- Bytes that the host made visible in its memory (R334, R346). -/
structure HostStore where
  addr : W64
  bytes : List Byte
deriving DecidableEq, Repr

/-- A fetched command: queue pair `q` of a function and the SQ index of the submission. `readFails`:
a host read of the command's buffer fails at the host port (R356), after `readsOk` reads of a batch that do not
(R347). `dirBad`: the buckets of the directory in which its lookups meet an uncorrectable entry (R327). `recBad`:
its read of the record's contents meets an uncorrectable error (R323). `logBad`: the LSEQ of the log entries whose
bytes meet one (R428). -/
structure CmdRef where
  fn : FnId
  q : Byte
  sqix : W16
  readFails : Bool
  readsOk : Nat := 0
  dirBad : List (BitVec 23) := []
  recBad : Bool := false
  logBad : List W64 := []
deriving DecidableEq, Repr

/-- A record: its tenancy and account key (R290). -/
structure RecKey where
  ten : BitVec 4
  akey : W64
deriving DecidableEq, Repr

/-- A choice of placement: home engine, storage class (Table 11-1) and physical address (R291). -/
structure Place where
  home : Fin 128
  cls : BitVec 2
  loc : W48
deriving DecidableEq, Repr

/-- What a signed extension answers to its own opcode (R355). -/
structure ExtAnswer where
  status : W16
  res0 : W32
  res1 : W64
  detail : W32
deriving DecidableEq, Repr

/-- One lane's measurement of LINK_TEST (Table 13-13). -/
structure LaneResult where
  lane : W16
  lock : Bool
  errors : W32
deriving DecidableEq, Repr

/-- The physical outcome of a START (R443, R444, R473): whether the settings could be applied, the
training or the self-test passed, and whether attached memory has room for a retention ring (R370). -/
structure StartFacts where
  ok : Bool
  memOk : Bool
deriving DecidableEq, Repr

/-- The physical outcome of SELFTEST and CALIBRATE (R378): passed or not, the failing engine or
lane, the units tested or lanes recalibrated, the duration in microseconds, and for CALIBRATE of the device the
port that failed. -/
structure TestFacts where
  ok : Bool
  detail : W32
  units : W32
  micros : W64
  port : Fin 8
deriving DecidableEq, Repr

/-- A Ring Road flit: header bytes 0-15 (Table 15-2) and the payload. -/
structure Flit where
  header : List Byte
  payload : List Byte
deriving DecidableEq, Repr

/-- What the internal operation code of a flit asks of its receiver (15 Table 15-2: OP is internal
to the device). -/
inductive FlitAct where
  | none
  | response (c : CoreId)
  | event (c : CoreId) (src : Fin 384)
deriving DecidableEq, Repr

/-- A unit with lane pattern generators (R476, R489). -/
inductive PgUnit where
  | mp (p : Fin 8)
  | hp (h : Fin 2)
deriving DecidableEq, Repr

/-- An error bank (Table 15-11). -/
inductive BankId where
  | square (s : Fin 4)
  | ring
  | mp (p : Fin 8)
  | hp (h : Fin 2)
  | kerb
deriving DecidableEq, Repr

/-- A write to a register that has no row of its own (R13). -/
inductive RegWriteOp where
  /-- a control core's write of 8 bytes at a physical address of the register ranges (Table 1-6) -/
  | phys (pa : W48) (v : W64)
  /-- a host write to a doorbell page (Table 12-1) -/
  | page (f : FnId) (off : W16) (wide : Bool) (v : W64)
  /-- a host write of 4 or 8 bytes to BAR2 (Table 18-5) -/
  | bar2 (f : FnId) (off : W16) (wide : Bool) (v : W64)
  /-- a host write of 4 or 8 bytes to the MSI-X table in BAR4 (Table 18-3) -/
  | bar4 (f : FnId) (off : W16) (wide : Bool) (v : W64)
  /-- the firmware's direct write of a core's event route (R231) -/
  | route (c : CoreId) (slot : Fin 32) (src : Fin 384) (v : Bool) (task : BitVec 6)
deriving DecidableEq, Repr

/-- The steps of a street evacuation (R320). -/
inductive EvacPhase where
  | start
  | finish (passed : Bool)
deriving DecidableEq, Repr

/-- A link after training (Table 18-8). -/
structure LinkFacts where
  width : BitVec 5
  rate : BitVec 3
  reversed : Bool
  polarity : W16
deriving DecidableEq, Repr

/-- What the boot ROM's cryptography finds of an image slot (R439): whether SIG verifies under the root key, and
whether CHASH and AHASH check. -/
structure SlotFacts where
  sigOk : Bool
  coreOk : Bool
  auxOk : Bool
deriving DecidableEq, Repr

/-- A module as its SPD describes it (Table 17-1): capacity, ranks, whether it is a registered DIMM with ECC and whether
its devices are x4; 0 GiB: the SPD cannot be read. -/
structure DimmFacts where
  gib : Nat
  ranks : Nat
  rdimm : Bool := true
  x4 : Bool := true
deriving DecidableEq, Repr

/-- A memory port at training (R458, R459). -/
structure PortFacts where
  port : Fin 8
  slot0 : Option DimmFacts
  slot1 : Option DimmFacts
  spdRate : W16
  trains : Bool
deriving DecidableEq, Repr

/-- What start-up finds (Table 16-2): the flash, the fuses, the image slots, the sealed image, the
memory population, the addresses the firmware gives its structures (`tables`: the record tables of the tenancies,
R295), the squares and streets that pass their tests. -/
structure BootFacts where
  flash : Bool
  fuses : Bool
  slotA : SlotFacts
  slotB : SlotFacts
  kerbOpens : Bool
  ports : List PortFacts
  kabase : W48
  dirbase : W48
  tables : W48 := 0
  squares : BitVec 4
  streets : W16
  vbatLow : Bool
  /-- the OPMAPs of the stored extension packages that do not verify (R442) -/
  extBad : List W32 := []
deriving DecidableEq, Repr

/-- A store-buffer entry drains: its core, and what a check finds on the way (R405). -/
structure DrainFacts where
  core : CoreId
  err : Option HwErr
deriving DecidableEq, Repr

/-- A transfer between the firmware and an engine, and what a check finds on the way (R405). -/
structure EngineHop where
  eng : Fin 128
  err : Option HwErr
deriving DecidableEq, Repr

/-- QCTL.START of a function, and whether memory is free for its tenancy's retention ring (R525). -/
structure QctlFacts where
  fn : FnId
  memOk : Bool
deriving DecidableEq, Repr

/-- A fetch of a submission: whether the host read fails, and what a check finds on the way (R405). -/
structure FetchFacts where
  readFails : Bool
  err : Option HwErr
deriving DecidableEq, Repr

/-- A record's new place, and those of the other members of its group that move with it (R312). -/
structure MovePlaces where
  place : Place
  mates : List (RecKey × Place)
deriving DecidableEq, Repr

/-- A copy of a record: whether it meets an uncorrectable error, and the channel that makes it, from 28 on (R310). -/
structure CopyFacts where
  bad : Bool
  ch : Fin 4
deriving DecidableEq, Repr

/-- A log entry written: the management time, and whether the log pointers meet an uncorrectable error (R422). -/
structure LogFacts where
  time : W64
  ptrBad : Bool
deriving DecidableEq, Repr

/-- A log entry asked for over the management bus: its LSEQ, and whether its bytes meet an uncorrectable error (R428). -/
structure SmbLog where
  lseq : W64
  bad : Bool
deriving DecidableEq, Repr

/-- A junction sensor and its reading in quarter-degrees (R520). -/
structure SensorReading where
  sensor : Fin 23
  t : BitVec 16
deriving DecidableEq, Repr

/-- Four bytes of configuration space of a function (R482). -/
structure CfgRead where
  fn : FnId
  off : BitVec 12
deriving DecidableEq, Repr

/-- What a lane's checker has received (R477): 64 bits, the first at bit 0, from unit interval `at_` after RUN on, and
the bits in error that it counts from then on. -/
structure PatternSeen where
  lane : Fin 128
  at_ : W16
  rx : W64
  errors : W32
deriving DecidableEq, Repr

/-- The commands. -/
inductive Instr where
  /-- NOP (R192): Executes a no-operation instruction that changes nothing. -/
  | nop (a : Issue)
  /-- WAIT (R234): Completes in its count, then holds issue until a routed event becomes takeable or a Letterbox slot arrives. -/
  | wait (a : Issue)
  /-- RET (R58): Pops the return stack into the branch target and runs its delay slot. -/
  | ret (a : Issue)
  /-- RETX (R225): Leaves the shadow bank and makes XTASK's bank current at its PC, filling the bank first when the task is not resident. -/
  | retx (a : Issue)
  /-- FLUSHI (R89): Drains the store buffer, empties the fetch queue and loop buffer, and refetches from the tile. -/
  | flushi (a : Issue)
  /-- DRAIN (R192): Drains the store buffer, then holds until every posted store is acknowledged. -/
  | drain (a : Issue)
  /-- TLBSYNC (R281): Holds until every invalidation this unit issued earlier has been acknowledged by every unit. -/
  | tlbsync (a : Issue)
  /-- CLRA (R130): Sets all 32 bytes of ACC to zero. -/
  | clra (a : Issue)
  /-- NEGQ (R149): Negates ACC.Q and sets the flags, raising binary overflow when it is enabled. -/
  | negq (a : Issue)
  /-- NOTQ (R149): Complements ACC.Q and sets the flags. -/
  | notq (a : Issue)
  /-- DNEG (R136): Inverts the sign of ACC.D after checking it. -/
  | dneg (a : Issue)
  /-- DPREF (R136): Rewrites ACC.D with the preferred sign. -/
  | dpref (a : Issue)
  /-- CVDQ (R138): Converts ACC.D to a binary integer in ACC.Q. -/
  | cvdq (a : Issue)
  /-- CVQD (R138): Converts ACC.Q to packed decimal in ACC.D. -/
  | cvqd (a : Issue)
  /-- TSTD (R137): Tests the digits and sign of ACC.D and sets the flags without raising any exception. -/
  | tstd (a : Issue)
  /-- CVDX (R164): Converts ACC.D to decimal128 in ACC.X. -/
  | cvdx (a : Issue)
  /-- CVXD (R164): Converts ACC.X to a packed decimal integer in ACC.D. -/
  | cvxd (a : Issue)
  /-- CVBQ (R164): Converts ACC.B to a signed 64-bit integer in ACC.Q. -/
  | cvbq (a : Issue)
  /-- CVQB (R164): Converts ACC.Q to binary64 in ACC.B. -/
  | cvqb (a : Issue)
  /-- BSQRT (R157): Takes the rounded square root of ACC.B. -/
  | bsqrt (a : Issue)
  /-- INCX (R192): Increments IX by 1. -/
  | incx (a : Issue)
  /-- DECX (R192): Decrements IX by 1. -/
  | decx (a : Issue)
  /-- INCY (R192): Increments IY by 1. -/
  | incy (a : Issue)
  /-- DECY (R192): Decrements IY by 1. -/
  | decy (a : Issue)
  /-- TXY (R192): Copies IX into IY. -/
  | txy (a : Issue)
  /-- TYX (R192): Copies IY into IX. -/
  | tyx (a : Issue)
  /-- LMOV (R186): Performs one step of the long move, recording its progress in IX, IY and ACC.Q. -/
  | lmov (a : Issue)
  /-- LCMP (R186): Performs one step of the long compare. -/
  | lcmp (a : Issue)
  /-- SCAN (R186): Performs one step of the byte scan. -/
  | scan (a : Issue)
  /-- LXLT (R186): Performs one step of the long in-place translate, up to 8 bytes. -/
  | lxlt (a : Issue)
  /-- MFS (R68): Copies a special register, zero-extended, into ACC.Q. -/
  | mfs (a : Issue) (sel : Byte)
  /-- MTS (R68): Writes ACC.Q into a special register, subject to the privilege rules. -/
  | mts (a : Issue) (sel : Byte)
  /-- TPRE (R212): An MTS to TPRE starts a background fill of the named task. -/
  | tpre (a : Issue)
  /-- TEVICT (R212): An MTS to TEVICT spills the named task and frees its bank. -/
  | tevict (a : Issue)
  /-- SWITCH (R209): Makes the named task the running task, or XTASK in the shadow bank, spilling and filling banks as needed. -/
  | switch (a : Issue) (sel : Byte)
  /-- TRAP (R216): Raises vector 16 plus S[3:0] as a trap. -/
  | trap (a : Issue) (sel : Byte)
  /-- SVC (R118): In compatibility mode, raises vector 16 as TRAP 0 does. -/
  | svc (a : Issue) (sel : Byte)
  /-- ADDIX (R192): Adds the sign-extended selector to IX. -/
  | addix (a : Issue) (sel : Byte)
  /-- ADDIY (R192): Adds the sign-extended selector to IY. -/
  | addiy (a : Issue) (sel : Byte)
  /-- SHLQ (R149): Shifts ACC.Q left. -/
  | shlq (a : Issue) (sel : Byte)
  /-- SHRQ (R149): Shifts ACC.Q right logically. -/
  | shrq (a : Issue) (sel : Byte)
  /-- SARQ (R149): Shifts ACC.Q right arithmetically. -/
  | sarq (a : Issue) (sel : Byte)
  /-- DSHL (R134): Shifts the digits of ACC.D left. -/
  | dshl (a : Issue) (sel : Byte)
  /-- DSHR (R134): Shifts the digits of ACC.D right, truncating. -/
  | dshr (a : Issue) (sel : Byte)
  /-- DSRR (R135): Shifts the digits of ACC.D right and rounds under PSW.DRM. -/
  | dsrr (a : Issue) (sel : Byte)
  /-- LDIQ (R151): Loads the sign-extended selector into ACC.Q. -/
  | ldiq (a : Issue) (sel : Byte)
  /-- LDQ (R151): Loads a zero-extended operand into ACC.Q. -/
  | ldq (a : Issue) (m : MOp)
  /-- LDQS (R151): Loads a sign-extended operand into ACC.Q. -/
  | ldqs (a : Issue) (m : MOp)
  /-- STQ (R151): Stores the low bytes of ACC.Q. -/
  | stq (a : Issue) (m : MOp)
  /-- ADDQ (R149): Adds in binary to ACC.Q. -/
  | addq (a : Issue) (m : MOp)
  /-- ADCQ (R149): Adds in binary with carry. -/
  | adcq (a : Issue) (m : MOp)
  /-- SUBQ (R149): Subtracts in binary from ACC.Q. -/
  | subq (a : Issue) (m : MOp)
  /-- SBCQ (R149): Subtracts in binary with borrow. -/
  | sbcq (a : Issue) (m : MOp)
  /-- CMPQ (R149): Compares in binary and sets the flags without writing a result. -/
  | cmpq (a : Issue) (m : MOp)
  /-- ANDQ (R149): ANDs the operand into ACC.Q. -/
  | andq (a : Issue) (m : MOp)
  /-- ORQ (R149): ORs the operand into ACC.Q. -/
  | orq (a : Issue) (m : MOp)
  /-- XORQ (R149): Exclusive-ORs the operand into ACC.Q. -/
  | xorq (a : Issue) (m : MOp)
  /-- MUL (R152): Signed multiply into MPH:MPL. -/
  | mul (a : Issue) (m : MOp)
  /-- MULU (R152): Unsigned multiply into MPH:MPL. -/
  | mulu (a : Issue) (m : MOp)
  /-- DIV (R153): Signed binary divide into DVQ and DVM. -/
  | div (a : Issue) (m : MOp)
  /-- DIVU (R153): Unsigned binary divide into DVQ and DVM. -/
  | divu (a : Issue) (m : MOp)
  /-- LDD (R130): Loads a packed field into ACC.D. -/
  | ldd (a : Issue) (m : MOp)
  /-- STD (R130): Stores the low bytes of ACC.D, reporting dropped non-zero digits. -/
  | std (a : Issue) (m : MOp)
  /-- ADDD (R131): Decimal add to ACC.D. -/
  | addd (a : Issue) (m : MOp)
  /-- SUBD (R131): Decimal subtract from ACC.D. -/
  | subd (a : Issue) (m : MOp)
  /-- CMPD (R131): Decimal compare of ACC.D with the operand. -/
  | cmpd (a : Issue) (m : MOp)
  /-- DMUL (R132): Decimal multiply of ACC.D. -/
  | dmul (a : Issue) (m : MOp)
  /-- DDIV (R133): Decimal divide, writing the quotient to ACC.D and the remainder to MPH:MPL. -/
  | ddiv (a : Issue) (m : MOp)
  /-- LDIX (R192): Loads IX. -/
  | ldix (a : Issue) (m : MOp)
  /-- LDIY (R192): Loads IY. -/
  | ldiy (a : Issue) (m : MOp)
  /-- STIX (R192): Stores IX. -/
  | stix (a : Issue) (m : MOp)
  /-- STIY (R192): Stores IY. -/
  | stiy (a : Issue) (m : MOp)
  /-- LEAX (R192): Sets IX to the effective address. -/
  | leax (a : Issue) (m : MOp)
  /-- LEAY (R192): Sets IY to the effective address. -/
  | leay (a : Issue) (m : MOp)
  /-- BCC (R109): Conditional branch with a delay slot. -/
  | bcc (a : Issue) (m : MOp)
  /-- CALL (R110): Pushes the return address and branches, with a delay slot. -/
  | call (a : Issue) (m : MOp)
  /-- LDX (R157): Loads ACC.X. -/
  | ldx (a : Issue) (m : MOp)
  /-- STX (R157): Stores ACC.X. -/
  | stx (a : Issue) (m : MOp)
  /-- FADDB (R157): binary64 add. -/
  | faddb (a : Issue) (m : MOp)
  /-- FSUBB (R157): binary64 subtract. -/
  | fsubb (a : Issue) (m : MOp)
  /-- FMULB (R157): binary64 multiply. -/
  | fmulb (a : Issue) (m : MOp)
  /-- FDIVB (R157): binary64 divide. -/
  | fdivb (a : Issue) (m : MOp)
  /-- FCMPB (R163): binary64 quiet compare, setting the flags. -/
  | fcmpb (a : Issue) (m : MOp)
  /-- FADDX (R157): decimal128 add. -/
  | faddx (a : Issue) (m : MOp)
  /-- FSUBX (R157): decimal128 subtract. -/
  | fsubx (a : Issue) (m : MOp)
  /-- FMULX (R157): decimal128 multiply. -/
  | fmulx (a : Issue) (m : MOp)
  /-- FDIVX (R157): decimal128 divide. -/
  | fdivx (a : Issue) (m : MOp)
  /-- FCMPX (R163): decimal128 quiet compare, setting the flags. -/
  | fcmpx (a : Issue) (m : MOp)
  /-- LOOPI (R111): Sets up a hardware loop with an immediate count. -/
  | loopi (a : Issue) (b1 : Byte) (d : W16)
  /-- LOOPX (R111): Sets up a hardware loop with its count taken from IX. -/
  | loopx (a : Issue) (b1 : Byte) (d : W16)
  /-- TLBI (R278): Invalidates translations in the selected scope and broadcasts the invalidation. -/
  | tlbi (a : Issue) (m : MOp)
  /-- KEYI (R279): Invalidates key-cache entries in the selected scope and broadcasts the invalidation. -/
  | keyi (a : Issue) (m : MOp)
  /-- TLBWR (R266): Writes an engine TLB slot from a 16-byte image. -/
  | tlbwr (a : Issue) (m : MOp)
  /-- TLBRD (R266): Reads an engine TLB slot to a 16-byte image. -/
  | tlbrd (a : Issue) (m : MOp)
  /-- KSET (R289): Sets the storage key of a tile region. -/
  | kset (a : Issue) (m : MOp)
  /-- KGET (R289): Reads the storage key of a tile region into ACC.Q. -/
  | kget (a : Issue) (m : MOp)
  /-- SMM (R223): Stores the selected register groups. -/
  | smm (a : Issue) (b1 : Byte) (d : W16)
  /-- LMM (R224): Loads the selected register groups after reading every slot. -/
  | lmm (a : Issue) (b1 : Byte) (d : W16)
  /-- SAVEH (R236): On a control core, saves one half of a context to the SAVP list. -/
  | saveh (a : Issue) (b1 : Byte) (d : W16)
  /-- LOADH (R236): On a control core, loads one half of a context from the SAVP list. -/
  | loadh (a : Issue) (b1 : Byte) (d : W16)
  /-- BMOV (R174): Byte move. -/
  | bmov (a : Issue) (o : SOp)
  /-- BCMP (R174): Unsigned byte compare. -/
  | bcmp (a : Issue) (o : SOp)
  /-- BAND (R174): ANDs operand 2 into operand 1. -/
  | band (a : Issue) (o : SOp)
  /-- BOR (R174): ORs operand 2 into operand 1. -/
  | bor (a : Issue) (o : SOp)
  /-- BXOR (R174): Exclusive-ORs operand 2 into operand 1. -/
  | bxor (a : Issue) (o : SOp)
  /-- BXLT (R175): Translates operand 1 through a 256-byte table. -/
  | bxlt (a : Issue) (o : SOp)
  /-- BXSR (R175): Translate-and-search of operand 1. -/
  | bxsr (a : Issue) (o : SOp)
  /-- ZTOP (R176): Converts zoned to packed. -/
  | ztop (a : Issue) (o : SOp)
  /-- PTOZ (R176): Converts packed to zoned. -/
  | ptoz (a : Issue) (o : SOp)
  /-- FMT (R178): Edits a packed source under a pattern. -/
  | fmt (a : Issue) (o : SOp)
  /-- FMTM (R179): Edits like FMT and floats a symbol before the first significant character. -/
  | fmtm (a : Issue) (o : SOp)
  /-- PADD (R139): Packed memory-to-memory add. -/
  | padd (a : Issue) (o : SOp)
  /-- PSUB (R139): Packed memory-to-memory subtract. -/
  | psub (a : Issue) (o : SOp)
  /-- PSET (R139): Sets operand 1 from packed operand 2. -/
  | pset (a : Issue) (o : SOp)
  /-- PCMP (R139): Packed compare. -/
  | pcmp (a : Issue) (o : SOp)
  /-- NMOV (R139): Nibble-offset move. -/
  | nmov (a : Issue) (o : SOp)
  /-- ARCADE_INSTRUCTION (R250): Dispatches opcode 0xE0–0xEF through its Arcade entry and runs one step of the customer routine. -/
  | arcadeInstruction (a : Issue) (x : BitVec 4) (b1 : Byte) (d : W32)
  /-- UNASSIGNED_OPCODE (R113): An unassigned opcode reaches decode and raises illegal instruction. -/
  | unassignedOpcode (a : Issue) (b : Byte)
  /-- INSTRUCTION_FETCH (R195): A sequential fetch of a 16-byte block into the fetch queue, made when the port has a free cycle. -/
  | instructionFetch (c : CoreId)
  /-- STORE_BUFFER_DRAIN (R81): Drains the oldest store-buffer entry to the tile in an idle port cycle. -/
  | storeBufferDrain (x : DrainFacts)
  /-- RESULT_WRITE (R190): A result in flight is written into its task's bank when its latency elapses. -/
  | resultWrite (c : CoreId)
  /-- FAR_LOAD_RESPONSE (R197): The data of a load made outside the own tile arrives and releases the hold. -/
  | farLoadResponse (c : CoreId) (w : Nat) (r : Resp)
  /-- POSTED_STORE_ACK (R198): The acknowledgement of a posted store arrives, or its failure raises an asynchronous machine check. -/
  | postedStoreAck (c : CoreId) (r : Resp)
  /-- EXCEPTION_ENTRY (R218): Enters an exception or a takeable event at a boundary through the shadow bank and the descriptor. -/
  | exceptionEntry (c : CoreId) (err : Option HwErr)
  /-- FALLBACK_SWITCH (R213): When the hold count exceeds SWTH and another task is ready, the engine switches tasks. -/
  | fallbackSwitch (c : CoreId)
  /-- TPRE_FILL_BLOCK (R212): A background fill reads one block of the task's save area in an idle port cycle. -/
  | tpreFillBlock (c : CoreId)
  /-- EVENT_RECORD_ARRIVAL (R233): An event record reaches an engine and sets EVPEND of every slot routed to it. -/
  | eventRecordArrival (c : CoreId) (src : Fin 384)
  /-- TIMER_EXPIRY (R523): A timer's count reaches PERIOD, raises its source and starts again from 0. -/
  | timerExpiry (m : Fin 32)
  /-- SIGOUT (R232): A write to SIGOUT raises event source 160 + n. -/
  | sigout (c : CoreId)
  /-- REGISTER_WRITE (R13): A write to a register that has no row of its own, under its access code. -/
  | registerWrite (w : RegWriteOp)
  /-- LETTERBOX_WRITE (R301): The Letterbox port writes a slot at TAIL, or waits while all 16 slots are full. -/
  | letterboxWrite (x : EngineHop)
  /-- LETTERBOX_SLOT_READ (R301): An engine load of bytes 0x30–0x3F of the head slot returns it and frees it. -/
  | letterboxSlotRead (n : Fin 128)
  /-- RING_FLIT_RECEIVE (R410): A unit receives a flit, verifies its seal and acts on it, or discards it. -/
  | ringFlitReceive (st : Fin 16) (f : Flit) (act : FlitAct)
  /-- REQUEST_TIMEOUT (R411): A request with no response after 1 ms completes as failed with TIMEOUT. -/
  | requestTimeout (u : UnitId)
  /-- SQUARE_PLL_LOCK (R31): The square PLL locks at the new frequency, and the Crossings reopen. -/
  | squarePllLock (sq : Fin 4)
  /-- PLL_LOCK_TIMEOUT (R31): The PLL has not locked within 200 µs, is relocked at the old frequency, and the square goes FAULTED. -/
  | pllLockTimeout (sq : Fin 4) (oldLocks : Bool)
  /-- INVALIDATION_RECEIVE (R280): A unit receives a broadcast invalidation, applies it, waits for its accesses, writes back key bits and acknowledges. -/
  | invalidationReceive (u : UnitId) (from_ : CoreId)
  /-- INVALIDATION_ACK (R281): An acknowledgement of an invalidation reaches the issuing unit. -/
  | invalidationAck (u : UnitId) (from_ : CoreId)
  /-- SQTAIL (R334): A host write of the SQ tail doorbell. -/
  | sqtail (f : FnId) (q : Byte) (v : W32) (hw : List HostStore)
  /-- CQHEAD (R334): A host write of the CQ head doorbell. -/
  | cqhead (f : FnId) (q : Byte) (v : W32) (hw : List HostStore)
  /-- QCTL_START (R333): QCTL.START starts queue pair 0. -/
  | qctlStart (x : QctlFacts)
  /-- QCTL_STOP (R333): QCTL.STOP stops queue pair 0 under R330. -/
  | qctlStop (f : FnId)
  /-- SUBMISSION_FETCH (R335): The device fetches a submission once there is room, and checks it under Table 12-7. -/
  | submissionFetch (f : FnId) (q : Byte) (x : FetchFacts)
  /-- CQINT_TIME_EXPIRY (R343): CQINT.TIME elapses after the first counted completion, and the vector is raised. -/
  | cqintTimeExpiry (f : FnId) (q : Byte)
  /-- HOST_WRITE_FAILURE (R344): A write to host memory fails, and the queue pair goes FAULTED. -/
  | hostWriteFailure (f : FnId) (q : Byte)
  /-- FUNCTION_LEVEL_RESET (R344): A PCI Express function level reset stops and rebuilds the queue pairs of the function. -/
  | functionLevelReset (f : FnId)
  /-- IDENTIFY (R361): Writes the identification structure. -/
  | identify (r : CmdRef)
  /-- TENANCY_BIND (R362): Binds a port function to a tenancy. -/
  | tenancyBind (r : CmdRef)
  /-- TENANCY_UNBIND (R362): Unbinds a stopped tenancy, purging it when asked. -/
  | tenancyUnbind (r : CmdRef)
  /-- QP_CREATE (R362): Creates a queue pair. -/
  | qpCreate (r : CmdRef)
  /-- QP_DELETE (R362): Deletes a stopped queue pair. -/
  | qpDelete (r : CmdRef)
  /-- LOAD_PROGRAM (R363): Loads an engine program into the engines of the named streets. -/
  | loadProgram (r : CmdRef)
  /-- STAGE_ARCADE (R364): Verifies and stages an Arcade image. -/
  | stageArcade (r : CmdRef)
  /-- INSTALL_ARCADE (R254): Copies the staged Arcade image into every engine. -/
  | installArcade (r : CmdRef)
  /-- LOAD_EXTENSION (R442): Installs, replaces or removes a signed extension package. -/
  | loadExtension (r : CmdRef) (chashOk : Bool) (sigOk : Bool)
  /-- EXTENSION_OPCODE (R355): An opcode 0xC0–0xDF claimed by an installed extension. -/
  | extensionOpcode (r : CmdRef) (ans : ExtAnswer)
  /-- UNKNOWN_OPCODE (R355): A submission with an opcode absent from Table 13-1 is refused. -/
  | unknownOpcode (f : FnId) (q : Byte)
  /-- DEFINE_RECORD (R366): Defines a record in the directory. -/
  | defineRecord (r : CmdRef) (p : Place)
  /-- REMOVE_RECORD (R366): Removes a record after applying the postings accepted before the removal. -/
  | removeRecord (r : CmdRef)
  /-- SET_HINTS (R366): Replaces the hints of a record. -/
  | setHints (r : CmdRef)
  /-- CLEAR_FLAGS (R366): Clears DOUBT, or replaces the contents and clears DOUBT and LOST. -/
  | clearFlags (r : CmdRef)
  /-- POST_BATCH (R346): Runs a chain of batch segments, accepting their postings, or resumes a parked chain. -/
  | postBatch (r : CmdRef) (hw : List HostStore)
  /-- QUERY_RECORD (R368): Returns a consistent image of a record. -/
  | queryRecord (r : CmdRef)
  /-- READ_JOURNAL (R371): Copies retained journal entries from FROM onward. -/
  | readJournal (r : CmdRef)
  /-- STOP (R373): Stops a function, draining it first. -/
  | stopFn (r : CmdRef)
  /-- SET_CONFIG (R375): Applies a list of settings to one function. -/
  | setConfig (r : CmdRef)
  /-- START (R373): Starts a function and applies its pending structural settings. -/
  | startFn (r : CmdRef) (k : StartFacts)
  /-- GET_CONFIG (R376): Writes the parameters in force for a function. -/
  | getConfig (r : CmdRef)
  /-- SELFTEST (R378): Tests a street, a square or a memory port. -/
  | selftest (r : CmdRef) (k : TestFacts)
  /-- CALIBRATE (R378): Recalibrates the lanes of a memory port, or of every port. -/
  | calibrate (r : CmdRef) (k : TestFacts)
  /-- LINK_TEST (R378): Runs the lane pattern test on a stopped memory port or host link. -/
  | linkTest (r : CmdRef) (lanes : List LaneResult)
  /-- READ_LOG (R379): Copies error log entries from FROM onward. -/
  | readLog (r : CmdRef)
  /-- LC_CHANGE (R450): Moves the device to a new life-cycle state. -/
  | lcChange (r : CmdRef) (sigOk : Bool)
  /-- RETURN_ENTRY_CONSUME (R303): The firmware consumes a return entry written by an engine and forms the journal entry. -/
  | returnEntryConsume (x : EngineHop)
  /-- RECORD_MOVE (R310): Placement begins moving a record by setting MOVING and writing RELEASE. -/
  | recordMove (k : RecKey) (m : MovePlaces)
  /-- MOVE_COPY_COMPLETE (R310): The copy of a moved record completes, and the entry goes to FORWARDING. -/
  | moveCopyComplete (k : RecKey) (x : CopyFacts)
  /-- RELEASE_LIMIT_EXPIRY (R313): RELEASED has not arrived within RELEASE_LIMIT, and the engine is withdrawn. -/
  | releaseLimitExpiry (k : RecKey) (homes : List (RecKey × Place))
  /-- HEAT_EPOCH_EXPIRY (R307): A heat epoch ends and the current epoch advances. -/
  | heatEpochExpiry
  /-- DIRECTORY_SWEEP (R307): The walker's background sweep decays the heat of valid entries. -/
  | directorySweep
  /-- STREET_EVACUATION (R320): The firmware evacuates, tests and restarts one street. -/
  | streetEvacuation (g : Fin 16) (ph : EvacPhase)
  /-- SWST (R395): CCTL.SWST starts a Tram channel. -/
  | swst (k : Fin 128)
  /-- RESUME (R400): CCTL.RESUME continues a channel halted with TLB_MISS. -/
  | resume (k : Fin 128)
  /-- DIS (R403): CCTL.DIS disables a Tram channel at once. -/
  | dis (k : Fin 128)
  /-- TRAM_TRIGGER (R395): A record from TSRC starts the channel or increments TPEND. -/
  | tramTrigger (k : Fin 128) (src : Fin 384)
  /-- PARTNER_START (R387): A record from the partner engine's SIGOUT starts a paired channel or increments TPEND2. -/
  | partnerStart (k : Fin 128)
  /-- PACING_RECORD (R396): A record from PSRC adds a pacing credit. -/
  | pacingRecord (k : Fin 128) (src : Fin 384)
  /-- PACED_BURST_START (R396): A paced burst begins when its request or credit condition holds. -/
  | pacedBurstStart (k : Fin 128)
  /-- TRAM_READ (R383): The read engine issues a checked read for a channel with room in its share. -/
  | tramRead (k : Fin 128) (err : Option HwErr)
  /-- TRAM_WRITE (R383): The write engine issues a checked write for a channel with data ready. -/
  | tramWrite (k : Fin 128) (err : Option HwErr)
  /-- DESCRIPTOR_FETCH (R388): A channel fetches and checks its next descriptor. -/
  | descriptorFetch (k : Fin 128) (err : Option HwErr)
  /-- DESCRIPTOR_COMPLETE (R394): The last write of a descriptor is acknowledged, DSTAT is written back, and the completion record follows. -/
  | descriptorComplete (k : Fin 128) (err : Option HwErr)
  /-- TRAM_MISS_SERVICE (R268): A control core serves a Tram TLB miss, or ends the channel with UNMAPPED. -/
  | tramMissService (k : Fin 128) (walkErr : Bool)
  /-- ERROR_LOG_WRITE (R419): The firmware reads an error record from a bank, writes it to the log and reports it
  through AER. -/
  | errorLogWrite (b : BankId) (i : Fin 16) (x : LogFacts) (homes : List (RecKey × Place))
  /-- CORRECTED_COALESCE_EXPIRY (R421): A 10 ms coalescing interval ends, and one corrected-error entry is written. -/
  | correctedCoalesceExpiry
  /-- TEMPERATURE_READ (R461): A port reads its module temperature sensors every 125 ms. -/
  | temperatureRead (p : Fin 8) (t0 : Byte) (t1 : Byte)
  /-- CAL_PERIOD_EXPIRY (R467): CAL_PERIOD elapses, and a calibration pass starts on a subchannel. -/
  | calPeriodExpiry (p : Fin 8) (u : Fin 2)
  /-- CALIBRATION_PHASE (R465): A phase of a lane's calibration ends, and the next phase begins. -/
  | calibrationPhase (p : Fin 8) (u : Fin 2) (ok : Bool)
  /-- PATROL_SCRUB (R471): A port reads one line in an idle command slot and writes it back corrected. The error pattern of a corrected line names a lane (R467). -/
  | patrolScrub (p : Fin 8) (err : Option HwErr) (lane : Fin 128)
  /-- REFRESH (R470): A port issues SDRAM refresh. -/
  | refresh (p : Fin 8)
  /-- PGCTL_RUN (R477): Writing PGCTL.RUN starts or stops the lane pattern generators and checkers. -/
  | pgctlRun (u : PgUnit) (on : Bool)
  /-- PGCTL_CLR (R477): PGCTL.CLR zeroes every ERRCNT and LOCK. -/
  | pgctlClr (u : PgUnit)
  /-- PERST (R431): PERST# of a host port is asserted or released, resetting that port. -/
  | perst (h : Fin 2) (level : Bool)
  /-- LINK_DOWN (R486): A hot reset, link disable or link down on sub-link 0 acts as a host port reset. -/
  | linkDown (h : Fin 2)
  /-- LINK_RETRAIN_TIMEOUT (R486): The link has not trained again within 1 s, and the host link goes FAULTED. -/
  | linkRetrainTimeout (h : Fin 2)
  /-- D3HOT_ENTRY (R486): A function is placed in D3hot and fetches no submission. -/
  | d3hotEntry (f : FnId)
  /-- D0_RETURN (R486): A function returns to D0 with a function level reset. -/
  | d0Return (f : FnId)
  /-- FWCTL_READ (R487): FWCTL READ reads a flash sector into FWBUF. -/
  | fwctlRead (f : FnId)
  /-- FWCTL_ERASE (R487): FWCTL ERASE erases a flash sector. -/
  | fwctlErase (f : FnId)
  /-- FWCTL_PROGRAM (R487): FWCTL PROGRAM programs a sector from FWBUF. -/
  | fwctlProgram (f : FnId)
  /-- FLASH_OPERATION_COMPLETE (R488): A flash operation ends; BUSY clears and ERR is set. -/
  | flashOperationComplete (fails : Bool)
  /-- GET_STATUS (R493): SMBus read of status, temperature, tamper and the last error. -/
  | getStatus
  /-- GET_IDENT (R493): SMBus read of identification. -/
  | getIdent
  /-- READ_REG (R494): SMBus read of a memory-port or host-port register; `n` data bytes are sent. -/
  | readReg (n : Nat) (u : Byte) (off : BitVec 24)
  /-- WRITE_REG (R494): SMBus write of a pattern register; `n` data bytes are sent. -/
  | writeReg (n : Nat) (u : Byte) (off : BitVec 24) (v : W64)
  /-- SMB_READ_LOG (R493): SMBus read of one log entry by LSEQ; `n` data bytes are sent. -/
  | smbReadLog (n : Nat) (x : SmbLog)
  /-- DEVICE_RESET (R493): The SMBus command with value 0xA5 causes a device reset. -/
  | deviceReset (v : Byte)
  /-- CLEAR_ALERT (R495): Releases SMB_ALERT_N. -/
  | clearAlert
  /-- ALERT_RESPONSE_ADDRESS (R495): An Alert Response Address read releases SMB_ALERT_N. -/
  | alertResponseAddress
  /-- ALERT_REASSERT (R495): A persisting alert cause asserts SMB_ALERT_N again after 1 s. -/
  | alertReassert
  /-- EXTEST (R498): A boundary test instruction takes effect and holds the device in reset. -/
  | extest
  /-- SAMPLE_PRELOAD (R497): JTAG SAMPLE/PRELOAD instruction. -/
  | samplePreload
  /-- IDCODE (R496): Selects the IDCODE register. -/
  | idcode
  /-- CLAMP (R498): JTAG CLAMP instruction, holding the device in reset. -/
  | clamp
  /-- HIGHZ (R498): JTAG HIGHZ instruction, holding the device in reset. -/
  | highz
  /-- EXTEST_PULSE (R498): IEEE 1149.6 pulse test instruction. -/
  | extestPulse
  /-- EXTEST_TRAIN (R498): IEEE 1149.6 train test instruction. -/
  | extestTrain
  /-- BYPASS (R497): BYPASS, or any unlisted instruction code. -/
  | bypass (code : Byte)
  /-- PGACC_READ (R499): A PGACC Update-DR with OP 1 issues a register read. -/
  | pgaccRead (u : Byte) (off : BitVec 24)
  /-- PGACC_WRITE (R499): A PGACC Update-DR with OP 2 issues a register write. -/
  | pgaccWrite (u : Byte) (off : BitVec 24) (v : W64)
  /-- TRST_N (R496): TRST_N low resets the test access port. -/
  | trstN
  /-- PWRGOOD_RISE (R512): PWRGOOD rises and the SMB_ADDR straps are sampled. -/
  | pwrgoodRise (strap : BitVec 2)
  /-- PWRGOOD_FALL (R429): PWRGOOD low causes a power-on reset. -/
  | pwrgoodFall
  /-- RESET_N_LOW (R512): RESET_N held low for 1 µs causes a device reset. -/
  | resetNLow
  /-- RESET_RELEASE (R433): RESET_N rises, and start-up begins at step 2. -/
  | resetRelease (b : BootFacts)
  /-- TESTMODE (R513): TESTMODE high holds the device in device reset. -/
  | testmode (level : Bool)
  /-- TAMPER_DETECT (R455): A tamper source is detected, recorded and, where enabled, wipes the Kerb. -/
  | tamperDetect (src : Fin 6)
  /-- KCTL_WIPE (R454): KCTL.WIPE wipes the Kerb. -/
  | kctlWipe
  /-- KCTL_SEAL (R453): KCTL.SEAL writes the sealed Kerb image. -/
  | kctlSeal
  /-- KCTL_LOCK (R452): KCTL.LOCK locks the Kerb until the next device reset. -/
  | kctlLock
  /-- THERMTRIP (R521): A sensor reads 135 °C or above, and THERMTRIP_N is driven low. -/
  | thermtrip (x : SensorReading)
  /-- LINK_UP (R432): Sub-link 0 of a host port completes training and enters L0, after which configuration requests are answered. -/
  | linkUp (h : Fin 2) (k : LinkFacts)
  /-- PLL_LOCK_LOSS (R444): A running square's PLL loses lock and the square goes to FAULTED. -/
  | pllLockLoss (sq : Fin 4)
  /-- JUNCTION_TEMPERATURE_ALERT (R495): The hottest junction sensor reaches 115 °C and SMB_ALERT_N is asserted. -/
  | junctionTemperatureAlert (x : SensorReading)
  /-- CONFIGURATION_REQUEST (R432): A PCI Express configuration request reaches a port and is answered with retry status until CC0 has read the boot configuration block. -/
  | configurationRequest (x : CfgRead)
  /-- UNSUPPORTED_REQUEST (R485): An AtomicOp or a request outside every BAR reaches a host port and is answered as an Unsupported Request. -/
  | unsupportedRequest (h : Fin 2)
  /-- HOST_READ_TIMEOUT (R485): A device read of host memory receives no completion within the completion timeout and is treated as a failed host read. -/
  | hostReadTimeout (r : CmdRef)
  /-- PATTERN_CHECKER_LOCK (R477): A lane pattern checker sees 64 consecutive correct bits, sets LOCK and starts counting errors. -/
  | patternCheckerLock (u : PgUnit) (x : PatternSeen)
  /-- DQS_DRIFT_CORRECTION (R468): A memory port applies a strobe timing correction of at most 1/64 UI between bursts from its DQS interval oscillator tracking. -/
  | dqsDriftCorrection (p : Fin 8)
deriving DecidableEq, Repr

end Sys2Proof
end

