-- ==== Sys2Proof/Decode.lean ====
section
/-! DEFINITION. The instruction that bytes spell, by the formats and the opcode map of 03, for any bytes. -/

namespace Sys2Proof

open Machine

/-! ### Formats A and B (Tables 3-2 and 3-8) -/

/-- An opcode byte of format A. -/
def formatA (a : Issue) (b : Nat) : Option Instr :=
  match b with
  | 0x00 => some (.nop a)
  | 0x01 => some (.wait a)
  | 0x02 => some (.ret a)
  | 0x03 => some (.retx a)
  | 0x04 => some (.flushi a)
  | 0x05 => some (.drain a)
  | 0x06 => some (.tlbsync a)
  | 0x07 => some (.clra a)
  | 0x08 => some (.negq a)
  | 0x09 => some (.notq a)
  | 0x0A => some (.dneg a)
  | 0x0B => some (.dpref a)
  | 0x0C => some (.cvdq a)
  | 0x0D => some (.cvqd a)
  | 0x0E => some (.tstd a)
  | 0x0F => some (.cvdx a)
  | 0x10 => some (.cvxd a)
  | 0x11 => some (.cvbq a)
  | 0x12 => some (.cvqb a)
  | 0x13 => some (.bsqrt a)
  | 0x14 => some (.incx a)
  | 0x15 => some (.decx a)
  | 0x16 => some (.incy a)
  | 0x17 => some (.decy a)
  | 0x18 => some (.txy a)
  | 0x19 => some (.tyx a)
  | 0x1A => some (.lmov a)
  | 0x1B => some (.lcmp a)
  | 0x1C => some (.scan a)
  | 0x1D => some (.lxlt a)
  | _ => none

/-- An opcode byte of format B and its selector; MTS to TPRE and to TEVICT are rows of their own (R212). -/
def formatB (a : Issue) (b : Nat) (sel : Byte) : Option Instr :=
  match b with
  | 0x20 => some (.mfs a sel)
  | 0x21 => some (if sel = 0x26 then .tpre a else if sel = 0x27 then .tevict a else .mts a sel)
  | 0x22 => some (.switch a sel)
  | 0x23 => some (.trap a sel)
  | 0x24 => some (.addix a sel)
  | 0x25 => some (.addiy a sel)
  | 0x26 => some (.shlq a sel)
  | 0x27 => some (.shrq a sel)
  | 0x28 => some (.sarq a sel)
  | 0x29 => some (.dshl a sel)
  | 0x2A => some (.dshr a sel)
  | 0x2B => some (.dsrr a sel)
  | 0x2C => some (.ldiq a sel)
  | 0x2F => some (.svc a sel)
  | _ => none

/-! ### Formats M and L (Tables 3-2, 3-3 and 3-9) -/

/-- The mode byte and D of format M, and of format L (R95, R96). -/
def mopOf (long : Bool) (l : List Byte) : MOp :=
  { long := long, am := (byteAt l 1).extractLsb' 5 3, len := (byteAt l 1).extractLsb' 0 5
    d := BitVec.ofNat 32 (beAt l 2 (if long then 4 else 2)) }

/-- The operation of an opcode 0x40 + `i` in format M, or 0xC0 + `i` in format L (R106). -/
def formatML (a : Issue) (i : Nat) (m : MOp) : Option Instr :=
  match i with
  | 0x00 => some (.ldq a m)
  | 0x01 => some (.ldqs a m)
  | 0x02 => some (.stq a m)
  | 0x03 => some (.addq a m)
  | 0x04 => some (.adcq a m)
  | 0x05 => some (.subq a m)
  | 0x06 => some (.sbcq a m)
  | 0x07 => some (.cmpq a m)
  | 0x08 => some (.andq a m)
  | 0x09 => some (.orq a m)
  | 0x0A => some (.xorq a m)
  | 0x0B => some (.mul a m)
  | 0x0C => some (.mulu a m)
  | 0x0D => some (.div a m)
  | 0x0E => some (.divu a m)
  | 0x0F => some (.ldd a m)
  | 0x10 => some (.std a m)
  | 0x11 => some (.addd a m)
  | 0x12 => some (.subd a m)
  | 0x13 => some (.cmpd a m)
  | 0x14 => some (.dmul a m)
  | 0x15 => some (.ddiv a m)
  | 0x16 => some (.ldix a m)
  | 0x17 => some (.ldiy a m)
  | 0x18 => some (.stix a m)
  | 0x19 => some (.stiy a m)
  | 0x1A => some (.leax a m)
  | 0x1B => some (.leay a m)
  | 0x1C => some (.bcc a m)
  | 0x1D => some (.call a m)
  | 0x1E => some (.ldx a m)
  | 0x1F => some (.stx a m)
  | _ => none

/-- An opcode byte 0x60 to 0x7F, which has format M alone; byte 1 has a meaning of its own for the loops, the multiple
moves and the context halves. -/
def formatM (a : Issue) (b : Nat) (m : MOp) (b1 : Byte) (d : W16) : Option Instr :=
  match b with
  | 0x60 => some (.faddb a m)
  | 0x61 => some (.fsubb a m)
  | 0x62 => some (.fmulb a m)
  | 0x63 => some (.fdivb a m)
  | 0x64 => some (.fcmpb a m)
  | 0x65 => some (.faddx a m)
  | 0x66 => some (.fsubx a m)
  | 0x67 => some (.fmulx a m)
  | 0x68 => some (.fdivx a m)
  | 0x69 => some (.fcmpx a m)
  | 0x6C => some (.tlbi a m)
  | 0x6D => some (.keyi a m)
  | 0x6E => some (.tlbwr a m)
  | 0x6F => some (.tlbrd a m)
  | 0x70 => some (.kset a m)
  | 0x71 => some (.kget a m)
  | 0x6A => some (.loopi a b1 d)
  | 0x6B => some (.loopx a b1 d)
  | 0x72 => some (.smm a b1 d)
  | 0x73 => some (.lmm a b1 d)
  | 0x74 => some (.saveh a b1 d)
  | 0x75 => some (.loadh a b1 d)
  | _ => none

/-! ### Format SS (R100, Table 3-10) -/

/-- The length fields of the first halfword, and D1 and D2. -/
def sopOf (l : List Byte) : SOp :=
  let h : W16 := BitVec.ofNat 16 (beAt l 0 2)
  { l1 := h.extractLsb' 5 5, l2 := h.extractLsb' 0 5, d1 := BitVec.ofNat 16 (beAt l 2 2), d2 := BitVec.ofNat 16 (beAt l 4 2) }

/-- The operation number in bits [13:10] of the first halfword. -/
def formatSS (a : Issue) (op : Nat) (o : SOp) : Option Instr :=
  match op with
  | 0 => some (.bmov a o)
  | 1 => some (.bcmp a o)
  | 2 => some (.band a o)
  | 3 => some (.bor a o)
  | 4 => some (.bxor a o)
  | 5 => some (.bxlt a o)
  | 6 => some (.bxsr a o)
  | 7 => some (.ztop a o)
  | 8 => some (.ptoz a o)
  | 9 => some (.fmt a o)
  | 10 => some (.fmtm a o)
  | 11 => some (.padd a o)
  | 12 => some (.psub a o)
  | 13 => some (.pset a o)
  | 14 => some (.pcmp a o)
  | 15 => some (.nmov a o)
  | _ => none

/-! ### The whole map (Tables 3-1 and 3-7) -/

/-- An Arcade opcode with the bytes of its format, `n` long (R112). -/
def arcadeOf (a : Issue) (b n : Nat) (l : List Byte) : Instr :=
  .arcadeInstruction a (BitVec.ofNat 4 b) (if n < 2 then 0 else byteAt l 1)
    (if n < 4 then 0 else BitVec.ofNat 32 (beAt l 2 (n - 2)))

/-- The instruction that bytes begin with, the first of them no prefix of Table 3-7; `fmt` gives the length of each
Arcade opcode. -/
def decodeOp (a : Issue) (fmt : Nat → Nat) (l : List Byte) : Instr :=
  let b : Nat := (byteAt l 0).toNat
  let r : Option Instr :=
    if b < 0x20 then formatA a b
    else if b < 0x40 then formatB a b (byteAt l 1)
    else if b < 0x60 then formatML a (b - 0x40) (mopOf false l)
    else if b < 0x80 then formatM a b (mopOf false l) (byteAt l 1) (BitVec.ofNat 16 (beAt l 2 2))
    else if b < 0xC0 then formatSS a (beAt l 0 2 / 1024 % 16) (sopOf l)
    else if b < 0xE0 then formatML a (b - 0xC0) (mopOf true l)
    else if b < 0xF0 then some (arcadeOf a b (fmt (b - 0xE0)) l)
    else none
  r.getD (.unassignedOpcode a (byteAt l 0))

/-- The prefix that a byte spells. -/
def pfxOf (b : Byte) : Option Pfx :=
  if b = 0xF0 then some .far else if b = 0xF1 then some .far1 else if b = 0xF2 then some .far2 else none

/-- The instruction that bytes begin with, after the prefixes read so far. -/
def decodeFrom (c : CoreId) (fmt : Nat → Nat) : List Pfx → List Byte → Instr
  | pre, [] => decodeOp { core := c, pre := pre, err := none } fmt []
  | pre, b :: r =>
    match pfxOf b with
    | some p => decodeFrom c fmt (pre ++ [p]) r
    | none => decodeOp { core := c, pre := pre, err := none } fmt (b :: r)

/-- The instruction that bytes spell at a core. -/
def decodeBytes (c : CoreId) (fmt : Nat → Nat) (l : List Byte) : Instr := decodeFrom c fmt [] l

/-- The command that a word spells: its bytes are the instruction's, the first of them bits 7 to 0, at engine 0, which
has no Arcade entry. A word of no bits, as the table gives every row, spells none. -/
def decodeTableWord (nbits w : Nat) : Option Instr :=
  if nbits = 0 then none
  else some (decodeBytes (.eng 0) (fun _ => 1) ((List.range 16).map (fun i => BitVec.ofNat 8 (w % 2 ^ nbits / 256 ^ i))))

end Sys2Proof
end

