-- ==== Sys2Proof/Machine/Flags.lean ====
section
/-! DEFINITION. The flags and sticky bits of the PSW (Table 2-3) as the instructions compute them:
binary (05 R149), decimal (04 Table 4-2), branch conditions (03 Table 3-11). -/

namespace Sys2Proof.Machine

/-- The condition flags of PSW bits 4 to 0. -/
structure Flags where
  c : Bool
  v : Bool
  z : Bool
  n : Bool
  dv : Bool
deriving DecidableEq, Repr

/-- Flags as PSW bits [4:0]. -/
def Flags.word (f : Flags) : W64 :=
  BitVec.ofNat 64 (f.c.toNat + f.v.toNat * 2 + f.z.toNat * 4 + f.n.toNat * 8 + f.dv.toNat * 16)

/-- The PSW bits C, V, Z and N. -/
def mCVZN : W64 := 0x0F
/-- The PSW bits C, V, Z, N and DV. -/
def mFlags : W64 := 0x1F
/-- The PSW bit DV. -/
def mDV : W64 := 0x10
/-- The sticky bits DVS, ZDS, BVS and RSS, and the enables DOE, ZDE, BOE and RSE (Table 2-3). -/
def sDVS : Nat := 48
def sZDS : Nat := 49
def sBVS : Nat := 50
def sRSS : Nat := 51
def eDOE : Nat := 24
def eZDE : Nat := 25
def eBOE : Nat := 26
def eRSE : Nat := 27

/-- A 64-bit addition with carry in, of a first and a second addend: the sum, and C, V, Z, N under
R149. -/
def addFlags (x y : W64) (cin : Bool) : W64 × Flags :=
  let r : W64 := x + y + BitVec.ofNat 64 cin.toNat
  (r, { c := decide (2 ^ 64 ≤ x.toNat + y.toNat + cin.toNat)
        v := x.msb == y.msb && r.msb != x.msb
        z := r == 0, n := r.msb, dv := false })

/-- The flags of a logical or shift result with its carry (R149). -/
def logicFlags (r : W64) (c : Bool) : Flags := { c := c, v := false, z := r == 0, n := r.msb, dv := false }

/-- The shifts of R149: the result and the carry. -/
def shlQ (a : W64) (n : Nat) : W64 × Bool := (a <<< n, n != 0 && a.getLsbD (64 - n))
def shrQ (a : W64) (n : Nat) : W64 × Bool := (a >>> n, n != 0 && a.getLsbD (n - 1))
def sarQ (a : W64) (n : Nat) : W64 × Bool := (a.sshiftRight n, n != 0 && a.getLsbD (n - 1))

/-- The flags of a decimal result of value `v` (Table 4-2). -/
def decFlags (v : Int) (dv : Bool) : Flags :=
  { c := false, v := false, z := v == 0, n := decide (v < 0), dv := dv }

/-- Branch conditions (Table 3-11) on the PSW; the values from 0x11 on are not encodings. -/
def condHolds (p : W64) (cond : Nat) : Bool :=
  let c : Bool := p.getLsbD 0
  let v : Bool := p.getLsbD 1
  let z : Bool := p.getLsbD 2
  let n : Bool := p.getLsbD 3
  let dv : Bool := p.getLsbD 4
  match cond with
  | 0x00 => true
  | 0x01 => z
  | 0x02 => !z
  | 0x03 => c
  | 0x04 => !c
  | 0x05 => n
  | 0x06 => !n
  | 0x07 => v
  | 0x08 => !v
  | 0x09 => dv
  | 0x0A => !dv
  | 0x0B => c && !z
  | 0x0C => !c || z
  | 0x0D => n == v
  | 0x0E => n != v
  | 0x0F => !z && n == v
  | 0x10 => z || n != v
  | _ => false

end Sys2Proof.Machine
end

