-- ==== Sys2Proof/Config.lean ====
section
/-! DEFINITION. The free values: what the spec leaves open. No constant here has a body that a proof
can see, so a statement about one holds for every value of it. -/

namespace Sys2Proof.Config

/-- The engine cycles for which an unspecified hold lasts, by draw (07 R200, R201: typical). -/
opaque holdTime : Nat → Nat
/-- The engine cycles until a posted store is accepted, by draw (07 Table 7-3: typical). -/
opaque storeWait : Nat → Nat
/-- The working registers W0 to W15 at the start of a step, by draw and number (09 R241). -/
opaque workReg : Nat → Nat → BitVec 128
/-- The micro flags at the start of a step, by draw and flag (09 R243). -/
opaque microFlag : Nat → Nat → Bool
/-- A word of Arcade RAM that no image has written since a device reset, by address (09 R238). -/
opaque arcadeRam : Nat → BitVec 32
/-- A word of the vendor part of the control store, by address (09 R238: not part of the manual). -/
opaque vendorRom : Nat → BitVec 32
/-- The entry that a full control-core TLB evicts, by draw (10 Table 10-1). -/
opaque tlbVictim : Nat → Nat
/-- The entry that a full paging-structure cache evicts, by draw (10 R275). -/
opaque pscVictim : Nat → Nat
/-- The entry that a full key cache evicts, by draw (10 R288). -/
opaque keyVictim : Nat → Nat
/-- The address registers and CREM of a channel after DIS, by draw and register (14 R403). -/
opaque afterDis : Nat → Nat → BitVec 64
/-- The detail word SYND of a record, by draw (15 Table 15-8). -/
opaque syndrome : Nat → BitVec 64
/-- ENGID as a control core reads it, by core (02 Table 2-6 gives engines only). -/
opaque ccEngid : Nat → BitVec 32
/-- The HOP of an error for which the spec names no place, by draw (15 Table 15-6). -/
opaque openHop : Nat → BitVec 4

/-- ASP and ADDR of a record of an error for which the spec names no address, by draw (15 R415, R420). -/
opaque openAsp : Nat → BitVec 2
opaque openAddr : Nat → BitVec 48
/-- A byte of a submission whose host read failed, by draw and offset (12 R335, R356). -/
opaque unreadByte : Nat → Nat → BitVec 8

/-- Management cycles since the device reset at a happening whose command carries no time, by draw
(15 Table 15-9 TIME). -/
opaque mgmtTime : Nat → Nat
/-- Words of the record in a log entry for which the spec names no record, by draw and word (15 Table 15-9;
17 R469, R470; 19 R509). -/
opaque openRecord : Nat → Nat → BitVec 64
/-- A byte of the sealed image or of the extension store as the flash holds it, by draw and address (16 R442, R453:
encrypted, or not given). -/
opaque storedByte : Nat → Nat → BitVec 8
/-- A byte of a sector or of FWBUF after an operation that failed or was broken off, by draw and offset (18 R488,
16 R456). -/
opaque flashByte : Nat → Nat → BitVec 8
/-- Which of two outcomes holds where the spec gives both and no order, by draw. -/
opaque openChoice : Nat → Bool

/-- The buckets of the Record Directory in which a sweep meets an uncorrectable entry, by draw (11 R327). -/
opaque sweepMeets : Nat → List (BitVec 23)

/-- Four bytes of configuration space that the spec does not give, by draw and offset; and where a function has a
capability that it gives, by function and capability (18 R482, R484). -/
opaque configWord : Nat → Nat → BitVec 32
opaque capAt : Nat → Nat → Nat

/-- The data lane, modulo 40, of a corrected symbol of a subchannel, by draw (17 R467: the error pattern names it). -/
opaque errLane : Nat → Nat

/-- The count of a running timer, by draw of the device, draw of the core and timer, before it is taken modulo its
period (08 R523). -/
opaque timerNow : Nat → Nat → Nat → Nat

end Sys2Proof.Config
end

