-- ==== Sys2Proof/Machine/State.lean ====
section
/-! DEFINITION. The state of the LX7 as plain data, the named stops and the state in device reset.
Every structure cites the rules of spec/ that name what it holds. INVENTORY.md lists the reset values. -/

namespace Sys2Proof.Machine

/-- A map by number, kept in rising order of the number. -/
abbrev Sparse (α : Type) := List (Nat × α)

/-! ### Ledger engines and control cores (02, 07, 08, 09, 10) -/

/-- The kind of a store into a tile (R74, R80). -/
inductive StKind where
  | plain
  | set
  | clr
deriving DecidableEq, Repr

/-- Where one byte of an access lies, after the windows of Table 1-7 or after translation. -/
inductive Loc where
  /-- the own tile at an offset, through the plain window or an alias window -/
  | tile (off : Nat) (k : StKind)
  /-- a device physical address (Table 1-6) -/
  | phys (pa : Nat)
  /-- the own Letterbox (R301) -/
  | lbox (off : Nat)
  /-- the own event window (Table 8-11) -/
  | ev (off : Nat)
  /-- a reserved near address: reads zero, ignores writes (R42) -/
  | none
deriving DecidableEq, Repr

/-- An error record without its V, OVF and COUNT (Table 15-5). -/
structure ErrRec where
  sev : BitVec 2
  hop : BitVec 4
  code : Byte
  utype : Byte
  uidx : Byte
  asp : BitVec 2
  addr : W48
  synd : W64
  ten : BitVec 4
  task : BitVec 6
  pc : W32
deriving DecidableEq, Repr

/-- An exception decided and not yet entered: what R217 writes at its entry (Table 8-7), and the
record of a machine check (R416). -/
structure Exn where
  vec : BitVec 6
  cls : BitVec 2
  sub : Byte
  faddr : W64
  finfo : W32
  mc : Option ErrRec
deriving DecidableEq, Repr

/-- A write to one register of a bank or of an engine, in flight until its latency (R76). -/
inductive RegWr where
  /-- bytes `off` to `off + n - 1` of ACC, byte 0 the most significant (R48) -/
  | acc (off n : Nat) (v : Nat)
  | ix (v : W32)
  | iy (v : W32)
  /-- the PSW bits that `mask` selects -/
  | psw (mask v : W64)
  | rsp (v : BitVec 5)
  | rse (i : Fin 16) (v : W32)
  | lc (v : W32)
  | ls (v : W32)
  | le (v : W32)
  | mph (v : W64)
  | mpl (v : W64)
  | dvq (v : W64)
  | dvm (v : W64)
  | fseg (v : W16)
  /-- the PC of an interrupted context, through XDAT (R222) -/
  | pc (v : W32)
  /-- a write to another bank than the issuing one (R222) -/
  | to (bank : Fin 5) (w : RegWr)
  /-- a special register of the engine (Table 2-5), by its number -/
  | spec (n : Byte) (v : W64)
  /-- a half of a control core's task bank, lower or upper, as the 112 bytes of Table 8-12 -/
  | half (upper : Bool) (v : Nat)
  /-- a slot of the engine TLB, as its image (R266) -/
  | tlb (i : BitVec 5) (w0 w1 : W64)
deriving DecidableEq, Repr

/-- The translation that an access was made under (R280): tenancy, page base, log2 of the page size. -/
structure Via where
  ten : BitVec 4
  base : Nat
  lg : Nat
deriving DecidableEq, Repr

/-- One store of an instruction: the address of its first byte as the instruction formed it, the bytes
and where each goes. -/
structure StOp where
  ea : W64
  /-- the translation of each byte of a virtual access -/
  vias : List (Option Via)
  locs : List Loc
  bytes : List Byte
deriving DecidableEq, Repr

/-- How an instruction ends: where the PC goes and what follows its completion. -/
inductive Act where
  /-- the next sequential instruction, under the loop rule R61 -/
  | seq
  /-- the same instruction again: a long instruction whose step left work (R182, R247) -/
  | again
  /-- a branch, call or return: the next address after its delay slot (R79) -/
  | branch (next : W32) (taken : Bool)
  /-- a loop instruction whose count is 0: to LE without a delay slot (R196) -/
  | jump (target : W32)
  /-- a trap, taken after completion (R216) -/
  | trap (x : Exn)
  /-- the effect has placed the PC itself (SWITCH, RETX) -/
  | moved
deriving DecidableEq, Repr

/-- What an instruction does once its checks have passed. An exception in `exn` is an operand-value
exception: nothing else of the effect is performed (R115, R129). -/
structure Eff where
  exn : Option Exn
  wr : List (Nat × RegWr)
  st : List StOp
  count : Nat
  act : Act
deriving DecidableEq, Repr

/-- The task registers of Table 2-1: one copy per bank (R46, R204), with the held branch target of
Table 8-1 and the delay slot in progress (R79). -/
structure Bank where
  acc : BitVec 256
  ix : W32
  iy : W32
  pc : W32
  psw : W64
  rsp : BitVec 5
  rse : Vector W32 16
  lc : W32
  ls : W32
  le : W32
  mph : W64
  mpl : W64
  dvq : W64
  dvm : W64
  fseg : W16
  hbt : W32
  /-- while a delay slot is to run: the PC of the branch, and the next address when it is not simply
  the address following the delay slot -/
  slot : Option (W32 × Option W32)
deriving DecidableEq, Repr

/-- A result in flight (R76, R190). Banks 0 to 3 are the task banks, 4 the shadow bank. -/
structure InFlight where
  bank : Fin 5
  due : Nat
  wr : RegWr
deriving DecidableEq, Repr

/-- A store-buffer entry: bytes of one 16-byte block of the own tile (R80), and the first cycle in which it can
drain. -/
structure StoreEnt where
  at_ : Nat
  off : Nat
  bytes : List Byte
  kind : StKind
deriving DecidableEq, Repr

/-- One transfer of a load outside the own tile (R92): the address as the instruction formed it, the physical
address, and its translation. -/
structure Xfer where
  ea : W64
  pa : Option Nat
  via : Option Via
  /-- for an LDM of an Arcade step, its depth with the penalties before it: its own W follows those of the LDMs
  before it (R246) -/
  depth : Option Nat
deriving DecidableEq, Repr

/-- A posted store not yet acknowledged (R198), with its issue cycle, its translation, and the near or virtual
address of its first byte for the machine check of R416. -/
structure Posted where
  issued : Nat
  via : Option Via
  locs : List Loc
  bytes : List Byte
  pc : W32
  ea : W64
deriving DecidableEq, Repr

/-- A load outside the own tile whose data has not all arrived (R197): the effect it releases. -/
structure FarWait where
  bank : Fin 5
  issued : Nat
  eff : Eff
  /-- the transfers still to come, in address order (R92) -/
  xfers : List Xfer
  /-- the cycles beyond the instruction's own count that its loads have taken so far -/
  got : Nat
  /-- the cycles after issue, its loads apart, at which an exception of the effect is decided -/
  at_ : Nat
  /-- the cycles for which it uses the binary divider (R154) -/
  divider : Nat
  /-- the instruction ends a loop body that is fetched again from the tile (R64) -/
  back : Bool
  /-- PC, delay slot and loop count of the bank before the instruction, for a fault that the response
  raises (R417) -/
  pc : W32
  slot : Option (W32 × Option W32)
  lc : W32
  /-- PSW.TE at issue (Table 8-6, vector 13) -/
  te : Bool
deriving DecidableEq, Repr

/-- A hold of issue that an outside happening ends (Table 2-10 rows 6 to 8). -/
inductive Hold where
  | wait
  | drain
  | sync
  /-- the fall-back scheduler switches to a task, as a SWITCH issued in a cycle, once posted stores are
  acknowledged (R213) -/
  | fall (task : BitVec 6) (at_ : Nat)
  /-- TLBI and KEYI await posted stores before they take effect (R280): which, its scope, its
  address or tenancy -/
  | inval (key : Bool) (scope : BitVec 5) (addr : W64) (ten : BitVec 4)
deriving DecidableEq, Repr

/-- The fetch of a branch target at rank 1 while the delay slot runs (R196): the target, the cycle in which
the fetch began, its bytes with the cycles of their fetch (no bytes: the fetch begins in the cycle after
the delay slot issues, R221), and whether the delay slot is already fetched, so that the sequential fetch goes on
behind the target (R195). -/
structure TgtFetch where
  addr : W32
  start : Nat
  code : List (Nat × Byte)
  slotIn : Bool
deriving DecidableEq, Repr

/-- The loop buffer (R64, R65), with the bytes captured by address. -/
inductive LoopBuf where
  /-- empty: capture may begin with the next iteration -/
  | empty
  /-- capturing: instructions so far -/
  | capturing (n : Nat) (code : List (Nat × Byte))
  | captured (code : List (Nat × Byte))
  /-- abandoned for this loop -/
  | abandoned
deriving DecidableEq, Repr

/-- A background fill (R212): the task, the bank, its area under the TSB in force when the fill was made
(R210), and the blocks read so far with their bytes. -/
structure BgFill where
  task : BitVec 6
  bank : Fin 4
  area : Nat
  blocks : List (Nat × List Byte)
deriving DecidableEq, Repr

/-- A TLB slot, as the fields of Table 10-4. -/
structure TlbEnt where
  v : Bool
  ten : BitVec 4
  sz : BitVec 2
  vpn : BitVec 36
  w : Bool
  u : Bool
  x : Bool
  pfn : BitVec 36
deriving DecidableEq, Repr

/-- A control-core TLB entry: the virtual address has up to 57 bits (R259, R271). -/
structure CcTlbEnt where
  ten : BitVec 4
  /-- log2 of the page size -/
  lg : Nat
  va : Nat
  pa : Nat
  w : Bool
  u : Bool
  x : Bool
deriving DecidableEq, Repr

/-- A paging-structure cache entry (R275): tenancy, level, the address bits that select it, and the
next table. -/
structure PscEnt where
  ten : BitVec 4
  level : Nat
  tag : Nat
  table : Nat
deriving DecidableEq, Repr

/-- A slot's route (Table 8-11 EVROUTE_i). -/
structure Route where
  src : BitVec 9
  v : Bool
deriving DecidableEq, Repr

/-- The Letterbox of an engine (R301): full slots oldest first, HEAD, and writes waiting at the
Letterbox port of the square (R20). TAIL is HEAD + COUNT. -/
structure Letterbox where
  head : Fin 16
  slots : List (List Byte)
  waiting : List (List Byte)
deriving DecidableEq, Repr

/-- A ledger engine or a control core. -/
structure Core where
  /-- the four task banks (a control core uses bank 0) and the shadow bank (R204, R235) -/
  banks : Vector Bank 4
  shadow : Bank
  /-- the task in each bank (TRES) -/
  res : Vector (Option (BitVec 6)) 4
  inShadow : Bool
  cur : Fin 4
  /-- banks from the most to the least recently current (R210) -/
  lru : List (Fin 4)
  xtask : BitVec 6
  xbt : W32
  dtb : W32
  esp : W32
  swth : W32
  tsb : W32
  xsel : Byte
  escpc : W32
  escpsw : W64
  esccause : W32
  fcause : W32
  faddr : W64
  finfo : W32
  tten : BitVec 4
  tctl : W32
  ptroot : W64
  fsegx : BitVec 9
  savp : W64
  acsel : BitVec 12
  aetsel : BitVec 4
  uperr : W32
  mcr : Vector W64 4
  /-- the engine TLB (R262); slots not listed are empty -/
  tlb : Sparse TlbEnt
  ccTlb : List CcTlbEnt
  psc : List PscEnt
  /-- the key cache: frame and cached key byte (R288) -/
  keyCache : Sparse Byte
  sbuf : List StoreEnt
  posted : List Posted
  inflight : List InFlight
  waits : List FarWait
  hold : Option Hold
  divFree : Nat
  /-- the cycle in which the next instruction can issue (CYCLE, Table 2-5) -/
  now : Nat
  retired : Nat
  /-- the cycle by which every posted store acknowledged so far had been acknowledged (R198) -/
  ackAt : Nat
  /-- the fetch queue (R87, R195): the address of its first byte, and its bytes with the cycles in which they
  were fetched -/
  fqAt : W32
  fq : List (Nat × Byte)
  /-- the first cycle of which ranks 4 and 5 of Table 2-7 have not been granted the tile port yet, and the cycles,
  first and past the last, in which ranks 1 to 3 hold it from then on -/
  fetchAt : Nat
  portBusy : List (Nat × Nat)
  tgt : Option TgtFetch
  loopBuf : LoopBuf
  bg : Option BgFill
  /-- a fault decided and not yet entered (R230 rank 7, or rank 1 in the shadow bank) -/
  exn : Option Exn
  /-- that fault came with the response of a held access (R203) -/
  exnFar : Bool
  /-- a posted store failed while an entry waited for it (R218 step 3, R227) -/
  entryMc : Option Exn
  trap : Option Exn
  tracePend : Bool
  /-- a trap and an asynchronous context-bank fault of the interrupted task that a higher-ranked entry
  left pending (R230) -/
  trapHeld : Option Exn
  ctxHeld : Option Exn
  asyncMc : Option Exn
  asyncCtx : Option Exn
  /-- after RETX with CH = 0: one instruction completes before the boundary is examined (R226) -/
  oneStep : Bool
  escalated : Bool
  halted : Bool
  withdrawn : Bool
  evpend : W32
  evmask : W32
  evroute : Sparse Route
  evtask : Sparse (BitVec 6)
  lbox : Letterbox
  /-- the return-ring entry the firmware consumes next (R303) -/
  retIx : Fin 64
  /-- the MODEL's counter from which free values are drawn -/
  free : Nat
deriving DecidableEq, Repr

/-! ### Functions and settings (13, 16) -/

/-- The states of a function (R330, R373). -/
inductive FState where
  | stopped
  | running
  | draining
  | faulted
deriving DecidableEq, Repr

/-- A structural setting accepted and not yet in force (R446): PID and VALUE. -/
structure PendSet where
  pid : W16
  value : W64
deriving DecidableEq, Repr

/-- A street: its state, whether a program was loaded since its last START (R306), whether the next
START tests it (Table 16-10), PWE of its engines in force, the EVROUTE value applied last (R376),
an evacuation by test under way, and one that waits for that of another street to end (R320). -/
structure Street where
  st : FState
  loaded : Bool
  testFirst : Bool
  pwe : Bool
  evroute : W64
  evac : Bool
  evacDue : Bool
  pend : List PendSet
deriving DecidableEq, Repr

/-- A timer (R523). -/
structure Timer where
  count : W32
  period : W32
deriving DecidableEq, Repr

/-- A square: function state, engine clock in force in MHz, a relock under way with the frequency
before it (R31), the timer group, the square keys it has assigned (R293), and the functions to start
again with it (R445). -/
structure Square where
  st : FState
  eclk : Nat
  relock : Option Nat
  group : FState
  timers : Sparse Timer
  groupPend : List PendSet
  keys : List (BitVec 4 × BitVec 4)
  restart : List W32
  /-- the next START repeats bring-up (Table 16-10) -/
  bringUp : Bool
  pend : List PendSet
deriving DecidableEq, Repr

/-! ### Tram (14) -/

/-- The state of a channel (Table 14-3 STATE). -/
inductive ChState where
  | idle
  | active
  | halted
  | error
deriving DecidableEq, Repr

/-- What an active channel does next (R393, R394). -/
inductive ChPhase where
  | fetch
  | move
  | done
deriving DecidableEq, Repr

/-- A descriptor in hand (Table 14-5). -/
structure Desc where
  src : W64
  dst : W64
  next : W64
  len : Nat
  sw : BitVec 3
  dw : BitVec 3
  swap : Bool
deriving DecidableEq, Repr

/-- A Tram channel (Tables 14-1 to 14-3). -/
structure Channel where
  fn : FState
  pend : List PendSet
  cctl : W64
  cda : W64
  ccur : W64
  csrc : W64
  cdst : W64
  crem : W32
  cfault : W64
  st : ChState
  side : BitVec 2
  code : Byte
  sub : Byte
  tpend : Nat
  tpend2 : Nat
  tovf : Bool
  part : Bool
  pcred : Nat
  povf : Bool
  phase : ChPhase
  desc : Option Desc
  /-- stream bytes read, and read but not yet written -/
  rpos : Nat
  buf : List Byte
  /-- stream bytes of the burst still to read (R396) -/
  burst : Nat
  tlbHalt : Bool
  /-- BUSY: writes still await acknowledgement (Table 14-3, R403) -/
  unacked : Bool
deriving DecidableEq, Repr

/-- A Tram unit: its TLB with the address bits of both words as they were written (Table 14-1), its key cache, the
slot it replaced last (R268), and the channels that each engine served last (R383), read engine 0 and write engine 1,
by engine * 2 + PRI. -/
structure Tram where
  tlb : Sparse TlbEnt
  keyCache : Sparse Byte
  last : Nat
  served : Sparse Nat
deriving DecidableEq, Repr

/-! ### Queue pairs and tenancies (12, 13) -/

/-- Progress of a fetched command that takes more than one step. -/
inductive Prog where
  /-- not started -/
  | none
  /-- started, and waiting for its turn on the functions it names (R374), with the MODEL's number of its start -/
  | queued (turn : Nat)
  /-- a batch (R346): the segment to read, its number in the chain, its postings accepted or refused so
  far, the postings read in all, and once its header has been read COUNT and JPTR -/
  | batch (seg : W64) (segNo i read : Nat) (hdr : Option (Nat × Nat))
  /-- a chain that has ended: postings read, STATUS, RES1, DETAIL (R349) -/
  | ended (read : Nat) (status : W16) (res1 : W64) (detail : W32)
  /-- an effect has begun that later happenings complete; RES0 of the completion -/
  | wait (res0 : W32)
  /-- a query or replacement ordered at this RSEQ (R368, R366) -/
  | ordered (rseq : W16)
  /-- a removal whose entry update has been made (R366) -/
  | removing
deriving DecidableEq, Repr

/-- A fetched submission (R335): SQ index, SQHEAD after it, its 64 bytes. -/
structure Fetched where
  /-- the MODEL's number of the fetch on its queue pair -/
  seq : Nat
  sqix : W16
  sqhd : W16
  bytes : List Byte
  prog : Prog
deriving DecidableEq, Repr

/-- A queue pair (R329, R332): the registers of its page and what the device keeps for it. -/
structure QPair where
  st : FState
  sqtail : W32
  cqhead : W32
  dberr : Bool
  cqerr : Bool
  sqhead : W32
  cqtail : W32
  qcfg : W32
  sqbase : W64
  cqbase : W64
  cqint : W32
  phase : Bool
  qwt : Nat
  parked : Option W64
  fetched : List Fetched
  nextSeq : Nat
  /-- counted completions since the vector was last raised (R343) -/
  counted : Nat
  pend : List PendSet
  /-- the record whose full forward queue holds the queue pair back (R311) -/
  held : Option RecKey
  /-- postings accepted and other commands started in the present round (R352) -/
  share : Nat
  begun : Nat
  /-- to be started with its tenancy (R445) -/
  restart : Bool
deriving DecidableEq, Repr

/-- A retained journal entry (Table 13-8); `jent` is none until the posting is answered (R371). -/
structure Retained where
  jseq : W64
  akey : W64
  rseq : W16
  qp : W16
  tag : W16
  jent : Option (List Byte)
deriving DecidableEq, Repr

/-- A tenancy (R328): its function, state, quotas, journal (R369) and queue pairs. -/
structure Tenancy where
  bound : Option FnId
  st : FState
  devno : BitVec 6
  dirQuota : Nat
  pinQuota : Nat
  qpQuota : Nat
  vecCount : Nat
  jret : Nat
  jseq : Nat
  ring : List Retained
  qps : Sparse QPair
  /-- commands fetched before a function level reset, with their queue pairs: they complete internally (R344) -/
  ghosts : List (Nat × Fetched)
  pend : List PendSet
  /-- to be started with its host link (R445) -/
  restart : Bool
deriving DecidableEq, Repr

/-! ### Placement (11) -/

/-- The home states of Table 11-5. -/
inductive HomeSt where
  | settled
  | moving
  | forwarding
  | removing
deriving DecidableEq, Repr

/-- A directory entry (Table 11-4). -/
structure DirEnt where
  key : RecKey
  st : HomeSt
  pin : Bool
  cold : Bool
  doubt : Bool
  lost : Bool
  pinwait : Bool
  skey : BitVec 4
  rlen : Byte
  group : W16
  heat : W16
  epoch : W16
  rseq : W16
  home : Fin 128
  cls : BitVec 2
  loc : W48
  moveix : W16
deriving DecidableEq, Repr

/-- Where the answer to a posting goes: tenancy, queue pair, the fetch number of its batch, the address of
its journal entry, and its JSEQ. `live` is false once the queue pair writes nothing further (R344). -/
structure PostRef where
  ten : BitVec 4
  q : Byte
  seq : Nat
  jaddr : W64
  jseq : W64
  live : Bool
deriving DecidableEq, Repr

/-- An accepted posting: its record, RSEQ, body and where its answer goes. -/
structure Posting where
  key : RecKey
  rseq : W16
  body : List Byte
  /-- to be redelivered after a withdrawal (R322) -/
  redel : Bool
  ref : PostRef
deriving DecidableEq, Repr

/-- A slot written and not yet answered: the engine, HANDLE, and the posting, or none for a RELEASE
of the record named. -/
structure Delivery where
  handle : W32
  home : Fin 128
  key : RecKey
  post : Option Posting
deriving DecidableEq, Repr

/-- A move under way (R310): the record, where it goes (none while no engine can take it, R294), and
whether RELEASED has arrived or is not needed. -/
structure Move where
  key : RecKey
  dst : Option Place
  released : Bool
  ix : W16
deriving DecidableEq, Repr

/-- The postings of a batch that is not yet completed. -/
structure BatchSt where
  ten : BitVec 4
  q : Byte
  seq : Nat
  /-- postings accepted and not yet answered -/
  open_ : Nat
  /-- journal entries with JSTAT not 0 -/
  bad : Nat
deriving DecidableEq, Repr

/-! ### Memory ports, host ports, management (15 to 19) -/

/-- Pattern generators and checkers of a port (Tables 17-9, 17-10, 18-8). -/
structure Patgen where
  pgctl : W64
  user : W64
  mask0 : W64
  mask1 : W64
  lpstat : Sparse W64
  /-- set by SMBus or JTAG (R500) -/
  byMgmt : Bool
  lfsr : Sparse W32
deriving DecidableEq, Repr

/-- Calibration of a subchannel (Table 17-8; R465 to R469). -/
structure Calib where
  lane : BitVec 7
  detour : Bool
  spared : BitVec 7
  dfail : Bool
  passes : Nat
  tlast : Byte
  phase : Nat
  fails : Nat
  /-- lanes still to take in the running pass, and a further pass pending -/
  todo : List (BitVec 7)
  again : Bool
  /-- corrected symbol errors by lane since CAL_PERIOD began (R467) -/
  errs : Sparse Nat
deriving DecidableEq, Repr

/-- A memory port (Tables 17-6 and 17-7). -/
structure MemPort where
  st : FState
  dimms : Nat
  ranks : Nat
  rate : W16
  fail : Byte
  size : Nat
  /-- the ranks of the fitted modules, and why the port refuses them, as FAIL (R458, R459) -/
  fitted : Nat
  bad : Byte
  temp0 : Byte
  temp1 : Byte
  rateSet : W16
  calPeriod : Nat
  spdRate : W16
  cal : Vector Calib 2
  pg : Patgen
  scrub : Nat
  /-- refreshes of each module (R470) -/
  refreshes : Vector Nat 2
  /-- corrections applied to the strobes (R468) -/
  dqs : Nat
  /-- readings since the entry written last while a module is at 95 °C or above (R470) -/
  hot : Nat
  pend : List PendSet
deriving DecidableEq, Repr

/-- A completion that a port returned last: a retry status or an Unsupported Request (R432, R485). -/
inductive Cpl where
  | none
  | success
  | retry
  | unsupported
deriving DecidableEq, Repr

/-- A host port (Tables 18-1, 18-7 and 18-8). -/
structure HostPort where
  st : FState
  perst : Bool
  nwidth : BitVec 5
  nrate : BitVec 3
  rev : Bool
  pol : W16
  fail : Byte
  widthSet : W64
  maxrate : W64
  /-- the link went down after LINK_TEST and stays down until START (R491) -/
  tested : Bool
  pg : Patgen
  d3 : BitVec 16
  last : Cpl
  /-- the 4 bytes that a configuration request returned last (R482) -/
  data : W32
  pend : List PendSet
deriving DecidableEq, Repr

/-- An error-bank record (R418): the record with COUNT and OVF. -/
structure BankRec where
  r : ErrRec
  ovf : Bool
  count : W16
deriving DecidableEq, Repr

/-- Corrected errors counted toward the next coalesced entry (R421). -/
structure Coalesce where
  r : ErrRec
  count : Nat
deriving DecidableEq, Repr

/-- A broadcast invalidation on its way (R280): the issuing unit, key or translation, scope,
address, tenancy, and the units that have not acknowledged it: those that have not received it,
and those that have received it and whose acknowledgement has not arrived. -/
structure Inval where
  from_ : CoreId
  key : Bool
  scope : BitVec 5
  addr : W64
  ten : BitVec 4
  unseen : List UnitId
  unacked : List UnitId
deriving DecidableEq, Repr

/-- A flash operation under way (R488): 1 read, 2 erase, 3 program; its sector. -/
structure FlashOp where
  op : BitVec 2
  sector : Nat
deriving DecidableEq, Repr

/-- An installed extension (R442). -/
structure Extension where
  opmap : W32
  version : W32
  caps : Byte
  codeLen : W32
deriving DecidableEq, Repr

/-- An Arcade image (R253): 1,024 microwords from 0xC00 on, of which the words not listed have never
been written, and the 16 entries of Table 9-6. -/
structure Arcade where
  words : Sparse W32
  entries : Sparse W64
deriving DecidableEq, Repr

/-- The Kerb (Table 16-15) and the VBAT domain (R453, R455). The store itself is square 0 memory. -/
structure Kerb where
  lock : Bool
  empty : Bool
  sealed_ : Bool
  keyok : Bool
  wipes : W16
  tampstat : Byte
  tampen : BitVec 2
  /-- a tamper record of the VBAT domain, made while main power was off -/
  vbatRec : BitVec 2
  /-- the sealed image in flash: the store's bytes that are not zero -/
  image : Option (List Host.Cell)
  /-- KCTL.LOCK until the next device reset -/
  forced : Bool
deriving DecidableEq, Repr

/-- Fuses (R439, R440, R448). -/
structure Fuses where
  lc : BitVec 2
  lccount : BitVec 5
  ownerBanks : Nat
  floor : W32
deriving DecidableEq, Repr

/-- BOOTSTAT (Table 16-3) and what start-up selected. -/
structure Boot where
  stage : BitVec 4
  fail : Byte
  slotB : Bool
  defcfg : Bool
  portok : BitVec 8
  sqok : BitVec 4
  fwver : W32
  /-- the boot configuration block has been read (R432) -/
  cfgRead : Bool
  mgmt : Fin 2
deriving DecidableEq, Repr

/-- The management port (R493 to R495): the bytes it answered last (none: the command was NACKed or
answers nothing), LASTERR, the alert, the last reading of each of the 23 junction sensors in quarter-degrees
(R520), and THERMTRIP_N. -/
structure Mgmt where
  out : List Byte
  lasterr : Byte
  alert : Bool
  sensors : Vector (BitVec 16) 23
  thermtrip : Bool
deriving DecidableEq, Repr

/-- The test access port (R496 to R499). -/
structure Tap where
  ir : Byte
  data : W64
  off : BitVec 24
  u : BitVec 4
  err : Bool
  done : Bool
  op : BitVec 2
deriving DecidableEq, Repr

/-- The input pins (R512, R513): levels, and the SMB_ADDR straps sampled. -/
structure Pins where
  resetN : Bool
  pwrgood : Bool
  testmode : Bool
  smbAddr : BitVec 2
deriving DecidableEq, Repr

/-- An interleave region (R464): base, number of bytes per port, ports, and the port-local address at
which it begins on each. -/
structure Region where
  base : Nat
  m : Nat
  ports : List (Nat × Nat)
deriving DecidableEq, Repr

/-- What the part is (Tables 0-1 and 13-4): grade, serial number, stepping, JTAG version. -/
structure Part where
  t20 : Bool
  serial : W64
  step : Byte
  ver : BitVec 4
deriving DecidableEq, Repr

/-- The placement parameters of Table 11-10. -/
structure PlaceCfg where
  heatEpoch : Nat
  heatTile : Nat
  heatSq : Nat
  releaseLimit : Nat
deriving DecidableEq, Repr

/-- Where the firmware laid out its structures in attached memory at start-up (R285, R296): the key array with its
length, whose bytes it wrote, the Record Directory, which it cleared, and the record tables of the tenancies (R295).
`live` is false until then. -/
structure Layout where
  live : Bool
  keyBase : Nat
  keyLen : Nat
  dirBase : Nat
  tabBase : Nat
deriving DecidableEq, Repr

/-- The state of the device. -/
structure State where
  /-- the MODEL's queue of waiting commands, first in first out -/
  pending : List Instr
  part : Part
  /-- bytes at device physical addresses: attached memory, square memories, tiles (Table 1-6) -/
  mem : List Host.Cell
  /-- the bytes of the key array area by physical address, where they differ from what start-up wrote (R285) -/
  keyArr : Sparse Byte
  layout : Layout
  /-- tile key stores, by engine * 128 + region; square key stores, by square * 2048 + region -/
  tileKeys : Sparse Byte
  sqKeys : Sparse Byte
  kabase : W64
  dirbase : W64
  installed : Nat
  regions : List Region
  /-- host memory, as the device reads and writes it (R329) -/
  hostMem : List Host.Cell
  /-- engines 0 to 127, control cores 128 to 135 -/
  cores : Sparse Core
  streets : Sparse Street
  squares : Sparse Square
  channels : Sparse Channel
  trams : Sparse Tram
  memPorts : Sparse MemPort
  hostPorts : Sparse HostPort
  tenancies : Sparse Tenancy
  /-- records raised by each source, and records that have reached each destination -/
  raised : Sparse Nat
  seen : Sparse Nat
  invals : List Inval
  /-- the Record Directory, by bucket * 8 + entry (R296) -/
  dir : Sparse DirEnt
  fwdq : List Posting
  deliveries : List Delivery
  moves : List Move
  batches : List BatchSt
  /-- the next HANDLE and the next move record number of the firmware -/
  nextHandle : Nat
  nextMove : Nat
  heatNow : W16
  placeCfg : PlaceCfg
  /-- MSI-X vectors raised, by function * 2048 + vector -/
  msix : Sparse Nat
  /-- the MSI-X tables that BAR4 holds, by function * 32768 + offset (Table 18-3) -/
  msixTab : Sparse Byte
  /-- the MODEL's number of the next command that waits for its turn on a function (R374) -/
  nextTurn : Nat
  banks : Sparse BankRec
  /-- the slot written last in each error bank -/
  newest : Sparse Nat
  lseq : Nat
  coalesce : List Coalesce
  /-- reports made through AER by kind: corrected, non-fatal, fatal (R425) -/
  aer : Vector Nat 3
  aerLast : Vector (Option W64) 3
  fatal : Bool
  fuses : Fuses
  extensions : List Extension
  staged : Option Arcade
  arcade : Arcade
  arcgen : W32
  flash : List Host.Cell
  flashOp : Option FlashOp
  /-- image slots whose writing a reset broke off (R456): bit 0 slot A, bit 1 slot B -/
  torn : BitVec 2
  fwaddr : W64
  fwerr : BitVec 4
  fwbuf : List Host.Cell
  boot : Boot
  kerb : Kerb
  mgmt : Mgmt
  tap : Tap
  pins : Pins
  /-- the MODEL's counter from which device-level free values are drawn -/
  free : Nat
deriving DecidableEq, Repr

/-! ### The named stops -/

/-- The faults of the block. The block itself never stops: a fault of an engine is its exception
entry (08 R216). -/
inductive Fault where
  /-- raised by no command: the type is the host's interface. Safe. -/
  | none
deriving DecidableEq, Repr

/-- The refusals. -/
inductive Refusal where
  /-- raised by exec for a command that has no meaning yet. Safe. -/
  | notModelled (mnemonic : String)
deriving DecidableEq, Repr

/-! ### Reset -/

/-- PSW after reset (Table 2-3): SUP, DOE, ZDE and RSE are 1. -/
def pswReset : W64 := 0x0B001000

/-- A bank after reset (Table 2-1). -/
def Bank.reset : Bank :=
  { acc := 0, ix := 0, iy := 0, pc := 0, psw := pswReset, rsp := 0, rse := Vector.replicate 16 0
    lc := 0, ls := 0, le := 0, mph := 0, mpl := 0, dvq := 0, dvm := 0, fseg := 0, hbt := 0
    slot := none }

/-- An empty Letterbox. -/
def Letterbox.reset : Letterbox := { head := 0, slots := [], waiting := [] }

/-- An engine after a square reset (R208, Tables 2-1, 8-2, 10-2). -/
def Core.reset : Core :=
  { banks := Vector.replicate 4 Bank.reset, shadow := Bank.reset
    res := #v[some 0, none, none, none], inShadow := false, cur := 0, lru := [0, 1, 2, 3]
    xtask := 0, xbt := 0, dtb := 0, esp := 0, swth := 0, tsb := 0, xsel := 0, escpc := 0, escpsw := 0
    esccause := 0, fcause := 0, faddr := 0, finfo := 0, tten := 0, tctl := 0, ptroot := 0, fsegx := 0
    savp := 0, acsel := 0, aetsel := 0, uperr := 0, mcr := Vector.replicate 4 0, tlb := [], ccTlb := []
    psc := [], keyCache := [], sbuf := [], posted := [], inflight := [], waits := [], hold := none
    divFree := 0, now := 0, retired := 0, ackAt := 0, fqAt := 0, fq := [], fetchAt := 0, portBusy := []
    tgt := none, loopBuf := .empty, bg := none, exn := none, exnFar := false, entryMc := none, trap := none, tracePend := false, trapHeld := none, ctxHeld := none, asyncMc := none, asyncCtx := none, oneStep := false
    escalated := false, halted := false, withdrawn := false, evpend := 0, evmask := 0, evroute := []
    evtask := [], lbox := Letterbox.reset, retIx := 0, free := 0 }

/-- A control core after reset: TCTL.LVL is 0b01 (Table 10-3). -/
def Core.resetCc : Core := { Core.reset with tctl := 0x10 }

/-- A street after a device reset. -/
def Street.reset : Street :=
  { st := .stopped, loaded := false, testFirst := false, pwe := false, evroute := 0, evac := false, evacDue := false
    pend := [] }

/-- A timer after reset. -/
def Timer.reset : Timer := { count := 0, period := 0 }

/-- A square after a device reset. -/
def Square.reset : Square :=
  { st := .stopped, eclk := 2000, relock := none, group := .stopped, timers := [], groupPend := []
    keys := [], restart := [], bringUp := false, pend := [] }

/-- A channel after a square reset (R386): CKEY is 0xF. -/
def Channel.reset : Channel :=
  { fn := .stopped, pend := [], cctl := 0xF000000000, cda := 0, ccur := 0, csrc := 0, cdst := 0
    crem := 0, cfault := 0, st := .idle, side := 0, code := 0, sub := 0, tpend := 0, tpend2 := 0
    tovf := false, part := false, pcred := 0, povf := false, phase := .fetch, desc := none, rpos := 0
    buf := [], burst := 0, tlbHalt := false, unacked := false }

/-- A Tram unit after a square reset. -/
def Tram.reset : Tram := { tlb := [], keyCache := [], last := 63, served := [] }

/-- A queue pair after a device reset (R332). -/
def QPair.reset : QPair :=
  { st := .stopped, sqtail := 0, cqhead := 0, dberr := false, cqerr := false, sqhead := 0, cqtail := 0
    qcfg := 0, sqbase := 0, cqbase := 0, cqint := 0, phase := true, qwt := 16, parked := none
    fetched := [], nextSeq := 0, counted := 0, pend := [], held := none, share := 0, begun := 0
    restart := false }

/-- A tenancy that is not bound (Table 13-9). -/
def Tenancy.reset : Tenancy :=
  { bound := none, st := .stopped, devno := 0, dirQuota := 0, pinQuota := 0, qpQuota := 1
    vecCount := 1, jret := 0, jseq := 0, ring := [], qps := [], ghosts := [], pend := []
    restart := false }

/-- Pattern registers after reset. -/
def Patgen.reset : Patgen :=
  { pgctl := 0, user := 0, mask0 := 0, mask1 := 0, lpstat := [], byMgmt := false, lfsr := [] }

/-- A subchannel after reset (Table 17-8). -/
def Calib.reset : Calib :=
  { lane := 0x7F, detour := false, spared := 0x7F, dfail := false, passes := 0, tlast := 0, phase := 0
    fails := 0, todo := [], again := false, errs := [] }

/-- A memory port after reset (Tables 17-6, 17-7, 13-9). -/
def MemPort.reset : MemPort :=
  { st := .stopped, dimms := 0, ranks := 0, rate := 0, fail := 0, size := 0, fitted := 0, bad := 0, temp0 := 0, temp1 := 0
    rateSet := 6400, calPeriod := 60, spdRate := 0, cal := Vector.replicate 2 Calib.reset
    pg := Patgen.reset, scrub := 0, refreshes := Vector.replicate 2 0, dqs := 0, hot := 0, pend := [] }

/-- A host port after reset (Tables 18-8, 13-9). PERST# is low. -/
def HostPort.reset : HostPort :=
  { st := .stopped, perst := false, nwidth := 0, nrate := 0, rev := false, pol := 0, fail := 0
    widthSet := 0, maxrate := 5, tested := false, pg := Patgen.reset, d3 := 0, last := .none, data := 0, pend := [] }

/-- The device right after power-on, held in device reset (Tables 16-1, 16-3, 16-15). Every function
is STOPPED, every memory lists nothing, the life-cycle state is BLANK. -/
def State.reset : State :=
  { pending := []
    part := { t20 := true, serial := 0, step := 0, ver := 0 }
    mem := [], keyArr := [], layout := ⟨false, 0, 0, 0, 0⟩, tileKeys := [], sqKeys := [], kabase := 0, dirbase := 0, installed := 0
    regions := [], hostMem := [], cores := [], streets := [], squares := [], channels := [], trams := []
    memPorts := [], hostPorts := []
    tenancies := [(0, { Tenancy.reset with bound := some ⟨0, 0⟩, qps := [(0, QPair.reset)] })], raised := [], seen := [], invals := [], dir := []
    fwdq := [], deliveries := [], moves := [], batches := [], nextHandle := 0, nextMove := 1
    heatNow := 0
    placeCfg := { heatEpoch := 16, heatTile := 64, heatSq := 8, releaseLimit := 10 }
    msix := [], msixTab := [], nextTurn := 0, banks := [], newest := [], lseq := 0, coalesce := []
    aer := Vector.replicate 3 0, aerLast := Vector.replicate 3 none, fatal := false
    fuses := { lc := 0, lccount := 0, ownerBanks := 0, floor := 0 }
    extensions := [], staged := none, arcade := { words := [], entries := [] }, arcgen := 0
    flash := [], flashOp := none, torn := 0, fwaddr := 0, fwerr := 0, fwbuf := []
    boot := { stage := 0, fail := 0, slotB := false, defcfg := false, portok := 0, sqok := 0
              fwver := 0, cfgRead := false, mgmt := 0 }
    kerb := { lock := true, empty := true, sealed_ := false, keyok := false, wipes := 0, tampstat := 0
              tampen := 0, vbatRec := 0, image := none, forced := false }
    mgmt := { out := [], lasterr := 0, alert := false, sensors := Vector.replicate 23 100
              thermtrip := false }
    tap := { ir := 0x02, data := 0, off := 0, u := 0, err := false, done := true, op := 0 }
    pins := { resetN := false, pwrgood := true, testmode := false, smbAddr := 0 }
    free := 0 }

end Sys2Proof.Machine
end

