-- ==== Sys2Proof/Machine/Calib.lean ====
section
/-! DEFINITION. Calibration passes of a subchannel (17 R465 to R469, R478): their triggers, their lanes, their end. -/

namespace Sys2Proof.Machine

/-- A lane under calibration is handed back with its old settings and the pass is abandoned (R472, R478). -/
def Calib.abandon (c : Calib) : Calib :=
  { c with lane := 0x7F, detour := false, phase := 0, fails := 0, todo := [], again := false }

/-- Passes on the subchannel have stopped until the next START (R469). -/
def Calib.stopped (c : Calib) : Bool := c.dfail || c.spared != 0x7F

/-- A pass is under way. -/
def Calib.passing (c : Calib) : Bool := c.phase != 0 || c.todo != []

/-- The data lanes of subchannel `u`, ascending (Table 17-3). -/
def dataLanes (u : Nat) : List (BitVec 7) := (List.range 40).map (fun i => BitVec.ofNat 7 (u * 64 + i))

/-- The next lane of a pass enters phase 1. -/
def Calib.next (c : Calib) : Calib :=
  match c.todo with
  | [] => { c with lane := 0x7F, detour := false, phase := 0, fails := 0 }
  | l :: r => { c with lane := l, detour := false, phase := 1, fails := 0, todo := r }

/-- A trigger of a pass: the lanes in ascending order, `first` ahead of them; during a pass it is merged into one further
pass, and the lane it names is taken next (R467). -/
def Calib.trigger (c : Calib) (u : Nat) (first : Option (BitVec 7)) : Calib :=
  let ahead (l : List (BitVec 7)) : List (BitVec 7) :=
    match first with
    | some x => x :: l.filter (fun y => y != x)
    | none => l
  if c.stopped then c
  else if c.passing then { c with again := true, todo := ahead c.todo }
  else { c with todo := ahead (dataLanes u) }.next

/-- A pass over every lane of a subchannel has ended at temperature `t`; the further pass that a trigger asked for
meanwhile begins (R467). -/
def Calib.passEnds (c : Calib) (u : Nat) (t : Byte) : Calib :=
  let d : Calib := { c with passes := min (c.passes + 1) 0xFFFF, tlast := t, todo := [], again := false }.next
  if c.again then { d with todo := dataLanes u }.next else d

/-- The passes that a command runs on a subchannel: CALIBRATE goes on with a running pass and round to the lane before
it; the live check of SELFTEST waits for the running pass and then runs one, which is also the further pass that was
due (R478). -/
def Calib.passed (c : Calib) (u : Nat) (t : Byte) (live : Bool) : Calib :=
  if c.stopped then c
  else if live && c.passing then { { c with again := false }.passEnds u t with again := false }.passEnds u t
  else c.passEnds u t

/-- A corrected error on a data lane counts toward its error rate: at 16 within a CAL_PERIOD it triggers a pass that
takes the lane next (R467). -/
def Calib.laneError (c : Calib) (u : Nat) (lane : Nat) : Calib :=
  if lane < u * 64 ∨ u * 64 + 40 ≤ lane then c
  else
    let n : Nat := spGet 0 c.errs lane + 1
    if 16 ≤ n then { c with errs := spDel c.errs lane }.trigger u (some (BitVec.ofNat 7 lane))
    else { c with errs := spPut c.errs lane n }

end Sys2Proof.Machine
end

