-- ==== Sys2Proof/Machine/Ops.lean ====
section
/-! DEFINITION. The named operations over the state: units by number, memory by physical address,
storage keys, error banks and log, events, host memory. -/

namespace Sys2Proof.Machine

/-! ### Units by number (01 R15) -/

/-- The index of a core: engines 0 to 127, control cores 128 to 135. -/
def coreIx : CoreId → Nat
  | .eng n => n.val
  | .cc c => 128 + c.val

/-- Whether a core is a control core. -/
def isCc : CoreId → Bool
  | .eng _ => false
  | .cc _ => true

/-- The square of a core. -/
def coreSquare : CoreId → Nat
  | .eng n => n.val / 32
  | .cc c => c.val / 2

def State.core (s : State) (c : CoreId) : Core :=
  spGet (if isCc c then Core.resetCc else Core.reset) s.cores (coreIx c)

def State.setCore (s : State) (c : CoreId) (k : Core) : State :=
  { s with cores := spPut s.cores (coreIx c) k }

def State.street (s : State) (g : Nat) : Street := spGet Street.reset s.streets g

def State.setStreet (s : State) (g : Nat) (x : Street) : State :=
  { s with streets := spPut s.streets g x }

def State.square (s : State) (q : Nat) : Square := spGet Square.reset s.squares q

def State.setSquare (s : State) (q : Nat) (x : Square) : State :=
  { s with squares := spPut s.squares q x }

def State.channel (s : State) (k : Nat) : Channel := spGet Channel.reset s.channels k

def State.setChannel (s : State) (k : Nat) (x : Channel) : State :=
  { s with channels := spPut s.channels k x }

def State.tram (s : State) (q : Nat) : Tram := spGet Tram.reset s.trams q

def State.setTram (s : State) (q : Nat) (x : Tram) : State :=
  { s with trams := spPut s.trams q x }

def State.memPort (s : State) (p : Nat) : MemPort := spGet MemPort.reset s.memPorts p

def State.setMemPort (s : State) (p : Nat) (x : MemPort) : State :=
  { s with memPorts := spPut s.memPorts p x }

def State.hostPort (s : State) (h : Nat) : HostPort := spGet HostPort.reset s.hostPorts h

def State.setHostPort (s : State) (h : Nat) (x : HostPort) : State :=
  { s with hostPorts := spPut s.hostPorts h x }

def State.tenancy (s : State) (t : Nat) : Tenancy := spGet Tenancy.reset s.tenancies t

def State.setTenancy (s : State) (t : Nat) (x : Tenancy) : State :=
  { s with tenancies := spPut s.tenancies t x }

/-- All engine numbers. -/
def engines : List (Fin 128) := List.finRange 128

/-- All cores. -/
def allCores : List CoreId := engines.map CoreId.eng ++ (List.finRange 8).map CoreId.cc

/-- The engines of street `g`. -/
def streetEngines (g : Nat) : List (Fin 128) := engines.filter (fun n => n.val / 8 == g)

/-- Applies `f` to each core of a list. -/
def State.mapCores (s : State) (l : List CoreId) (f : Core → Core) : State :=
  l.foldl (fun t c => t.setCore c (f (t.core c))) s

/-- The index of a port function: port * 16 + function. -/
def fnIx (f : FnId) : Nat := f.port.val * 16 + f.fn.val

/-- The tenancy a function is bound to (R328). -/
def State.tenOf (s : State) (f : FnId) : Option Nat :=
  (s.tenancies.find? (fun t => t.2.bound == some f)).map (fun t => t.1)

/-- The managing function (R328, Table 16-6 MGMT). -/
def State.mgmtFn (s : State) : FnId := ⟨s.boot.mgmt, 0⟩

/-- The queue pair `q` of tenancy `t`, when it exists. -/
def State.qp? (s : State) (t q : Nat) : Option QPair := spGet? (s.tenancy t).qps q

def State.setQp (s : State) (t q : Nat) (x : QPair) : State :=
  let y : Tenancy := s.tenancy t
  s.setTenancy t { y with qps := spPut y.qps q x }

/-! ### The physical address map (Table 1-6) -/

/-- What lies at a device physical address. -/
inductive PKind where
  | attached
  | square (q off : Nat)
  | kerb (off : Nat)
  | tile (n off : Nat) (k : StKind)
  | reg
  | resv
deriving DecidableEq, Repr

def sqBase : Nat := 0x10000000000
def tileBase : Nat := 0x10200000000
def tileSetBase : Nat := 0x10204000000
def tileClrBase : Nat := 0x10208000000
def regBase : Nat := 0x10300000000
def sqSize : Nat := 0x800000
def tileSize : Nat := 0x80000
def kerbOff : Nat := 0x600000

/-- The physical address of a byte of tile `n`. -/
def tilePa (n off : Nat) : Nat := tileBase + n * tileSize + off

/-- The physical address of a byte of square memory `q`. -/
def sqPa (q off : Nat) : Nat := sqBase + q * 0x1000000 + off

/-- The kind of a physical address (R36, R23). -/
def pKind (pa : Nat) : PKind :=
  if pa < sqBase then .attached
  else if pa < sqBase + 0x4000000 then
    let o : Nat := pa - sqBase
    if o % 0x1000000 < sqSize then
      if o / 0x1000000 = 0 ∧ kerbOff ≤ o then .kerb (o - kerbOff)
      else .square (o / 0x1000000) (o % 0x1000000)
    else .resv
  else if pa < tileBase then .resv
  else if pa < tileSetBase then .tile ((pa - tileBase) / tileSize) ((pa - tileBase) % tileSize) .plain
  else if pa < tileClrBase then .tile ((pa - tileSetBase) / tileSize) ((pa - tileSetBase) % tileSize) .set
  else if pa < tileClrBase + 0x4000000 then
    .tile ((pa - tileClrBase) / tileSize) ((pa - tileClrBase) % tileSize) .clr
  else if pa < regBase then .resv
  else if pa < regBase + 0x5800000 ∨ (regBase + 0x6000000 ≤ pa ∧ pa < regBase + 0xA000000) then .reg
  else .resv

/-- What an unlisted byte of memory reads as: the spec gives the contents after power-on no value
(DESIGN CHOICE, log 1). -/
def memDefault : Byte := 0x00

/-- The canonical form of a memory: addresses strictly rising, no entry equal to what an unlisted
address reads as. -/
def Memory.wf (d : Byte) : List Host.Cell → Bool
  | [] => true
  | [c] => decide (c.2 ≠ d)
  | c :: c' :: r => decide (c.1 < c'.1) && decide (c.2 ≠ d) && Memory.wf d (c' :: r)

/-- One byte of a memory. -/
def memRd (m : List Host.Cell) (a : Nat) : Byte := spGet memDefault m a

/-- A memory with one byte written. -/
def memWr (m : List Host.Cell) (a : Nat) (b : Byte) : List Host.Cell := cellPut memDefault m a b

/-- The key byte the firmware writes at start-up: KEY 0xF, MODE 0b01 (Table 16-2 step 5). -/
def keyArrDefault : Byte := 0x1F

/-- The size of the Record Directory (R296). -/
def dirSize : Nat := 0x80000000

/-- Whether an attached address lies in the key array as start-up laid it out. -/
def State.inKeys (s : State) (pa : Nat) : Bool :=
  s.layout.live && decide (s.layout.keyBase ≤ pa) && decide (pa < s.layout.keyBase + s.layout.keyLen)

/-- What start-up wrote in the key array at an address: KEY 0xE for the directory's own frames (R296), else
KEY 0xF. -/
def State.keyInit (s : State) (pa : Nat) : Byte :=
  let a : Nat := (pa - s.layout.keyBase) * 4096
  if s.layout.dirBase ≤ a ∧ a < s.layout.dirBase + dirSize then 0x1E else keyArrDefault

/-! ### Directory entries in memory (Table 11-4) -/

/-- STATE of a home state (Table 11-5). -/
def HomeSt.code : HomeSt → Nat
  | .settled => 0
  | .moving => 1
  | .forwarding => 2
  | .removing => 3

/-- The 32 bytes of a directory entry, V set. -/
def DirEnt.image (d : DirEnt) : List Byte :=
  beBytes 8 d.key.akey.toNat
    ++ [BitVec.ofNat 8 (0x80 + d.st.code * 16 + d.key.ten.toNat),
        BitVec.ofNat 8 (d.pin.toNat * 128 + d.cold.toNat * 64 + d.doubt.toNat * 32 + d.lost.toNat * 16
          + d.pinwait.toNat * 8),
        BitVec.ofNat 8 (d.skey.toNat * 16), d.rlen]
    ++ beBytes 2 d.group.toNat ++ beBytes 2 d.heat.toNat ++ beBytes 2 d.epoch.toNat ++ beBytes 2 d.rseq.toNat
    ++ [BitVec.ofNat 8 d.home.val, BitVec.ofNat 8 (d.cls.toNat * 64)]
    ++ beBytes 6 d.loc.toNat ++ beBytes 2 d.moveix.toNat ++ zeros 2

/-- The entry that 32 bytes spell, when V is 1. -/
def dirOfImage (l : List Byte) : Option DirEnt :=
  let b (i : Nat) : Nat := (byteAt l i).toNat
  if bit (b 8) 7 then
    some { key := ⟨BitVec.ofNat 4 (b 8), BitVec.ofNat 64 (beAt l 0 8)⟩
           st := match bits (b 8) 4 3 with | 0 => .settled | 1 => .moving | 2 => .forwarding | _ => .removing
           pin := bit (b 9) 7, cold := bit (b 9) 6, doubt := bit (b 9) 5, lost := bit (b 9) 4
           pinwait := bit (b 9) 3, skey := BitVec.ofNat 4 (b 10 / 16), rlen := byteAt l 11
           group := BitVec.ofNat 16 (beAt l 12 2), heat := BitVec.ofNat 16 (beAt l 14 2)
           epoch := BitVec.ofNat 16 (beAt l 16 2), rseq := BitVec.ofNat 16 (beAt l 18 2)
           home := Fin.ofNat 128 (b 20), cls := BitVec.ofNat 2 (b 21 / 64), loc := BitVec.ofNat 48 (beAt l 22 6)
           moveix := BitVec.ofNat 16 (beAt l 28 2) }
  else none

/-- The directory entry whose bytes hold an attached address, by bucket * 8 + entry. -/
def State.dirSlot (s : State) (pa : Nat) : Option Nat :=
  if s.layout.live ∧ s.layout.dirBase ≤ pa ∧ pa < s.layout.dirBase + dirSize then
    some ((pa - s.layout.dirBase) / 32)
  else none

/-- A byte of attached memory: the key array, the directory, or plain memory. -/
def State.attRd (s : State) (pa : Nat) : Byte :=
  if s.inKeys pa then spGet (s.keyInit pa) s.keyArr pa
  else
    match s.dirSlot pa with
    | some i =>
      match spGet? s.dir i with
      | some d => byteAt d.image (pa % 32)
      | none => memRd s.mem pa
    | none => memRd s.mem pa

/-- Bytes written to plain memory. -/
def memPut (m : List Host.Cell) (a : Nat) : List Byte → List Host.Cell
  | [] => m
  | b :: r => memPut (memWr m a b) (a + 1) r

/-- A byte written to attached memory. A byte of the directory rewrites its entry; an entry with V = 0 keeps its
bytes as plain memory. -/
def State.attWr (s : State) (pa : Nat) (b : Byte) : State :=
  if s.inKeys pa then { s with keyArr := cellPut (s.keyInit pa) s.keyArr pa b }
  else
    match s.dirSlot pa with
    | none => { s with mem := memWr s.mem pa b }
    | some i =>
      let a : Nat := pa / 32 * 32
      let old : List Byte :=
        match spGet? s.dir i with
        | some d => d.image
        | none => (List.range 32).map (fun j => memRd s.mem (a + j))
      let new : List Byte := patch old (pa % 32) [b]
      match dirOfImage new with
      | some d => { s with dir := spPut s.dir i d, mem := memPut s.mem a (List.replicate 32 memDefault) }
      | none => { s with dir := spDel s.dir i, mem := memPut s.mem a new }

/-- The Record Directory is looked up at another base (R296): the entries held so far stay in memory where they
are, and those of the new place are what memory spells there. -/
def State.rebase (s : State) (nb : Nat) : State :=
  if !s.layout.live || nb == s.layout.dirBase then s
  else
    let m : List Host.Cell := s.dir.foldl (fun m p => memPut m (s.layout.dirBase + p.1 * 32) p.2.image) s.mem
    let slots : List Nat :=
      ((m.filter (fun c => decide (nb ≤ c.1) && decide (c.1 < nb + dirSize))).map (fun c => (c.1 - nb) / 32)).dedup
    let ents : List (Nat × DirEnt) := slots.filterMap (fun i =>
      (dirOfImage ((List.range 32).map (fun j => memRd m (nb + 32 * i + j)))).map (fun d => (i, d)))
    { s with dir := ents.foldl (fun l p => spPut l p.1 p.2) []
             mem := ents.foldl (fun m p => memPut m (nb + 32 * p.1) (List.replicate 32 memDefault)) m
             layout := { s.layout with dirBase := nb } }

/-- The byte at a physical address: memory, the key array and the directory, and zero elsewhere. An alias reads
the plain tile (R75). -/
def State.rd (s : State) (pa : Nat) : Byte :=
  match pKind pa with
  | .attached => s.attRd pa
  | .square _ _ => memRd s.mem pa
  | .kerb _ => memRd s.mem pa
  | .tile n o _ => memRd s.mem (tilePa n o)
  | .reg => 0
  | .resv => 0

/-- A byte written at a physical address; an alias write acts under R74. -/
def State.wr (s : State) (pa : Nat) (b : Byte) : State :=
  match pKind pa with
  | .attached => s.attWr pa b
  | .square _ _ => { s with mem := memWr s.mem pa b }
  | .kerb _ => { s with mem := memWr s.mem pa b, kerb := { s.kerb with empty := false } }
  | .tile n o .plain => { s with mem := memWr s.mem (tilePa n o) b }
  | .tile n o .set => { s with mem := memWr s.mem (tilePa n o) (memRd s.mem (tilePa n o) ||| b) }
  | .tile n o .clr =>
    { s with mem := memWr s.mem (tilePa n o) (memRd s.mem (tilePa n o) &&& ~~~ b) }
  | .reg => s
  | .resv => s

/-- The key byte of an attached frame, at KABASE + frame (R285). -/
def State.frameKey (s : State) (f : Nat) : Byte := s.rd (s.kabase.toNat + f)

/-- The key byte of an attached frame written. -/
def State.setFrameKey (s : State) (f : Nat) (b : Byte) : State := s.wr (s.kabase.toNat + f) b

/-- `n` bytes from a physical address. -/
def State.rdN (s : State) (pa : Nat) : Nat → List Byte
  | 0 => []
  | n + 1 => s.rd pa :: s.rdN (pa + 1) n

/-- Bytes written from a physical address on. -/
def State.wrN (s : State) (pa : Nat) : List Byte → State
  | [] => s
  | b :: r => (s.wr pa b).wrN (pa + 1) r

/-- A big-endian word of 8 bytes. -/
def State.rd8 (s : State) (pa : Nat) : Nat := beNat (s.rdN pa 8)

/-- The memory port and the port-local address of an attached address (R464). -/
def State.portAt (s : State) (pa : Nat) : Option (Nat × Nat) :=
  s.regions.findSome? (fun r =>
    if r.base ≤ pa ∧ pa < r.base + r.ports.length * r.m then
      let f : Nat := (pa - r.base) / 4096
      (r.ports[f % r.ports.length]?).map (fun p => (p.1, p.2 + f / r.ports.length * 4096 + pa % 4096))
    else none)

/-- Whether a request to a physical address is answered with POISON because its memory port is STOPPED or
FAULTED (R469, R473), and the CODE of the port's record. -/
def State.portDown (s : State) (pa : Nat) : Option Byte :=
  match pKind pa with
  | .attached =>
    match s.portAt pa with
    | some (p, _) =>
      match (s.memPort p).st with
      | .stopped => some 0x30
      | .faulted => some 0x11
      | _ => none
    | none => none
  | _ => none

/-! ### Host memory (R329) -/

/-- `n` bytes of host memory. -/
def State.hostRd (s : State) (a : Nat) : Nat → List Byte
  | 0 => []
  | n + 1 => memRd s.hostMem (a % 2 ^ 64) :: s.hostRd (a + 1) n

/-- Host memory with bytes written. -/
def hostPut (m : List Host.Cell) (a : Nat) : List Byte → List Host.Cell
  | [] => m
  | b :: r => hostPut (memWr m (a % 2 ^ 64) b) (a + 1) r

def State.hostWr (s : State) (a : Nat) (l : List Byte) : State :=
  { s with hostMem := hostPut s.hostMem a l }

/-- What the host made visible in its memory before a command. -/
def State.hostStores (s : State) (l : List HostStore) : State :=
  l.foldl (fun t h => t.hostWr h.addr.toNat h.bytes) s

/-! ### Events (R231) -/

/-- A source raises one record. -/
def State.raise (s : State) (src : Nat) : State :=
  { s with raised := spPut s.raised src (spGet 0 s.raised src + 1) }

/-- The counter of error records of a channel source, which start no channel (R395). -/
def errSrc (src : Nat) : Nat := 1024 + src

/-- A channel raises an error record from source 32 + k (R401). -/
def State.raiseErr (s : State) (src : Nat) : State := s.raise (errSrc src)

/-- Records that a destination has yet to receive: raised less seen. -/
def State.waiting (s : State) (dest src : Nat) (errs : Bool) : Nat :=
  spGet 0 s.raised src + (if errs then spGet 0 s.raised (errSrc src) else 0)
    - spGet 0 s.seen (dest * 2048 + src)

/-- Sources that something outside the device raises: control cores and firmware events. -/
def outsideSrc (src : Nat) : Bool := (288 ≤ src && src < 296) || (320 ≤ src && src < 384)

/-- A destination receives one record of a source. -/
def State.see (s : State) (dest src : Nat) : State :=
  { s with seen := spPut s.seen (dest * 2048 + src) (spGet 0 s.seen (dest * 2048 + src) + 1) }

/-! ### Error records, banks and the log (15) -/

/-- The number of an error bank (Table 15-11). -/
def bankIx : BankId → Nat
  | .square q => q.val
  | .ring => 4
  | .mp p => 5 + p.val
  | .hp h => 13 + h.val
  | .kerb => 15

/-- The slots of a bank. -/
def bankSlots : BankId → Nat
  | .square _ => 16
  | _ => 4

/-- The bank that a unit type and index write (Table 15-11). -/
def bankOf (utype uidx : Nat) : BankId :=
  if utype = 0 then .square (Fin.ofNat 4 (uidx / 32))
  else if utype = 1 then .square (Fin.ofNat 4 (uidx / 2))
  else if utype = 2 then .square (Fin.ofNat 4 (uidx / 32))
  else if utype = 3 then .square (Fin.ofNat 4 uidx)
  else if utype = 4 then .mp (Fin.ofNat 8 uidx)
  else if utype = 5 then .hp (Fin.ofNat 2 uidx)
  else if utype = 6 then .ring
  else if utype = 7 then .kerb
  else if utype = 8 then .ring
  else .square (Fin.ofNat 4 uidx)

/-- The lowest slot of a bank, from `i` on, with V = 0. -/
def freeSlot (m : Sparse BankRec) (b : Nat) : Nat → Nat → Option Nat
  | 0, _ => none
  | n + 1, i => if (spGet? m (b * 16 + i)).isNone then some i else freeSlot m b n (i + 1)

/-- A unit writes an error record to its bank (R418). -/
def State.report (s : State) (r : ErrRec) : State :=
  let b : BankId := bankOf r.utype.toNat r.uidx.toNat
  match freeSlot s.banks (bankIx b) (bankSlots b) 0 with
  | some i =>
    let x : BankRec := { r := r, ovf := false, count := 1 }
    { s with banks := spPut s.banks (bankIx b * 16 + i) x, newest := spPut s.newest (bankIx b) i }
  | none =>
    let j : Nat := bankIx b * 16 + spGet 0 s.newest (bankIx b)
    match spGet? s.banks j with
    | some x =>
      let n : W16 := if x.count = 0xFFFF then x.count else x.count + 1
      { s with banks := spPut s.banks j { x with ovf := true, count := n } }
    | none => s

/-- The severities of R413. -/
def sevCorrected : BitVec 2 := 0
def sevContained : BitVec 2 := 1
def sevUnit : BitVec 2 := 2
def sevDevice : BitVec 2 := 3

/-- A record of an error that no data path carries: HOP 0xF, ASP 3, ADDR 0 (R415). -/
def plainRec (sev : BitVec 2) (code : Byte) (utype uidx : Nat) : ErrRec :=
  { sev := sev, hop := 0xF, code := code, utype := BitVec.ofNat 8 utype, uidx := BitVec.ofNat 8 uidx
    asp := 3, addr := 0, synd := 0, ten := 0, task := 0, pc := 0 }

/-- The four words of an error record (Table 15-5), V set. -/
def recWords (r : ErrRec) (ovf : Bool) (count : Nat) : List Nat :=
  [ 2 ^ 63 + ovf.toNat * 2 ^ 62 + r.sev.toNat * 2 ^ 60 + r.hop.toNat * 2 ^ 56 + r.code.toNat * 2 ^ 48
      + r.utype.toNat * 2 ^ 40 + r.uidx.toNat * 2 ^ 32 + count % 2 ^ 16 * 2 ^ 16,
    r.asp.toNat * 2 ^ 62 + r.addr.toNat,
    r.synd.toNat,
    r.ten.toNat * 2 ^ 40 + r.task.toNat * 2 ^ 32 + r.pc.toNat ]

/-- The log ring in square 0 memory (R419). -/
def logBase : Nat := sqPa 0 0x100000

/-- A log entry (Table 15-9), little-endian, LSEAL last. -/
def logBytes (lseq : Nat) (time : Nat) (flags action aten : Nat) (words : List Nat) : List Byte :=
  let body : List Byte :=
    leBytes 8 lseq ++ leBytes 8 time ++ leBytes 1 flags ++ leBytes 1 action ++ leBytes 1 aten
      ++ zeros 5 ++ (words.map (leBytes 8)).flatten ++ zeros 4
  body ++ leBytes 4 (crc32c body)

/-- The firmware writes one entry to the log (R419). -/
def State.logWrite (s : State) (time flags action aten : Nat) (words : List Nat) : State :=
  let t : State := s.wrN (logBase + s.lseq % 16384 * 64) (logBytes s.lseq time flags action aten words)
  { t with lseq := s.lseq + 1 }

/-- The SMB_ALERT_N ball is driven (R495). -/
def State.alertOn (s : State) : State := { s with mgmt := { s.mgmt with alert := true } }

/-! ### What runs -/

/-- The device is held in device reset (R498, R512, R513). -/
def State.held (s : State) : Bool :=
  !s.pins.resetN || !s.pins.pwrgood || s.pins.testmode ||
    [0x00, 0x03, 0x04, 0x05, 0x06].contains s.tap.ir.toNat

/-- Whether a core issues instructions: an engine of a street in service, or a control core of a
device out of reset (R24, R229, R322, R414). -/
def State.runs (s : State) (c : CoreId) : Bool :=
  let k : Core := s.core c
  !k.halted &&
  match c with
  | .eng n =>
    let g : Street := s.street (n.val / 8)
    !k.withdrawn && (g.st == .running || g.st == .draining || (s.fatal && g.st == .faulted))
      && (s.square (n.val / 32)).relock.isNone
  | .cc _ => s.boot.stage != 0 && !s.held

/-- A physical address cannot be reached: its square is being relocked, and accesses to it are held (R24, R31). -/
def State.heldPa (s : State) (pa : Nat) : Bool :=
  match pKind pa with
  | .square q _ => (s.square q).relock.isSome
  | .kerb _ => (s.square 0).relock.isSome
  | .tile n _ _ => (s.square (n / 32)).relock.isSome
  | .attached => false
  | .reg => false
  | .resv => false

/-! ### Banks (R204) -/

/-- The current bank, as a number: 4 is the shadow bank. -/
def Core.curIx (k : Core) : Fin 5 := if k.inShadow then 4 else k.cur.castSucc

/-- The bank of a number. -/
def Core.bankAt (k : Core) (i : Fin 5) : Bank :=
  if h : i.val < 4 then k.banks.get ⟨i.val, h⟩ else k.shadow

def Core.setBankAt (k : Core) (i : Fin 5) (b : Bank) : Core :=
  if h : i.val < 4 then { k with banks := k.banks.set i.val b h } else { k with shadow := b }

/-- The current bank. -/
def Core.bank (k : Core) : Bank := k.bankAt k.curIx

def Core.setBank (k : Core) (b : Bank) : Core := k.setBankAt k.curIx b

/-- The task whose bank is the task bank `i`. -/
def Core.taskAt (k : Core) (i : Fin 4) : Option (BitVec 6) := k.res.get i

/-- The bank that holds a task. -/
def Core.bankOf? (k : Core) (t : BitVec 6) : Option (Fin 4) :=
  (List.finRange 4).find? (fun i => k.res.get i == some t)

/-- TASK: the running task, or the interrupted task while a handler runs (Table 8-2). -/
def Core.task (k : Core) : BitVec 6 :=
  if k.inShadow then k.xtask else (k.res.get k.cur).getD 0

/-- A flag or bit of the PSW. -/
def pswBit (p : W64) (i : Nat) : Bool := p.getLsbD i

/-- Supervisor state of the current bank. -/
def Core.sup (k : Core) : Bool := pswBit k.bank.psw 12

/-- PSW.KEY of the current bank. -/
def Core.key (k : Core) : BitVec 4 := k.bank.psw.extractLsb' 16 4

/-- Bits of the PSW that are not reserved (Table 2-3). -/
def pswMask : W64 := 0x01FF771F0F0F1F1F

/-- A PSW write: reserved bits read zero; a reserved rounding mode leaves the field unchanged (R55). -/
def pswWritten (old new : W64) : W64 :=
  let x : W64 := new &&& pswMask
  let y : W64 := if 5 ≤ bits new.toNat 40 3 then blend x 0x0000070000000000 old else x
  if 5 ≤ bits new.toNat 44 3 then blend y 0x0000700000000000 old else y

/-- RSP as written: a value above 16 is 16 (R60). -/
def rspWritten (v : Nat) : BitVec 5 := BitVec.ofNat 5 (min (v % 32) 16)

/-- ACC with `n` bytes from byte `off` on replaced (R48). -/
def accPut (acc : BitVec 256) (off n v : Nat) : BitVec 256 :=
  setField acc (8 * (32 - off - n)) (8 * n) v

/-- `n` bytes of ACC from byte `off` on, as a number. -/
def accGet (acc : BitVec 256) (off n : Nat) : Nat := bits acc.toNat (8 * (32 - off - n)) (8 * n)

/-- ACC.Q (Table 2-2). -/
def Bank.q (b : Bank) : W64 := BitVec.ofNat 64 (accGet b.acc 24 8)

/-- A return-stack entry. -/
def Bank.rseAt (b : Bank) (i : Nat) : W32 := b.rse.get (Fin.ofNat 16 i)

/-- A write to a task register. -/
def Bank.write (b : Bank) : RegWr → Bank
  | .acc off n v => { b with acc := accPut b.acc off n v }
  | .ix v => { b with ix := v }
  | .iy v => { b with iy := v }
  | .psw m v => { b with psw := blend b.psw m v }
  | .rsp v => { b with rsp := v }
  | .rse i v => { b with rse := b.rse.set i.val v }
  | .lc v => { b with lc := v }
  | .ls v => { b with ls := v }
  | .le v => { b with le := v }
  | .mph v => { b with mph := v }
  | .mpl v => { b with mpl := v }
  | .dvq v => { b with dvq := v }
  | .dvm v => { b with dvm := v }
  | .fseg v => { b with fseg := v }
  | .pc v => { b with pc := v }
  | .to _ w => b.write w
  | .spec _ _ => b
  | .half _ _ => b
  | .tlb _ _ _ => b

/-- A bank with one half loaded from its 112 bytes (Table 8-12). -/
def Bank.loadHalf (b : Bank) (upper : Bool) (l : List Byte) : Bank :=
  let w32 (o : Nat) : W32 := BitVec.ofNat 32 (beAt l o 4)
  let w64 (o : Nat) : W64 := BitVec.ofNat 64 (beAt l o 8)
  if upper then
    { b with mph := w64 0, mpl := w64 8, dvq := w64 16, dvm := w64 24
             rsp := rspWritten (beAt l 32 4), rse := Vector.ofFn (fun i => w32 (48 + 4 * i.val)) }
  else
    { b with acc := BitVec.ofNat 256 (beAt l 0 32), psw := pswWritten b.psw (w64 32), pc := w32 40, ix := w32 44
             iy := w32 48, lc := w32 52, ls := w32 56, le := w32 60, fseg := BitVec.ofNat 16 (beAt l 64 2) }

/-- The 112 bytes of a half of a bank, with XBT (Table 8-12). -/
def Bank.halfImage (b : Bank) (xbt : W32) (upper : Bool) : List Byte :=
  if upper then
    beBytes 8 b.mph.toNat ++ beBytes 8 b.mpl.toNat ++ beBytes 8 b.dvq.toNat ++ beBytes 8 b.dvm.toNat
      ++ beBytes 4 b.rsp.toNat ++ zeros 12 ++ (b.rse.toList.map (fun v => beBytes 4 v.toNat)).flatten
  else
    beBytes 32 b.acc.toNat ++ beBytes 8 b.psw.toNat ++ beBytes 4 b.pc.toNat ++ beBytes 4 b.ix.toNat
      ++ beBytes 4 b.iy.toNat ++ beBytes 4 b.lc.toNat ++ beBytes 4 b.ls.toNat ++ beBytes 4 b.le.toNat
      ++ beBytes 2 b.fseg.toNat ++ zeros 2 ++ beBytes 4 xbt.toNat ++ zeros 40

/-- A TLB slot from its image: reserved bits and address bits below the page size are zero (R263). -/
def tlbOfImage (w0 w1 : W64) : TlbEnt :=
  let sz : BitVec 2 := w0.extractLsb' 57 2
  let m : BitVec 36 := ~~~ (BitVec.ofNat 36 (if sz = 0 then 0 else if sz = 1 then 0xF
    else if sz = 2 then 0x1FF else 0x3FFFF))
  { v := w0.getLsbD 63, ten := w0.extractLsb' 59 4, sz := sz, vpn := w0.extractLsb' 12 36 &&& m
    w := w1.getLsbD 63, u := w1.getLsbD 62, x := w1.getLsbD 61, pfn := w1.extractLsb' 12 36 &&& m }

/-- A Tram TLB slot from its image: the address bits are kept as written, since its two words are written one after
the other (R262); what they are below the page size counts for nothing (R263, R264). -/
def tlbRaw (w0 w1 : W64) : TlbEnt :=
  { tlbOfImage w0 w1 with vpn := w0.extractLsb' 12 36, pfn := w1.extractLsb' 12 36 }

/-- The image of a TLB slot (Table 10-4). -/
def tlbImage (e : TlbEnt) : Nat × Nat :=
  (e.v.toNat * 2 ^ 63 + e.ten.toNat * 2 ^ 59 + e.sz.toNat * 2 ^ 57 + e.vpn.toNat * 2 ^ 12,
   e.w.toNat * 2 ^ 63 + e.u.toNat * 2 ^ 62 + e.x.toNat * 2 ^ 61 + e.pfn.toNat * 2 ^ 12)

/-- An empty TLB slot: every field 0. -/
def TlbEnt.empty : TlbEnt := tlbOfImage 0 0

/-- A page size as its power of two. -/
def szLog (sz : BitVec 2) : Nat :=
  if sz = 0 then 12 else if sz = 1 then 16 else if sz = 2 then 21 else 30

/-- The special registers that an engine or control core holds outside its banks, as MTS writes them:
read-only numbers, and numbers without storage, ignore the write (R70, R207, R260, R416, R255). TASK, CYCLE and
RETIRED, whose user access is `read`, ignore it too (DESIGN CHOICE, log 98). -/
def Core.specWrite (k : Core) (cc : Bool) (n : Nat) (v : W64) : Core :=
  let v32 : W32 := v.truncate 32
  if n = 0x20 then { k with dtb := v32 &&& 0x7FC00 }
  else if n = 0x21 then { k with esp := v32 }
  else if n = 0x23 then if cc then k else { k with swth := v32 }
  else if n = 0x24 then if cc then { k with savp := v } else { k with tsb := v32 &&& 0x7FFC0 }
  else if n = 0x29 then { k with xsel := v.truncate 8 }
  else if n = 0x2B then { k with xbt := v32 }
  else if n = 0x38 then { k with tten := v.truncate 4 }
  else if n = 0x39 then
    if cc then
      -- LVL and FMT stay when the write would make them illegal (R261)
      let lvl : Nat := bits v.toNat 4 2
      let fmt : Nat := bits v.toNat 8 1
      if lvl = 3 ∨ (fmt = 1 ∧ lvl = 2) then { k with tctl := blend k.tctl 0x1000 v32 }
      else { k with tctl := blend k.tctl 0x1130 v32 }
    else k
  else if n = 0x3A then if cc then { k with ptroot := v &&& 0x0000FFFFFFFFF000 } else k
  else if n = 0x3B then if cc then { k with fsegx := v.truncate 9 } else k
  else if n = 0x41 then { k with faddr := v }
  else if n = 0x42 then { k with finfo := v32 }
  else if n = 0x48 then
    if v.getLsbD 63 then { k with mcr := k.mcr.set 0 (k.mcr[0] &&& 0x7FFFFFFFFFFFFFFF) } else k
  else if n = 0x51 then if cc then k else { k with acsel := v.truncate 12 }
  else if n = 0x53 then if cc then k else { k with aetsel := v.truncate 4 }
  else if n = 0x55 then
    if !cc && v.getLsbD 31 then { k with uperr := k.uperr &&& 0x7FFFFFFF } else k
  else k

/-- The register of a bank that a special number below 0x20 names, as MTS and XDAT write it (R60,
R68). -/
def bankSpecWr (old : W64) (n : Nat) (v : W64) : Option RegWr :=
  let v32 : W32 := v.truncate 32
  if n = 0x00 then some (.psw (BitVec.allOnes 64) (pswWritten old v))
  else if n = 0x02 then some (.ix v32)
  else if n = 0x03 then some (.iy v32)
  else if n = 0x04 then some (.rsp (rspWritten v.toNat))
  else if n = 0x05 then some (.lc v32)
  else if n = 0x06 then some (.ls v32)
  else if n = 0x07 then some (.le v32)
  else if n = 0x08 then some (.mph v)
  else if n = 0x09 then some (.mpl v)
  else if n = 0x0A then some (.dvq v)
  else if n = 0x0B then some (.dvm v)
  else if n = 0x0C then some (.fseg (v.truncate 16))
  else if 0x10 ≤ n ∧ n < 0x20 then some (.rse (Fin.ofNat 16 (n - 0x10)) v32)
  else none

/-- The value of a bank's register by its special number, zero-extended (R68). -/
def Bank.spec (b : Bank) (n : Nat) : W64 :=
  if n = 0x00 then b.psw
  else if n = 0x01 then b.pc.zeroExtend 64
  else if n = 0x02 then b.ix.zeroExtend 64
  else if n = 0x03 then b.iy.zeroExtend 64
  else if n = 0x04 then b.rsp.zeroExtend 64
  else if n = 0x05 then b.lc.zeroExtend 64
  else if n = 0x06 then b.ls.zeroExtend 64
  else if n = 0x07 then b.le.zeroExtend 64
  else if n = 0x08 then b.mph
  else if n = 0x09 then b.mpl
  else if n = 0x0A then b.dvq
  else if n = 0x0B then b.dvm
  else if n = 0x0C then b.fseg.zeroExtend 64
  else if 0x10 ≤ n ∧ n < 0x20 then (b.rseAt (n - 0x10)).zeroExtend 64
  else 0

/-- The register write that an MTS to XDAT makes (R222): to the register that XSEL selects in XTASK's bank, both
as they stand at issue (R76). -/
def Core.xdatWr (k : Core) (v : W64) : Option RegWr :=
  if k.inShadow then
    match k.bankOf? k.xtask with
    | none => none
    | some i =>
      let n : Nat := k.xsel.toNat
      let w : Option RegWr :=
        if n = 0x01 then some (.pc (v.truncate 32))
        else if n < 0x20 then bankSpecWr (k.banks.get i).psw n v
        else if 0x80 ≤ n ∧ n < 0x84 then some (.acc (8 * (n - 0x80)) 8 v.toNat)
        else none
      w.map (RegWr.to i.castSucc)
  else none

/-- What XDAT reads (R222). -/
def Core.xdatRead (k : Core) : W64 :=
  if k.inShadow then
    match k.bankOf? k.xtask with
    | none => 0
    | some i =>
      let b : Bank := k.banks.get i
      let n : Nat := k.xsel.toNat
      if n < 0x20 then b.spec n
      else if 0x80 ≤ n ∧ n < 0x84 then BitVec.ofNat 64 (accGet b.acc (8 * (n - 0x80)) 8)
      else 0
  else 0

/-- One result takes effect in its bank (R77, R190), or in the engine. -/
def Core.land (k : Core) (cc : Bool) (f : InFlight) : Core :=
  match f.wr with
  | .spec n v => k.specWrite cc n.toNat v
  | .to i w => k.setBankAt i ((k.bankAt i).write w)
  | .half u v =>
    let l : List Byte := beBytes 112 v
    let k1 : Core := k.setBankAt 0 ((k.bankAt 0).loadHalf u l)
    if u then k1 else { k1 with xbt := BitVec.ofNat 32 (beAt l 68 4) }
  | .tlb i w0 w1 => { k with tlb := spPut k.tlb i.toNat (tlbOfImage w0 w1) }
  | w => k.setBankAt f.bank ((k.bankAt f.bank).write w)

/-- A result placed behind every result due no later than it. -/
def insertDue (f : InFlight) : List InFlight → List InFlight
  | [] => [f]
  | g :: r => if f.due < g.due then f :: g :: r else g :: insertDue f r

/-- Results in the order in which they take effect (R77). -/
def sortDue (l : List InFlight) : List InFlight := l.foldl (fun a f => insertDue f a) []

/-- The loop buffer is empty once LC is 0, whatever wrote it (R65). -/
def Core.loopOff (k : Core) : Core := if k.bank.lc = 0 then { k with loopBuf := .empty } else k

/-- Every result due by cycle `t` takes effect (R76, R77). -/
def Core.settle (k : Core) (cc : Bool) (t : Nat) : Core :=
  let rdy : List InFlight := sortDue (k.inflight.filter (fun f => decide (f.due ≤ t)))
  (rdy.foldl (fun (k : Core) f => k.land cc f)
    { k with inflight := k.inflight.filter (fun f => !decide (f.due ≤ t)) }).loopOff

/-! ### Near windows (Table 1-7) -/

/-- The number of the window of Table 1-7 that holds a near address of engine `n`; 0 is reserved
(R40, R43). -/
def nearWin (n ea : Nat) : Nat :=
  if ea < 0x80000 then 1
  else if ea < 0x100000 then 2
  else if ea < 0x180000 then 3
  else if 0x1000000 ≤ ea ∧ ea < 0x1400000 then 10 + (ea - 0x1000000) / 0x80000
  else if 0x2000000 ≤ ea ∧ ea < 0x2600000 then 4
  else if 0x2600000 ≤ ea ∧ ea < 0x2800000 then if n < 32 then 5 else 4
  else if 0x3000000 ≤ ea ∧ ea < 0x3000400 then 6
  else if 0x4000000 ≤ ea ∧ ea < 0x4001000 then 7
  else 0

/-- Where a near address of engine `n` leads (R40 to R42). -/
def nearLoc (n ea : Nat) : Loc :=
  let w : Nat := nearWin n ea
  if w = 1 then .tile ea .plain
  else if w = 2 then .tile (ea - 0x80000) .set
  else if w = 3 then .tile (ea - 0x100000) .clr
  else if 10 ≤ w then
    if w - 10 = n % 8 then .tile ((ea - 0x1000000) % 0x80000) .plain
    else .phys (tilePa (n / 8 * 8 + (w - 10)) ((ea - 0x1000000) % 0x80000))
  else if w = 4 then .phys (sqPa (n / 32) (ea - 0x2000000))
  else if w = 6 then .lbox (ea - 0x3000000)
  else if w = 7 then .ev (ea - 0x4000000)
  else .none

/-- The physical address behind a location of engine `n`, through the alias ranges for an alias. -/
def locPa (n : Nat) : Loc → Option Nat
  | .tile o .plain => some (tilePa n o)
  | .tile o .set => some (tileSetBase + n * tileSize + o)
  | .tile o .clr => some (tileClrBase + n * tileSize + o)
  | .phys pa => some pa
  | .lbox _ => none
  | .ev _ => none
  | .none => none

/-- Consecutive near addresses, modulo 2^32 (R50). -/
def nearAddrs (ea n : Nat) : List Nat := (List.range n).map (fun i => (ea + i) % 2 ^ 32)

/-- The HOP of a storage place (Table 15-6). -/
def hopOf (s : State) : Loc → BitVec 4
  | .tile _ _ => 0x4
  | .lbox _ => 0x6
  | .phys pa =>
    match pKind pa with
    | .attached => 0xA
    | .square _ _ => 0x5
    | .kerb _ => 0x9
    | .tile _ _ _ => 0x4
    | .reg => Config.openHop s.free
    | .resv => Config.openHop s.free
  | .ev _ => Config.openHop s.free
  | .none => Config.openHop s.free

/-- SYND of an error at a place, by HOP (Table 15-8): the syndrome and the place in the group are what the error
makes them. -/
def State.synd (s : State) (hop : BitVec 4) : W64 :=
  let x : W64 := Config.syndrome s.free
  if hop = 0xA then x &&& 0xF7FFFFFFFF
  else if hop = 0x2 then x
  else if 3 ≤ hop.toNat ∧ hop.toNat ≤ 9 then x &&& 0x1FF
  else 0

/-- The unit that serves a physical address, as UTYPE and UIDX (Table 15-5). -/
def State.server (s : State) (pa : Nat) : Option (Nat × Nat) :=
  match pKind pa with
  | .attached => (s.portAt pa).map (fun p => (4, p.1))
  | .square q _ => some (3, q)
  | .tile n _ _ => some (0, n)
  | .kerb _ => some (7, 0)
  | .reg => none
  | .resv => none

/-- The record that a server writes of a request it answers with POISON (R411): the line or word it
could not read. -/
def State.served (s : State) (pa : Nat) (code : Byte) : State :=
  match s.server pa with
  | none => s
  | some u =>
    let a : Nat := if u.1 = 4 then pa / 64 * 64 else pa / 8 * 8
    let hop : BitVec 4 := hopOf s (.phys pa)
    { s.report { plainRec (if u.1 = 7 then sevDevice else sevContained) code u.1 u.2 with
        hop := hop, asp := 0, addr := BitVec.ofNat 48 a, synd := s.synd hop } with
      free := s.free + 1 }

/-- A corrected error in attached memory is a corrected symbol of a data lane of its subchannel, which the port code's
error pattern names: it counts toward that lane's error rate (R409, R467). -/
def State.symbolError (s : State) (pa : Nat) : State :=
  match pKind pa, s.portAt pa with
  | .attached, some (p, a) =>
    let u : Fin 2 := Fin.ofNat 2 (a / 64)
    let x : MemPort := s.memPort p
    let c : Calib := (x.cal.get u).laneError u.val (u.val * 64 + Config.errLane s.free % 40)
    s.setMemPort p { x with cal := x.cal.set u.val c }
  | _, _ => s

/-- A corrected error at a place, recorded by a unit (R413, R421). -/
def State.corrected (s : State) (utype uidx : Nat) (l : Loc) (addr : Nat) : State :=
  let s : State := match l with | .phys pa => s.symbolError pa | _ => s
  { s.report { sev := sevCorrected, hop := hopOf s l, code := 0x10, utype := BitVec.ofNat 8 utype
               uidx := BitVec.ofNat 8 uidx, asp := 0, addr := BitVec.ofNat 48 addr
               synd := s.synd (hopOf s l), ten := 0, task := 0, pc := 0 } with free := s.free + 1 }

end Sys2Proof.Machine
end

