-- ==== Sys2Proof/Machine/Keys.lean ====
section
/-! DEFINITION. Address translation and storage keys (10): TLB lookup, the control-core walker, key
checks and key caches. -/

namespace Sys2Proof.Machine

/-! ### TLB lookup (R264, R265) -/

/-- Whether a slot matches a virtual address of a tenancy (R264). -/
def tlbHits (e : TlbEnt) (ten : BitVec 4) (va : Nat) : Bool :=
  e.v && e.ten == ten && decide (e.vpn.toNat * 4096 / 2 ^ szLog e.sz = va % 2 ^ 48 / 2 ^ szLog e.sz)

/-- The lowest-numbered matching slot (R264). -/
def tlbFind (t : Sparse TlbEnt) (ten : BitVec 4) (va : Nat) : Option TlbEnt :=
  (t.find? (fun p => tlbHits p.2 ten va)).map (fun p => p.2)

/-- The physical address under a slot (R264). -/
def tlbPa (e : TlbEnt) (va : Nat) : Nat :=
  e.pfn.toNat * 4096 / 2 ^ szLog e.sz * 2 ^ szLog e.sz + va % 2 ^ szLog e.sz

/-- The permission checks of Table 10-5 in their order: the sub-cause of the first refusal. -/
def permFail (w u x user write fetch : Bool) : Option Byte :=
  if user && !u then some 0x11
  else if write && !w then some 0x10
  else if fetch && !x then some 0x12
  else none

/-! ### The control-core walker (R271 to R277) -/

/-- A table entry read by the walker, of either format. -/
structure WalkEnt where
  p : Bool
  w : Bool
  u : Bool
  x : Bool
  big : Bool
  cont : Bool
  rsv : Bool
  addr : Nat
deriving DecidableEq, Repr

/-- A native entry at level `l` (Table 10-7). -/
def nativeEnt (e l : Nat) : WalkEnt :=
  { p := bit e 0, w := bit e 1, u := bit e 2, x := bit e 3, big := bit e 4, cont := false
    rsv := decide (bits e 5 7 ≠ 0) || decide (bits e 48 16 ≠ 0) || (bit e 4 && !(l == 2 || l == 3))
    addr := bits e 12 36 * 4096 }

/-- A Rhostiver 3 entry at level `l` (Table 10-8, R276). -/
def rhostEnt (e l : Nat) : WalkEnt :=
  { p := bit e 63, w := !bit e 62, u := !bit e 61, x := true, big := bit e 59, cont := bit e 60
    rsv := decide (bits e 48 11 ≠ 0) || decide (bits e 0 12 ≠ 0) || (bit e 59 && !(l == 2 || l == 3))
      || (bit e 60 && l != 1)
    addr := bits e 12 36 * 4096 }

/-- Why an address has no translation: a sub-cause of vector 5, or an uncorrectable error in the table entry at an
address. -/
inductive XlFail where
  | fault (sub : Byte)
  | bad (pa : Nat)
deriving DecidableEq, Repr

/-- The outcome of a walk: why it failed, or the TLB entry and the non-leaf entries read. -/
inductive WalkRes where
  | fail (x : XlFail)
  | leaf (e : CcTlbEnt) (psc : List PscEnt)
deriving DecidableEq, Repr

/-- The bits of a virtual address that select the entry at level `l`. -/
def walkTag (va l : Nat) : Nat := va / 2 ^ (9 * l + 3)

/-- A byte of attached memory as the core's own outstanding posted stores leave it (R199, R274). -/
def Core.ownByte (k : Core) (s : State) (pa : Nat) : Byte :=
  k.posted.foldl (fun b p => (p.locs.zip p.bytes).foldl (fun b x =>
    if x.1 = .phys pa then x.2 else b) b) (s.rd pa)

/-- A table entry as the walker of a core reads it. -/
def Core.walkWord (k : Core) (s : State) (a : Nat) : Nat := beNat ((List.range 8).map (fun i => k.ownByte s (a + i)))

/-- The walk from level `l` at table `t` (R273); `err` is an uncorrectable error in the first entry read. -/
def walkFrom (rd : Nat → Nat) (s : State) (err rhost : Bool) (ten : BitVec 4) (va : Nat) :
    Nat → Nat → List PscEnt → WalkRes
  | 0, _, _ => .fail (.fault 0x03)
  | l + 1, t, psc =>
    let a : Nat := t + 8 * (walkTag va (l + 1) % 512)
    if s.installed ≤ a + 7 then .fail (.fault 0x04)
    else if err then .fail (.bad a)
    else
      let w : Nat := rd a
      let e : WalkEnt := if rhost then rhostEnt w (l + 1) else nativeEnt w (l + 1)
      if !e.p then .fail (.fault 0x02)
      else if e.rsv then .fail (.fault 0x03)
      else if l = 0 ∨ (l + 1 ≤ 3 ∧ e.big) then
        let lg : Nat := 9 * (l + 1) + 3
        if e.addr % 2 ^ lg ≠ 0 then .fail (.fault 0x03)
        else
          -- a level-1 leaf with CONT installs the 64 KiB group (R277)
          let g : Nat := if l = 0 ∧ e.cont then 16 else lg
          .leaf { ten := ten, lg := g, va := va / 2 ^ g * 2 ^ g, pa := e.addr / 2 ^ g * 2 ^ g
                  w := e.w, u := e.u, x := e.x } psc
      else
        walkFrom rd s false rhost ten va l e.addr
          (psc ++ [{ ten := ten, level := l + 1, tag := walkTag va (l + 1), table := e.addr }])

/-- The paging-structure cache entry nearest the leaf that a walk of `top` levels can start below
(R275). -/
def pscFind (psc : List PscEnt) (ten : BitVec 4) (va : Nat) : Nat → Nat → Option PscEnt
  | 0, _ => none
  | n + 1, l =>
    match psc.find? (fun e => e.ten == ten && e.level == l && e.tag == walkTag va l) with
    | some e => some e
    | none => pscFind psc ten va n (l + 1)

/-- An entry appended to a cache of `cap` entries, evicting entry `v` when it is full. -/
def cacheAdd {α : Type} (cap : Nat) (v : Nat) (l : List α) (e : α) : List α :=
  if l.length < cap then l ++ [e] else l.eraseIdx (v % cap) ++ [e]

/-- A control core's virtual address (R259). -/
def ccVa (k : Core) (fseg : W16) (ea : Nat) : Nat :=
  k.fsegx.toNat * 2 ^ 48 + fseg.toNat * 2 ^ 32 + ea

/-- The entry of a control core's TLB that matches a virtual address (R271). -/
def Core.ccFind (k : Core) (va : Nat) : Option CcTlbEnt :=
  k.ccTlb.find? (fun e => e.ten == k.tten && decide (e.va = va / 2 ^ e.lg * 2 ^ e.lg))

/-- The permission checks on a control core's TLB entry, then the physical address. -/
def CcTlbEnt.check (e : CcTlbEnt) (va : Nat) (user write fetch : Bool) : Except XlFail Nat :=
  match permFail e.w e.u e.x user write fetch with
  | some sub => .error (.fault sub)
  | none => .ok (e.pa + va % 2 ^ e.lg)

/-- A control core translates one address (R259, R271, R273): the core with what a walk installed, which stays
whatever the checks of Table 10-5 say, and the physical address or why there is none; `err` is an uncorrectable
error that meets the walk. -/
def ccXlate (k : Core) (s : State) (va : Nat) (user write fetch err : Bool) : Core × Except XlFail Nat :=
  if !k.tctl.getLsbD 12 then
    (k, if k.fsegx = 0 then .ok (va % 2 ^ 48) else .error (.fault 0x05))
  else
    let lvl : Nat := 3 + bits k.tctl.toNat 4 2
    if va / 2 ^ (9 * lvl + 12) ≠ 0 ∧ lvl < 5 then (k, .error (.fault 0x05))
    else
      match k.ccFind va with
      | some e => (k, e.check va user write fetch)
      | none =>
        let start : Nat × Nat :=
          match pscFind (k.psc.filter (fun e => decide (e.level ≤ lvl))) k.tten va 4 2 with
          | some e => (e.level - 1, e.table)
          | none => (lvl, k.ptroot.toNat / 4096 * 4096)
        match walkFrom (k.walkWord s) s err (k.tctl.getLsbD 8) k.tten va start.1 start.2 [] with
        | .fail x => (k, .error x)
        | .leaf e new =>
          let psc : List PscEnt := new.foldl (fun l e => cacheAdd 32 (Config.pscVictim k.free) l e) k.psc
          ({ k with ccTlb := cacheAdd 1024 (Config.tlbVictim k.free) k.ccTlb e, psc := psc, free := k.free + 1 },
            e.check va user write fetch)

/-! ### Storage keys (R284 to R288) -/

/-- The granule of a storage key: a tile region (engine * 128 + region), a square region
(square * 2048 + region) or an attached frame (Table 10-15). -/
inductive Gran where
  | tile (i : Nat)
  | sq (i : Nat)
  | frame (f : Nat)
deriving DecidableEq, Repr

/-- Whether an access with key `a` passes an entry (Table 10-14). -/
def keyPermits (a : BitVec 4) (entry : Byte) (write : Bool) : Bool :=
  let key : BitVec 4 := entry.extractLsb' 0 4
  let mode : BitVec 2 := entry.extractLsb' 4 2
  if a = 0 then true
  else if a = key then !(write && mode == 2)
  else !write && (mode == 0 || mode == 2)

/-- A key byte as KSET stores it: MODE 0b11 is 0b01
(R284, R289). -/
def keyStored (b : Byte) : Byte := if b.extractLsb' 4 2 = (3 : BitVec 2) then b &&& 0xDF else b

/-- The granule of a byte: own-tile bytes are those of engine `n`. -/
def granOf (n : Nat) : Loc → Option Gran
  | .tile o _ => some (.tile (n * 128 + o / 4096))
  | .phys pa =>
    match pKind pa with
    | .attached => some (.frame (pa / 4096))
    | .square q o => some (.sq (q * 2048 + o / 4096))
    | .kerb o => some (.sq ((o + kerbOff) / 4096))
    | .tile m o _ => some (.tile (m * 128 + o / 4096))
    | .reg => none
    | .resv => none
  | .lbox _ => none
  | .ev _ => none
  | .none => none

/-- The granules that an access touches, each with the index of its first byte, in address order. -/
def granList (n : Nat) : Nat → Option Gran → List Loc → List (Nat × Gran)
  | _, _, [] => []
  | i, prev, l :: r =>
    let g : Option Gran := granOf n l
    match g with
    | some x => if prev = g then granList n (i + 1) g r else (i, x) :: granList n (i + 1) g r
    | none => granList n (i + 1) none r

/-- The entry of a granule: the key store, or for a frame the unit's cached copy or the key array
(R288). -/
def keyEntry (s : State) (cache : Sparse Byte) : Gran → Byte
  | .tile i => spGet 0 s.tileKeys i
  | .sq i => spGet 0 s.sqKeys i
  | .frame f => (spGet? cache f).getD (s.frameKey f)

/-- The first granule that refuses an access: the index of its first byte and its entry (R287). -/
def keyRefusal (s : State) (cache : Sparse Byte) (a : BitVec 4) (write : Bool) :
    List (Nat × Gran) → Option (Nat × Byte)
  | [] => none
  | (i, g) :: r =>
    if keyPermits a (keyEntry s cache g) write then keyRefusal s cache a write r
    else some (i, keyEntry s cache g)

/-- USE, and MOD for a write. -/
def useMod (write : Bool) : Byte := if write then 0xC0 else 0x40

/-- The write-back of a cached entry: USE and MOD are ORed into the array byte (R288). -/
def State.keyBack (s : State) (f : Nat) (b : Byte) : State :=
  s.setFrameKey f (s.frameKey f ||| (b &&& 0xC0))

/-- A frame's entry in a cache of 64 with the bits `um` set: fetched on a miss, evicting entry `v` of a full
cache. -/
def touchFrame (s : State) (cache : Sparse Byte) (v f : Nat) (um : Byte) : State × Sparse Byte :=
  match spGet? cache f with
  | some b => (s, spPut cache f (b ||| um))
  | none =>
    let b : Byte := s.frameKey f ||| um
    if cache.length < 64 then (s, spPut cache f b)
    else
      match cache[v % 64]? with
      | some (g, x) => (s.keyBack g x, spPut (spDel cache g) f b)
      | none => (s, spPut cache f b)

/-- The key bytes that an access fetches into a cache up to and with the granule that refuses it (R288). -/
def fetchKeys (v : Nat) : List Gran → State → Sparse Byte → State × Sparse Byte
  | [], s, cache => (s, cache)
  | .frame f :: r, s, cache =>
    let (s', cache') := touchFrame s cache v f 0
    fetchKeys v r s' cache'
  | _ :: r, s, cache => fetchKeys v r s cache

/-- The first frame of an access whose key byte is not in the cache. -/
def keyMiss (cache : Sparse Byte) (l : List (Nat × Gran)) : Option (Nat × Nat) :=
  l.findSome? (fun p =>
    match p.2 with
    | .frame f => if (spGet? cache f).isSome then none else some (p.1, f)
    | _ => none)

/-- USE and MOD set for every granule of an access that passed (R73, R288). -/
def touchKeys (um : Byte) (v : Nat) : List (Nat × Gran) → State → Sparse Byte → State × Sparse Byte
  | [], s, cache => (s, cache)
  | (_, g) :: r, s, cache =>
    match g with
    | .tile i => touchKeys um v r { s with tileKeys := spPut s.tileKeys i (spGet 0 s.tileKeys i ||| um) } cache
    | .sq i => touchKeys um v r { s with sqKeys := spPut s.sqKeys i (spGet 0 s.sqKeys i ||| um) } cache
    | .frame f =>
      let (s', cache') := touchFrame s cache v f um
      touchKeys um v r s' cache'

/-! ### Address ranges (R38, R39) -/

/-- The vector 4 sub-cause with which R39 refuses an engine a physical address. -/
def r39Sub (pa : Nat) : Option Byte :=
  match pKind pa with
  | .reg => some 0x02
  | .tile _ _ _ => some 0x05
  | .kerb _ => some 0x05
  | .attached => none
  | .square _ _ => none
  | .resv => none

/-- Whether R38 refuses a physical address: attached memory above the installed size, or reserved. -/
def r38Refuses (s : State) (pa : Nat) : Bool :=
  match pKind pa with
  | .attached => decide (s.installed ≤ pa)
  | .resv => true
  | .square _ _ => false
  | .kerb _ => false
  | .tile _ _ _ => false
  | .reg => false

/-! ### Invalidation (R278 to R281) -/

/-- Whether a translation invalidation covers a TLB entry, given by tenancy, page base and size. -/
def tlbiCovers (i : Inval) (ten : BitVec 4) (base lg : Nat) : Bool :=
  if i.scope = 0 then ten == i.ten && decide (i.addr.toNat / 2 ^ lg = base / 2 ^ lg)
  else if i.scope = 1 ∨ i.scope = 2 then ten == i.ten
  else true

/-- Whether an invalidation covers the translation or the frame that an access was made with (R280 step 3). -/
def Inval.covers (i : Inval) (via : Option Via) (pas : List Nat) : Bool :=
  if i.key then
    pas.any (fun pa => pKind pa == .attached && (i.scope != 0 || decide (pa / 4096 = i.addr.toNat % 2 ^ 48 / 4096)))
  else
    match via with
    | some v => tlbiCovers i v.ten v.base v.lg
    | none => false

/-- Whether a core has an access in flight that was made with an invalidated entry. -/
def Core.inFlightWith (k : Core) (i : Inval) : Bool :=
  k.waits.any (fun w => w.xfers.any (fun x => i.covers x.via x.pa.toList))
    || k.posted.any (fun p => i.covers p.via (p.locs.filterMap (fun l =>
      match l with
      | .phys a => some a
      | _ => none)))

/-- TLB slots after an invalidation: a covered slot has V = 0 and is not listed. -/
def tlbAfter (i : Inval) (t : Sparse TlbEnt) : Sparse TlbEnt :=
  t.filter (fun p => !(p.2.v && tlbiCovers i p.2.ten (p.2.vpn.toNat * 4096) (szLog p.2.sz)))

/-- Whether a paging-structure cache entry is invalidated: every one of the tenancy (Table 10-9). -/
def pscCovers (i : Inval) (e : PscEnt) : Bool :=
  if i.scope = 3 ∨ i.scope = 4 then true else e.ten == i.ten

/-- Whether a key-cache entry for a frame is invalidated (Table 10-11). -/
def keyiCovers (i : Inval) (f : Nat) : Bool :=
  if i.scope = 0 then decide (f = i.addr.toNat % 2 ^ 48 / 4096) else true

/-- The write-backs of every covered entry of a key cache, and the cache without them (R280 step 4). -/
def keyiApply (i : Inval) (s : State) (cache : Sparse Byte) : State × Sparse Byte :=
  ((cache.filter (fun p => keyiCovers i p.1)).foldl (fun t p => t.keyBack p.1 p.2) s,
   cache.filter (fun p => !keyiCovers i p.1))

/-- An invalidation applied to one core (R280 steps 1 and 4). -/
def State.invalCore (s : State) (i : Inval) (c : CoreId) : State :=
  let k : Core := s.core c
  if i.key then
    let (t, cache) := keyiApply i s k.keyCache
    t.setCore c { k with keyCache := cache }
  else
    s.setCore c { k with tlb := tlbAfter i k.tlb
                         ccTlb := k.ccTlb.filter (fun e => !tlbiCovers i e.ten e.va e.lg)
                         psc := k.psc.filter (fun e => !pscCovers i e) }

/-- An invalidation applied to a Tram unit. -/
def State.invalTram (s : State) (i : Inval) (q : Nat) : State :=
  let u : Tram := s.tram q
  if i.key then
    let (t, cache) := keyiApply i s u.keyCache
    t.setTram q { u with keyCache := cache }
  else s.setTram q { u with tlb := tlbAfter i u.tlb }

/-- An invalidation applied to a unit. -/
def State.invalUnit (s : State) (i : Inval) : UnitId → State
  | .core c => s.invalCore i c
  | .tram q => s.invalTram i q.val

/-- Every engine, control core and Tram unit but the issuing core (R280). -/
def otherUnits (c : CoreId) : List UnitId :=
  ((allCores.filter (fun d => d != c)).map UnitId.core) ++ (List.finRange 4).map UnitId.tram

/-- TSTAT.SYNC: an invalidation of this unit is not yet acknowledged by every unit (Table 10-2). -/
def State.syncing (s : State) (c : CoreId) : Bool := s.invals.any (fun i => i.from_ == c)

end Sys2Proof.Machine
end

