-- ==== Sys2Proof/Machine/Tram.lean ====
section
/-! DEFINITION. The Tram units (14): addresses and checks, starts, bursts, reads and writes,
descriptors, halts and errors. -/

namespace Sys2Proof.Machine

/-! ### Fields of CCTL (Table 14-2) and of an address word (Table 14-4) -/

def Channel.tsrc (c : Channel) : Nat := bits c.cctl.toNat 0 9
def Channel.tv (c : Channel) : Bool := c.cctl.getLsbD 9
def Channel.psrc (c : Channel) : Nat := bits c.cctl.toNat 10 9
def Channel.pmode (c : Channel) : Nat := bits c.cctl.toNat 19 2
def Channel.req (c : Channel) : Bool := c.cctl.getLsbD 21
def Channel.bsz (c : Channel) : Nat := bits c.cctl.toNat 22 4
def Channel.ceng (c : Channel) : Nat := bits c.cctl.toNat 26 5
def Channel.phys (c : Channel) : Bool := c.cctl.getLsbD 31
def Channel.cten (c : Channel) : BitVec 4 := c.cctl.extractLsb' 32 4
def Channel.ckey (c : Channel) : BitVec 4 := c.cctl.extractLsb' 36 4
def Channel.tpair (c : Channel) : Bool := c.cctl.getLsbD 41

def adAs (a : W64) : Nat := bits a.toNat 62 2
def adFix (a : W64) : Bool := a.getLsbD 61
def adWrap (a : W64) : Nat := bits a.toNat 56 5
def adAddr (a : W64) : Nat := bits a.toNat 0 48

/-- The address word `a` with another address. -/
def adWith (a : W64) (addr : Nat) : W64 := BitVec.ofNat 64 (adAs a * 2 ^ 62 + addr % 2 ^ 48)

/-- The engine whose windows near addresses of the chain are taken through (R387, R390). -/
def Channel.engine (c : Channel) (k : Nat) : Nat :=
  k / 32 * 32 + (c.ceng + (if c.part then 4 else 0)) % 32

/-- CSTAT (Table 14-3). -/
def Channel.cstat (c : Channel) : Nat :=
  (match c.st with | .idle => 0 | .active => 1 | .halted => 2 | .error => 3)
    + c.unacked.toNat * 2 ^ 2 + c.side.toNat * 2 ^ 3 + c.code.toNat * 2 ^ 8 + c.sub.toNat * 2 ^ 16 + c.tpend * 2 ^ 24
    + c.tovf.toNat * 2 ^ 32 + c.part.toNat * 2 ^ 33 + c.pcred * 2 ^ 40 + c.povf.toNat * 2 ^ 48
    + c.tpend2 * 2 ^ 56

/-- TUSTAT bit of a channel (Table 14-1). -/
def Channel.tustat (c : Channel) : Bool := (c.st == .halted && c.tlbHalt) || c.st == .error

/-! ### Address checks (R390, R398) -/

/-- The near part of R398: the physical addresses behind a near access through the windows of engine
`n`, or CODE and SUB (R390). -/
def tramNear (n a len : Nat) : Except (Byte × Byte) (List Nat) :=
  let w : Nat := nearWin n a
  if w = 0 ∨ w = 6 ∨ w = 7 then .error (0x20, 0x03)
  else if w = 5 then .error (0x20, 0x04)
  else if (List.range len).any (fun i => nearWin n (a + i) != w) then .error (0x11, 0)
  else .ok ((List.range len).filterMap (fun i => locPa n (nearLoc n (a + i))))

/-- The address ranges of R39 and then R38 over a whole access, for a channel. -/
def tramRange (s : State) (l : List Nat) : Option (Byte × Byte) :=
  match l.find? (fun pa => match pKind pa with | .reg => true | .kerb _ => true | _ => false) with
  | some pa => some (0x20, match pKind pa with | .kerb _ => 0x04 | _ => 0x02)
  | none => if l.any (r38Refuses s) then some (0x21, 0) else none

/-- The checks of R398 on one access of a channel: its physical addresses, or CODE and SUB. -/
def tramCheck (s : State) (k : Nat) (c : Channel) (as_ a len : Nat) (write : Bool) :
    Except (Byte × Byte) (List Nat) :=
  let u : Tram := s.tram (k / 32)
  let pas : Except (Byte × Byte) (List Nat) :=
    if as_ = 1 then
      match tlbFind u.tlb c.cten a with
      | none => .error (0x02, 0)
      | some e =>
        match permFail e.w e.u e.x (c.ckey != 0) write false with
        | some sub => .error (0x20, sub)
        | none => .ok ((List.range len).map (fun i => tlbPa e a + i))
    else if as_ = 0 then tramNear (c.engine k) a len
    else .ok ((List.range len).map (fun i => a + i))
  match pas with
  | .error e => .error e
  | .ok l =>
    match tramRange s l with
    | some e => .error e
    | none =>
      match keyRefusal s u.keyCache c.ckey write (granList 0 0 none (l.map Loc.phys)) with
      | some _ => .error (0x20, 0x01)
      | none => .ok l

/-- The CODE of the record of a malfunction that fails an access (R411, R413; Table 15-7). -/
def tramMal : Option HwErr → Option Byte
  | some .uncorrectable => some 0x11
  | some (.data _) => some 0x11
  | some .seal => some 0x20
  | some .parity => some 0x03
  | _ => none

/-- The CODE with which an access fails: a memory port out of service answers it with POISON (R469, R473), or a
malfunction meets it. -/
def tramBad (s : State) (l : List Nat) (err : Option HwErr) : Option Byte :=
  match l.findSome? s.portDown with
  | some code => some code
  | none => tramMal err

/-- The record that a memory port out of service writes of such an access. -/
def tramServed (s : State) (l : List Nat) : State :=
  match l.find? (fun pa => (s.portDown pa).isSome) with
  | some pa => s.served pa ((s.portDown pa).getD 0x11)
  | none => s

/-- USE and MOD set for an access that passed. -/
def tramTouch (s : State) (k : Nat) (l : List Nat) (write : Bool) : State :=
  let u : Tram := s.tram (k / 32)
  let (t, cache) := touchKeys (useMod write) (Config.keyVictim s.free) (granList 0 0 none (l.map Loc.phys)) s u.keyCache
  { t with free := t.free + 1 }.setTram (k / 32) { u with keyCache := cache }

/-- A corrected error on an access is recorded by the channel (R408, R413). -/
def tramNote (s : State) (k : Nat) (l : List Nat) (err : Option HwErr) : State :=
  if err = some .corrected then s.corrected 2 k (.phys (l.headD 0)) (l.headD 0) else s

/-- Bytes written to a list of physical addresses. -/
def State.wrAll (s : State) : List Nat → List Byte → State
  | a :: as_, b :: bs => (s.wr a b).wrAll as_ bs
  | _, _ => s

/-! ### The stream mapping (R391) -/

/-- An address wrapped within its block of 2^w bytes. -/
def wrapAd (w base a : Nat) : Nat := if w = 0 then a else base / 2 ^ w * 2 ^ w + (a - base / 2 ^ w * 2 ^ w) % 2 ^ w

/-- The source element that holds stream byte `i`. -/
def srcElem (d : Desc) (i : Nat) : Nat :=
  let e : Nat := 2 ^ d.sw.toNat
  if adFix d.src then adAddr d.src else wrapAd (adWrap d.src) (adAddr d.src) (adAddr d.src + e * (i / e))

/-- The byte of its source element that stream byte `i` is. -/
def srcByte (d : Desc) (i : Nat) : Nat :=
  let e : Nat := 2 ^ d.sw.toNat
  if d.swap then e - 1 - i % e else i % e

/-- Where stream byte `i` goes. -/
def dstAddr (d : Desc) (i : Nat) : Nat :=
  let e : Nat := 2 ^ d.dw.toNat
  if adFix d.dst then adAddr d.dst + i % e else wrapAd (adWrap d.dst) (adAddr d.dst) (adAddr d.dst + i)

/-- Stream bytes written so far. -/
def Channel.wpos (c : Channel) : Nat := c.rpos - c.buf.length

/-- The position registers CREM, CSRC and CDST (R399). -/
def Channel.posRegs (c : Channel) : Channel :=
  match c.desc with
  | none => { c with crem := 0, csrc := 0, cdst := 0 }
  | some d =>
    { c with crem := BitVec.ofNat 32 (d.len - c.wpos), csrc := adWith d.src (srcElem d c.wpos)
             cdst := adWith d.dst (dstAddr d c.wpos) }

/-- The channel with what its share holds discarded back to its position (R399). -/
def Channel.discard (c : Channel) : Channel := { c with rpos := c.wpos, buf := [] }

/-! ### Halts and errors (R399 to R401) -/

/-- DSTAT of the current descriptor written, when its own checks pass. -/
def tramDstat (s : State) (k : Nat) (c : Channel) (dcode : Byte) : Except (Byte × Byte) State :=
  match tramCheck s k c (adAs c.ccur) (adAddr c.ccur + 30) 2 true with
  | .error e => .error e
  | .ok l =>
    if (tramBad s l none).isSome then .error (0x30, 0) else .ok ((tramTouch s k l true).wrAll l [0x80, dcode])

/-- A channel halts or fails: CODE, SUB, SIDE and the address (R399 to R401). `fetch` says that the
cause lay in a descriptor fetch, `dstat` that DSTAT is written; for CODE 0x30 `mal` is the CODE of the
error record. -/
def tramFail (s : State) (k : Nat) (side : BitVec 2) (code sub : Byte) (addr : W64)
    (fetch dstat : Bool) (mal : Byte := 0x11) : State :=
  let c0 : Channel := (s.channel k).discard
  let c : Channel := if fetch then { c0 with crem := 0, csrc := 0, cdst := 0 } else c0.posRegs
  let c : Channel := { c with side := side, code := code, sub := sub, cfault := addr, unacked := false }
  if code = 0x02 then
    (s.setChannel k { c with st := .halted, tlbHalt := true }).raise (296 + k / 32)
  else
    let s1 : State :=
      if dstat then match tramDstat s k c code with | .ok t => t | .error _ => s else s
    let s2 : State :=
      if code = 0x30 then
        let hop : BitVec 4 :=
          if mal = 0x20 then 0x2
          else if mal = 0x21 then 0xE
          else if mal = 0x03 then 0xC
          else if adAs addr = 0 then hopOf s1 (nearLoc (c.engine k) (adAddr addr)) else hopOf s1 (.phys (adAddr addr))
        s1.report { sev := sevContained, hop := hop, code := mal, utype := 2
                    uidx := BitVec.ofNat 8 k, asp := if adAs addr = 1 then 1 else if adAs addr = 0 then 2 else 0
                    addr := BitVec.ofNat 48 (adAddr addr), synd := s1.synd hop, ten := c.cten
                    task := BitVec.ofNat 6 (k % 32), pc := 0 }
      else s1
    let c : Channel :=
      { c with st := .error, fn := .faulted, tlbHalt := false, tpend := 0, tpend2 := 0, pcred := 0 }
    ((s2.setChannel k c).raise (296 + k / 32)).raiseErr (32 + k)

/-! ### Starting and ending a chain (R395, R387) -/

/-- A chain begins: at CDA, or at the partner's own 0x0003_FFE0. -/
def Channel.begin (c : Channel) (part : Bool) : Channel :=
  { c with st := .active, phase := .fetch, part := part, ccur := if part then 0x3FFE0 else c.cda
           desc := none, rpos := 0, buf := [], burst := 0, code := 0, sub := 0, side := 0
           tlbHalt := false }

/-- A start of a running channel: begins when IDLE, is counted when ACTIVE or HALTED. -/
def Channel.start (c : Channel) (part : Bool) : Channel :=
  match c.st with
  | .idle => c.begin part
  | .active | .halted =>
    if part then if c.tpend2 = 255 then { c with tovf := true } else { c with tpend2 := c.tpend2 + 1 }
    else if c.tpend = 255 then { c with tovf := true } else { c with tpend := c.tpend + 1 }
  | .error => c

/-- The end of a chain: the next counted start, alternating between the two engines, or IDLE. -/
def Channel.endChain (c : Channel) : Channel :=
  let other : Bool := if c.tpend ≠ 0 ∧ c.tpend2 ≠ 0 then !c.part else decide (c.tpend2 ≠ 0)
  if c.tpend = 0 ∧ c.tpend2 = 0 then { c with st := .idle, phase := .fetch, desc := none, rpos := 0, buf := [] }
  else if other then { c with tpend2 := c.tpend2 - 1 }.begin true
  else { c with tpend := c.tpend - 1 }.begin false

/-- After DIS a channel awaits the acknowledgement of its writes, and accepts neither SWST nor CDA (R403). -/
def Channel.settling (c : Channel) : Bool := c.st == .idle && c.unacked

/-- CCTL.SWST (R395). -/
def tramSwst (s : State) (k : Nat) : State :=
  let c : Channel := s.channel k
  if c.fn = .running ∧ !c.settling then s.setChannel k (c.start false) else s

/-- CCTL.RESUME (R400). A channel that STOP has taken out of service goes on at START only (Table 14-7). -/
def tramResume (s : State) (k : Nat) : State :=
  let c : Channel := s.channel k
  if c.st = .halted ∧ c.tlbHalt ∧ c.fn = .running then
    s.setChannel k { c with st := .active, tlbHalt := false, code := 0, sub := 0, side := 0 }
  else s

/-- CCTL.DIS (R403): CCUR, CSRC, CDST and CREM are free until the next start. Writes already issued reach their
destinations, and BUSY stays 1 until they are acknowledged. -/
def tramDis (s : State) (k : Nat) : State :=
  let c : Channel := s.channel k
  let v (r : Nat) : W64 := Config.afterDis s.free r
  { s with free := s.free + 1 }.setChannel k
    { c with fn := .stopped, st := .idle, phase := .fetch, desc := none, rpos := 0, buf := [], burst := 0
             tpend := 0, tpend2 := 0, pcred := 0, tlbHalt := false, ccur := v 0, csrc := v 1
             cdst := v 2, crem := (v 3).truncate 32 }

/-! ### The registers as control cores write them (R385) -/

/-- A write to CCTL: its fields only while the function is STOPPED, REQ and the action bits always. A
reserved PMODE or BSZ is not stored. -/
def tramCctl (s : State) (k : Nat) (v : W64) : State :=
  let c : Channel := s.channel k
  let m0 : W64 := 0x000003FFFFFFFFFF
  let m1 : W64 := if bits v.toNat 19 2 = 3 then m0 &&& ~~~ 0x180000 else m0
  let m2 : W64 := if 13 ≤ bits v.toNat 22 4 then m1 &&& ~~~ 0x3C00000 else m1
  let m : W64 := if c.fn = .stopped then m2 else 0x200000
  let s1 : State := s.setChannel k { c with cctl := blend c.cctl m v }
  if v.getLsbD 50 then tramDis s1 k
  else
    let s2 : State := if v.getLsbD 49 then tramResume s1 k else s1
    if v.getLsbD 48 then tramSwst s2 k else s2

/-- A write to CDA, only while the function is STOPPED. -/
def tramCda (s : State) (k : Nat) (v : W64) : State :=
  let c : Channel := s.channel k
  if c.fn = .stopped ∧ !c.settling then s.setChannel k { c with cda := v &&& 0xC000FFFFFFFFFFFF } else s

/-! ### Descriptors (R388, R389) -/

/-- The fields of a descriptor's 32 bytes. -/
def descOf (b : List Byte) : Desc :=
  { src := BitVec.ofNat 64 (beAt b 0 8), dst := BitVec.ofNat 64 (beAt b 8 8)
    next := BitVec.ofNat 64 (beAt b 16 8), len := beAt b 24 4
    sw := BitVec.ofNat 3 (bits (beAt b 28 2) 13 3), dw := BitVec.ofNat 3 (bits (beAt b 28 2) 10 3)
    swap := bit (beAt b 28 2) 9 }

/-- END and IEV of a descriptor. -/
def Desc.end_ (d : Desc) : Bool := d.next.getLsbD 63
def Desc.iev (d : Desc) : Bool := d.next.getLsbD 62

/-- One side's checks of R389: the address space, WRAP, FIX with WRAP, alignment to the width. -/
def sideBad (phys : Bool) (a : W64) (w : Nat) : Bool :=
  bits a.toNat 48 8 != 0 || adAs a == 3 || (adAs a == 2 && !phys)
    || (decide (1 ≤ adWrap a) && decide (adWrap a ≤ 5)) || decide (25 ≤ adWrap a)
    || (adFix a && adWrap a != 0) || adAddr a % 2 ^ w != 0
    || (adAs a == 0 && decide (2 ^ 32 ≤ adAddr a))

/-- Whether R389 refuses a descriptor. -/
def descBad (phys : Bool) (b : List Byte) : Bool :=
  let d : Desc := descOf b
  bits d.next.toNat 48 14 != 0 || bits (beAt b 28 2) 0 9 != 0 || d.sw == 7 || d.dw == 7 || d.len == 0
    || d.len % 2 ^ max d.sw.toNat d.dw.toNat != 0
    || sideBad phys d.src d.sw.toNat || sideBad phys d.dst d.dw.toNat

/-- The descriptor fetch of an active channel (R388, R389). -/
def tramFetch (s : State) (k : Nat) (err : Option HwErr) : State :=
  let c : Channel := s.channel k
  if ¬ (c.st = .active ∧ c.phase = .fetch ∧ c.fn = .running) then s
  else if adAs c.ccur = 3 ∨ (adAs c.ccur = 2 ∧ !c.phys) ∨ adAddr c.ccur % 32 ≠ 0 then
    tramFail s k 2 0x10 0 c.ccur true false
  else
    match tramCheck s k c (adAs c.ccur) (adAddr c.ccur) 32 false with
    | .error (code, sub) => tramFail s k 2 code sub c.ccur true false
    | .ok l =>
      match tramBad s l err with
      | some m => tramFail (tramServed s l) k 2 0x30 0 c.ccur true false m
      | none =>
        let s1 : State := tramNote (tramTouch s k l false) k l err
        let b : List Byte := l.map s.rd
        if descBad c.phys b then
          -- it failed as a descriptor, not in its fetch: DSTAT is written (R399, R401)
          tramFail (s1.setChannel k { c with desc := none }) k 2 0x10 0 c.ccur true true
        else
          s1.setChannel k ({ c with desc := some (descOf b), rpos := 0, buf := [], burst := 0
                                    phase := .move }.posRegs)

/-! ### Bursts, reads and writes (R383, R391 to R397) -/

/-- The stream position up to which the channel may read now. -/
def Channel.limit (c : Channel) (d : Desc) : Nat := if c.pmode = 0 then d.len else c.burst

/-- The addresses that one side of a descriptor names, as spans: first and past the last. -/
def addrSpans (a : W64) (w len : Nat) : List (Nat × Nat) :=
  let b : Nat := adAddr a
  let z : Nat := 2 ^ adWrap a
  let base : Nat := b / z * z
  if adFix a then [(b, b + w)]
  else if adWrap a = 0 then [(b, b + len)]
  else if z ≤ len then [(base, base + z)]
  else if b + len ≤ base + z then [(b, b + len)]
  else [(b, base + z), (base, b + len - z)]

/-- A window of an address space: first, past the last, and the address that its first stands for. -/
abbrev Win := Nat × Nat × Nat

/-- The part of a span that lies in a window, as that window moves it. -/
def Win.cut (w : Win) (p : Nat × Nat) : Option (Nat × Nat) :=
  let x : Nat := max w.1 p.1
  let y : Nat := min w.2.1 p.2
  if x < y then some (w.2.2 + (x - w.1), w.2.2 + (y - w.1)) else none

/-- Spans through a list of windows. -/
def cutAll (ws : List Win) (l : List (Nat × Nat)) : List (Nat × Nat) := l.flatMap (fun p => ws.filterMap (fun w => w.cut p))

/-- The windows of Table 1-7 of engine `n`, to the bytes of memory behind them. -/
def nearWins (n : Nat) : List Win :=
  [(0, 0x80000, tilePa n 0), (0x80000, 0x100000, tilePa n 0), (0x100000, 0x180000, tilePa n 0)]
    ++ (List.range 8).map (fun i => (0x1000000 + i * 0x80000, 0x1080000 + i * 0x80000, tilePa (n / 8 * 8 + i) 0))
    ++ [(0x2000000, if n < 32 then 0x2600000 else 0x2800000, sqPa (n / 32) 0)]

/-- Physical addresses to the bytes of memory behind them: an alias is its tile. -/
def physWins : List Win :=
  [(0, tileSetBase, 0), (tileSetBase, tileClrBase, tileBase), (tileClrBase, tileClrBase + 0x4000000, tileBase)]

/-- The translations that a channel may meet: its slots of the Tram TLB, and its tenancy's record tables (R295). -/
def virtWins (t : Sparse TlbEnt) (ten : BitVec 4) : List Win :=
  t.filterMap (fun p =>
    let z : Nat := 2 ^ szLog p.2.sz
    let v : Nat := p.2.vpn.toNat * 4096 / z * z
    if p.2.v && p.2.ten == ten then some (v, v + z, p.2.pfn.toNat * 4096 / z * z) else none)
    ++ [(0x400000000000, 0x410000000000, 0)]

/-- The bytes of memory that one side of a descriptor names. -/
def sideSpans (s : State) (k : Nat) (c : Channel) (a : W64) (w len : Nat) : List (Nat × Nat) :=
  let l : List (Nat × Nat) := addrSpans a w len
  if adAs a = 0 then cutAll (nearWins (c.engine k)) l
  else if adAs a = 1 then cutAll physWins (cutAll (virtWins (s.tram (k / 32)).tlb c.cten) l)
  else cutAll physWins l

/-- A source byte and a destination byte of a descriptor are the same byte of memory, so that the blocks of R393
apply. -/
def tramBlocks (s : State) (k : Nat) (c : Channel) (d : Desc) : Bool :=
  let src : List (Nat × Nat) := sideSpans s k c d.src (2 ^ d.sw.toNat) d.len
  let dst : List (Nat × Nat) := sideSpans s k c d.dst (2 ^ d.dw.toNat) d.len
  src.any (fun p => dst.any (fun q => decide (p.1 < q.2) && decide (q.1 < p.2)))

/-- The end of the 256-byte block of stream byte `i`. -/
def blockEnd (i : Nat) : Nat := (i / 256 + 1) * 256

/-- Whether the channel may write the stream byte at its position: with overlapping sides, only once its
whole block has been read (R393). -/
def tramReady (s : State) (k : Nat) (c : Channel) (d : Desc) : Bool :=
  !tramBlocks s k c d || decide (min d.len (blockEnd c.wpos) ≤ c.rpos)

/-- The stream bytes that one write takes now: whole destination elements within one 64-byte line (R383, R392), and
of a paced channel within its burst (R396). -/
def Channel.writeLen (c : Channel) (d : Desc) : Nat :=
  let e : Nat := 2 ^ d.dw.toNat
  let a : Nat := dstAddr d c.wpos
  let m : Nat := if adFix d.dst then 1 else max 1 ((64 - a % 64) / e)
  let lim : Nat := if c.pmode = 0 then c.rpos else min c.rpos c.burst
  min (m * e) ((lim - c.wpos) / e * e)

/-- The burst begun last is over: its bytes are read, and no element of them can be written yet. -/
def tramOver (s : State) (k : Nat) (c : Channel) (d : Desc) : Bool :=
  decide (c.burst ≤ c.rpos) && (c.writeLen d == 0 || !tramReady s k c d)

/-- A burst begins when its condition holds (R396). -/
def tramBurst (s : State) (k : Nat) : State :=
  let c : Channel := s.channel k
  match c.desc with
  | none => s
  | some d =>
    if c.st = .active ∧ c.phase = .move ∧ c.fn = .running ∧ tramOver s k c d ∧ c.burst < d.len
        ∧ ((c.pmode = 1 ∧ c.req) ∨ (c.pmode = 2 ∧ 0 < c.pcred)) then
      s.setChannel k { c with burst := min d.len (c.burst + 2 ^ c.bsz)
                              pcred := if c.pmode = 2 then c.pcred - 1 else c.pcred }
    else s

/-- The channel may move data: its function runs, or drains a burst already begun (R402). -/
def Channel.moves (c : Channel) : Bool :=
  c.st == .active && c.phase == .move && (c.fn == .running || (c.fn == .draining && c.pmode != 0))

/-- The stream position that the channel's next read reaches, when it may read now: whole source elements within one
64-byte line, for which its share has room (R383, R392). -/
def tramSpan (s : State) (k : Nat) : Option Nat :=
  let c : Channel := s.channel k
  match c.desc with
  | none => none
  | some d =>
    let e : Nat := 2 ^ d.sw.toNat
    let a : Nat := srcElem d c.rpos
    let stop0 : Nat := if tramBlocks s k c d then min d.len (blockEnd c.wpos) else d.len
    let m : Nat := if adFix d.src then 1 else max 1 ((64 - a % 64) / e)
    let stop1 : Nat := min ((c.rpos / e + m) * e) stop0
    -- elements are read whole; the last may reach past the burst
    let stop : Nat := if c.pmode = 0 then stop1 else min stop1 ((max c.burst (c.rpos + 1) + e - 1) / e * e)
    if !c.moves || decide (c.limit d ≤ c.rpos) || decide (stop ≤ c.rpos)
        || decide (2048 < c.buf.length + (stop - c.rpos)) then none
    else some stop

/-- The channel has data ready to write. -/
def tramHas (s : State) (k : Nat) : Bool :=
  let c : Channel := s.channel k
  match c.desc with
  | none => false
  | some d => c.moves && c.writeLen d != 0 && tramReady s k c d

/-- CCTL.PRI. -/
def Channel.pri (c : Channel) : Bool := c.cctl.getLsbD 40

/-- The channels of a unit with a priority, round robin from the one after that which an engine served last. -/
def tramOrder (s : State) (q : Nat) (wr pri : Bool) : List Nat :=
  let last : Nat := spGet 31 (s.tram q).served (wr.toNat * 2 + pri.toNat)
  ((List.range 32).map (fun i => q * 32 + (last + 1 + i) % 32)).filter (fun k => (s.channel k).pri == pri)

/-- The channel that the read or the write engine of a unit serves next (R383). -/
def tramNext (s : State) (q : Nat) (wr : Bool) : Option Nat :=
  (tramOrder s q wr true ++ tramOrder s q wr false).find? (fun k => if wr then tramHas s k else (tramSpan s k).isSome)

/-- An engine has served a channel. -/
def tramServes (s : State) (k : Nat) (wr : Bool) : State :=
  let u : Tram := s.tram (k / 32)
  s.setTram (k / 32) { u with served := spPut u.served (wr.toNat * 2 + (s.channel k).pri.toNat) (k % 32) }

/-- One write of the write engine, of the first `n` stream bytes that the channel's share holds. -/
def tramPut (s : State) (k : Nat) (err : Option HwErr) : State :=
  let c : Channel := s.channel k
  match c.desc with
  | none => s
  | some d =>
    let n : Nat := c.writeLen d
    let a : Nat := dstAddr d c.wpos
    if n = 0 then s
    else
      match tramCheck s k c (adAs d.dst) a n true with
      | .error (code, sub) => tramFail s k 1 code sub (adWith d.dst a) false true
      | .ok l =>
        match tramBad s l err with
        | some m => tramFail (tramServed s l) k 1 0x30 0 (adWith d.dst a) false true m
        | none =>
          let s1 : State := (tramNote (tramTouch s k l true) k l err).wrAll l (c.buf.take n)
          let c1 : Channel := { c with buf := c.buf.drop n, unacked := true }
          s1.setChannel k
            ({ c1 with phase := if c1.wpos = d.len then .done else .move }.posRegs)

/-- The bytes before an element that could not be read are written (Table 14-7). -/
def tramFlush (k : Nat) : Nat → State → State
  | 0, s => s
  | n + 1, s => if (s.channel k).st = .active then tramFlush k n (tramPut s k none) else s

/-- The stream bytes from the channel's position to `to_`, from the bytes of a read at the element of that position. -/
def Channel.gather (c : Channel) (d : Desc) (raw : List Byte) (to_ : Nat) : Channel :=
  let e : Nat := 2 ^ d.sw.toNat
  let got : List Byte := (List.range (to_ - c.rpos)).map (fun j =>
    byteAt raw (((c.rpos + j) / e - c.rpos / e) * e + srcByte d (c.rpos + j)))
  { c with rpos := to_, buf := c.buf ++ got }

/-- A read fails at element `j` of those that it combines: what lies before it is written, and the channel fails
(R401, R404). -/
def tramReadFails (s : State) (k : Nat) (c : Channel) (d : Desc) (l : List Nat) (j stop : Nat) (mal : Byte) : State :=
  let e : Nat := 2 ^ d.sw.toNat
  let mid : Nat := min stop (max c.rpos ((c.rpos / e + j) * e))
  let s1 : State := tramFlush k 2048 (s.setChannel k (c.gather d (l.map s.rd) mid))
  if (s1.channel k).st = .active then tramFail s1 k 0 0x30 0 (adWith d.src (srcElem d mid)) false true mal else s1

/-- One read of the read engine, of a channel whose turn it is. -/
def tramRead (s : State) (k : Nat) (err : Option HwErr) : State :=
  let c : Channel := s.channel k
  match c.desc, tramSpan s k with
  | some d, some stop =>
    if tramNext s (k / 32) false ≠ some k then s
    else
      let e : Nat := 2 ^ d.sw.toNat
      let a : Nat := srcElem d c.rpos
      let n : Nat := ((stop + e - 1) / e - c.rpos / e) * e
      let s0 : State := tramServes s k false
      match tramCheck s k c (adAs d.src) a n false with
      | .error (code, sub) => tramFail s0 k 0 code sub (adWith d.src a) false true
      | .ok l =>
        match tramBad s l err with
        | some m =>
          let j : Nat := match l.findSome? s.portDown, err with | none, some (.data i) => i | _, _ => 0
          tramReadFails (tramServed s0 l) k c d l j stop m
        | none =>
          let s1 : State := tramNote (tramTouch s0 k l false) k l err
          s1.setChannel k (c.gather d (l.map s.rd) stop)
  | _, _ => s

/-- One write of the write engine, of a channel whose turn it is. -/
def tramWrite (s : State) (k : Nat) (err : Option HwErr) : State :=
  if tramNext s (k / 32) true = some k then tramPut (tramServes s k true) k err else s

/-- The end of a descriptor, its last write acknowledged (R394); of a channel that DIS took out of service, the
acknowledgement of its writes (R403). -/
def tramComplete (s : State) (k : Nat) (err : Option HwErr) : State :=
  let c0 : Channel := s.channel k
  let c : Channel := { c0 with unacked := false }
  let at_ : W64 := adWith c.ccur (adAddr c.ccur + 30)
  match c.desc with
  | none => if c0.settling then s.setChannel k c else s
  | some d =>
    if ¬ (c.st = .active ∧ c.phase = .done) then s
    else
      match tramMal err with
      | some m => tramFail s k 2 0x30 0 at_ false false m
      | none =>
        match tramDstat s k c 0 with
        | .error (code, sub) =>
          let l : List Nat := match tramCheck s k c (adAs c.ccur) (adAddr at_) 2 true with | .ok l => l | .error _ => []
          tramFail (tramServed s l) k 2 code sub at_ false false ((tramBad s l none).getD 0x11)
        | .ok s1 =>
          let s2 : State := if d.iev then s1.raise (32 + k) else s1
          if d.end_ then s2.setChannel k c.endChain
          else s2.setChannel k { c with ccur := adWith c.ccur (adAddr d.next), phase := .fetch, desc := none
                                        rpos := 0, buf := [], burst := 0 }

/-! ### Records (R395, R387, R396) -/

/-- The destination number of a channel for its trigger, partner and pacing records. -/
def trigDest (k : Nat) : Nat := 136 + k
def partDest (k : Nat) : Nat := 264 + k
def paceDest (k : Nat) : Nat := 392 + k

/-- Whether a record from a source waits for a destination, and the state once it has arrived. -/
def State.arrive (s : State) (dest src : Nat) (errs : Bool) : Option State :=
  if outsideSrc src then some s
  else if s.waiting dest src errs = 0 then none
  else some (s.see dest src)

/-! ### Miss service (R268, R295) -/

/-- The lowest slot with V = 0, else the slot after the one replaced last (R268). -/
def tramSlot (u : Tram) : Nat :=
  match (List.range 64).find? (fun i => !(match spGet? u.tlb i with | some e => e.v | none => false)) with
  | some i => i
  | none => (u.last + 1) % 64

/-- The tenancy root of a tenancy in a square: the address of the top table of its record tables (Table 11-2). -/
def rootPa (q : Nat) (ten : BitVec 4) : Nat := sqPa q (0x10000 + 8 * ten.toNat)

/-- The slot that a translation of the record tables fills. -/
def tlbOfLeaf (e : CcTlbEnt) : TlbEnt :=
  { v := true, ten := e.ten, sz := if e.lg = 12 then 0 else if e.lg = 16 then 1 else if e.lg = 21 then 2 else 3
    vpn := BitVec.ofNat 36 (e.va / 4096), w := e.w, u := e.u, x := e.x, pfn := BitVec.ofNat 36 (e.pa / 4096) }

/-- A control core serves a Tram TLB miss from the record tables of the channel's tenancy, or ends the channel with
UNMAPPED (R268, R400); a channel taken out of service meanwhile is left to its START. -/
def tramServe (s : State) (k : Nat) (walkErr : Bool) : State :=
  let c : Channel := s.channel k
  if ¬ (c.st = .halted ∧ c.tlbHalt) then s
  else
    match walkFrom s.rd8 s walkErr false c.cten (adAddr c.cfault) 4 (s.rd8 (rootPa (k / 32) c.cten)) [] with
    | .fail _ =>
      if c.fn = .running then tramFail s k c.side 0x22 0 c.cfault (c.phase == .fetch) (c.phase == .move) else s
    | .leaf e _ =>
      let u : Tram := s.tram (k / 32)
      let i : Nat := tramSlot u
      let full : Bool := (List.range 64).all (fun i => match spGet? u.tlb i with | some e => e.v | none => false)
      tramResume (s.setTram (k / 32) { u with tlb := spPut u.tlb i (tlbOfLeaf e), last := if full then i else u.last }) k

end Sys2Proof.Machine
end

