-- ==== Sys2Proof/Machine/Regs.lean ====
section
/-! DEFINITION. The registers that control cores, the management port and the test access port reach
(10, 11, 14 to 18): pattern generators, the Kerb, and the register ranges of Table 1-6. -/

namespace Sys2Proof.Machine

/-- The code of a function state (Table 12-2). -/
def fcode : FState → Nat
  | .stopped => 0
  | .running => 1
  | .draining => 2
  | .faulted => 3

/-! ### Pattern generators and checkers (R476, R477, R489, R490) -/

/-- The lanes of a unit that its masks enable. -/
def pgLanes (host : Bool) (p : Patgen) : List Nat :=
  if host then (List.range 16).filter (fun i => p.mask0.getLsbD i)
  else (List.range 128).filter (fun i => if i < 64 then p.mask0.getLsbD i else p.mask1.getLsbD (i - 64))

/-- The seed of a lane: the lane number plus 1 for a memory lane, all ones for a host lane of the
pattern selected. -/
def pgSeed (host : Bool) (p : Patgen) (lane : Nat) : W32 :=
  if host then
    match bits p.pgctl.toNat 0 4 with
    | 0 => 0x7F
    | 1 => 0x1FF
    | 2 => 0x7FFF
    | 3 => 0x7FFFFF
    | _ => 0x7FFFFFFF
  else BitVec.ofNat 32 (lane + 1)

/-- RUN written 1 or 0: starting seeds the enabled lanes, stopping clears every LOCK. -/
def pgRun (host : Bool) (p : Patgen) (on : Bool) : Patgen :=
  let r : Patgen := { p with pgctl := setBit p.pgctl 4 on }
  if on then
    if p.pgctl.getLsbD 4 then r
    else { r with lfsr := (pgLanes host p).map (fun i => (i, pgSeed host p i)) }
  else { r with lpstat := p.lpstat.map (fun x => (x.1, x.2 &&& 0xFFFFFFFF)), lfsr := [], byMgmt := false }

/-- CLR: every ERRCNT and LOCK is zero. -/
def pgClr (p : Patgen) : Patgen := { p with lpstat := [] }

/-- A write to PGCTL under `mask`: values of PAT that the unit does not list are not stored, RUN is
written 1 only while the unit is STOPPED. -/
def pgWrite (host stopped : Bool) (p : Patgen) (mask v : W64) : Patgen :=
  let pat : Nat := bits v.toNat 0 4
  let okPat : Bool := mask.getLsbD 0 && (if host then decide (pat ≤ 5) else pat == 8 || pat == 9)
  let p1 : Patgen := if okPat then { p with pgctl := setField p.pgctl 0 4 pat } else p
  let p2 : Patgen :=
    if host && mask.getLsbD 6 then { p1 with pgctl := setBit p1.pgctl 6 (v.getLsbD 6) } else p1
  let p3 : Patgen :=
    if mask.getLsbD 4 then
      if v.getLsbD 4 then if stopped then pgRun host p2 true else p2 else pgRun host p2 false
    else p2
  if v.getLsbD 5 then pgClr p3 else p3

/-- The length and the second tap of the generator that PAT selects: x^n + x^m + 1 (R477, Table 18-9). -/
def pgPoly (host : Bool) (pat : Nat) : Option (Nat × Nat) :=
  match host, pat with
  | false, 8 => some (31, 28)
  | true, 0 => some (7, 6)
  | true, 1 => some (9, 5)
  | true, 2 => some (15, 14)
  | true, 3 => some (23, 18)
  | true, 4 => some (31, 28)
  | _, _ => none

/-- One unit interval of a Fibonacci register of `n` bits: stage `n` is sent and the sum of stages `n` and `m` enters
stage 1 (the direction: DEDUCED, log 117). -/
def lfsrStep (n m : Nat) (r : W32) : W32 :=
  BitVec.ofNat 32 ((r.toNat * 2 + (r.getLsbD (n - 1) ^^ r.getLsbD (m - 1)).toNat) % 2 ^ n)

/-- The register after `k` unit intervals. -/
def lfsrRun (n m : Nat) : Nat → W32 → W32
  | 0, r => r
  | k + 1, r => lfsrRun n m k (lfsrStep n m r)

/-- The next `k` bits that a register sends, the first at bit `i` of the sum. -/
def lfsrBits (n m : Nat) : Nat → Nat → W32 → Nat
  | 0, _, _ => 0
  | k + 1, i, r => (r.getLsbD (n - 1)).toNat * 2 ^ i + lfsrBits n m k (i + 1) (lfsrStep n m r)

/-- The 64 bits that a running lane sends from unit interval `at_` on, the first at bit 0: the generator from its seed,
or the user pattern, whose bit 0 goes first and which repeats every 40 bits (R477, R490). -/
def pgSent (host : Bool) (p : Patgen) (lane at_ : Nat) : Option W64 :=
  let pat : Nat := bits p.pgctl.toNat 0 4
  match pgPoly host pat with
  | some (n, m) => some (BitVec.ofNat 64 (lfsrBits n m 64 0 (lfsrRun n m at_ (spGet 0 p.lfsr lane))))
  | none =>
    if pat = (if host then 5 else 9) then
      some (BitVec.ofNat 64 ((List.range 64).foldl (fun a i => a + (p.user.getLsbD ((at_ + i) % 40)).toNat * 2 ^ i) 0))
    else none

/-- LOCK of a lane's checker. -/
def pgLocked (p : Patgen) (lane : Nat) : Bool := (spGet (0 : W64) p.lpstat lane).getLsbD 32

/-- The checker of a lane sets LOCK and counts errors, held at 0xFFFFFFFF (R477, Table 17-10). -/
def pgLock (host : Bool) (p : Patgen) (lane : Nat) (errors : W32) : Patgen :=
  if p.pgctl.getLsbD 4 && (pgLanes host p).contains lane then
    let n : Nat := min (bits (spGet (0 : W64) p.lpstat lane).toNat 0 32 + errors.toNat) 0xFFFFFFFF
    { p with lpstat := spPut p.lpstat lane (BitVec.ofNat 64 (n + 2 ^ 32)) }
  else p

/-- A register of the pattern block at an offset within a port's range; LPSTAT of `n` lanes. -/
def pgRead (p : Patgen) (n off : Nat) : W64 :=
  if off = 0x200 then p.pgctl
  else if off = 0x208 then p.user
  else if off = 0x210 then p.mask0
  else if off = 0x218 then if n = 128 then p.mask1 else 0
  else if 0x1000 ≤ off ∧ off < 0x1000 + n * 0x10 ∧ off % 16 = 0 then spGet 0 p.lpstat ((off - 0x1000) / 16)
  else 0

/-- A write to the pattern block. -/
def pgPut (host stopped : Bool) (p : Patgen) (off : Nat) (mask v : W64) : Patgen :=
  if off = 0x200 then pgWrite host stopped p mask v
  else if off = 0x208 then { p with user := blend p.user (mask &&& 0xFFFFFFFFFF) v }
  else if off = 0x210 then { p with mask0 := blend p.mask0 (if host then mask &&& 0xFFFF else mask) v }
  else if off = 0x218 then if host then p else { p with mask1 := blend p.mask1 mask v }
  else p

/-! ### The Kerb (R452 to R455) -/

/-- KSTAT (Table 16-15). -/
def State.kstat (s : State) : Nat :=
  let k : Kerb := s.kerb
  k.lock.toNat + k.empty.toNat * 2 + s.fuses.lc.toNat * 4 + k.sealed_.toNat * 16 + k.keyok.toNat * 32
    + k.wipes.toNat * 65536

/-- A wipe (R454): sealing key, store and sealed image. -/
def kerbWipe (s : State) : State :=
  { s with mem := spClear s.mem (sqPa 0 kerbOff) 0x200000
           kerb := { s.kerb with empty := true, keyok := false, image := none
                                 wipes := if s.kerb.wipes = 0xFFFF then 0xFFFF else s.kerb.wipes + 1 } }

/-- The bytes of the Kerb store that are not zero, at their store offsets. -/
def kerbStore (s : State) : List Host.Cell :=
  (s.mem.filter (fun c => decide (sqPa 0 kerbOff ≤ c.1) && decide (c.1 < sqPa 0 kerbOff + 0x200000))).map
    (fun c => (c.1 - sqPa 0 kerbOff, c.2))

/-- KCTL.SEAL (R453): ignored unless PROVISIONED or SERVICE; the first SEAL makes the sealing key. -/
def kerbSeal (s : State) : State :=
  if s.fuses.lc = 1 ∨ s.fuses.lc = 2 then
    { s with kerb := { s.kerb with keyok := true, image := some (kerbStore s) } }
  else s

/-- KCTL.LOCK (Table 16-15). -/
def kerbLock (s : State) : State := { s with kerb := { s.kerb with lock := true, forced := true } }

/-! ### Letterbox and event window (R301, R232, R233) -/

/-- The contents of a Letterbox slot: an empty one reads as zeros. -/
def Letterbox.slot (l : Letterbox) (i : Nat) : List Byte :=
  (l.slots[(i + 16 - l.head.val) % 16]?).getD (zeros 64)

/-- The head slot is freed. -/
def Letterbox.free (l : Letterbox) : Letterbox :=
  match l.slots with
  | [] => l
  | _ :: r => { l with head := l.head + 1, slots := r }

/-- Whether an access touches bytes 0x30 to 0x3F of the full head slot (R301). -/
def Letterbox.frees (l : Letterbox) (ls : List Loc) : Bool :=
  l.slots != [] && ls.any (fun x => match x with
    | .lbox o => o / 64 == l.head.val && decide (0x30 ≤ o % 64)
    | _ => false)

/-- TRDY: bit t is 1 when a pending, unmasked slot is bound to task t (R233). -/
def Core.trdy (k : Core) : W64 :=
  BitVec.ofNat 64 ((List.range 32).foldl (fun a i =>
    if k.evpend.getLsbD i && k.evmask.getLsbD i then a ||| 2 ^ (spGet (0 : BitVec 6) k.evtask i).toNat
    else a) 0)

/-- The lowest slot that may be taken now (R233). -/
def Core.takeable (k : Core) : Option Nat :=
  if k.inShadow || !pswBit k.bank.psw 10 then none
  else (List.range 32).find? (fun i => k.evpend.getLsbD i && k.evmask.getLsbD i
    && spGet (0 : BitVec 6) k.evtask i == k.task)

/-- TMRCNT_m.COUNT (R523): the management cycles since the count was 0, below PERIOD while the group counts
(a free value: the model has no clock, log 41); 0 while it does not. -/
def State.timerCount (s : State) (draw q m : Nat) : Nat :=
  let t : Timer := spGet Timer.reset (s.square q).timers m
  if (s.square q).group = .running ∧ t.period ≠ 0 then Config.timerNow s.free draw (q * 8 + m) % t.period.toNat
  else t.count.toNat

/-- An 8-byte register of the event window (Table 8-11). -/
def evWord (s : State) (c : CoreId) (off : Nat) : Nat :=
  let k : Core := s.core c
  if off = 0 then k.evpend.toNat
  else if off = 8 then k.evmask.toNat
  else if 0x100 ≤ off ∧ off < 0x200 then
    let r : Route := spGet ⟨0, false⟩ k.evroute ((off - 0x100) / 8)
    r.src.toNat + r.v.toNat * 2 ^ 15
  else if 0x200 ≤ off ∧ off < 0x300 then (spGet (0 : BitVec 6) k.evtask ((off - 0x200) / 8)).toNat
  else if 0x800 ≤ off ∧ off < 0x840 then
    s.timerCount k.free (coreSquare c) ((off - 0x800) / 8)
  else 0

/-- A byte of the event window. -/
def evByte (s : State) (c : CoreId) (off : Nat) : Byte :=
  BitVec.ofNat 8 (evWord s c (off / 8 * 8) / 2 ^ (8 * (7 - off % 8)))

/-- A byte stored to the event window: EVPEND is W1C, EVMASK and EVTASK are RW. -/
def Core.evStore (k : Core) (off : Nat) (b : Byte) : Core :=
  let sh : Nat := 8 * (7 - off % 8)
  if off < 8 then { k with evpend := k.evpend &&& ~~~ (BitVec.ofNat 32 (b.toNat * 2 ^ sh)) }
  else if off < 16 then
    { k with evmask := blend k.evmask (BitVec.ofNat 32 (0xFF * 2 ^ sh)) (BitVec.ofNat 32 (b.toNat * 2 ^ sh)) }
  else if 0x200 ≤ off ∧ off < 0x300 ∧ off % 8 = 7 then
    { k with evtask := spPut k.evtask ((off - 0x200) / 8) (b.truncate 6) }
  else k

/-- The event source of a core's SIGOUT (Table 8-10). -/
def sigSource : CoreId → Nat
  | .eng n => 160 + n.val
  | .cc c => 288 + c.val

/-- Whether the hold of WAIT is over (R234): a full Letterbox slot, a takeable event, or with IE = 0 a
pending slot of the running task. -/
def Core.waitOver (k : Core) : Bool :=
  k.lbox.slots != [] || k.takeable.isSome ||
    (!pswBit k.bank.psw 10 && (List.range 32).any (fun i => k.evpend.getLsbD i && k.evmask.getLsbD i
      && spGet (0 : BitVec 6) k.evtask i == k.task))

/-- A hold of a core ends after a time that the spec does not fix. -/
def Core.holdEnd (k : Core) : Core :=
  { k with hold := none, now := k.now + Config.holdTime k.free, free := k.free + 1 }

/-- The hold of WAIT ends when what it waits for has come (R234). -/
def Core.wake (k : Core) : Core := if k.hold = some .wait ∧ k.waitOver then k.holdEnd else k

/-- Bytes stored to the event window of a core: its registers, and a record from its source when a byte of
SIGOUT is among them (R232). -/
def State.evWrite (s : State) (c : CoreId) (l : List (Nat × Byte)) : State :=
  if l = [] then s
  else
    let k : Core := l.foldl (fun k p => k.evStore p.1 p.2) (s.core c)
    let t : State := s.setCore c k.wake
    if l.any (fun p => decide (0x10 ≤ p.1 ∧ p.1 < 0x18)) then t.raise (sigSource c) else t

/-- The event window of a control core in the control-core register range: core `c` has Table 8-11 at
0x0103_0800_0000 + c * 0x1000 (R235 gives no offsets: DESIGN CHOICE, log 99). -/
def ccWindow (o : Nat) : Option (CoreId × Nat) :=
  if 0x8000000 ≤ o ∧ o < 0x8008000 then
    some (.cc (Fin.ofNat 8 ((o - 0x8000000) / 0x1000)), (o - 0x8000000) % 0x1000)
  else none

/-! ### Register words -/

/-- MPSTAT (Table 17-7). -/
def MemPort.mpstat (p : MemPort) : Nat :=
  fcode p.st + p.dimms * 4 + p.ranks * 16 + p.rate.toNat * 65536 + p.fail.toNat * 2 ^ 32

/-- CALSTAT (Table 17-8). -/
def Calib.calstat (c : Calib) : Nat :=
  c.lane.toNat + c.detour.toNat * 128 + c.spared.toNat * 256 + c.dfail.toNat * 2 ^ 15
    + min c.passes 0xFFFF * 65536 + c.tlast.toNat * 2 ^ 32

/-- HPSTAT (Table 18-8). -/
def HostPort.hpstat (h : HostPort) : Nat :=
  fcode h.st + h.nwidth.toNat * 4 + h.nrate.toNat * 128 + h.rev.toNat * 1024 + h.pol.toNat * 65536
    + h.fail.toNat * 2 ^ 32

/-- BOOTSTAT (Table 16-3). -/
def State.bootstat (s : State) : Nat :=
  let b : Boot := s.boot
  b.stage.toNat + (if b.stage = 0xF then b.fail.toNat else 0) * 256 + b.slotB.toNat * 65536
    + b.defcfg.toNat * 2 ^ 17 + s.fuses.lc.toNat * 2 ^ 18 + b.portok.toNat * 2 ^ 20 + b.sqok.toNat * 2 ^ 28

/-- LBSTAT (Table 11-6). -/
def Letterbox.lbstat (l : Letterbox) : Nat :=
  l.head.val + l.slots.length * 16 + (l.head.val + l.slots.length) % 16 * 65536

/-- A word of a slot of an error bank. -/
def bankWord (s : State) (b i w : Nat) : Nat :=
  match spGet? s.banks (b * 16 + i) with
  | none => 0
  | some x => ((recWords x.r x.ovf x.count.toNat)[w]?).getD 0

/-- A register of a memory port at an offset of its range (Table 17-6). -/
def mpRead (s : State) (p off : Nat) : Nat :=
  let m : MemPort := s.memPort p
  if off = 0 then m.mpstat
  else if off = 8 then m.size
  else if off = 0x10 then m.temp0.toNat + m.temp1.toNat * 256
  else if off = 0x100 then (m.cal.get 0).calstat
  else if off = 0x140 then (m.cal.get 1).calstat
  else if 0xF0000 ≤ off ∧ off < 0xF0080 then bankWord s (5 + p) ((off - 0xF0000) / 32) (off % 32 / 8)
  else (pgRead m.pg 128 off).toNat

/-- A register of a host port (Table 18-7). -/
def hpRead (s : State) (h off : Nat) : Nat :=
  let x : HostPort := s.hostPort h
  if off = 0 then x.hpstat
  else if 0xF0000 ≤ off ∧ off < 0xF0080 then bankWord s (13 + h) ((off - 0xF0000) / 32) (off % 32 / 8)
  else (pgRead x.pg 16 off).toNat

/-- A register of a square's range. -/
def sqRead (s : State) (q off : Nat) : Nat :=
  if 0x100000 ≤ off ∧ off < 0x100800 then
    let c : Channel := s.channel (q * 32 + (off - 0x100000) / 0x40)
    match off % 0x40 / 8 with
    | 0 => c.cctl.toNat
    | 1 => c.cda.toNat
    | 2 => c.ccur.toNat
    | 3 => c.cstat
    | 4 => c.csrc.toNat
    | 5 => c.cdst.toNat
    | 6 => c.crem.toNat
    | _ => c.cfault.toNat
  else if 0x101000 ≤ off ∧ off < 0x101400 then
    let r : Nat × Nat := tlbImage (spGet TlbEnt.empty (s.tram q).tlb ((off - 0x101000) / 16))
    let e : Nat × Nat := tlbImage (tlbOfImage (BitVec.ofNat 64 r.1) (BitVec.ofNat 64 r.2))
    if off % 16 = 0 then e.1 else e.2
  else if off = 0x102000 then
    (List.range 32).foldl (fun a j => a + (s.channel (q * 32 + j)).tustat.toNat * 2 ^ j) 0
  else if 0x200000 ≤ off ∧ off < 0x200100 then
    (s.core (.eng (Fin.ofNat 128 (q * 32 + (off - 0x200000) / 8)))).lbox.lbstat
  else if 0x500000 ≤ off ∧ off < 0x500200 then bankWord s q ((off - 0x500000) / 32) (off % 32 / 8)
  else 0

/-- An aligned 8-byte register at its physical address; reserved addresses read zero. -/
def regRead (s : State) (pa : Nat) : Nat :=
  let o : Nat := pa - regBase
  if o < 0x4000000 then sqRead s (o / 0x1000000) (o % 0x1000000)
  else if o = 0x4000100 then s.kabase.toNat
  else if o = 0x4000108 then s.dirbase.toNat
  else if 0x40F0000 ≤ o ∧ o < 0x40F0080 then bankWord s 4 ((o - 0x40F0000) / 32) (o % 32 / 8)
  else if 0x5000000 ≤ o ∧ o < 0x5800000 then mpRead s ((o - 0x5000000) / 0x100000) (o % 0x100000)
  else if 0x6000000 ≤ o ∧ o < 0x8000000 then hpRead s ((o - 0x6000000) / 0x1000000) (o % 0x1000000)
  else if 0x8000000 ≤ o ∧ o < 0x8008000 then
    match ccWindow o with
    | some (c, off) => evWord s c (off / 8 * 8)
    | none => 0
  else if o = 0x9000000 then s.kstat
  else if o = 0x9000010 then s.kerb.tampstat.toNat
  else if o = 0x9000018 then s.kerb.tampen.toNat
  else if 0x90F0000 ≤ o ∧ o < 0x90F0080 then bankWord s 15 ((o - 0x90F0000) / 32) (o % 32 / 8)
  else 0

/-- A byte of a register range: the key stores are byte registers, the rest 8-byte big-endian
registers. -/
def regByte (s : State) (pa : Nat) : Byte :=
  let o : Nat := pa - regBase
  let q : Nat := o / 0x1000000
  let f : Nat := o % 0x1000000
  if o < 0x4000000 ∧ 0x300000 ≤ f ∧ f < 0x300800 then spGet 0 s.sqKeys (q * 2048 + (f - 0x300000))
  else if o < 0x4000000 ∧ 0x400000 ≤ f ∧ f < 0x401000 then
    spGet 0 s.tileKeys (q * 32 * 128 + (f - 0x400000))
  else BitVec.ofNat 8 (regRead s (pa / 8 * 8) / 2 ^ (8 * (7 - pa % 8)))

/-- V of a slot of an error bank, W1C (Table 15-5). -/
def bankClear (s : State) (b i : Nat) (v : W64) : State :=
  if v.getLsbD 63 then { s with banks := spDel s.banks (b * 16 + i) } else s

/-- A write to a memory port's registers. -/
def mpWrite (s : State) (p off : Nat) (mask v : W64) : State :=
  let m : MemPort := s.memPort p
  if 0xF0000 ≤ off ∧ off < 0xF0080 then
    if off % 32 = 0 then bankClear s (5 + p) ((off - 0xF0000) / 32) (v &&& mask) else s
  else s.setMemPort p { m with pg := pgPut false (m.st == .stopped) m.pg off mask (v &&& mask) }

/-- A write to a host port's registers. -/
def hpWrite (s : State) (h off : Nat) (mask v : W64) : State :=
  let x : HostPort := s.hostPort h
  if 0xF0000 ≤ off ∧ off < 0xF0080 then
    if off % 32 = 0 then bankClear s (13 + h) ((off - 0xF0000) / 32) (v &&& mask) else s
  else s.setHostPort h { x with pg := pgPut true (x.st == .stopped) x.pg off mask (v &&& mask) }

/-- A write to a square's registers. -/
def sqWrite (s : State) (q off : Nat) (mask v : W64) : State :=
  if 0x100000 ≤ off ∧ off < 0x100800 then
    let k : Nat := q * 32 + (off - 0x100000) / 0x40
    let c : Channel := s.channel k
    match off % 0x40 / 8 with
    | 0 => tramCctl s k (blend c.cctl mask v)
    | 1 => tramCda s k (blend c.cda mask v)
    | 3 =>
      s.setChannel k { c with tovf := c.tovf && !(v &&& mask).getLsbD 32
                              povf := c.povf && !(v &&& mask).getLsbD 48 }
    | _ => s
  else if 0x101000 ≤ off ∧ off < 0x101400 then
    let u : Tram := s.tram q
    let i : Nat := (off - 0x101000) / 16
    let e : Nat × Nat := tlbImage (spGet TlbEnt.empty u.tlb i)
    let w0 : W64 := BitVec.ofNat 64 e.1
    let w1 : W64 := BitVec.ofNat 64 e.2
    let n : TlbEnt :=
      if off % 16 = 0 then tlbRaw (blend w0 mask v) w1 else tlbRaw w0 (blend w1 mask v)
    s.setTram q { u with tlb := spPut u.tlb i n }
  else if 0x500000 ≤ off ∧ off < 0x500200 then
    if off % 32 = 0 then bankClear s q ((off - 0x500000) / 32) (v &&& mask) else s
  else s

/-- A write to an aligned 8-byte register at its physical address: the bits of `mask` are written
(R13). KABASE and DIRBASE keep their reserved bits zero; the firmware changes them only while every
function is STOPPED. -/
def regWrite (s : State) (pa : Nat) (mask v : W64) : State :=
  let o : Nat := pa - regBase
  if o < 0x4000000 then sqWrite s (o / 0x1000000) (o % 0x1000000) mask v
  else if o = 0x4000100 then { s with kabase := blend s.kabase (mask &&& 0x0000FFFFFFF00000) v }
  else if o = 0x4000108 then
    let v' : W64 := blend s.dirbase (mask &&& 0x0000FFFF80000000) v
    { s with dirbase := v' }.rebase v'.toNat
  else if 0x40F0000 ≤ o ∧ o < 0x40F0080 then
    if o % 32 = 0 then bankClear s 4 ((o - 0x40F0000) / 32) (v &&& mask) else s
  else if 0x5000000 ≤ o ∧ o < 0x5800000 then
    mpWrite s ((o - 0x5000000) / 0x100000) (o % 0x100000) mask v
  else if 0x6000000 ≤ o ∧ o < 0x8000000 then
    hpWrite s ((o - 0x6000000) / 0x1000000) (o % 0x1000000) mask v
  else if 0x8000000 ≤ o ∧ o < 0x8008000 then
    match ccWindow o with
    | some (c, off) =>
      s.evWrite c (((List.range 8).filter (fun i => mask.getLsbD (8 * (7 - i)))).map (fun i =>
        (off / 8 * 8 + i, BitVec.ofNat 8 (bits v.toNat (8 * (7 - i)) 8))))
    | none => s
  else if o = 0x9000008 then
    let w : W64 := v &&& mask
    let s1 : State := if w.getLsbD 1 && !w.getLsbD 0 then kerbSeal s else s
    let s2 : State := if w.getLsbD 0 then kerbWipe s1 else s1
    if w.getLsbD 2 then kerbLock s2 else s2
  else if 0x90F0000 ≤ o ∧ o < 0x90F0080 then
    if o % 32 = 0 then bankClear s 15 ((o - 0x90F0000) / 32) (v &&& mask) else s
  else s

/-- Whether an address is a byte of the key stores, and the key written there (R285). -/
def regKeyByte (s : State) (pa : Nat) (b : Byte) : Option State :=
  let o : Nat := pa - regBase
  let q : Nat := o / 0x1000000
  let f : Nat := o % 0x1000000
  if o < 0x4000000 ∧ 0x300000 ≤ f ∧ f < 0x300800 then
    some { s with sqKeys := spPut s.sqKeys (q * 2048 + (f - 0x300000)) b }
  else if o < 0x4000000 ∧ 0x400000 ≤ f ∧ f < 0x401000 then
    some { s with tileKeys := spPut s.tileKeys (q * 4096 + (f - 0x400000)) b }
  else none

/-- Bytes stored to a register range, gathered into its 8-byte registers: `word` is the register
address being gathered, with the mask and value so far. -/
def regBytesGo (word : Nat) (mask v : W64) : State → List Nat → List Byte → State
  | s, a :: as_, b :: bs =>
    match regKeyByte s a b with
    | some t => regBytesGo word mask v t as_ bs
    | none =>
      let sh : Nat := 8 * (7 - a % 8)
      let m1 : W64 := BitVec.ofNat 64 (0xFF * 2 ^ sh)
      let v1 : W64 := BitVec.ofNat 64 (b.toNat * 2 ^ sh)
      if a / 8 * 8 = word then regBytesGo word (mask ||| m1) (v ||| v1) s as_ bs
      else
        regBytesGo (a / 8 * 8) m1 v1 (if mask = 0 then s else regWrite s word mask v) as_ bs
  | s, _, _ => if mask = 0 then s else regWrite s word mask v

/-- A store by a control core at physical addresses: register bytes to their registers, Kerb bytes
only while the Kerb is unlocked and in supervisor state (R451), the rest to memory. -/
def State.ccStore (s : State) (sup : Bool) (pas : List Nat) (bs : List Byte) : State :=
  let l : List (Nat × Byte) := pas.zip bs
  let isReg (p : Nat × Byte) : Bool := pKind p.1 == .reg
  let s1 : State := (l.filter (fun p => !isReg p)).foldl (fun t p =>
    match pKind p.1 with
    | .kerb _ => if t.kerb.lock || !sup then t else t.wr p.1 p.2
    | _ => t.wr p.1 p.2) s
  let r : List (Nat × Byte) := l.filter isReg
  regBytesGo 0 0 0 s1 (r.map (fun p => p.1)) (r.map (fun p => p.2))

/-- A byte that a control core loads from a physical address: a locked Kerb reads zero (R451). -/
def State.ccByte (s : State) (sup : Bool) (pa : Nat) : Byte :=
  match pKind pa with
  | .reg => regByte s pa
  | .kerb _ => if s.kerb.lock || !sup then 0 else s.rd pa
  | _ => s.rd pa

end Sys2Proof.Machine
end

