-- ==== Sys2Proof/Machine/Operands.lean ====
section
/-! DEFINITION. Operands of instructions: addressing modes and lengths (03), the operand checks 7 to 9
of Table 3-14, loads against the store buffer and stores (02, 07), the Letterbox and the event window
as an engine reaches them (08, 11). -/

namespace Sys2Proof.Machine

/-- A core at work: the device, which core, the core itself, the penalty cycles so far, and the cycles in which
it has used the tile port at ranks 2 and 3 (Table 2-7). -/
structure Work where
  s : State
  c : CoreId
  k : Core
  pen : Nat
  port : Nat := 0
  /-- the penalty cycles in which it does not use the port: the cycle that Table 2-9 adds to the drains (R194) -/
  gaps : Nat := 0
  /-- the cycles of the instruction's own count, at the end of which its stores are in the store buffer (R80) -/
  count : Nat := 0

/-- The state with the core put back. -/
def Work.put (w : Work) : State := w.s.setCore w.c w.k

/-- The engine number of a core (0 for a control core, which has no near windows). -/
def engNo : CoreId → Nat
  | .eng n => n.val
  | .cc _ => 0

/-! ### Machine checks (R415, R416) -/

/-- The unit type and number of a core in an error record. -/
def coreUnit : CoreId → Nat × Nat
  | .eng n => (0, n.val)
  | .cc c => (1, c.val)

/-- A machine check of a core: class, severity, HOP, CODE, the kind and value of the address that the
failing check saw, FADDR, and SYND (R416). -/
def mkMc (c : CoreId) (k : Core) (cls sev : BitVec 2) (hop : BitVec 4) (code : Byte) (asp : BitVec 2)
    (addr : Nat) (faddr : Nat) (synd : W64) (pc : W32) : Exn :=
  -- the code and data of a control core: device fatal (Table 15-4)
  let own : Bool := isCc c && (code == 0x03 || (code == 0x11 && (hop == 5 || hop == 9)))
  let sev : BitVec 2 := if own then sevDevice else sev
  { vec := 1, cls := cls, sub := code, faddr := BitVec.ofNat 64 faddr
    finfo := BitVec.ofNat 32 (hop.toNat + sev.toNat * 16)
    mc := some { sev := sev, hop := hop, code := code, utype := BitVec.ofNat 8 (coreUnit c).1
                 uidx := BitVec.ofNat 8 (coreUnit c).2, asp := asp, addr := BitVec.ofNat 48 addr
                 synd := synd, ten := k.tten, task := k.task, pc := pc } }

/-- A fault without a machine-check record. -/
def mkFault (vec : BitVec 6) (sub : Byte) (faddr finfo : Nat) : Exn :=
  { vec := vec, cls := 0, sub := sub, faddr := BitVec.ofNat 64 faddr, finfo := BitVec.ofNat 32 finfo
    mc := none }

/-! ### Addressing (R97, R100, R104) -/

/-- D, sign-extended in format M (R97). -/
def mDisp (m : MOp) : W32 := if m.long then m.d else (m.d.truncate 16 : W16).signExtend 32

/-- The effective address of formats M and L (Table 3-4). -/
def mEa (m : MOp) (b : Bank) : W32 :=
  match m.am.toNat with
  | 1 => if m.long then m.d else (m.d.truncate 16 : W16).zeroExtend 32
  | 2 => b.ix + mDisp m
  | 3 => b.iy + mDisp m
  | 4 => b.ix + b.iy + mDisp m
  | 5 => b.pc + mDisp m
  | _ => mDisp m

/-- Immediate mode. -/
def mImm (m : MOp) : Bool := m.am == 0

/-- The operand length in bytes. -/
def mLen (m : MOp) : Nat := m.len.toNat + 1

/-- The length classes of Table 3-5. -/
inductive LenCls where
  | q
  | d
  | d16
  | b
  | x
  | i
  | z
  | any
deriving DecidableEq, Repr

/-- Whether LEN belongs to a class, in native or compatibility mode (Tables 3-5 and 3-15). -/
def lenOk (cm : Bool) (c : LenCls) (len : Nat) : Bool :=
  match c with
  | .q => len == 0 || len == 1 || len == 3 || len == 7
  | .d => decide (len < if cm then 16 else 32)
  | .d16 => decide (len < 16)
  | .b => len == 7
  | .x => len == 15
  | .i => len == 3
  | .z => len == 0
  | .any => decide (len < 32)

/-- Check 4 of formats M and L: AM, and LEN in immediate mode or in its class (R98, R99, R114). -/
def mOk (cm : Bool) (c : LenCls) (immOk : Bool) (m : MOp) : Bool :=
  decide (m.am.toNat < 6) && (if mImm m then immOk && m.len == 0 else lenOk cm c m.len.toNat)
    && (m.long || decide (m.d.toNat < 65536))

/-- The operand addresses of an SS instruction (R100). -/
def ssEa1 (o : SOp) (b : Bank) : W32 := b.ix + o.d1.signExtend 32
def ssEa2 (o : SOp) (b : Bank) : W32 := b.iy + o.d2.signExtend 32
def ssN1 (o : SOp) : Nat := o.l1.toNat + 1
def ssN2 (o : SOp) : Nat := o.l2.toNat + 1

/-! ### Operand accesses and checks 7 to 9 -/

/-- One operand access: its address and length, far or near, whether it is read and written, the
alignment that its instruction asks. -/
structure Req where
  ea : Nat
  n : Nat
  far : Bool
  read : Bool
  write : Bool
  align : Nat
  /-- a virtual address that does not come from FSEG and an EA (R235) -/
  abs : Option Nat := none
deriving DecidableEq, Repr

/-- Whether an access is made at a virtual address: a far form, or any access of a control core
(R104, R259). -/
def Req.virt (r : Req) (c : CoreId) : Bool := r.far || isCc c

/-- The virtual address of a far access (R104, R259). -/
def Req.va (r : Req) (c : CoreId) (k : Core) : Nat :=
  if r.abs.isSome then r.abs.getD 0
  else if isCc c then ccVa k k.bank.fseg r.ea else k.bank.fseg.toNat * 2 ^ 32 + r.ea

/-- The address of byte `i` as the instruction formed it: near EA or virtual address. An operand wraps modulo 2^32
within its segment (R50, R181). -/
def Req.byteAddr (r : Req) (c : CoreId) (k : Core) (i : Nat) : Nat :=
  if r.abs.isSome then r.abs.getD 0 + i
  else if r.virt c then { r with ea := (r.ea + i) % 2 ^ 32 }.va c k
  else (r.ea + i) % 2 ^ 32

/-- The address as the instruction formed it. -/
def Req.addr (r : Req) (c : CoreId) (k : Core) : Nat := if r.virt c then r.va c k else r.ea

/-- FINFO bit 8: write. -/
def Req.wbit (r : Req) : Nat := if r.write then 256 else 0

/-- Check 7: alignment, and every byte in the window of the first (R43, R91). -/
def chk7 (c : CoreId) (k : Core) (r : Req) : Option Exn :=
  if r.align ≠ 0 ∧ r.addr c k % r.align ≠ 0 then some (mkFault 6 0 (r.addr c k) r.wbit)
  else if r.virt c then none
  else
    match (nearAddrs r.ea r.n).find? (fun a => nearWin (engNo c) a != nearWin (engNo c) r.ea) with
    | some a => some (mkFault 6 0 a r.wbit)
    | none => none

/-- The engine's physical window (R258). -/
def physWin (k : Core) : Bool := k.sup && k.tctl.getLsbD 0 && k.bank.fseg.getLsbD 15

/-- An engine's far access to bytes at virtual addresses: where they lie, or the fault of check 8. -/
def engXlate (k : Core) (write : Bool) : List Nat → Except Exn (List Loc)
  | [] => .ok []
  | va :: r =>
    let wb : Nat := if write then 256 else 0
    match tlbFind k.tlb k.tten va with
    | none => .error (mkFault 5 0x01 va wb)
    | some e =>
      match permFail e.w e.u e.x (!k.sup) write false with
      | some sub => .error (mkFault 5 sub va wb)
      | none =>
        match engXlate k write r with
        | .error x => .error x
        | .ok l => .ok (.phys (tlbPa e va) :: l)

/-- A control core's access to bytes at virtual addresses, with what the walker installs. -/
def ccXlateL (s : State) (c : CoreId) (write fetch err : Bool) : Core → List Nat → Core × Except Exn (List Loc)
  | k, [] => (k, .ok [])
  | k, va :: r =>
    match ccXlate k s va (!k.sup) write fetch err with
    | (k1, .error (.fault sub)) => (k1, .error (mkFault 5 sub va (if write then 256 else 0)))
    | (k1, .error (.bad pa)) =>
      (k1, .error (mkMc c k1 0 sevContained 0xA 0x11 0 pa va (s.synd 0xA) k.bank.pc))
    | (k1, .ok pa) =>
      match ccXlateL s c write fetch err k1 r with
      | (k2, .error x) => (k2, .error x)
      | (k2, .ok l) => (k2, .ok (.phys pa :: l))

/-- Check 8: where the bytes of an operand lie, with the core after its walks. -/
def chk8 (s : State) (c : CoreId) (err : Option HwErr) (k : Core) (r : Req) : Core × Except Exn (List Loc) :=
  let vas : List Nat := (List.range r.n).map (r.byteAddr c k)
  if isCc c then ccXlateL s c r.write false (err == some .walk) k vas
  else if r.far then
    if physWin k then
      (k, .ok ((List.range r.n).map (fun i =>
        Loc.phys (bits k.bank.fseg.toNat 0 15 * 2 ^ 32 + (r.ea + i) % 2 ^ 32))))
    else (k, engXlate k r.write vas)
  else (k, .ok ((nearAddrs r.ea r.n).map (nearLoc (engNo c))))

/-- The translation that a virtual address of a core goes through. -/
def Core.viaAt (k : Core) (c : CoreId) (va : Nat) : Option Via :=
  if isCc c then
    if k.tctl.getLsbD 12 then (k.ccFind va).map (fun e => ⟨e.ten, e.va, e.lg⟩) else none
  else if physWin k then none
  else
    (tlbFind k.tlb k.tten va).map (fun e =>
      ⟨e.ten, e.vpn.toNat * 4096 / 2 ^ szLog e.sz * 2 ^ szLog e.sz, szLog e.sz⟩)

/-- The translation of each byte of an access that is made at virtual addresses. -/
def Req.vias (r : Req) (c : CoreId) (k : Core) : List (Option Via) :=
  if r.virt c then (List.range r.n).map (fun i => k.viaAt c (r.byteAddr c k i)) else []

/-- Whether a byte of the event window is open to a user-state access (R232). -/
def evUser (read write : Bool) (off : Nat) : Bool :=
  (!read || decide (off < 8)) && (!write || decide (0x10 ≤ off ∧ off < 0x18))

/-- R38, then the storage keys, of an access of which byte `i` has the address `addr i` and lies at `l[i]`; `fin` is
FINFO [9:8]. The key bytes that were read stay in the key cache (R288); `err` is an uncorrectable error that meets
the key fetch. -/
def keyCheck (s : State) (c : CoreId) (k : Core) (addr : Nat → Nat) (l : List Loc) (write : Bool) (fin : Nat)
    (err : Option HwErr) : State × Core × Option Exn :=
  match l.findIdx? (fun x => match x with | .phys pa => r38Refuses s pa | _ => false) with
  | some i =>
    let pa : Nat := match l[i]? with | some (.phys pa) => pa | _ => 0
    (s, k, some (mkMc c k 0 sevContained (Config.openHop s.free) 0x30 0 pa (addr i) 0 k.bank.pc))
  | none =>
    let g : List (Nat × Gran) := granList (engNo c) 0 none l
    let refusal : Option (Nat × Byte) := keyRefusal s k.keyCache k.key write g
    let last : Nat := match refusal with | some (i, _) => i | none => l.length
    let seen : List (Nat × Gran) := g.filter (fun p => decide (p.1 ≤ last))
    match (if err = some .key then keyMiss k.keyCache seen else none) with
    | some (i, f) =>
      (s, k, some (mkMc c k 0 sevContained 0xA 0x11 0 (s.kabase.toNat + f) (addr i) (s.synd 0xA) k.bank.pc))
    | none =>
      let (s1, cache) := fetchKeys (Config.keyVictim k.free) (seen.map (fun p => p.2)) s k.keyCache
      let k1 : Core := { k with keyCache := cache }
      match refusal with
      | some (i, e) => (s1, k1, some (mkFault 4 0x01 (addr i) (k.key.toNat + bits e.toNat 0 4 * 16 + fin)))
      | none => (s1, k1, none)

/-- Check 9 on one operand: R39, then R38, then the event window and the storage keys. -/
def chk9 (s : State) (c : CoreId) (err : Option HwErr) (k : Core) (r : Req) (l : List Loc) : State × Core × Option Exn :=
  let addr (i : Nat) : Nat := r.byteAddr c k i
  let sub (x : Loc) : Option Byte := match x with | .phys pa => r39Sub pa | _ => none
  let r39 : Option Exn :=
    if isCc c || !r.far then none
    else (l.findIdx? (fun x => (sub x).isSome)).map (fun i =>
      mkFault 4 (((l[i]?).bind sub).getD 0) (addr i) (k.key.toNat + r.wbit))
  let ev : Option Exn :=
    if k.sup then none
    else (l.findIdx? (fun x => match x with | .ev o => !evUser r.read r.write o | _ => false)).map (fun i =>
      mkFault 4 0x03 (addr i) (k.key.toNat + r.wbit))
  match r39.or ev with
  | some x => (s, k, some x)
  | none => keyCheck s c k addr l r.write r.wbit err

/-- The first failure of a check over the operands in order. -/
def firstExn (l : List (Option Exn)) : Option Exn := l.findSome? id

/-- Check 8 over the operands in order. -/
def chk8All (s : State) (c : CoreId) (err : Option HwErr) : Core → List Req → Core × Except Exn (List (List Loc))
  | k, [] => (k, .ok [])
  | k, r :: rs =>
    match chk8 s c err k r with
    | (k1, .error x) => (k1, .error x)
    | (k1, .ok l) =>
      match chk8All s c err k1 rs with
      | (k2, .error x) => (k2, .error x)
      | (k2, .ok ls) => (k2, .ok (l :: ls))

/-- Check 9 over the operands in order. -/
def chk9All (c : CoreId) (err : Option HwErr) : List (Req × List Loc) → State → Core → State × Core × Option Exn
  | [], s, k => (s, k, none)
  | (r, l) :: rest, s, k =>
    match chk9 s c err k r l with
    | (s1, k1, some x) => (s1, k1, some x)
    | (s1, k1, none) => chk9All c err rest s1 k1

/-- What the checks on the operands leave: the state and the core with the table entries and key bytes that were
read, and the first exception or where every byte lies. -/
structure Checked where
  s : State
  k : Core
  ans : Except Exn (List (List Loc))

/-- Checks 7 to 9 of Table 3-14 over all operands, each check before the next (R115). -/
def operandChecks (s : State) (c : CoreId) (k : Core) (rs : List Req) (err : Option HwErr) : Checked :=
  match firstExn (rs.map (chk7 c k)) with
  | some x => ⟨s, k, .error x⟩
  | none =>
    match chk8All s c err k rs with
    | (k1, .error x) => ⟨s, k1, .error x⟩
    | (k1, .ok ls) =>
      match chk9All c err (rs.zip ls) s k1 with
      | (s2, k2, some x) => ⟨s2, k2, .error x⟩
      | (s2, k2, none) => ⟨s2, k2, .ok ls⟩

/-- USE and MOD of every operand that passed checks 7 to 9, before the instruction's own body: they are set
even where an operand-value exception then makes no store (R73, R128; DESIGN CHOICE, log 95). -/
def Work.touch (w : Work) : List (Req × List Loc) → Work
  | [] => w
  | (r, l) :: rest =>
    let (s, cache) := touchKeys (useMod r.write) (Config.keyVictim w.k.free)
      (granList (engNo w.c) 0 none l) w.s w.k.keyCache
    Work.touch { w with s := s, k := { w.k with keyCache := cache, free := w.k.free + 1 } } rest

/-! ### The store buffer (R80 to R86) -/

/-- One store-buffer entry reaches the tile of engine `n`. -/
def State.drainEnt (s : State) (n : Nat) (e : StoreEnt) : State :=
  let base : Nat :=
    match e.kind with
    | .plain => tilePa n e.off
    | .set => tileSetBase + n * tileSize + e.off
    | .clr => tileClrBase + n * tileSize + e.off
  s.wrN base e.bytes

/-- The oldest `m` entries drain at rank 3, one penalty cycle each. -/
def Work.drain (w : Work) (m : Nat) : Work :=
  { w with s := (w.k.sbuf.take m).foldl (fun t e => t.drainEnt (engNo w.c) e) w.s
           k := { w.k with sbuf := w.k.sbuf.drop m }
           pen := w.pen + min m w.k.sbuf.length
           port := w.port + min m w.k.sbuf.length }

/-- The whole buffer drains. -/
def Work.drainAll (w : Work) : Work := w.drain w.k.sbuf.length

/-- Whether an entry overlaps the `n` bytes at an offset. -/
def StoreEnt.overlaps (e : StoreEnt) (off n : Nat) : Bool :=
  decide (e.off < off + n) && decide (off < e.off + e.bytes.length)

/-- The position of the youngest overlapping entry. -/
def youngest (l : List StoreEnt) (off n : Nat) : Option Nat :=
  (l.reverse.findIdx? (fun e => e.overlaps off n)).map (fun i => l.length - 1 - i)

/-- The number of 16-byte blocks that `n` bytes at an address touch. -/
def blocksOf (a n : Nat) : Nat := if n = 0 then 0 else (a % 16 + n - 1) / 16 + 1

/-- Own-tile bytes are read, one port cycle for each block (Table 7-2). -/
def Work.readTile (w : Work) (off n : Nat) : Work × List Byte :=
  ({ w with port := w.port + blocksOf off n }, w.s.rdN (tilePa (engNo w.c) off) n)

/-- A load of `n` own-tile bytes at an offset, under Table 2-9. -/
def Work.loadTile (w : Work) (off n : Nat) : Work × List Byte :=
  match youngest w.k.sbuf off n with
  | none => w.readTile off n
  | some i =>
    match w.k.sbuf[i]? with
    | none => w.readTile off n
    | some e =>
      if e.kind = .plain ∧ e.off ≤ off ∧ off + n ≤ e.off + e.bytes.length then
        (w, slice e.bytes (off - e.off) n)
      else
        let w1 : Work := w.drain (i + 1)
        { w1 with pen := w1.pen + 1, gaps := w1.gaps + 1 }.readTile off n

/-- The store-buffer entries of a store that can drain from cycle `t` on: one for each 16-byte block (R80). -/
def sbEntries (kind : StKind) (t : Nat) : Nat → Nat → List Byte → List StoreEnt
  | 0, _, _ => []
  | fuel + 1, off, bs =>
    if bs = [] then []
    else
      let m : Nat := 16 - off % 16
      { at_ := t, off := off, bytes := bs.take m, kind := kind } :: sbEntries kind t fuel (off + m) (bs.drop m)

/-- A store into the own tile: entries drain when there is no room (R82). -/
def Work.storeTile (w : Work) (kind : StKind) (off : Nat) (bs : List Byte) : Work :=
  let es : List StoreEnt := sbEntries kind (w.k.now + w.count + w.pen) (bs.length + 1) off bs
  es.foldl (fun w e =>
    let w1 : Work := if 4 ≤ w.k.sbuf.length then w.drain (w.k.sbuf.length - 3) else w
    { w1 with k := { w1.k with sbuf := w1.k.sbuf ++ [e] } }) w

/-! ### Loads and stores of an instruction -/

/-- The bytes of a posted store that go to physical addresses. -/
def Posted.cells (p : Posted) : List (Nat × Byte) :=
  (p.locs.zip p.bytes).filterMap (fun x =>
    match x.1 with
    | .phys a => some (a, x.2)
    | _ => none)

/-- The bytes of a posted store that go to the own event window. -/
def Posted.events (p : Posted) : List (Nat × Byte) :=
  (p.locs.zip p.bytes).filterMap (fun x =>
    match x.1 with
    | .ev o => some (o, x.2)
    | _ => none)

/-- A posted store is performed by the unit it goes to (R198). -/
def State.performed (s : State) (c : CoreId) (p : Posted) : State :=
  let s1 : State :=
    if isCc c then s.ccStore true (p.cells.map (fun x => x.1)) (p.cells.map (fun x => x.2))
    else p.cells.foldl (fun t x => t.wr x.1 x.2) s
  s1.evWrite c p.events

/-- What a later load of the core outside its tile finds: every outstanding posted store of the core has reached its
unit (R199). -/
def Work.view (w : Work) : State := w.k.posted.foldl (fun t p => t.performed w.c p) w.put

/-- A byte outside the own tile, in the view `v`. -/
def Work.byte (w : Work) (v : State) : Loc → Byte
  | .tile o _ => v.rd (tilePa (engNo w.c) o)
  | .phys pa => if isCc w.c then v.ccByte w.k.sup pa else v.rd pa
  | .lbox o => byteAt (w.k.lbox.slot (o / 64)) (o % 64)
  | .ev o => evByte v w.c o
  | .none => 0

/-- Whether an access leaves the own tile (07: reserved near addresses do not). -/
def leaves (l : List Loc) : Bool :=
  match l with
  | .phys _ :: _ => true
  | .lbox _ :: _ => true
  | .ev _ :: _ => true
  | _ => false

/-- One operand is read: its bytes. -/
def Work.fetchOp (w : Work) (l : List Loc) : Work × List Byte :=
  match l with
  | .tile off _ :: _ => w.loadTile off l.length
  | _ =>
    if leaves l then
      let w1 : Work := w.drainAll
      let v : State := w1.view
      (w1, l.map (w1.byte v))
    else (w, l.map (fun _ => 0))

/-- The full head slot of the Letterbox is freed once an access has read its last bytes (R301). After a device-fatal
error no further slot is taken (R414). -/
def Work.freeSlot (w : Work) (l : List Loc) : Work :=
  if w.k.lbox.frees l && !w.s.fatal then { w with k := { w.k with lbox := w.k.lbox.free } } else w

/-- One operand is loaded. -/
def Work.load (w : Work) (l : List Loc) : Work × List Byte :=
  let r : Work × List Byte := w.fetchOp l
  (r.1.freeSlot l, r.2)

/-- The transfers of an operand read outside the own tile: one for each 16-byte block (R92). -/
def xfersOf (c : CoreId) (k : Core) (r : Req) (l : List Loc) : List Xfer :=
  if leaves l then
    ((List.range l.length).filter (fun i => i == 0 || decide (r.byteAddr c k i % 16 = 0))).map (fun i =>
      { ea := BitVec.ofNat 64 (r.byteAddr c k i)
        pa := match l[i]? with | some (.phys pa) => some pa | _ => none
        via := if r.virt c then k.viaAt c (r.byteAddr c k i) else none, depth := none })
  else []

/-- Posted stores of an access: one for each 16-byte block (R92, R197). -/
def postBlocks (pc : W32) (t : Nat) : Nat → Nat → List (Option Via) → List Loc → List Byte → List Posted
  | 0, _, _, _, _ => []
  | fuel + 1, ea, vs, ls, bs =>
    if bs = [] then []
    else
      let m : Nat := 16 - ea % 16
      { issued := t, via := (vs.head?).join, locs := ls.take m, bytes := bs.take m, pc := pc, ea := BitVec.ofNat 64 ea }
        :: postBlocks pc t fuel (ea + m) (vs.drop m) (ls.drop m) (bs.drop m)

/-- A user-state store to the Kerb is not performed (R451). -/
def kerbMasked (sup : Bool) (l : List Loc) : List Loc :=
  if sup then l
  else l.map (fun x =>
    match x with
    | .phys a => match pKind a with | .kerb _ => Loc.none | _ => x
    | _ => x)

/-- One store is performed: into the store buffer, or posted when it leaves the own tile (R198). Letterbox
stores and stores to reserved near addresses are not performed (R301, R42). -/
def Work.store (w : Work) (pc : W32) (o : StOp) : Work :=
  match o.locs with
  | .tile off kind :: _ => w.storeTile kind off o.bytes
  | .none :: _ => w
  | [] => w
  | .lbox _ :: _ => w.drainAll
  | l =>
    let w1 : Work := w.drainAll
    let ps : List Posted :=
      postBlocks pc w1.k.now (o.bytes.length + 1) o.ea.toNat o.vias (kerbMasked w1.k.sup l) o.bytes
    { w1 with k := { w1.k with posted := w1.k.posted ++ ps, free := w1.k.free + 1 }
              pen := w1.pen + Config.storeWait w1.k.free + (ps.length - 1) }

end Sys2Proof.Machine
end

