-- ==== Sys2Proof/Machine/Issue.lean ====
section
/-! DEFINITION. The issue of one instruction (02, 03, 07): when a core issues, the checks of Table 3-14
in their order, fetch stalls, operand loads, completion, the hardware loop, and accesses that leave
the tile. -/

namespace Sys2Proof.Machine

/-! ### When a core issues -/

/-- The items of ranks 2 to 6 of Table 8-9 that are takeable at the boundary (R220, R227, R230). -/
def Core.boundary (k : Core) : Bool :=
  if k.bank.slot.isSome then false
  else if k.inShadow then k.asyncCtx.isSome
  else k.asyncMc.isSome || k.tracePend || k.asyncCtx.isSome || k.takeable.isSome

/-- Whether an access of the current bank outside the tile is still awaited (R197). -/
def Core.awaiting (k : Core) : Bool := k.waits.any (fun w => w.bank == k.curIx)

/-- Whether the next instruction can issue: the core runs, no hold of Table 2-10 that an outside
happening ends is in force, and nothing is to be entered at this boundary. -/
def State.canIssue (s : State) (c : CoreId) : Bool :=
  let k : Core := s.core c
  s.runs c && k.hold.isNone && !k.awaiting && k.exn.isNone && k.entryMc.isNone
    && (k.oneStep || (k.trap.isNone && !k.boundary)) && decide (k.posted.length ≤ 8)

/-! ### Lengths in the tile (Table 3-1) -/

/-- The length of an Arcade instruction by its entry (R112). -/
def arcadeLen (e : W64) : Nat :=
  if !e.getLsbD 63 then 1
  else match bits e.toNat 61 2 with | 0 => 1 | 1 => 2 | 2 => 4 | _ => 6

/-- The length of an instruction that begins with a byte which is no prefix. -/
def opLen (s : State) (b : Nat) : Nat :=
  if b < 0x20 then 1
  else if b < 0x40 then 2
  else if b < 0x80 then 4
  else if b < 0xE0 then 6
  else if b < 0xF0 then arcadeLen (spGet 0 s.arcade.entries (b - 0xE0))
  else 1

/-- The length of the instruction that begins a list of bytes: a byte 0xF0 to 0xFF takes 1 and the length of what
follows it (R93, R94, Table 3-1). -/
def codeLen (s : State) : List Byte → Nat
  | [] => 0
  | b :: r => if 0xF0 ≤ b.toNat then 1 + codeLen s r else opLen s b.toNat

/-- The length of the instruction that stands at an address of engine `n`'s tile. -/
def State.lenAt (s : State) (n : Nat) (a : W32) : Nat :=
  codeLen s ((List.range 16).map (fun i => s.rd (tilePa n ((a.toNat + i) % tileSize))))

/-- The bytes of an instruction in the own tile. -/
def fetchLocs (pc n : Nat) : List Loc := (List.range n).map (fun i => Loc.tile (pc + i) .plain)

/-! ### Save areas (R205, R206) -/

/-- The 192 bytes of a save area (Table 8-1), STAT.V = 1. -/
def bankImage (b : Bank) : List Byte :=
  beBytes 32 b.acc.toNat ++ beBytes 8 b.psw.toNat ++ beBytes 4 b.pc.toNat ++ beBytes 4 b.ix.toNat
    ++ beBytes 4 b.iy.toNat ++ beBytes 4 b.lc.toNat ++ beBytes 4 b.ls.toNat ++ beBytes 4 b.le.toNat
    ++ beBytes 8 b.mph.toNat ++ beBytes 8 b.mpl.toNat ++ beBytes 8 b.dvq.toNat ++ beBytes 8 b.dvm.toNat
    ++ beBytes 2 b.fseg.toNat ++ beBytes 1 b.rsp.toNat ++ [0x01] ++ beBytes 4 b.hbt.toNat ++ zeros 24
    ++ (b.rse.toList.map (fun v => beBytes 4 v.toNat)).flatten

/-- PSW as a fill loads it: a reserved rounding mode is 0b000 (R206). -/
def pswFilled (v : W64) : W64 := pswWritten 0 v

/-- A bank from the bytes of a save area (R206). -/
def bankOfImage (l : List Byte) : Bank :=
  let w32 (o : Nat) : W32 := BitVec.ofNat 32 (beAt l o 4)
  let w64 (o : Nat) : W64 := BitVec.ofNat 64 (beAt l o 8)
  { acc := BitVec.ofNat 256 (beAt l 0 32), psw := pswFilled (w64 0x20), pc := w32 0x28, ix := w32 0x2C
    iy := w32 0x30, lc := w32 0x34, ls := w32 0x38, le := w32 0x3C, mph := w64 0x40, mpl := w64 0x48
    dvq := w64 0x50, dvm := w64 0x58, fseg := BitVec.ofNat 16 (beAt l 0x60 2)
    rsp := rspWritten (beAt l 0x62 1), hbt := w32 0x64
    rse := Vector.ofFn (fun i => w32 (0x80 + 4 * i.val)), slot := none }

/-- The address of a task's save area under TSB. -/
def Core.area (k : Core) (t : BitVec 6) : Nat := k.tsb.toNat + t.toNat * 0xC0

/-- Whether an area lies wholly within the own tile (R210). -/
def areaOk (a : Nat) : Bool := decide (a + 0xC0 ≤ tileSize)

/-- A context-bank fault (Table 8-7, vector 14). -/
def ctxFault (cls : BitVec 2) (sub : Byte) (a : Nat) (t : BitVec 6) : Exn :=
  { vec := 14, cls := cls, sub := sub, faddr := BitVec.ofNat 64 a, finfo := t.zeroExtend 32, mc := none }

/-- USE and MOD of the tile regions that an area touches, with access key 0 (R206). -/
def State.touchArea (s : State) (n a len : Nat) (write : Bool) : State :=
  (touchKeys (useMod write) 0 (granList n 0 none (fetchLocs a len)) s []).1

/-- The twelve blocks of an area in the order in which a fill reads them (R210, R212). -/
def fillOrder : List Nat := 6 :: (List.range 12).filter (fun j => j != 6)

/-- The bytes of an area with the blocks that a background fill has already read. -/
def areaWith (l : List Byte) (blocks : List (Nat × List Byte)) : List Byte :=
  blocks.foldl (fun l p => patch l (16 * p.1) p.2) l

/-! ### Fetch (R87, R88, R195, R196) -/

/-- What the fetches of a core read: whether it is a control core, which has no fetch queue; a byte of the tile; the
length of an instruction from its first bytes. -/
structure Code where
  cc : Bool
  rd : Nat → Byte
  len : List Byte → Nat

def State.code (s : State) (c : CoreId) : Code :=
  { cc := isCc c, rd := fun a => s.rd (tilePa (engNo c) (a % tileSize)), len := codeLen s }

/-- The 16-byte block that holds an address, from that address on, as fetched in a cycle. -/
def Code.block (x : Code) (cyc a : Nat) : List (Nat × Byte) :=
  if tileSize ≤ a then [] else (List.range (16 - a % 16)).map (fun i => (cyc, x.rd (a + i)))

/-- The fetch of a branch target from a cycle on: one block, and the next when the instruction there straddles. -/
def Code.target (x : Code) (start : Nat) (a : W32) : List (Nat × Byte) :=
  let one : List (Nat × Byte) := x.block start a.toNat
  if blocksOf a.toNat (x.len ((List.range 16).map (fun i => x.rd (a.toNat + i)))) ≤ 1 then one
  else one ++ x.block (start + 1) (a.toNat + one.length)

/-- The blocks that a target fetch has taken. -/
def fetchCycles (code : List (Nat × Byte)) : Nat :=
  match code.head?, code.getLast? with
  | some a, some b => b.1 + 1 - a.1
  | _, _ => 0

/-- The first cycle from `g` on that no interval holds; the intervals begin in rising order. -/
def freeCycle (busy : List (Nat × Nat)) (g : Nat) : Nat :=
  busy.foldl (fun g b => if b.1 ≤ g ∧ g < b.2 then b.2 else g) g

/-- The bytes captured in the loop buffer. -/
def Core.captured (k : Core) : Option (List (Nat × Byte)) :=
  match k.loopBuf with
  | .captured code => some code
  | _ => none

/-- Whether the instruction at an address comes from the loop buffer (R64). -/
def Core.inBuffer (k : Core) (a : W32) : Bool :=
  let b : Bank := k.bank
  k.captured.isSome && b.lc != 0 && decide (b.ls.toNat ≤ a.toNat) && decide (a.toNat < b.le.toNat)

/-- Whether the instruction at PC comes from the loop buffer. -/
def Core.fromLoop (k : Core) : Bool := k.inBuffer k.bank.pc

/-- The branch target behind which the sequential fetch goes on while the delay slot runs. -/
def Core.ahead (k : Core) : Option TgtFetch := k.tgt.filter (fun g => g.slotIn)

/-- The bytes that the queue holds (R195). -/
def Core.queued (k : Core) : Nat :=
  match k.ahead with
  | some g => k.fq.length + g.code.length
  | none => k.fq.length

/-- The address that the sequential fetch reads next. -/
def Core.fetchNext (k : Core) : Nat :=
  match k.ahead with
  | some g => g.addr.toNat + g.code.length
  | none => k.fqAt.toNat + k.fq.length

/-- One sequential fetch in the next free cycle. -/
def Core.fetchOne (k : Core) (x : Code) : Core :=
  let g : Nat := freeCycle k.portBusy k.fetchAt
  let new : List (Nat × Byte) := x.block g k.fetchNext
  match k.ahead with
  | some a => { k with tgt := some { a with code := a.code ++ new }, fetchAt := g + 1 }
  | none => { k with fq := k.fq ++ new, fetchAt := g + 1 }

/-! ### The tile port below the instructions (Table 2-7 ranks 4 and 5, R81, R195, R212) -/

/-- A requester of rank 4 or 5: the sequential fetch, an idle drain, a block of a background fill. -/
inductive Grant where
  | fetch
  | drain
  | fill
deriving DecidableEq, Repr

/-- The requester that is granted the tile port next, and the cycle. A fetch waits while 16 bytes of the queue are
free and nothing comes from the loop buffer; a fill waits after the drains. -/
def Core.nextGrant (k : Core) (cc : Bool) : Option (Grant × Nat) :=
  let g : Nat := freeCycle k.portBusy k.fetchAt
  if !cc && (!k.fromLoop || k.ahead.isSome) && decide (k.queued ≤ 16) && decide (k.fetchNext < tileSize) then
    some (.fetch, g)
  else
    match k.sbuf, k.bg with
    | [], none => none
    | [], some _ => some (.fill, g)
    | e :: _, none => some (.drain, freeCycle k.portBusy (max k.fetchAt e.at_))
    | e :: _, some _ => if e.at_ ≤ g then some (.drain, g) else some (.fill, g)

/-- A background fill reads its next block in cycle `t`, the block at offset 0x60 first; with the last block the task
is resident (R212). -/
def State.fillBlock (s : State) (c : CoreId) (k : Core) (b : BgFill) (t : Nat) : State × Core :=
  let k0 : Core := { k with fetchAt := t + 1 }
  match fillOrder[b.blocks.length]? with
  | none => (s, { k0 with bg := none })
  | some j =>
    let a : Nat := b.area + 16 * j
    let bs : List Byte := s.rdN (tilePa (engNo c) a) 16
    let s1 : State := s.touchArea (engNo c) a 16 false
    if b.blocks = [] ∧ !(byteAt bs 3).getLsbD 0 then
      (s1, { k0 with bg := none, asyncCtx := k0.asyncCtx.or (some (ctxFault 3 0x02 b.area b.task)) })
    else
      let blocks : List (Nat × List Byte) := b.blocks ++ [(j, bs)]
      if blocks.length < 12 then (s1, { k0 with bg := some { b with blocks := blocks } })
      else
        let k1 : Core := k0.setBankAt b.bank.castSucc (bankOfImage (areaWith (zeros 0xC0) blocks))
        (s1, { k1 with bg := none, res := k1.res.set b.bank.val (some b.task) })

/-- A requester is granted the port in cycle `t`. -/
def State.grant (s : State) (c : CoreId) (k : Core) (g : Grant) (t : Nat) : State × Core :=
  match g with
  | .fetch => (s, k.fetchOne (s.code c))
  | .drain =>
    match k.sbuf with
    | e :: r => (s.drainEnt (engNo c) e, { k with sbuf := r, fetchAt := t + 1 })
    | [] => (s, k)
  | .fill =>
    match k.bg with
    | some b => s.fillBlock c k b t
    | none => (s, k)

/-- The grants of ranks 4 and 5 in the cycles before `upto`, at most `n`. -/
def State.portGo (c : CoreId) (upto : Nat) : Nat → State → Core → State × Core
  | 0, s, k => (s, k)
  | n + 1, s, k =>
    match k.nextGrant (isCc c) with
    | none => (s, k)
    | some (g, t) =>
      if t < upto then
        let r : State × Core := s.grant c k g t
        State.portGo c upto n r.1 r.2
      else (s, k)

/-- The device and the core at a cycle: every fetch, drain and fill block of an earlier cycle has been made. -/
def State.portTo (s : State) (c : CoreId) (k : Core) (upto : Nat) : State × Core :=
  let r : State × Core := State.portGo c upto 24 s k
  (r.1, { r.2 with fetchAt := max r.2.fetchAt upto, portBusy := r.2.portBusy.filter (fun b => decide (upto < b.2)) })

/-- The fetches that an instruction of `len` bytes at decode waits for, at most `n` (R87). -/
def Core.fetchNeed (x : Code) (len : Nat) : Nat → Core → Core
  | 0, k => k
  | n + 1, k => if len ≤ k.fq.length then k else Core.fetchNeed x len n (k.fetchOne x)

/-- The cycle in which an instruction of `len` bytes issues, and the core with its fetch state: all of its bytes were
in the queue two cycles before (R195). -/
def Core.fetchStart (k : Core) (x : Code) (len : Nat) : Nat × Core :=
  if x.cc || k.fromLoop then (k.now, k)
  else
    let k1 : Core :=
      if k.fqAt = k.bank.pc then k
      else { k with fqAt := k.bank.pc, fq := [], fetchAt := max k.fetchAt k.now }
    let k2 : Core := Core.fetchNeed x len (len / 16 + 2) k1
    ((k2.fq.take len).foldl (fun a b => max a (b.1 + 2)) k.now, k2)

/-- The instruction's bytes leave the queue (R195). -/
def Core.release (k : Core) (len : Nat) : Core :=
  if k.fqAt = k.bank.pc then { k with fqAt := k.fqAt + BitVec.ofNat 32 len, fq := k.fq.drop len } else k

/-- Fetch goes on at a target whose fetch at rank 1 has begun: nothing is fetched inside a captured body (R64). -/
def Core.fetchFrom (k : Core) (a : W32) (code : List (Nat × Byte)) : Core :=
  if k.inBuffer a then { k with tgt := none }
  else { k with fqAt := a, fq := code, tgt := none
                fetchAt := max k.fetchAt (match code.getLast? with | some b => b.1 + 1 | none => 0) }

/-- A byte of the code as the core would execute it: from the loop buffer, from the fetch queue, else from the
tile (R88). -/
def Core.codeByte (k : Core) (x : Code) (a : Nat) : Byte :=
  let rest : Byte :=
    if k.fqAt.toNat ≤ a then ((k.fq[a - k.fqAt.toNat]?).map (fun p => p.2)).getD (x.rd a) else x.rd a
  match k.captured with
  | some code => (spGet? code a).getD rest
  | none => rest

/-! ### The description of an instruction -/

/-- What an instruction's body answers: the core after its loads, the effect, and what follows. -/
structure Done where
  w : Work
  eff : Eff
  /-- the transfers of the loads that the body itself made outside the own tile -/
  far : List Xfer
  /-- the cycles after issue at which it failed (R249) -/
  at_ : Nat
  /-- the value whose residues the engine has predicted, once the instruction has come as far as its residue
  check (Table 4-5, R146, R160) -/
  res : Option Int
  /-- the cycles after issue in which the body itself used the tile port -/
  busy : List (Nat × Nat)

/-- The end of a body that loads nothing itself. -/
def Done.of (w : Work) (eff : Eff) (res : Option Int) : Done :=
  { w := w, eff := eff, far := [], at_ := 0, res := res, busy := [] }

/-- An instruction as the checks of Table 3-14 see it. -/
structure Form where
  /-- the opcode byte, and the length without prefix bytes (Table 3-1) -/
  op : Byte
  len : Nat
  /-- checks 3 and 4 but for prefixes: assigned, in the profile, reserved fields, modes and lengths; and
  the placements that its own chapter bars (R225, R185) -/
  legal : Bool
  /-- in the compatibility subset (Table 3-15) -/
  r3 : Bool
  /-- the prefix bytes are allowed (R103) -/
  pfx : Bool
  /-- barred from a delay slot (R79, R56, R185) -/
  slotBar : Bool
  /-- a branch, call or return, for R62 -/
  branch : Bool
  /-- check 6 fails -/
  priv : Bool
  reqs : List Req
  /-- an SS instruction or a step of a long one: port use in every cycle, no split (R194, R90) -/
  ss : Bool
  /-- microcoded (09) -/
  micro : Bool
  /-- carries the residue check (Table 4-8, R165) -/
  residue : Bool
  /-- the cycles for which it uses the binary divider (R154) -/
  divider : Nat
  /-- what the instruction itself waits for before it takes effect has come (R209, R210, R226) -/
  ready : Bool
deriving DecidableEq, Repr

/-- An instruction: its form, and what its defining chapter makes of its operands. -/
structure Insn extends Form where
  body : Work → List (List Loc) → List (List Byte) → Done

/-- The prefix rules of R103. -/
inductive PfxRule where
  | none
  /-- format M or L: FAR alone, unless the mode is immediate or PC-relative -/
  | ml (barred : Bool)
  | ss
deriving DecidableEq, Repr

def pfxOk : PfxRule → List Pfx → Bool
  | _, [] => true
  | .ml barred, [.far] => !barred
  | .ss, [_] => true
  | _, _ => false

/-- The byte of a prefix (Table 3-7). -/
def pfxByte : Pfx → Byte
  | .far => 0xF0
  | .far1 => 0xF1
  | .far2 => 0xF2

/-- The first byte of an instruction. -/
def firstByte (pre : List Pfx) (op : Byte) : Byte :=
  match pre with
  | [] => op
  | p :: _ => pfxByte p

/-- An effect without exception. -/
def Eff.of (wr : List (Nat × RegWr)) (st : List StOp) (count : Nat) : Eff :=
  { exn := none, wr := wr, st := st, count := count, act := .seq }

/-- An operand-value exception: nothing is performed. -/
def Eff.fail (x : Exn) : Eff := { exn := some x, wr := [], st := [], count := 1, act := .seq }

/-- A body that computes an effect from the core and its operands. -/
def pureBody (f : Work → List (List Loc) → List (List Byte) → Eff) :
    Work → List (List Loc) → List (List Byte) → Done :=
  fun w ls bs => Done.of w (f w ls bs) none

/-- A body that also acts on the core or the device at issue. -/
def workBody (f : Work → Work × Eff) : Work → List (List Loc) → List (List Byte) → Done :=
  fun w _ _ => Done.of (f w).1 (f w).2 none

/-- The form of a legal instruction without operands in memory. -/
def Form.plain (op : Byte) (len : Nat) : Form :=
  { op := op, len := len, legal := true, r3 := true, pfx := true, slotBar := false, branch := false
    priv := false, reqs := [], ss := false, micro := false, residue := false, divider := 0, ready := true }

/-- A legal instruction without operands in memory. -/
def Insn.plain (op : Byte) (len : Nat) (body : Work → List (List Loc) → List (List Byte) → Done) : Insn :=
  { Form.plain op len with body := body }

/-! ### Checks 1 to 6 -/

/-- What check 1 leaves: the state and the core with the table entries and key bytes that were read, and the
exception. -/
abbrev Fetched1 := State × Core × Option Exn

/-- The storage keys of a fetch of bytes at `l`, of which byte `i` has the address `addr i`: FINFO bit 9 is set; a
fetch that passes sets USE (R51, R73). -/
def State.fetchKeys (s : State) (c : CoreId) (k : Core) (addr : Nat → Nat) (l : List Loc) (err : Option HwErr) :
    Fetched1 :=
  match keyCheck s c k addr l false 512 err with
  | (s1, k1, some x) => (s1, k1, some x)
  | (s1, k1, none) =>
    let (s2, cache) :=
      touchKeys (useMod false) (Config.keyVictim k1.free) (granList (engNo c) 0 none l) s1 k1.keyCache
    (s2, { k1 with keyCache := cache, free := k1.free + 1 }, none)

/-- Check 1 (R51, R73): the fetch window, then the storage keys as a read. A control core's fetch is at the virtual
address that its PC and FSEG make, translated while TCTL.TE = 1 (R259, R265). -/
def State.fetchCheck (s : State) (c : CoreId) (k : Core) (n : Nat) (first : Byte) (err : Option HwErr) : Fetched1 :=
  let pc : Nat := k.bank.pc.toNat
  if isCc c then
    let addr (i : Nat) : Nat := ccVa k k.bank.fseg ((pc + i) % 2 ^ 32)
    match ccXlateL s c false true (err == some .walk) k ((List.range n).map addr) with
    | (k1, .error x) => (s, k1, some x)
    | (k1, .ok l) => s.fetchKeys c k1 addr l err
  else if tileSize ≤ pc then (s, k, some (mkFault 2 0x02 pc 0))
  else if tileSize < pc + n then (s, k, some (mkFault 2 0x02 pc first.toNat))
  else s.fetchKeys c k (fun i => pc + i) (fetchLocs pc n) err

/-- Whether an instruction's end meets the end of an active loop (R61, R62). -/
def Bank.atLoopEnd (b : Bank) (len : Nat) : Bool :=
  b.lc != 0 && b.pc + BitVec.ofNat 32 len == b.le

/-- Checks 2 to 5: compatibility subset, assignment, profile and prefixes, reserved fields, delay slot
and loop end. All of them raise illegal instruction with sub-cause 0x01. -/
def decodeOk (k : Core) (pre : List Pfx) (i : Form) : Bool :=
  (!pswBit k.bank.psw 9 || (i.r3 && pre == [])) && i.pfx && i.legal
    && !(k.bank.slot.isSome && i.slotBar)
    && !(k.bank.atLoopEnd (pre.length + i.len) && (i.branch || k.bank.slot.isSome))

/-- Checks 2 to 6 of Table 3-14, on an instruction whose bytes have been fetched. -/
def decodeExn (k : Core) (pre : List Pfx) (i : Form) : Option Exn :=
  if !decodeOk k pre i then some (mkFault 2 0x01 k.bank.pc.toNat (firstByte pre i.op).toNat)
  else if i.priv then some (mkFault 3 0 k.bank.pc.toNat 0)
  else none

/-! ### Malfunctions (15 R413, R416) -/

/-- A machine check that no access causes: FADDR is the PC. -/
def mcPlain (c : CoreId) (k : Core) (sev : BitVec 2) (hop : BitVec 4) (code : Byte) (synd : W64) : Exn :=
  mkMc c k 0 sev hop code 3 0 k.bank.pc.toNat synd k.bank.pc

/-- A machine check on data at a location, for the address as the instruction formed it. -/
def mcAt (s : State) (c : CoreId) (k : Core) (cls : BitVec 2) (hop : BitVec 4) (code : Byte) (l : Loc)
    (ea : Nat) (pc : W32) : Exn :=
  let p : BitVec 2 × Nat := match l with | .phys pa => (0, pa) | _ => (2, ea)
  mkMc c k cls sevContained hop code p.1 p.2 ea (s.synd hop) pc

/-- UPERR after a parity error at a control-store address (Table 9-9). -/
def Core.uperrAt (k : Core) (a : Nat) : Core :=
  { k with uperr := BitVec.ofNat 32 (a % 4096 + min 255 (bits k.uperr.toNat 16 8 + 1) * 65536 + 2 ^ 31) }

/-- The location and address that an uncorrectable error meets: the first operand loaded, else the
instruction's own bytes. -/
def errPlace (c : CoreId) (k : Core) (i : Form) (ls : List (List Loc)) : Loc × Nat :=
  match (i.reqs.zip ls).find? (fun p => p.1.read) with
  | some (r, l :: _) => (l, r.addr c k)
  | _ => (.tile k.bank.pc.toNat .plain, k.bank.pc.toNat)

/-- The machine check that a malfunction raises before the body runs, with the core it leaves. -/
def mcBefore (s : State) (c : CoreId) (k : Core) (err : Option HwErr) (i : Form) (ls : List (List Loc)) :
    Option (Core × Exn) :=
  match err with
  | some .parity => some (k, mcPlain c k sevContained 0xC 0x03 0)
  | some (.uparity _) =>
    if i.micro && !isCc c then
      -- a word of the vendor ROM, whose address the manual does not give
      let a : Nat := (Config.syndrome k.free).toNat % 0xC00
      some ({ k with free := k.free + 1 }.uperrAt a, mcPlain c k sevUnit 0xB 0x02 (BitVec.ofNat 64 a))
    else none
  | some .uncorrectable =>
    let p : Loc × Nat := errPlace c k i ls
    some (k, mcAt s c k 0 (hopOf s p.1) 0x11 p.1 p.2 k.bank.pc)
  | some (.data n) =>
    match (i.reqs.zip ls)[n]? with
    | some (r, l :: _) => if r.read then some (k, mcAt s c k 0 (hopOf s l) 0x11 l (r.addr c k) k.bank.pc) else none
    | _ => none
  | _ => none

/-! ### Completion (R61, R63 to R65, R79) -/

/-- The capture state at the start of a loop over `[ls, le)`. -/
def loopBegin (ls le : W32) : LoopBuf := if le.toNat - ls.toNat ≤ 256 then .capturing 0 [] else .abandoned

/-- One more instruction of the body, of the bytes `code`, captured. -/
def Core.capture (k : Core) (code : List Byte) : Core :=
  match k.loopBuf with
  | .capturing n l =>
    let b : Bank := k.bank
    if b.ls.toNat ≤ b.pc.toNat ∧ b.pc.toNat < b.le.toNat then
      let new : List (Nat × Byte) := ((List.range code.length).zip code).map (fun p => (b.pc.toNat + p.1, p.2))
      { k with loopBuf := if 64 ≤ n then .abandoned else .capturing (n + 1) (l ++ new) }
    else k
  | _ => k

/-- The loop-back at the end of an instruction of `len` bytes is not served by the loop buffer (R64). -/
def Core.stallBack (k : Core) (len : Nat) : Bool :=
  k.bank.atLoopEnd len && k.bank.lc != 1 && match k.loopBuf with | .empty => true | .abandoned => true | _ => false

/-- A loop-back that the buffer does not serve fetches LS at rank 1 in the cycle before `now`: one fetch stall
(R64). -/
def Core.fetchBack (k : Core) (x : Code) : Core :=
  if x.cc then { k with now := k.now + 1 }
  else k.fetchFrom k.bank.pc (x.block (k.now - 1) k.bank.pc.toNat)

/-- The sequential end of an instruction of `len` bytes `code`, under the loop rule. -/
def Core.seqEnd (k : Core) (len : Nat) (code : List Byte) : Core :=
  let b : Bank := k.bank
  let npc : W32 := b.pc + BitVec.ofNat 32 len
  let k1 : Core := k.capture code
  if b.atLoopEnd len then
    if b.lc = 1 then { k1.setBank { b with lc := 0, pc := npc } with loopBuf := .empty }
    else
      let k2 : Core := k1.setBank { b with lc := b.lc - 1, pc := b.ls }
      match k1.loopBuf with
      | .captured _ => k2
      | .capturing _ l => { k2 with loopBuf := .captured l }
      | .empty => { k2 with loopBuf := loopBegin b.ls b.le }
      | .abandoned => k2
  else k1.setBank { b with pc := npc }

/-- The target fetch at rank 1 that an instruction issued in cycle `t` makes itself (R196). -/
def Core.fetchesOf (k : Core) (x : Code) (t : Nat) : Act → List (Nat × Byte)
  | .branch next true => if x.cc || k.inBuffer next then [] else x.target t next
  | .jump target => if x.cc then [] else x.target t target
  | _ => []

/-- A taken branch, whose own target fetch is `fetched`, has issued: a delay slot that the queue or the loop buffer
already holds whole keeps its bytes, and the sequential fetch goes on behind the target (R195, R196). -/
def Core.branched (k : Core) (x : Code) (next : W32) (t : Nat) (fetched : List (Nat × Byte)) : Core :=
  let n : Nat :=
    if k.fromLoop then 0 else x.len ((List.range 16).map (fun i => k.codeByte x (k.bank.pc.toNat + i)))
  let on : Bool := decide (fetched ≠ []) && decide (n ≤ k.fq.length)
  { k with tgt := some { addr := next, start := t, code := fetched, slotIn := on }
           fq := if on then k.fq.take n else k.fq
           loopBuf := match k.loopBuf with | .capturing _ _ => .empty | y => y }

/-- The PC and what follows the end of an instruction of `len` bytes `code` that issued in cycle `t`; `fetched` is
its own target fetch. -/
def Core.advance (k : Core) (x : Code) (len t : Nat) (code : List Byte) (fetched : List (Nat × Byte)) (act : Act) :
    Core :=
  let b : Bank := k.bank
  match act with
  | .moved => k
  | .again => k
  | .jump target =>
    ({ k.setBank { b with pc := target } with loopBuf := .empty }).fetchFrom target fetched
  | .branch next taken =>
    let k1 : Core :=
      (k.capture code).setBank { b with slot := some (b.pc, if taken then some next else none)
                                        pc := b.pc + BitVec.ofNat 32 len }
    if taken then k1.branched x next t fetched else k1
  | .seq | .trap _ =>
    let k1 : Core :=
      match b.slot with
      | some (_, next) =>
        let npc : W32 := next.getD (b.pc + BitVec.ofNat 32 len)
        let k2 : Core := (k.capture code).setBank { b with pc := npc, slot := none }
        match next, k.tgt with
        | some a, some g =>
          k2.fetchFrom a (if x.cc then [] else if g.code = [] ∧ g.addr = a then x.target (t + 1) a else g.code)
        | _, _ => { k2 with tgt := none }
      | none => k.seqEnd len code
    match act with
    | .trap y => { k1 with trap := some (k1.trap.getD y), trapHeld := if k1.trap.isSome then some y else k1.trapHeld }
    | _ => k1

/-- An instruction has completed: RETIRED, trace when TE was 1 at its issue, and the one step of R226 is made. -/
def Core.retire (k : Core) (te : Bool) : Core :=
  { k with retired := k.retired + 1, tracePend := k.tracePend || te, oneStep := false }

/-- A fault is decided on the instruction at PC, of `len` bytes; it is entered by EXCEPTION_ENTRY. -/
def Core.fault (k : Core) (x : Exn) (len : Nat) : Core :=
  let b : Bank := k.bank
  { k.setBank { b with slot := b.slot.map (fun p => (p.1, some (p.2.getD (b.pc + BitVec.ofNat 32 len)))) } with
      exn := some x }

/-- The stores of an effect, in order. -/
def Work.stores (w : Work) (pc : W32) (l : List StOp) : Work :=
  l.foldl (fun w o => w.store pc o) w

/-- The bank that a write goes to. -/
def RegWr.bankOf (bank : Fin 5) : RegWr → Fin 5
  | .to i _ => i
  | _ => bank

/-- Results put in flight for a bank, from issue cycle `t`. -/
def Core.fly (k : Core) (bank : Fin 5) (t : Nat) (wr : List (Nat × RegWr)) : Core :=
  { k with inflight := k.inflight ++ wr.map (fun p => { bank := p.2.bankOf bank, due := t + p.1, wr := p.2 }) }

/-- Extra blocks of the own-tile operands of a format M or L instruction (R90, R142). -/
def splitCycles (l : List (Req × List Loc)) : Nat :=
  l.foldl (fun a p =>
    match p.2 with
    | .tile off _ :: _ => a + (blocksOf off p.2.length - 1)
    | _ => a) 0

/-- The operands that an instruction reads, in order: their bytes. -/
def Work.fetchOps (w : Work) : List (Req × List Loc) → Work × List (List Byte)
  | [] => (w, [])
  | (r, l) :: rest =>
    if r.read then
      let (w1, bs) := w.fetchOp l
      let (w2, bss) := w1.fetchOps rest
      (w2, bs :: bss)
    else
      let (w2, bss) := w.fetchOps rest
      (w2, [] :: bss)

/-- The operands that an instruction reads are loaded, in order; a Letterbox slot is freed once all of them have been
read (R140). -/
def Work.loads (w : Work) (l : List (Req × List Loc)) : Work × List (List Byte) :=
  let r : Work × List (List Byte) := w.fetchOps l
  (l.foldl (fun w p => if p.1.read then w.freeSlot p.2 else w) r.1, r.2)

/-- The transfers of every operand that is read outside the own tile, in order (R92). -/
def xfersAll (c : CoreId) (k : Core) (l : List (Req × List Loc)) : List Xfer :=
  (l.map (fun p => if p.1.read then xfersOf c k p.1 p.2 else [])).flatten

/-- The cycles in which an instruction that issued in cycle `t` uses the tile port at ranks 2 and 3 (Table 7-2): every
cycle of its count and of its forced drains, or the cycles its accesses take. -/
def portCycles (ss : Bool) (t count port : Nat) (busy : List (Nat × Nat)) : List (Nat × Nat) :=
  if ss then [(t, t + count)]
  else if busy ≠ [] then busy.map (fun b => (t + b.1, t + b.2))
  else if port = 0 then [] else [(t, t + port)]

/-- The second target fetch of a taken branch takes the port in the cycle in which the delay slot, issued in `t`,
needs it (R196): one cycle more. -/
def Core.slotLate (k : Core) (t : Nat) (own : List (Nat × Nat)) : Nat :=
  match k.tgt with
  | some g => if fetchCycles g.code = 2 ∧ t = g.start + 1 ∧ own.any (fun b => decide (b.1 = t)) then 1 else 0
  | none => 0

/-- The device, the fetch state and the PC after an instruction of `len` bytes that issued in cycle `t` and uses the
port in the cycles `own`. -/
def State.endOf (s : State) (c : CoreId) (k : Core) (len t : Nat) (own : List (Nat × Nat)) (act : Act) : State × Core :=
  let x : Code := s.code c
  let fetched : List (Nat × Byte) := k.fetchesOf x t act
  let code : List Byte := (List.range len).map (fun i => k.codeByte x (k.bank.pc.toNat + i))
  let busy : List (Nat × Nat) :=
    k.portBusy ++ (if fetched = [] then [] else [(t, t + fetchCycles fetched)]) ++ own
  let (s1, k1) := s.portTo c { k with portBusy := busy } (t + 1)
  let k2 : Core := match act with | .moved => k1 | .again => k1 | _ => if k1.fromLoop then k1 else k1.release len
  (s1, k2.advance x len t code fetched act)

/-- An instruction completes in issue cycle `t`, with `split` extra cycles; `k` is the core as it issued. -/
def Work.finish (w : Work) (k : Core) (i : Form) (len t split : Nat) (eff : Eff) (busy : List (Nat × Nat)) : State :=
  let te : Bool := pswBit k.bank.psw 11
  let w1 : Work := { w with count := eff.count + split }.stores k.bank.pc eff.st
  let lat : Nat := split + (if i.ss then w1.pen else 0)
  let own : List (Nat × Nat) := portCycles i.ss t (eff.count + w1.pen - w1.gaps) w1.port busy
  let late : Nat := if k.bank.slot.isSome then k.slotLate t own else 0
  let k1 : Core := w1.k.fly k.curIx t (eff.wr.map (fun p => (p.1 + lat, p.2)))
  let k2 : Core := { k1 with now := max k1.now (t + eff.count + split + w1.pen + late)
                             divFree := if i.divider = 0 then k1.divFree else t + i.divider + split }
  let own' : List (Nat × Nat) := own.map (fun b => (b.1 + late, b.2 + late))
  -- the loop registers that end the body are those at issue (R61, R76)
  let stall : Bool := eff.act == .seq && k2.bank.slot.isNone && k2.stallBack len
  let (s3, k3) := w1.s.endOf w.c k2 len t own' eff.act
  let k4 : Core := if stall then k3.fetchBack (s3.code w.c) else k3
  let (s5, k5) := s3.portTo w.c k4 k4.now
  { w1 with s := s5, k := (k5.settle (isCc w.c) k5.now).retire (te && !k.inShadow) }.put

/-- An instruction that issued in cycle `t` waits for data from outside the tile (R197): the PC moves
on, the rest of its effect is released by FAR_LOAD_RESPONSE. An exception of its effect is decided `at_` cycles after
issue, its loads apart. -/
def Work.await (w : Work) (i : Form) (len t split at_ : Nat) (eff : Eff) (busy : List (Nat × Nat)) (xs : List Xfer) :
    State :=
  let b : Bank := w.k.bank
  let slot : Option (W32 × Option W32) :=
    b.slot.map (fun p => (p.1, some (p.2.getD (b.pc + BitVec.ofNat 32 len))))
  let k1 : Core := { w.k with now := t }
  let own : List (Nat × Nat) := portCycles false t 0 w.port busy
  let wait : FarWait :=
    { bank := w.k.curIx, issued := t
      eff := { eff with wr := eff.wr.map (fun p => (p.1 + (if i.ss then w.pen else 0) + split, p.2))
                        count := eff.count + split + w.pen }
      xfers := xs, got := 0, at_ := at_
      divider := if eff.exn.isNone ∧ i.divider ≠ 0 then i.divider + split else 0
      back := eff.exn.isNone && eff.act == .seq && b.slot.isNone && w.k.stallBack len
      pc := b.pc, slot := slot, lc := b.lc, te := pswBit b.psw 11 }
  let (s2, k2) := if eff.exn.isSome then (w.s, k1) else w.s.endOf w.c k1 len t own eff.act
  { w with s := s2, k := { k2 with now := t, waits := w.k.waits ++ [wait] } }.put

/-- An instruction that has passed every check of Table 3-14 and has its operands. -/
structure Ready where
  /-- the device and the core after the loads -/
  w : Work
  /-- the core at its checks, and the core at the end of them -/
  k0 : Core
  k : Core
  form : Form
  /-- the length with prefix bytes, the issue cycle, and the extra cycles of split accesses -/
  len : Nat
  t : Nat
  split : Nat
  /-- the operands: where their bytes lie, and the bytes of those that are read -/
  ls : List (List Loc)
  bs : List (List Byte)
  /-- the transfers of the operands read outside the own tile -/
  far : List Xfer
  /-- the residues that the engine forms of its own result (R146) -/
  formed : Option (BitVec 4 × BitVec 4)
  /-- the device as the instruction issues -/
  s : State

/-- The residues that a malfunction makes an engine form of its result. -/
def HwErr.formed : HwErr → Option (BitVec 4 × BitVec 4)
  | .residue _ a b => some (a, b)
  | _ => none

/-- One instruction reaches issue: the state where the core cannot issue, the instruction waits, or a check of
Table 3-14 or a malfunction has decided a fault; else the instruction with its operands. -/
def State.issues (s : State) (a : Issue) (form : State → Core → Form) : State ⊕ Ready :=
  let c : CoreId := a.core
  if !s.canIssue c then .inl s
  else
    let k0 : Core := s.core c
    let i0 : Form := form s k0
    let len : Nat := a.pre.length + i0.len
    let x : Code := s.code c
    let (t0, k1) := k0.fetchStart x len
    let t : Nat := if i0.divider = 0 then t0 else max t0 k1.divFree
    let (s2, k1') := s.portTo c k1 t
    let k2 : Core := { k1'.settle (isCc c) t with now := t }
    let i : Form := form s2 k2
    match s2.fetchCheck c k2 len (firstByte a.pre i.op) a.err with
    | (s3, k3, some e) => .inl (s3.setCore c (k3.fault e len))
    | (s3, k3, none) =>
      -- the fetch has passed: it has set USE (R73)
      match decodeExn k3 a.pre i with
      | some e => .inl (s3.setCore c (k3.fault e len))
      | none =>
        let o : Checked := operandChecks s3 c k3 i.reqs a.err
        match o.ans with
        | .error e => .inl (o.s.setCore c (o.k.fault e len))
        | .ok ls =>
          match mcBefore o.s c o.k a.err i ls with
          | some (k5, e) => .inl (o.s.setCore c (k5.fault e len))
          | none =>
            if !i.ready then .inl s
            else
              let ops : List (Req × List Loc) := i.reqs.zip ls
              let s4 : State :=
                if a.err = some .corrected then
                  o.s.corrected (coreUnit c).1 (coreUnit c).2 (errPlace c o.k i ls).1 (errPlace c o.k i ls).2
                else o.s
              let w0 : Work := Work.touch { s := s4, c := c, k := o.k, pen := 0 } ops
              let (w1, bs) := w0.loads ops
              .inr { w := w1, k0 := k2, k := o.k, form := i, len := len, t := t
                     split := if i.ss then 0 else splitCycles ops
                     ls := ls, bs := bs, far := xfersAll c o.k ops
                     formed := if i.residue then a.err.bind HwErr.formed else none, s := s2 }

/-- SYND of a residue mismatch (Table 15-8): the residues predicted from the value `v` and those formed, and the
opcode. -/
def residueSynd (v : Int) (f : BitVec 4 × BitVec 4) (op : Byte) : W64 :=
  BitVec.ofNat 64 ((v % 9).toNat + f.1.toNat * 16 + (v % 11).toNat * 256 + f.2.toNat * 4096 + op.toNat * 65536)

/-- The residue check (R146, R147): the residues that the engine forms are compared, under each modulus, with those
predicted, which are the residues of the true value `v`. -/
def residueExn (c : CoreId) (k : Core) (op : Byte) (v : Int) (f : BitVec 4 × BitVec 4) : Option Exn :=
  if (v % 9).toNat = f.1.toNat ∧ (v % 11).toNat = f.2.toNat then none
  else some (mcPlain c k sevUnit 0xD 0x01 (residueSynd v f op))

/-- An instruction that reached its body ends: it completes, waits for an access outside the tile, or
raises an exception. -/
def Ready.perform (r : Ready) (d : Done) : State :=
  let wrong : Option Exn := d.res.bind (fun v => r.formed.bind (residueExn d.w.c d.w.k r.form.op v))
  let bad : Option Exn := wrong.or d.eff.exn
  let eff : Eff := { d.eff with exn := bad }
  match r.far ++ d.far with
  | x :: xs =>
    -- a fault leaves the Letterbox as it was: the load is made again
    let w2 : Work := if bad.isSome then { d.w with k := { d.w.k with lbox := r.k.lbox } } else d.w
    w2.await r.form r.len r.t r.split d.at_ eff d.busy (x :: xs)
  | [] =>
    match bad with
    | some x => { d.w with k := { d.w.k with now := r.t + d.at_ }.fault x r.len }.put
    | none => d.w.finish r.k r.form r.len r.t r.split eff d.busy

/-- One instruction reaches issue. Where the core cannot issue, the state stays as it is. -/
def State.issue (s : State) (a : Issue) (mk : State → Core → Insn) : State :=
  match s.issues a (fun s k => (mk s k).toForm) with
  | .inl t => t
  | .inr r => r.perform ((mk r.s r.k0).body r.w r.ls r.bs)

/-! ### Builders -/

/-- The answer of a command. -/
abbrev Res := Host.Outcome State Fault Refusal

/-- The command of an instruction: it always answers a next state. -/
def State.run (s : State) (a : Issue) (mk : State → Core → Insn) : Res := .next (s.issue a mk)

/-- Compatibility mode. -/
def Core.cm (k : Core) : Bool := pswBit k.bank.psw 9

/-- Whether the operand of a format M or L instruction is far. -/
def isFar (a : Issue) : Bool := a.pre == [.far]

/-- The operand access of a format M or L instruction: none in immediate mode. -/
def mReqs (a : Issue) (m : MOp) (k : Core) (read write : Bool) : List Req :=
  if mImm m then []
  else [{ ea := (mEa m k.bank).toNat, n := mLen m, far := isFar a, read := read, write := write, align := 0 }]

/-- The form of a format M or L instruction of a length class; `op` is the opcode of the M form (R106). -/
def mForm (a : Issue) (op : Nat) (m : MOp) (cls : LenCls) (immOk : Bool) (k : Core) (read write : Bool) :
    Form :=
  { Form.plain (BitVec.ofNat 8 (if m.long then op + 0x80 else op)) (if m.long then 6 else 4) with
    legal := mOk k.cm cls immOk m && (!m.long || decide (op < 0x60))
    pfx := pfxOk (.ml (mImm m || m.am == 5)) a.pre
    reqs := mReqs a m k read write }

/-- A format M or L instruction of a length class. -/
def mInsn (a : Issue) (op : Nat) (m : MOp) (cls : LenCls) (immOk : Bool) (k : Core) (read write : Bool)
    (body : Work → List (List Loc) → List (List Byte) → Done) : Insn :=
  { mForm a op m cls immOk k read write with body := body }

/-- The form of a format A instruction. -/
def aForm (a : Issue) (op : Nat) : Form :=
  { Form.plain (BitVec.ofNat 8 op) 1 with pfx := pfxOk .none a.pre }

/-- A format A instruction. -/
def aInsn (a : Issue) (op : Nat) (body : Work → List (List Loc) → List (List Byte) → Done) : Insn :=
  { aForm a op with body := body }

/-- The form of a format B instruction. -/
def bForm (a : Issue) (op : Nat) : Form :=
  { Form.plain (BitVec.ofNat 8 op) 2 with pfx := pfxOk .none a.pre }

/-- A format B instruction. -/
def bInsn (a : Issue) (op : Nat) (body : Work → List (List Loc) → List (List Byte) → Done) : Insn :=
  { bForm a op with body := body }

/-- The bytes of the first operand. -/
def op1 (bs : List (List Byte)) : List Byte := bs.headD []
/-- The bytes of the second operand. -/
def op2 (bs : List (List Byte)) : List Byte := (bs.drop 1).headD []

/-- A store to the first operand, whose access is `r`. -/
def stTo (w : Work) (r : Req) (ls : List (List Loc)) (bytes : List Byte) : StOp :=
  { ea := BitVec.ofNat 64 (r.addr w.c w.k), vias := r.vias w.c w.k, locs := ls.headD [], bytes := bytes }

/-- A format M or L instruction that stores bytes computed from the core. -/
def mStore (a : Issue) (op : Nat) (m : MOp) (cls : LenCls) (k : Core) (f : Core → List Byte) : Insn :=
  mInsn a op m cls false k false true (pureBody (fun w ls _ =>
    Eff.of [] ((mReqs a m k false true).map (fun r => stTo w r ls (f w.k))) 1))

/-- The far operands of an SS instruction (Table 3-7). -/
def isFar1 (a : Issue) : Bool := a.pre == [.far] || a.pre == [.far1]
def isFar2 (a : Issue) : Bool := a.pre == [.far] || a.pre == [.far2]

/-- An operand access of `n` bytes at the first or second operand address. -/
def ssReq1 (a : Issue) (o : SOp) (k : Core) (n : Nat) (read write : Bool) : Req :=
  { ea := (ssEa1 o k.bank).toNat, n := n, far := isFar1 a, read := read, write := write, align := 0 }
def ssReq2 (a : Issue) (o : SOp) (k : Core) (n : Nat) : Req :=
  { ea := (ssEa2 o k.bank).toNat, n := n, far := isFar2 a, read := true, write := false, align := 0 }

/-- The form of an SS instruction (R100, R101, Table 3-15). -/
def ssForm (a : Issue) (op : Nat) (o : SOp) (single : Bool) (k : Core) (reqs : List Req) : Form :=
  { Form.plain (BitVec.ofNat 8 (0x80 + 4 * op + o.l1.toNat / 8)) 6 with
    legal := (!single || o.l2 == 0) && (!k.cm || (decide (o.l1.toNat < 16) && decide (o.l2.toNat < 16)))
    pfx := pfxOk .ss a.pre, reqs := reqs, ss := true, micro := true }

/-- An SS instruction. -/
def ssInsn (a : Issue) (op : Nat) (o : SOp) (single : Bool) (k : Core) (reqs : List Req)
    (body : Work → List (List Loc) → List (List Byte) → Done) : Insn :=
  { ssForm a op o single k reqs with body := body }

/-- ACC.Q as a result. -/
def wrQ (v : W64) : RegWr := .acc 24 8 v.toNat

/-- An exception without address and detail (vectors 8 to 10 and 12). -/
def mkTrapless (vec : BitVec 6) : Exn := mkFault vec 0 0 0

end Sys2Proof.Machine
end

