-- ==== Sys2Proof/Machine/Entry.lean ====
section
/-! DEFINITION. Tasks, banks, exceptions and return (08): spill and fill, the task switch, taking an
exception as one operation, escalation, return and chaining. -/

namespace Sys2Proof.Machine

/-! ### Spills and fills (R206, R210, R212) -/

/-- A bank is spilled to an area of the own tile (R206). -/
def Work.spill (w : Work) (a : Nat) (b : Bank) : Work :=
  { w with s := (w.s.touchArea (engNo w.c) a 0xC0 true).wrN (tilePa (engNo w.c) a) (bankImage b) }

/-- Results in flight to a bank are written, in the cycles in which they fall due; the core waits for
the last (R190, R210 step 4). -/
def Core.landAll (k : Core) (cc : Bool) (i : Fin 5) : Core :=
  let t : Nat := (k.inflight.filter (fun f => f.bank == i)).foldl (fun a f => max a f.due) k.now
  { k.settle cc t with now := t }

/-- A bank from the most recent place on (R210). -/
def lruFront (i : Fin 4) (l : List (Fin 4)) : List (Fin 4) := i :: l.filter (fun j => j != i)

/-- An access of a bank outside the tile is still awaited. -/
def Core.bankBusy (k : Core) (i : Fin 5) : Bool := k.waits.any (fun w => w.bank == i)

/-- The bank that R210 step 1 chooses: an empty one, else the least recently current one other than
`avoid` and other than a bank that a background fill is using. -/
def Core.choose (k : Core) (avoid : Option (Fin 4)) : Option (Fin 4) :=
  let inBg (i : Fin 4) : Bool := match k.bg with | some g => g.bank == i | none => false
  match (List.finRange 4).find? (fun i => (k.res.get i).isNone && !inBg i) with
  | some i => some i
  | none => k.lru.reverse.find? (fun i => some i != avoid && !inBg i)

/-- A background fill of task `t` that is still running is completed at rank 2 (R212): the work, its bank and the
blocks that were outstanding, or the context-bank fault of an area without a context. -/
def Work.endFill (w : Work) (g : BgFill) : Except Exn (Work × Fin 4 × Nat) :=
  let n : Nat := engNo w.c
  let w1 : Work := { w.drainAll with pen := w.pen }
  let img : List Byte := areaWith (w1.s.rdN (tilePa n g.area) 0xC0) g.blocks
  if !(byteAt img 0x63).getLsbD 0 then .error (ctxFault 0 0x02 g.area g.task)
  else
    let k : Core := { w1.k.setBankAt g.bank.castSucc (bankOfImage img) with
      res := w1.k.res.set g.bank.val (some g.task), bg := none }
    .ok ({ w1 with s := w1.s.touchArea n g.area 0xC0 false, k := k }, g.bank, 12 - g.blocks.length)

/-- The task whose area cannot take a spill, when a bank is to be spilled (R210 step 2). -/
def Core.badVictim (k : Core) (i : Fin 4) : Option (BitVec 6) :=
  match k.res.get i with
  | some v => if areaOk (k.area v) then none else some v
  | none => none

/-- Task `t` is made resident (R210, R212): the work, its bank and the cycles of Table 8-4 beyond 2, or
the context-bank fault. -/
def Work.resident (w : Work) (t : BitVec 6) (avoid : Option (Fin 4)) : Except Exn (Work × Fin 4 × Nat) :=
  match w.k.bankOf? t with
  | some i => .ok (w, i, 0)
  | none =>
    match w.k.bg.filter (fun g => g.task == t) with
    | some g => w.endFill g
    | none =>
      let a : Nat := w.k.area t
      if !areaOk a then .error (ctxFault 0 0x01 a t)
      else
        let n : Nat := engNo w.c
        let (w1, blk) := w.loadTile (a + 0x60) 16
        if !(byteAt blk 3).getLsbD 0 then .error (ctxFault 0 0x02 a t)
        else
          match w1.k.choose avoid with
          | none => .error (ctxFault 0 0x02 a t)
          | some i =>
            match w1.k.badVictim i with
            | some v => .error (ctxFault 0 0x01 (w1.k.area v) v)
            | none =>
              let victim : Option (BitVec 6) := w1.k.res.get i
              let e : Nat := w1.k.sbuf.length
              let w2 : Work := { w1.drainAll with pen := w1.pen }
              let k2 : Core := w2.k.landAll (isCc w.c) i.castSucc
              let wait : Nat := k2.now - w2.k.now
              let w3 : Work :=
                match victim with
                | some v => { w2 with k := k2 }.spill (k2.area v) (k2.bankAt i.castSucc)
                | none => { w2 with k := k2 }
              let img : List Byte := w3.s.rdN (tilePa n a) 0xC0
              let k : Core := { w3.k.setBankAt i.castSucc (bankOfImage img) with
                res := w3.k.res.set i.val (some t), now := w.k.now }
              .ok ({ w3 with s := w3.s.touchArea n a 0xC0 false, k := k }, i,
                (if victim.isSome then 24 + e else 12) + wait)

/-! ### The task switch (R209 to R214) -/

/-- Task `t` in bank `i` becomes the running task; its first instruction is fetched as a branch target
from cycle `at_ - 1`, and not before every result in flight to its bank (R214). -/
def Core.runTask (k : Core) (x : Code) (i : Fin 4) (at_ : Nat) : Core :=
  let k1 : Core := { k with cur := i, lru := lruFront i k.lru, loopBuf := .empty, now := at_ }
  let k2 : Core := k1.landAll x.cc i.castSucc
  k2.fetchFrom k2.bank.pc (x.target (k2.now - 1) k2.bank.pc)

/-- The cycles from `t` on for which something waits for the posted stores acknowledged so far (R198). -/
def Core.ackWait (k : Core) (t : Nat) : Nat := k.ackAt - t

/-- The cycles up to the core's present one pass: the tile port serves what waits for it. -/
def Work.idle (w : Work) (upto : Nat) : Work :=
  let (s, k) := w.s.portTo w.c w.k upto
  { w with s := s, k := k }

/-- XTASK changes to `t` in bank `i`, with XBT (R209, R221). -/
def Core.newXtask (k : Core) (t : BitVec 6) (i : Fin 4) : Core :=
  let k1 : Core :=
    match k.bankOf? k.xtask with
    | some j => k.setBankAt j.castSucc { k.banks.get j with hbt := k.xbt }
    | none => k
  { k1 with xtask := t, xbt := (k1.banks.get i).hbt }

/-- SWITCH t issued in cycle `s0` by an engine, the PC of the current bank already moved on (R209). -/
def Work.switchTo (w : Work) (t : BitVec 6) (s0 : Nat) : Except Exn Work :=
  let avoid : Option (Fin 4) := if w.k.inShadow then w.k.bankOf? w.k.xtask else some w.k.cur
  match w.resident t avoid with
  | .error x => .error x
  | .ok (w1, i, extra) =>
    let at_ : Nat := s0 + 2 + extra + w1.pen + w1.k.ackWait s0
    if w1.k.inShadow then
      .ok { w1 with k := { w1.k.newXtask t i with loopBuf := .empty, now := at_ } }
    else
      let w2 : Work := w1.idle (at_ - 1)
      .ok { w2 with k := w2.k.runTask (w2.s.code w.c) i at_ }

/-! ### Descriptors (R215) -/

/-- A descriptor (Table 8-5). -/
structure Descr where
  handler : W32
  stack : W32
  v : Bool
  ch : Bool
  sup : Bool
  cm : Bool
  se : Bool
  key : BitVec 4
deriving DecidableEq, Repr

def descrOf (l : List Byte) : Descr :=
  let b : Byte := byteAt l 8
  { handler := BitVec.ofNat 32 (beAt l 0 4), stack := BitVec.ofNat 32 (beAt l 4 4), v := b.getLsbD 7
    ch := b.getLsbD 6, sup := b.getLsbD 5, cm := b.getLsbD 4, se := b.getLsbD 3
    key := (byteAt l 9).extractLsb' 4 4 }

/-- The descriptor of a vector is read, against the store buffer (R218 step 4). A control core, which
has no tile, reads it at the physical address DTB + v * 16 (DESIGN CHOICE, log 26). -/
def Work.descr (w : Work) (v : BitVec 6) : Work × Descr :=
  let a : Nat := w.k.dtb.toNat + v.toNat * 16
  if isCc w.c then (w, descrOf (w.s.rdN a 16))
  else
    let (w1, l) := w.loadTile a 16
    ({ w1 with s := w1.s.touchArea (engNo w.c) a 16 false }, descrOf l)

/-- PSW of a handler (R218 step 6). -/
def handlerPsw (p : W64) (d : Descr) : W64 :=
  setField (setBit (setBit (setBit (setBit (setBit p 12 d.sup) 9 d.cm) 8 false) 10 false) 11 false)
    16 4 d.key.toNat

/-! ### Taking an exception (R216 to R219) -/

/-- FCAUSE of an exception. -/
def Exn.cause (x : Exn) : W32 := BitVec.ofNat 32 (x.vec.toNat + x.cls.toNat * 64 + x.sub.toNat * 256)

/-- The machine-check registers (R416): a record is stored while MCR0.V = 0, else OVF is set. -/
def Core.mcStore (k : Core) (r : ErrRec) : Core :=
  if k.mcr[0].getLsbD 63 then { k with mcr := k.mcr.set 0 (setBit k.mcr[0] 62 true) }
  else
    let w (i : Nat) : W64 := BitVec.ofNat 64 (((recWords r false 1)[i]?).getD 0)
    { k with mcr := #v[w 0, w 1, w 2, w 3] }

/-- The fault registers and the machine-check record of an entry (R217, R416). -/
def Work.faultRegs (w : Work) (x : Exn) (cause : W32) : Work :=
  let k : Core := { w.k with fcause := cause, faddr := x.faddr, finfo := x.finfo }
  match x.mc with
  | some r => { w with s := w.s.report r, k := k.mcStore r }
  | none => { w with k := k }

/-- The shadow bank as the handler of `d` begins (R218 step 6), with the interrupted PSW and the value
for IY. The handler's first block is fetched in cycle c + 2, c being the core's present cycle (R219). -/
def Work.handler (w : Work) (d : Descr) (psw : W64) (iy : W32) : Work :=
  let c : Nat := w.k.now + w.pen
  let x : Code := w.s.code w.c
  let k : Core :=
    { w.k with shadow := { w.k.shadow with pc := d.handler, iy := iy, psw := handlerPsw psw d, slot := none }
               inShadow := true, loopBuf := .empty, now := c + 3 }
  { w with k := k.fetchFrom d.handler (if x.cc then [] else x.target (c + 2) d.handler), pen := 0, port := 0 }

/-- A core halts (R229, R415). -/
def Work.halt (w : Work) : Work :=
  let u : Nat × Nat := coreUnit w.c
  { w with s := w.s.report (plainRec (if isCc w.c then sevDevice else sevUnit) 0x40 u.1 u.2)
           k := { w.k with halted := true } }

/-- PSW of the interrupted task. -/
def Core.xpsw (k : Core) : W64 :=
  match k.bankOf? k.xtask with
  | some i => (k.banks.get i).psw
  | none => k.shadow.psw

/-- Escalation to vector 0 (R227 to R229) for exception `x`: `pc` for ESCPC, `cause` for ESCCAUSE, and
the sub-cause of vector 0. `bad` says that the entry of the escalation itself fails, which halts the core as a second
escalation does (R229; DEDUCED, log 100). -/
def Work.escalate (w : Work) (x : Exn) (pc : W32) (cause : W32) (sub : Nat) (bad : Bool) : Work :=
  if w.k.escalated then w.halt
  else
    let w1 : Work :=
      { w with k := { w.k with escpc := pc, escpsw := w.k.shadow.psw, esccause := cause, hold := none } }
    let w2 : Work := w1.faultRegs x (BitVec.ofNat 32 (sub * 256))
    let (w3, d) := w2.descr 0
    if bad || !d.v then w3.halt
    else
      let w4 : Work := w3.handler d w3.k.xpsw w3.k.esp
      { w4 with k := { w4.k with escalated := true } }

/-- ENTRY of ESCCAUSE: the failure arose during an entry (R228). -/
def escEntry : W32 := 0x80000000

/-- Exception `x` is entered through the shadow bank; the interrupted context is already saved and
XTASK set (R218 steps 2 to 6). `err` is an uncorrectable error in the descriptor read (R417). When HANDLER could not
be read, ESCPC is the shadow bank's PC as it stood (DESIGN CHOICE, log 101). -/
def Work.enter (w : Work) (x : Exn) (err : Option HwErr) : Work :=
  let (w1, d) := w.descr x.vec
  let at_ : Nat := w1.k.dtb.toNat + x.vec.toNat * 16
  if err = some .uncorrectable then
    w1.escalate (mcAt w1.s w1.c w1.k 0 (hopOf w1.s (.tile 0 .plain)) 0x11 (.tile at_ .plain) at_ 0)
      w1.k.shadow.pc (x.cause + escEntry) 0 false
  else if !d.v then w1.escalate x d.handler (x.cause + escEntry) 1 false
  else
    let w2 : Work := w1.faultRegs x x.cause
    w2.handler d w2.k.xpsw (if d.se then w2.k.esp else d.stack)

/-- The current task bank is left for an entry (R218 step 1, R220): a fault in a delay slot saves the
branch's PC with DS set and writes XBT; XTASK is the interrupted task. -/
def Core.leave (k : Core) (fault : Bool) : Core :=
  let b : Bank := k.bank
  let k1 : Core :=
    match (if fault then b.slot else none) with
    | some (bpc, next) =>
      { k.setBank { b with pc := bpc, psw := setBit b.psw 8 true, slot := none } with
          xbt := next.getD b.pc }
    | none => k.setBank { b with psw := setBit b.psw 8 false, slot := none }
  { k1 with xtask := k.task, trapHeld := k.trap.or k.trapHeld, ctxHeld := k.asyncCtx.or k.ctxHeld, trap := none
            asyncCtx := none, oneStep := false, fq := [], loopBuf := .empty, tgt := none }

/-! ### Priorities (R230) -/

/-- What is taken at a boundary. -/
inductive Item where
  | mc (x : Exn)
  | trap (x : Exn)
  | trace
  | ctx (x : Exn)
  | event (i : Nat)
  | fault (x : Exn)
deriving DecidableEq, Repr

/-- The item of ranks 2 to 6, taken outside the shadow bank; `trap` is the trap of the instruction just
completed. -/
def Core.item (k : Core) (takeable : Option Nat) : Option Item :=
  match k.asyncMc, k.trap, k.asyncCtx with
  | some x, _, _ => some (.mc x)
  | none, some x, _ => some (.trap x)
  | none, none, c =>
    if k.tracePend then some .trace
    else
      match c with
      | some x => some (.ctx x)
      | none => takeable.map Item.event

/-- The item that is taken now in a task bank (R220, R226, R230): the fault of a held access goes before an
event (R203). -/
def Core.pick (k : Core) : Option Item :=
  let fault : Option Item := k.exn.map Item.fault
  if k.bank.slot.isSome || k.oneStep then fault
  else
    match k.item (if k.exnFar then none else k.takeable) with
    | some i => some i
    | none => fault

/-- The exception of an item. -/
def Core.itemExn (k : Core) : Item → Exn
  | .mc x => x
  | .trap x => x
  | .trace => { vec := 13, cls := 1, sub := 0, faddr := 0, finfo := 0, mc := none }
  | .ctx x => x
  | .event i =>
    { vec := BitVec.ofNat 6 (32 + i), cls := 2, sub := 0, faddr := 0
      finfo := ((spGet (⟨0, false⟩ : Route) k.evroute i).src).zeroExtend 32, mc := none }
  | .fault x => x

/-- What stays pending once an item is taken: a fault not taken is raised again (R230). -/
def Core.clearItem (k : Core) (i : Item) : Core :=
  let k1 : Core := { k with exn := none, exnFar := false, entryMc := none }
  match i with
  | .mc _ => { k1 with asyncMc := none }
  | .trap _ => { k1 with trap := none }
  | .trace => { k1 with tracePend := false }
  | .ctx _ => { k1 with asyncCtx := none }
  | .event j => { k1 with evpend := setBit k1.evpend j false }
  | .fault _ => k1

/-- The length of the instruction at an address as the core would execute it (R88, Table 3-1). -/
def State.slotLen (s : State) (c : CoreId) (k : Core) (a : W32) : Nat :=
  if isCc c then
    codeLen s ((List.range 16).map (fun i =>
      match (ccXlate k s (ccVa k k.bank.fseg ((a.toNat + i) % 2 ^ 32)) false false false false).2 with
      | .ok pa => s.ccByte k.sup pa
      | .error _ => 0))
  else codeLen s ((List.range 16).map (fun i => k.codeByte (s.code c) (a.toNat + i)))

/-- The cycle in which the next instruction would otherwise issue (R219). -/
def Work.nextAt (w : Work) : Nat :=
  (w.k.fetchStart (w.s.code w.c) (w.s.slotLen w.c w.k w.k.bank.pc)).1

/-- Cycle c of an item (R219), and the wait of R218 step 3. -/
def Work.at (w : Work) (boundary : Bool) : Work :=
  let t : Nat := max (if boundary then w.nextAt else w.k.now) w.k.ackAt
  { w with k := { w.k with now := t } }.idle t

/-- An item is entered from a task bank. A posted store that failed while the entry waited for it escalates (R218
step 3, R227). -/
def Work.take (w : Work) (i : Item) (err : Option HwErr) : Work :=
  let x : Exn := w.k.itemExn i
  let isFault : Bool := match i with | .fault _ => true | _ => false
  let boundary : Bool := match i with | .mc _ => true | .ctx _ => true | .event _ => true | _ => false
  let w1 : Work := w.at boundary
  let k : Core := { (w1.k.clearItem i).leave isFault with hold := none }
  match w.k.entryMc with
  | some y => { w1 with k := k }.escalate y k.shadow.pc (x.cause + escEntry) 0 false
  | none => { w1 with k := k }.enter x err

/-- What escalates in the shadow bank: a fault, a trap or a context-bank fault (R227). -/
def Core.shadowExn (k : Core) : Option Exn :=
  match k.exn, k.trap, k.asyncCtx with
  | some x, _, _ => some x
  | none, some x, _ => some x
  | none, none, c => c

/-- EXCEPTION_ENTRY (R218 to R230). ESCPC of a trap in a handler is the address after it, where the shadow bank's PC
stands (DESIGN CHOICE, log 102). -/
def Work.entry (w : Work) (err : Option HwErr) : Work :=
  if w.k.inShadow then
    match w.k.shadowExn with
    | none => w
    | some x =>
      let async : Bool := w.k.exn.isNone && w.k.trap.isNone
      let w1 : Work := w.at async
      let bad : Bool := err == some .uncorrectable || w.k.entryMc.isSome
      let w2 : Work :=
        { w1 with k := { w1.k with exn := none, exnFar := false, entryMc := none, trap := none, oneStep := false
                                   asyncCtx := if async then none else w1.k.asyncCtx } }
      w2.escalate x w2.k.shadow.pc (w2.k.fcause &&& 0xFFFF) 0 bad
  else
    match w.k.pick with
    | none => w
    | some i => w.take i err

/-- Whether an entry can be made: the core runs, no held access or hold but WAIT is in force, every
posted store is acknowledged (R198, R203, R218). -/
def State.canEnter (s : State) (c : CoreId) : Bool :=
  let k : Core := s.core c
  s.runs c && (k.hold.isNone || k.hold == some .wait) && !k.awaiting && k.posted.isEmpty

/-! ### Return (R221, R225, R226) -/

/-- The slot that would be taken for a task once its bank is current (R233). -/
def Core.takeableIn (k : Core) (i : Fin 4) : Option Nat :=
  { k with inShadow := false, cur := i }.takeable

/-- RETX completes: XTASK's bank is current at its PC, or in its delay slot when DS is 1; the target
issues under R196 with D = 3. `pending` says that an exception is to be taken after one instruction. -/
def Work.return (w : Work) (i : Fin 4) (extra : Nat) (pending : Bool) : Work :=
  let b : Bank := w.k.banks.get i
  let t : Nat := w.k.now
  let x : Code := w.s.code w.c
  let k : Core := { w.k with inShadow := false, escalated := false, cur := i, lru := lruFront i w.k.lru
                             oneStep := pending, loopBuf := .empty, fq := [], now := t + 4 + extra }
  let ds : Bool := pswBit b.psw 8
  let pc : W32 := if ds then b.pc + BitVec.ofNat 32 (w.s.slotLen w.c (k.setBank b) b.pc) else b.pc
  let b1 : Bank :=
    if ds then { b with psw := setBit b.psw 8 false, pc := pc, slot := some (b.pc, some k.xbt) }
    else { b with slot := none }
  let k1 : Core := (k.setBankAt i.castSucc b1).fetchFrom pc (if x.cc then [] else x.target (t + extra) pc)
  -- the XBT block is fetched in the cycle after the delay slot issues (R221)
  let k2 : Core := { k1 with tgt := if ds then some { addr := k.xbt, start := 0, code := [], slotIn := false } else none }
  { w with k := k2.landAll (isCc w.c) i.castSucc }

/-- RETX issued in the core's present cycle: the work, or a context-bank fault; `err` is an uncorrectable error in the
descriptor read of a chained entry. -/
def Work.retx (w : Work) (err : Option HwErr) : Except Exn Work :=
  let r : Except Exn (Work × Fin 4 × Nat) :=
    if isCc w.c then .ok (w, 0, 0) else w.resident w.k.xtask none
  match r with
  | .error x => .error x
  | .ok (w1, i, extra) =>
    -- what the entry left pending belongs to the returning task again
    let w1 : Work :=
      { w1 with k := { w1.k with trap := w1.k.trapHeld, asyncCtx := w1.k.ctxHeld, trapHeld := none, ctxHeld := none } }
    match w1.k.item (w1.k.takeableIn i) with
    | none => .ok (w1.return i extra false)
    | some it =>
      let x : Exn := w1.k.itemExn it
      let (w2, d) := w1.descr x.vec
      if d.ch then
        -- chaining: the task bank, XTASK and XBT are left as they are
        let k : Core := w2.k.clearItem it
        let k1 : Core := { k with escalated := false, now := max (k.now + extra) k.ackAt, trapHeld := k.trap, ctxHeld := k.asyncCtx
                                  trap := none, asyncCtx := none }
        .ok ({ w2 with k := k1 }.enter x err)
      else .ok (w1.return i extra true)

end Sys2Proof.Machine
end

