-- ==== Sys2Proof/Machine/Control.lean ====
section
/-! DEFINITION. Index, control and system instructions (02, 03, 07 R192, 08). -/

namespace Sys2Proof.Machine

/-- A trap of an instruction (R216). -/
def trapExn (vec : Nat) : Exn :=
  { vec := BitVec.ofNat 6 vec, cls := 1, sub := 0, faddr := 0, finfo := 0, mc := none }

/-- NOP (R192). -/
def execNop (a : Issue) (s : State) : Res :=
  s.run a (fun _ _ => aInsn a 0x00 (pureBody (fun _ _ _ => Eff.of [] [] 1)))

/-- WAIT (R234). -/
def execWait (a : Issue) (s : State) : Res :=
  s.run a (fun _ _ => aInsn a 0x01 (workBody (fun w =>
    ({ w with k := { w.k with hold := if w.k.waitOver then none else some .wait } }, Eff.of [] [] 1))))

/-! ### Branches, calls and loops (R58, R59, R109 to R111) -/

/-- RET (R58, R59). -/
def execRet (a : Issue) (s : State) : Res :=
  s.run a (fun _ _ => { aInsn a 0x02 (pureBody (fun w _ _ =>
    let b : Bank := w.k.bank
    if b.rsp = 0 then
      if pswBit b.psw eRSE then Eff.fail (mkTrapless 12)
      else
        let p : W64 := (1 : W64) <<< sRSS
        { Eff.of [(1, .psw p p)] [] 1 with act := .branch 0 false }
    else
      { Eff.of [(1, .rsp (b.rsp - 1))] [] 1 with act := .branch (b.rseAt (b.rsp.toNat - 1)) true })) with
    slotBar := true, branch := true })

/-- The writes of a push of the return stack (R58, R59): none when vector 12 is raised. -/
def pushWr (b : Bank) (v : W32) : Option (List (Nat × RegWr)) :=
  if b.rsp.toNat < 16 then some [(1, .rse (Fin.ofNat 16 b.rsp.toNat) v), (1, .rsp (b.rsp + 1))]
  else if pswBit b.psw eRSE then none
  else
    let p : W64 := (1 : W64) <<< sRSS
    some ((List.finRange 16).map (fun i => (1, RegWr.rse i (if i.val = 15 then v else b.rseAt (i.val + 1))))
      ++ [(1, .rsp 16), (1, .psw p p)])

/-- Whether the addressing mode names a branch target (R110). -/
def branchMode (m : MOp) : Bool := [1, 2, 3, 5].contains m.am.toNat

/-- BCC (R109, R110). -/
def execBcc (a : Issue) (m : MOp) (s : State) : Res :=
  s.run a (fun _ k =>
    { mInsn a 0x5C m .any false k false false (pureBody (fun w _ _ =>
        { Eff.of [] [] 1 with act := .branch (mEa m w.k.bank) (condHolds w.k.bank.psw m.len.toNat) })) with
      legal := branchMode m && decide (m.len.toNat ≤ 0x10) && mOk false .any false m
      pfx := pfxOk .none a.pre, reqs := [], slotBar := true, branch := true })

/-- CALL (R58, R110). -/
def execCall (a : Issue) (m : MOp) (s : State) : Res :=
  s.run a (fun _ k =>
    { mInsn a 0x5D m .z false k false false (pureBody (fun w _ _ =>
        let b : Bank := w.k.bank
        let slot : W32 := b.pc + BitVec.ofNat 32 (if m.long then 6 else 4)
        match pushWr b (slot + BitVec.ofNat 32 (w.s.slotLen w.c w.k slot)) with
        | none => Eff.fail (mkTrapless 12)
        | some l => { Eff.of l [] 1 with act := .branch (mEa m b) true })) with
      legal := branchMode m && mOk false .z false m
      pfx := pfxOk .none a.pre, reqs := [], slotBar := true, branch := true })

/-- A hardware loop over `[pc + 4, le)` with a count; a count of 0 jumps to `le` (R61, R65, R111, R196). The
new loop replaces an active one before the instruction's own end is compared with LE. -/
def loopInsn (a : Issue) (op : Nat) (ok : Bool) (le : Bank → W32) (count : Bank → W32) : Insn :=
  { Insn.plain (BitVec.ofNat 8 op) 4 (workBody (fun w =>
      let b : Bank := w.k.bank
      let ls : W32 := b.pc + 4
      ({ w with k := { w.k.setBank { b with lc := count b, ls := ls, le := le b } with loopBuf := loopBegin ls (le b) } },
        { Eff.of [(1, .lc (count b)), (1, .ls ls), (1, .le (le b))] [] 1 with
          act := if count b = 0 then .jump (le b) else .seq }))) with
    legal := ok, pfx := pfxOk .none a.pre, slotBar := true }

/-- LOOPI (R111). -/
def execLoopi (a : Issue) (b1 : Byte) (d : W16) (s : State) : Res :=
  s.run a (fun _ _ => loopInsn a 0x6A true (fun b => b.pc + 5 + b1.zeroExtend 32) (fun _ => d.zeroExtend 32))

/-- LOOPX (R111). -/
def execLoopx (a : Issue) (b1 : Byte) (d : W16) (s : State) : Res :=
  s.run a (fun _ _ => loopInsn a 0x6B (b1 == 0 && d != 0) (fun b => b.pc + 4 + d.zeroExtend 32) (fun b => b.ix))

/-- The code from `a` on, as fetched in a cycle: what FLUSHI leaves in the queue. -/
def Core.flushTo (k : Core) (x : Code) (cyc : Nat) (a : W32) : Core :=
  if x.cc then { k with loopBuf := .empty }
  else { k with loopBuf := .empty, fqAt := a, fq := x.block cyc a.toNat, fetchAt := cyc + 1 }

/-- FLUSHI (R89): 3 cycles and one for each entry drained; the next instruction is fetched again, after every earlier
store has reached the tile. -/
def execFlushi (a : Issue) (s : State) : Res :=
  s.run a (fun _ _ => { aInsn a 0x04 (workBody (fun w =>
    let w1 : Work := w.drainAll
    ({ w1 with k := w1.k.flushTo (w1.s.code w1.c) (w1.k.now + w1.pen + 1) (w1.k.bank.pc + 1) },
      Eff.of [] [] 3))) with slotBar := true })

/-- DRAIN (R192, R198). -/
def execDrain (a : Issue) (s : State) : Res :=
  s.run a (fun _ _ => aInsn a 0x05 (workBody (fun w =>
    let w1 : Work := w.drainAll
    ({ w1 with k := { w1.k with hold := if w1.k.posted = [] then none else some .drain
                                now := max w1.k.now w1.k.ackAt } }, Eff.of [] [] 1))))

/-! ### Index registers (R192) -/

/-- A one-cycle write of an index register. -/
def ixInsn (f : Bank → RegWr) : Work → List (List Loc) → List (List Byte) → Done :=
  pureBody (fun w _ _ => Eff.of [(1, f w.k.bank)] [] 1)

/-- INCX (R192). -/
def execIncx (a : Issue) (s : State) : Res := s.run a (fun _ _ => aInsn a 0x14 (ixInsn (fun b => .ix (b.ix + 1))))
/-- DECX (R192). -/
def execDecx (a : Issue) (s : State) : Res := s.run a (fun _ _ => aInsn a 0x15 (ixInsn (fun b => .ix (b.ix - 1))))
/-- INCY (R192). -/
def execIncy (a : Issue) (s : State) : Res := s.run a (fun _ _ => aInsn a 0x16 (ixInsn (fun b => .iy (b.iy + 1))))
/-- DECY (R192). -/
def execDecy (a : Issue) (s : State) : Res := s.run a (fun _ _ => aInsn a 0x17 (ixInsn (fun b => .iy (b.iy - 1))))
/-- TXY (R192). -/
def execTxy (a : Issue) (s : State) : Res := s.run a (fun _ _ => aInsn a 0x18 (ixInsn (fun b => .iy b.ix)))
/-- TYX (R192). -/
def execTyx (a : Issue) (s : State) : Res := s.run a (fun _ _ => aInsn a 0x19 (ixInsn (fun b => .ix b.iy)))
/-- ADDIX (R192). -/
def execAddix (a : Issue) (sel : Byte) (s : State) : Res :=
  s.run a (fun _ _ => bInsn a 0x24 (ixInsn (fun b => .ix (b.ix + sel.signExtend 32))))
/-- ADDIY (R192). -/
def execAddiy (a : Issue) (sel : Byte) (s : State) : Res :=
  s.run a (fun _ _ => bInsn a 0x25 (ixInsn (fun b => .iy (b.iy + sel.signExtend 32))))

/-- A load of an index register: latency 2, or 1 in immediate mode (Table 7-1). -/
def ldiInsn (a : Issue) (op : Nat) (m : MOp) (k : Core) (f : W32 → RegWr) : Insn :=
  mInsn a op m .i true k true false (pureBody (fun _ _ bs =>
    if mImm m then Eff.of [(1, f (mDisp m))] [] 1
    else Eff.of [(2, f (BitVec.ofNat 32 (beNat (op1 bs))))] [] 1))

/-- LDIX (R192). -/
def execLdix (a : Issue) (m : MOp) (s : State) : Res := s.run a (fun _ k => ldiInsn a 0x56 m k .ix)
/-- LDIY (R192). -/
def execLdiy (a : Issue) (m : MOp) (s : State) : Res := s.run a (fun _ k => ldiInsn a 0x57 m k .iy)
/-- STIX (R192). -/
def execStix (a : Issue) (m : MOp) (s : State) : Res :=
  s.run a (fun _ k => mStore a 0x58 m .i k (fun k => beBytes 4 k.bank.ix.toNat))
/-- STIY (R192). -/
def execStiy (a : Issue) (m : MOp) (s : State) : Res :=
  s.run a (fun _ k => mStore a 0x59 m .i k (fun k => beBytes 4 k.bank.iy.toNat))

/-- A class Z instruction that uses its effective address only, near only. -/
def eaInsn (a : Issue) (op : Nat) (m : MOp) (k : Core)
    (body : Work → List (List Loc) → List (List Byte) → Done) : Insn :=
  { mInsn a op m .z true k false false body with pfx := pfxOk .none a.pre, reqs := [] }

/-- LEAX (R192). -/
def execLeax (a : Issue) (m : MOp) (s : State) : Res :=
  s.run a (fun _ k => eaInsn a 0x5A m k (ixInsn (fun b => .ix (mEa m b))))
/-- LEAY (R192). -/
def execLeay (a : Issue) (m : MOp) (s : State) : Res :=
  s.run a (fun _ k => eaInsn a 0x5B m k (ixInsn (fun b => .iy (mEa m b))))

/-! ### Traps and unassigned opcodes -/

/-- TRAP (R216, Table 3-13). -/
def execTrap (a : Issue) (sel : Byte) (s : State) : Res :=
  s.run a (fun _ _ => { bInsn a 0x23 (pureBody (fun _ _ _ =>
    { Eff.of [] [] 1 with act := .trap (trapExn (16 + sel.toNat)) })) with
    legal := decide (sel.toNat < 16), slotBar := true })

/-- SVC (R118): vector 16 in compatibility mode, unassigned in native mode. -/
def execSvc (a : Issue) (_sel : Byte) (s : State) : Res :=
  s.run a (fun _ k => { bInsn a 0x2F (pureBody (fun _ _ _ =>
    { Eff.of [] [] 1 with act := .trap (trapExn 16) })) with legal := k.cm, slotBar := true })

/-- UNASSIGNED_OPCODE (R113): illegal instruction. -/
def execUnassignedOpcode (a : Issue) (b : Byte) (s : State) : Res :=
  s.run a (fun s k =>
    { Insn.plain b (if 0xF0 ≤ b.toNat then 1 + s.slotLen a.core k (k.bank.pc + BitVec.ofNat 32 (a.pre.length + 1))
        else opLen s b.toNat) (pureBody (fun _ _ _ => Eff.of [] [] 1)) with legal := false })

/-! ### Special registers (R68 to R71, R207, R255, R260, R416) -/

/-- User access to a special register (Table 2-5): reserved numbers are neither. -/
inductive Access where
  | rw
  | read
  | none
  | reserved
deriving DecidableEq, Repr

def specAccess (cc : Bool) (n : Nat) : Access :=
  if n = 0x00 then .rw
  else if n = 0x01 then .read
  else if n ≤ 0x0C then .rw
  else if n < 0x10 then .reserved
  else if n < 0x20 then .rw
  else if n = 0x22 then .read
  else if n < 0x30 then
    if cc && (n == 0x23 || (decide (0x25 ≤ n) && decide (n ≤ 0x28))) then .reserved else .none
  else if n ≤ 0x32 then .read
  else if n < 0x38 then .reserved
  else if n ≤ 0x3C then if !cc && (n == 0x3A || n == 0x3B) then .reserved else .none
  else if n < 0x40 then .reserved
  else if n ≤ 0x42 then .none
  else if n < 0x48 then .reserved
  else if n ≤ 0x4B then .none
  else if n < 0x50 then .reserved
  else if n ≤ 0x55 then .none
  else .reserved

/-- The parity bits of a microword (R239): each half with its bit holds an odd number of ones. -/
def withParity (w : W32) : Nat :=
  w.toNat + (if oddOnes 16 (w.toNat % 65536) then 0 else 2 ^ 32) + (if oddOnes 16 (w.toNat / 65536) then 0 else 2 ^ 33)

/-- A word of the control store: vendor ROM, the installed image, or Arcade RAM that no image wrote. -/
def State.ctlWord (s : State) (a : Nat) : W32 :=
  if a < 0xC00 then Config.vendorRom a else (spGet? s.arcade.words a).getD (Config.arcadeRam a)

/-- TRES (Table 8-3). -/
def Core.tres (k : Core) : Nat :=
  (List.finRange 4).foldl (fun v i =>
    match k.res.get i with
    | some t => v + (t.toNat + 128) * 2 ^ (8 * i.val)
    | none => v) 0

/-- What MFS reads (R68): reserved and write-only numbers read zero. -/
def specRead (s : State) (c : CoreId) (k : Core) (n : Nat) : W64 :=
  let cc : Bool := isCc c
  let z (v : Nat) : W64 := BitVec.ofNat 64 v
  if n < 0x20 then k.bank.spec n
  else if specAccess cc n = .reserved then 0
  else match n with
    | 0x20 => z k.dtb.toNat
    | 0x21 => z k.esp.toNat
    | 0x22 => z k.task.toNat
    | 0x23 => z k.swth.toNat
    | 0x24 => if cc then k.savp else z k.tsb.toNat
    | 0x25 => k.trdy
    | 0x28 => z k.tres
    | 0x29 => z k.xsel.toNat
    | 0x2A => k.xdatRead
    | 0x2B => z k.xbt.toNat
    | 0x2C => z k.escpc.toNat
    | 0x2D => k.escpsw
    | 0x2E => z k.esccause.toNat
    | 0x2F => z k.xtask.toNat
    | 0x30 => match c with | .eng e => z e.val | .cc i => (Config.ccEngid i.val).zeroExtend 64
    | 0x31 => z k.now
    | 0x32 => z k.retired
    | 0x38 => z k.tten.toNat
    | 0x39 => z k.tctl.toNat
    | 0x3A => k.ptroot
    | 0x3B => z k.fsegx.toNat
    | 0x3C => z (s.syncing c).toNat
    | 0x40 => z k.fcause.toNat
    | 0x41 => k.faddr
    | 0x42 => z k.finfo.toNat
    | 0x48 => k.mcr[0]
    | 0x49 => k.mcr[1]
    | 0x4A => k.mcr[2]
    | 0x4B => k.mcr[3]
    | 0x50 => z s.arcgen.toNat
    | 0x51 => z k.acsel.toNat
    | 0x52 => z (withParity (s.ctlWord k.acsel.toNat))
    | 0x53 => z k.aetsel.toNat
    | 0x54 => spGet 0 s.arcade.entries k.aetsel.toNat
    | 0x55 => z k.uperr.toNat
    | _ => 0

/-- MFS (R68, R69). -/
def execMfs (a : Issue) (sel : Byte) (s : State) : Res :=
  s.run a (fun s k => { bInsn a 0x20 (pureBody (fun w _ _ =>
    Eff.of [(1, wrQ (specRead s w.c w.k sel.toNat))] [] 1)) with
    priv := !k.sup && specAccess (isCc a.core) sel.toNat == .none })

/-- The PSW fields that user state may not change: DS, CM, IE, TE, SUP, KEY and RSE (R54). -/
def pswPriv : W64 := 0x080F1F00

/-- Whether a user-state PSW write of `v` is refused (R54). -/
def pswRefused (k : Core) (v : W64) : Bool :=
  !k.sup && (pswWritten k.bank.psw v &&& pswPriv) != (k.bank.psw &&& pswPriv)

/-- MTS to TPRE (R212): a background fill starts when the task is not resident, a bank is empty and no
fill is running; an invalid area is an asynchronous exception. -/
def Core.tpre (k : Core) (t : BitVec 6) : Core :=
  if (k.bankOf? t).isSome || k.bg.isSome then k
  else
    match (List.finRange 4).find? (fun i => (k.res.get i).isNone) with
    | none => k
    | some i =>
      if areaOk (k.area t) then { k with bg := some { task := t, bank := i, area := k.area t, blocks := [] } }
      else if k.asyncCtx.isSome then k
      else { k with asyncCtx := some (ctxFault 3 0x01 (k.area t) t) }

/-- MTS to TEVICT (R212): the work and the cycles for which the next instruction is held. -/
def Work.tevict (w : Work) (t : BitVec 6) : Work × Nat :=
  match w.k.bankOf? t with
  | none => (w, 0)
  | some i =>
    if t = w.k.task ∨ t = w.k.xtask then (w, 0)
    else if areaOk (w.k.area t) then
      let w1 : Work := w.drainAll
      let k1 : Core := w1.k.landAll (isCc w.c) i.castSucc
      let w2 : Work := { w1 with k := k1 }.spill (k1.area t) (k1.bankAt i.castSucc)
      ({ w2 with k := { w2.k with res := w2.k.res.set i.val none, now := w.k.now } }, 12 + (k1.now - w.k.now))
    else if w.k.asyncCtx.isSome then (w, 0)
    else ({ w with k := { w.k with asyncCtx := some (ctxFault 3 0x01 (w.k.area t) t) } }, 0)

/-- MTS to a number (R56, R68 to R71, R207). -/
def mtsInsn (a : Issue) (sel : Byte) (k : Core) : Insn :=
  let n : Nat := sel.toNat
  let cc : Bool := isCc a.core
  let acc : Access := specAccess cc n
  { bInsn a 0x21 (workBody (fun w =>
      let v : W64 := w.k.bank.q
      if n = 0x00 then (w, Eff.of [(5, .psw (BitVec.allOnes 64) (pswWritten w.k.bank.psw v))] [] 5)
      else if n < 0x20 then
        (w, Eff.of (match bankSpecWr w.k.bank.psw n v with | some r => [(2, r)] | none => []) [] 1)
      else if acc = .reserved then (w, Eff.of [] [] 1)
      else if n = 0x26 then ({ w with k := w.k.tpre (v.truncate 6) }, Eff.of [] [] 1)
      else if n = 0x27 then
        let r : Work × Nat := w.tevict (v.truncate 6)
        (r.1, Eff.of [] [] (1 + r.2))
      else if n = 0x2A then (w, Eff.of (match w.k.xdatWr v with | some r => [(2, r)] | none => []) [] 1)
      else (w, Eff.of [(2, .spec sel v)] [] 1))) with
    slotBar := sel == 0
    priv := (!k.sup && (acc == .none || acc == .read)) || (sel == 0 && pswRefused k k.bank.q) }

/-- Whether the bank of a task awaits an access outside the tile (R210 step 4). -/
def Core.taskBusy (k : Core) (t : BitVec 6) : Bool :=
  match k.bankOf? t with | some i => k.bankBusy i.castSucc | none => false

/-- MTS to a number, which a TEVICT of a task whose bank awaits a load delays (R210 step 4). -/
def mtsWaits (a : Issue) (sel : Byte) (k : Core) : Insn :=
  { mtsInsn a sel k with ready := !(sel == 0x27 && !isCc a.core && k.taskBusy (k.bank.q.truncate 6)) }

/-- MTS (R68 to R71). -/
def execMts (a : Issue) (sel : Byte) (s : State) : Res := s.run a (fun _ k => mtsWaits a sel k)

/-- TPRE (R212): the MTS whose number is TPRE. -/
def execTpre (a : Issue) (s : State) : Res := s.run a (fun _ k => mtsWaits a 0x26 k)

/-- TEVICT (R212): the MTS whose number is TEVICT. -/
def execTevict (a : Issue) (s : State) : Res := s.run a (fun _ k => mtsWaits a 0x27 k)

/-! ### SWITCH and RETX (R209 to R214, R225) -/

/-- The bank that a switch to `t` would spill, when it awaits an access outside the tile. -/
def Core.victimBusy (k : Core) (t : BitVec 6) : Bool :=
  if (k.bankOf? t).isSome then false
  else
    match k.choose (if k.inShadow then k.bankOf? k.xtask else some k.cur) with
    | some i => k.bankBusy i.castSucc
    | none => false

/-- Whether a switch to `t` can take effect: posted stores acknowledged, no awaited access in the bank
it spills (R209, R210). -/
def Core.switchReady (k : Core) (t : BitVec 6) : Bool :=
  k.task == t || (k.posted.isEmpty && !k.victimBusy t)

/-- SWITCH (R209, R235). It waits for posted stores. FADDR of vector 14 with sub-cause 0x03 is 0: a control core has no
save area of the task (DESIGN CHOICE, log 103). -/
def switchInsn (a : Issue) (sel : Byte) (k : Core) : Insn :=
  let t : BitVec 6 := sel.truncate 6
  { bInsn a 0x22 (workBody (fun w =>
      if w.k.task = t then (w, Eff.of [] [] 2)
      else if isCc w.c then (w, Eff.fail (ctxFault 0 0x03 0 t))
      else
        let k1 : Core := if w.k.inShadow then w.k else w.k.seqEnd 2 []
        match { w with k := k1 }.switchTo t w.k.now with
        | .error x => (w, Eff.fail x)
        | .ok w1 => (w1, { Eff.of [] [] 2 with act := if w.k.inShadow then .seq else .moved }))) with
    legal := decide (sel.toNat < 64), r3 := false, priv := !k.sup, slotBar := true, ready := k.switchReady t }

/-- SWITCH (R209). -/
def execSwitch (a : Issue) (sel : Byte) (s : State) : Res := s.run a (fun _ k => switchInsn a sel k)

/-- Whether RETX would chain or leave an exception pending while posted stores are outstanding. -/
def Core.returnWaits (k : Core) : Bool :=
  !k.posted.isEmpty && (k.asyncMc.isSome || k.trapHeld.isSome || k.tracePend || k.ctxHeld.isSome
    || (match k.bankOf? k.xtask with | some i => (k.takeableIn i).isSome | none => true))

/-- RETX (R225, R226): legal in the shadow bank only. -/
def retxInsn (a : Issue) (k : Core) : Insn :=
  { aInsn a 0x03 (workBody (fun w =>
      match w.retx a.err with
      | .error x => (w, Eff.fail x)
      | .ok w1 => (w1, { Eff.of [] [] 0 with act := .moved }))) with
    legal := k.inShadow, priv := !k.sup, slotBar := true, ready := !k.returnWaits }

/-- RETX (R225). -/
def execRetx (a : Issue) (s : State) : Res := s.run a (fun _ k => retxInsn a k)

/-! ### SMM, LMM, SAVEH and LOADH (R223, R224, R236) -/

/-- A 32-byte slot of a register group (Table 8-8). -/
def groupSlot (b : Bank) (g : Nat) : List Byte :=
  let r (l : List Nat) : List Byte := (l.map (fun i => beBytes 4 (b.rseAt i).toNat)).flatten
  fit 32 (match g with
    | 7 => beBytes 32 b.acc.toNat
    | 6 => beBytes 4 b.ix.toNat ++ beBytes 4 b.iy.toNat ++ beBytes 4 b.lc.toNat ++ beBytes 4 b.ls.toNat
        ++ beBytes 4 b.le.toNat ++ beBytes 2 b.fseg.toNat
    | 5 => beBytes 8 b.mph.toNat ++ beBytes 8 b.mpl.toNat
    | 4 => beBytes 8 b.dvq.toNat ++ beBytes 8 b.dvm.toNat
    | 3 => beBytes 8 b.psw.toNat ++ beBytes 1 b.rsp.toNat
    | 2 => r (List.range 8)
    | 1 => r ((List.range 8).map (fun i => i + 8))
    | _ => zeros 16 ++ beBytes 16 (accGet b.acc 16 16))

/-- The register writes of a group's slot. -/
def groupLoad (b : Bank) (g : Nat) (l : List Byte) : List RegWr :=
  let w32 (o : Nat) : W32 := BitVec.ofNat 32 (beAt l o 4)
  let w64 (o : Nat) : W64 := BitVec.ofNat 64 (beAt l o 8)
  match g with
  | 7 => [.acc 0 32 (beAt l 0 32)]
  | 6 => [.ix (w32 0), .iy (w32 4), .lc (w32 8), .ls (w32 12), .le (w32 16), .fseg (BitVec.ofNat 16 (beAt l 20 2))]
  | 5 => [.mph (w64 0), .mpl (w64 8)]
  | 4 => [.dvq (w64 0), .dvm (w64 8)]
  | 3 => [.psw (BitVec.allOnes 64) (pswWritten b.psw (w64 0)), .rsp (rspWritten (beAt l 8 1))]
  | 2 => (List.range 8).map (fun i => RegWr.rse (Fin.ofNat 16 i) (w32 (4 * i)))
  | 1 => (List.range 8).map (fun i => RegWr.rse (Fin.ofNat 16 (i + 8)) (w32 (4 * i)))
  | _ => [.acc 16 16 (beAt l 16 16)]

/-- The groups of a mask, from bit 7 down. -/
def groupsOf (mask : Byte) : List Nat := [7, 6, 5, 4, 3, 2, 1, 0].filter (fun g => mask.getLsbD g)

/-- The access of SMM and LMM. -/
def mmReq (a : Issue) (b1 : Byte) (d : W16) (k : Core) (write : Bool) : Req :=
  { ea := (k.bank.iy + d.signExtend 32).toNat, n := 32 * (groupsOf b1).length, far := isFar a
    read := !write, write := write, align := 16 }

/-- The common part of SMM and LMM: engines only, byte 1 not zero (R107, Table 3-13). -/
def mmInsn (a : Issue) (op : Nat) (b1 : Byte) (d : W16) (k : Core) (write : Bool)
    (f : Work → List (List Loc) → List (List Byte) → Eff) : Insn :=
  { Insn.plain (BitVec.ofNat 8 op) 4 (pureBody f) with
    legal := b1 != 0 && !isCc a.core, pfx := pfxOk (.ml false) a.pre, reqs := [mmReq a b1 d k write], ss := true }

/-- SMM (R223). -/
def execSmm (a : Issue) (b1 : Byte) (d : W16) (s : State) : Res :=
  s.run a (fun _ k => mmInsn a 0x72 b1 d k true (fun w ls _ =>
    Eff.of [] [stTo w (mmReq a b1 d w.k true) ls (((groupsOf b1).map (groupSlot w.k.bank)).flatten)]
      (2 + 2 * (groupsOf b1).length)))

/-- LMM (R223, R224). -/
def execLmm (a : Issue) (b1 : Byte) (d : W16) (s : State) : Res :=
  s.run a (fun _ k => mmInsn a 0x73 b1 d k false (fun w _ bs =>
    let gs : List Nat := groupsOf b1
    let count : Nat := if b1.getLsbD 3 then max 5 (2 + 2 * gs.length) else 2 + 2 * gs.length
    let slots : List (Nat × List Byte) := gs.zip ((List.range gs.length).map (fun i => slice (op1 bs) (32 * i) 32))
    let psw : Option (List Byte) := (slots.find? (fun p => p.1 == 3)).map (fun p => p.2)
    match psw.map (fun l => pswRefused w.k (BitVec.ofNat 64 (beAt l 0 8))) with
    | some true => Eff.fail (mkFault 3 0 w.k.bank.pc.toNat 0)
    | _ =>
      Eff.of (((slots.map (fun p => groupLoad w.k.bank p.1 p.2)).flatten).map (fun r => (count, r))) [] count))

/-- The access of SAVEH (below SAVP) and LOADH (at SAVP), at a virtual address of its own (R236). -/
def savReq (k : Core) (write : Bool) : Req :=
  { ea := 0, n := 128, far := true, read := !write, write := write, align := if write then 128 else 0
    abs := some (if write then (k.savp - 128).toNat else k.savp.toNat) }

/-- The common part of SAVEH and LOADH: control cores only, privileged (R107, R108). -/
def savInsn (a : Issue) (op : Nat) (b1 : Byte) (d : W16) (k : Core) (write : Bool)
    (f : Work → List (List Loc) → List (List Byte) → Eff) : Insn :=
  { Insn.plain (BitVec.ofNat 8 op) 4 (pureBody f) with
    legal := isCc a.core && decide (b1.toNat < 2) && d == 0, r3 := false, pfx := pfxOk .none a.pre
    priv := !k.sup, reqs := [savReq k write] }

/-- SAVEH (R236). -/
def execSaveh (a : Issue) (b1 : Byte) (d : W16) (s : State) : Res :=
  s.run a (fun _ k => savInsn a 0x74 b1 d k true (fun w ls _ =>
    let at_ : W64 := w.k.savp - 128
    Eff.of [(24, .spec 0x24 at_)]
      [stTo w (savReq w.k true) ls (beBytes 8 w.k.savp.toNat ++ beBytes 8 b1.toNat
        ++ (w.k.bankAt 0).halfImage w.k.xbt (b1 == 1))] 24))

/-- LOADH (R236). -/
def execLoadh (a : Issue) (b1 : Byte) (d : W16) (s : State) : Res :=
  s.run a (fun _ k => savInsn a 0x75 b1 d k false (fun w _ bs =>
    let l : List Byte := op1 bs
    if beAt l 8 8 ≠ b1.toNat then Eff.fail (ctxFault 0 0x04 w.k.savp.toNat 0)
    else
      Eff.of [(24, .half (b1 == 1) (beAt l 16 112)), (24, .spec 0x24 (BitVec.ofNat 64 (beAt l 0 8)))] [] 24))

end Sys2Proof.Machine
end

