-- ==== Sys2Proof/Machine/Decimal.lean ====
section
/-! DEFINITION. Decimal arithmetic (04). -/

namespace Sys2Proof.Machine

/-! ### Packed fields (R119 to R122) -/

/-- The nibbles of a field, most significant first. -/
def nibbles : List Byte → List Nat
  | [] => []
  | b :: r => b.toNat / 16 :: b.toNat % 16 :: nibbles r

/-- Bytes from nibbles, two each. -/
def ofNibbles : List Nat → List Byte
  | h :: l :: r => BitVec.ofNat 8 (h * 16 + l) :: ofNibbles r
  | _ => []

/-- Whether a nibble is a sign (Table 4-1). -/
def isSign (x : Nat) : Bool := x == 0xC || x == 0xD || x == 0xF

/-- The index of the first invalid nibble of a field, from index `i` on (R120, R126). -/
def badNibble : Nat → List Nat → Option Nat
  | _, [] => none
  | i, [x] => if isSign x then none else some i
  | i, x :: r => if x ≤ 9 then badNibble (i + 1) r else some i

/-- The magnitude that the digit nibbles spell, the last nibble being the sign. -/
def digitsVal : List Nat → Nat → Nat
  | [], acc => acc
  | [_], acc => acc
  | x :: r, acc => digitsVal r (acc * 10 + x)

/-- val(f): the value of a packed field (R119). -/
def pval (l : List Byte) : Int :=
  let d : List Nat := nibbles l
  if d.getLast? = some 0xD then -(digitsVal d 0 : Int) else (digitsVal d 0 : Int)

/-- `n` decimal digits of a number, most significant first. -/
def decDigits : Nat → Nat → List Nat
  | 0, _ => []
  | n + 1, v => decDigits n (v / 10) ++ [v % 10]

/-- pk(v, n): the n-byte packed field of a value, its digits modulo 10^(2n-1) (R122). -/
def pk (v : Int) (n : Nat) : List Byte :=
  ofNibbles (decDigits (2 * n - 1) v.natAbs ++ [if v < 0 then 0xD else 0xC])

/-- fits(v, n). -/
def pfits (v : Int) (n : Nat) : Bool := decide (v.natAbs < 10 ^ (2 * n - 1))

/-- ACC.D. -/
def Bank.d (b : Bank) : List Byte := beBytes 32 b.acc.toNat

/-- The data exception of R125 and R126: operand and nibble. -/
def dataExn (k : Core) (opnd nib : Nat) : Exn := mkFault 7 0 k.bank.pc.toNat (opnd + nib * 256)

/-- The check of an operand (R125). -/
def checkPacked (k : Core) (opnd : Nat) (l : List Byte) : Option Exn :=
  (badNibble 0 (nibbles l)).map (dataExn k opnd)

/-- The decimal operand of a format M or L instruction (Table 3-6). -/
def dOperand (m : MOp) (bs : List Byte) : List Byte :=
  if mImm m then if m.long then beBytes 4 m.d.toNat else beBytes 2 m.d.toNat else bs

/-- `post` (R131): the PSW write and the field of a result, or none when vector 8 is raised. -/
def decPost (k : Core) (v : Int) (n : Nat) : Option (RegWr × List Byte) :=
  let ovf : Bool := !pfits v n
  if ovf && pswBit k.bank.psw eDOE then none
  else
    let s : W64 := if ovf then (1 : W64) <<< sDVS else 0
    some (.psw (mFlags ||| s) ((decFlags v ovf).word ||| s), pk v n)

/-- ACC.D as a result. -/
def wrD (l : List Byte) : RegWr := .acc 0 32 (beNat l)

/-- The flags of a decimal comparison. -/
def cmpPsw (a b : Int) : RegWr := .psw mFlags (decFlags (a - b) false).word

/-- The effect of a result to ACC.D in `count` cycles. -/
def postAcc (k : Core) (v : Int) (count : Nat) : Eff :=
  match decPost k v 32 with
  | none => Eff.fail (mkTrapless 8)
  | some (p, l) => Eff.of [(count, p), (count, wrD l)] [] count

/-- A body with a residue check: `pre` is a condition of orders 2 and 3 of Table 4-5, `v` the value whose residues
are checked (Table 4-8; of DDIV the dividend, of a shift or conversion the result: DEDUCED, log 104), `f` the
rest. -/
def decBody (pre : Work → List (List Byte) → Option Eff) (v : Work → List (List Byte) → Int)
    (f : Work → List (List Loc) → List (List Byte) → Eff) : Work → List (List Loc) → List (List Byte) → Done :=
  fun w ls bs =>
    match pre w bs with
    | some e => Done.of w e none
    | none => Done.of w (f w ls bs) (some (v w bs))

/-- The values of ACC.D and of the operand of a format M or L instruction. -/
def accVal (w : Work) : Int := pval w.k.bank.d
def memVal (m : MOp) (bs : List (List Byte)) : Int := pval (dOperand m (op1 bs))

/-- The checks of operands in order. -/
def checks (l : List (Option Exn)) : Option Eff := (firstExn l).map Eff.fail

/-- The count of the one-operand instructions: 4 for at most 16 bytes, else 7 (Table 4-6). -/
def decCount (m : MOp) : Nat := if mImm m || decide (mLen m ≤ 16) then 4 else 7

/-- A decimal instruction on ACC.D and an operand. -/
def decInsn (a : Issue) (op : Nat) (m : MOp) (cls : LenCls) (k : Core)
    (body : Work → List (List Loc) → List (List Byte) → Done) : Insn :=
  { mInsn a op m cls true k true false body with micro := true, residue := true }

/-- The checks of ACC.D and the operand. -/
def checkAccM (m : MOp) (w : Work) (bs : List (List Byte)) : Option Eff :=
  checks [checkPacked w.k 1 w.k.bank.d, checkPacked w.k 2 (dOperand m (op1 bs))]

/-! ### Instructions on the accumulator -/

/-- LDD (R130). -/
def execLdd (a : Issue) (m : MOp) (s : State) : Res :=
  s.run a (fun _ k => { mInsn a 0x4F m .d true k true false (pureBody (fun w _ bs =>
    let l : List Byte := dOperand m (op1 bs)
    match (if mImm m then checkPacked w.k 2 l else none) with
    | some x => Eff.fail x
    | none => Eff.of [(2, wrD (zeros (32 - l.length) ++ l))] [] 1)) with micro := true })

/-- STD (R130). -/
def execStd (a : Issue) (m : MOp) (s : State) : Res :=
  s.run a (fun _ k => { mInsn a 0x50 m .d false k false true (pureBody (fun w ls _ =>
    let n : Nat := mLen m
    let dropped : Bool := !allZero (w.k.bank.d.take (32 - n))
    if dropped && pswBit w.k.bank.psw eDOE then Eff.fail (mkTrapless 8)
    else
      let sb : W64 := if dropped then (1 : W64) <<< sDVS else 0
      let v : W64 := (if dropped then mDV else 0) ||| sb
      Eff.of [(1, .psw (mDV ||| sb) v)]
        ((mReqs a m k false true).map (fun r => stTo w r ls (w.k.bank.d.drop (32 - n)))) 1)) with micro := true })

/-- CLRA (R130). -/
def execClra (a : Issue) (s : State) : Res :=
  s.run a (fun _ _ => { aInsn a 0x07 (pureBody (fun _ _ _ => Eff.of [(1, .acc 0 32 0)] [] 1)) with micro := true })

/-- ADDD (R131). -/
def execAddd (a : Issue) (m : MOp) (s : State) : Res :=
  s.run a (fun _ k => decInsn a 0x51 m .d k (decBody (checkAccM m) (fun w bs => accVal w + memVal m bs)
    (fun w _ bs => postAcc w.k (accVal w + memVal m bs) (decCount m))))

/-- SUBD (R131). -/
def execSubd (a : Issue) (m : MOp) (s : State) : Res :=
  s.run a (fun _ k => decInsn a 0x52 m .d k (decBody (checkAccM m) (fun w bs => accVal w - memVal m bs)
    (fun w _ bs => postAcc w.k (accVal w - memVal m bs) (decCount m))))

/-- CMPD (R131). -/
def execCmpd (a : Issue) (m : MOp) (s : State) : Res :=
  s.run a (fun _ k => decInsn a 0x53 m .d k (decBody (checkAccM m) (fun w bs => accVal w - memVal m bs)
    (fun w _ bs => Eff.of [(decCount m, cmpPsw (accVal w) (memVal m bs))] [] (decCount m))))

/-- DMUL (R132). -/
def execDmul (a : Issue) (m : MOp) (s : State) : Res :=
  s.run a (fun _ k => decInsn a 0x54 m .d16 k (decBody
    (fun w bs =>
      match checkAccM m w bs with
      | some e => some e
      | none =>
        if !allZero (w.k.bank.d.take 16) then
          if pswBit w.k.bank.psw eDOE then some (Eff.fail (mkTrapless 8))
          else
            let p : W64 := mDV ||| (1 : W64) <<< sDVS
            some (Eff.of [(36, .psw p p)] [] 36)
        else none)
    (fun w bs => accVal w * memVal m bs)
    (fun w _ bs => postAcc w.k (accVal w * memVal m bs) 36)))

/-- DDIV (R133). -/
def execDdiv (a : Issue) (m : MOp) (s : State) : Res :=
  s.run a (fun _ k => decInsn a 0x55 m .d16 k (decBody
    (fun w bs =>
      match checkAccM m w bs with
      | some e => some e
      | none =>
        if memVal m bs = 0 then
          if pswBit w.k.bank.psw eZDE then some (Eff.fail (mkTrapless 9))
          else
            let p : W64 := (1 : W64) <<< sZDS
            some (Eff.of [(66, .psw p p)] [] 66)
        else none)
    (fun w _ => accVal w)
    (fun w _ bs =>
      let x : Int := accVal w
      let y : Int := memVal m bs
      let q : Int := Int.tdiv x y
      let r : List Byte := pk (Int.tmod x y) 16
      Eff.of [(66, .psw mFlags (decFlags q false).word), (66, wrD (pk q 32)),
        (66, .mph (BitVec.ofNat 64 (beAt r 0 8))), (66, .mpl (BitVec.ofNat 64 (beAt r 8 8)))] [] 66)))

/-- Whether DSRR increments the quotient (Table 4-7). -/
def roundUp (drm : Nat) (neg : Bool) (q t half2 : Nat) : Bool :=
  -- half2 is 10^n, twice half
  match drm with
  | 0 => decide (half2 < 2 * t) || (2 * t == half2 && q % 2 == 1)
  | 1 => false
  | 2 => decide (0 < t) && !neg
  | 3 => decide (0 < t) && neg
  | _ => decide (half2 ≤ 2 * t)

/-- PSW.DRM and PSW.BRM. -/
def Bank.drm (b : Bank) : Nat := bits b.psw.toNat 44 3
def Bank.brm (b : Bank) : Nat := bits b.psw.toNat 40 3

/-- The sign of a dividend applied to a magnitude. -/
def withSign (x : Int) (q : Nat) : Int := if x < 0 then -(q : Int) else (q : Int)

/-- A digit shift of ACC.D by S[5:0] (R134). -/
def dshInsn (a : Issue) (op : Nat) (sel : Byte) (count : Nat) (f : Core → Int → Nat → Int) : Insn :=
  { bInsn a op (decBody (fun w _ => checks [checkPacked w.k 1 w.k.bank.d])
      (fun w _ => f w.k (accVal w) (bits sel.toNat 0 6))
      (fun w _ _ => postAcc w.k (f w.k (accVal w) (bits sel.toNat 0 6)) count)) with
    legal := decide (sel.toNat < 64), micro := true, residue := true }

/-- DSHL (R134). -/
def execDshl (a : Issue) (sel : Byte) (s : State) : Res :=
  s.run a (fun _ _ => dshInsn a 0x29 sel 2 (fun _ v n => v * (10 ^ n : Nat)))

/-- DSHR (R134). -/
def execDshr (a : Issue) (sel : Byte) (s : State) : Res :=
  s.run a (fun _ _ => dshInsn a 0x2A sel 2 (fun _ v n => withSign v (v.natAbs / 10 ^ n)))

/-- DSRR (R134, R135): with n = 0 the value is unchanged. -/
def execDsrr (a : Issue) (sel : Byte) (s : State) : Res :=
  s.run a (fun _ _ => dshInsn a 0x2B sel 3 (fun k v n =>
    let q : Nat := v.natAbs / 10 ^ n
    let t : Nat := v.natAbs % 10 ^ n
    if n = 0 then v
    else withSign v (if roundUp k.bank.drm (decide (v < 0)) q t (10 ^ n) then q + 1 else q)))

/-- A format A decimal instruction on ACC.D after its check. -/
def accInsn (a : Issue) (op : Nat) (residue : Bool) (f : Work → Eff) : Insn :=
  { aInsn a op (decBody (fun w _ => checks [checkPacked w.k 1 w.k.bank.d]) (fun w _ => accVal w) (fun w _ _ => f w)) with
    micro := true, residue := residue }

/-- DNEG (R136). -/
def execDneg (a : Issue) (s : State) : Res :=
  s.run a (fun _ _ => accInsn a 0x0A false (fun w => postAcc w.k (-(pval w.k.bank.d)) 1))

/-- DPREF (R136). -/
def execDpref (a : Issue) (s : State) : Res :=
  s.run a (fun _ _ => accInsn a 0x0B false (fun w => postAcc w.k (pval w.k.bank.d) 1))

/-- TSTD (R137, Table 4-9). -/
def execTstd (a : Issue) (s : State) : Res :=
  s.run a (fun _ _ => { aInsn a 0x0E (pureBody (fun w _ _ =>
    let l : List Byte := w.k.bank.d
    let ok : Bool := (badNibble 0 (nibbles l)).isNone
    let f : Flags :=
      { c := (nibbles l).getLast? == some 0xF, v := !ok, z := ok && pval l == 0
        n := ok && decide (pval l < 0), dv := false }
    Eff.of [(1, .psw mFlags f.word)] [] 1)) with micro := true })

/-- CVDQ (R138). -/
def execCvdq (a : Issue) (s : State) : Res :=
  s.run a (fun _ _ => accInsn a 0x0C true (fun w =>
    let v : Int := pval w.k.bank.d
    let out : Bool := decide (v < -(2 ^ 63 : Int)) || decide ((2 ^ 63 : Int) ≤ v)
    if out && pswBit w.k.bank.psw eBOE then Eff.fail (mkTrapless 10)
    else
      let q : W64 := BitVec.ofInt 64 v
      let sb : W64 := if out then (1 : W64) <<< sBVS else 0
      let f : Flags := { c := false, v := out, z := q == 0, n := q.msb, dv := false }
      Eff.of [(12, .psw (mCVZN ||| sb) (f.word ||| sb)), (12, wrQ q)] [] 12))

/-- CVQD (R138). -/
def execCvqd (a : Issue) (s : State) : Res :=
  s.run a (fun _ _ => { aInsn a 0x0D (decBody (fun _ _ => none) (fun w _ => w.k.bank.q.toInt) (fun w _ _ =>
    let v : Int := w.k.bank.q.toInt
    Eff.of [(14, .psw mCVZN (decFlags v false).word), (14, wrD (pk v 32))] [] 14)) with
    micro := true, residue := true })

/-! ### Memory to memory (R139, R140) -/

/-- The count of the SS decimal instructions (Table 4-6). -/
def ssCount (o : SOp) (short long : Nat) : Nat := if ssN1 o ≤ 16 ∧ ssN2 o ≤ 16 then short else long

/-- PADD, PSUB and PSET: a value posted to operand 1, both operands having been read in full (R140). -/
def packInsn (a : Issue) (op : Nat) (o : SOp) (k : Core)
    (pre : Work → List (List Byte) → Option Eff) (f : List (List Byte) → Int) : Insn :=
  let r : Req := ssReq1 a o k (ssN1 o) true true
  { ssInsn a op o false k [r, ssReq2 a o k (ssN2 o)] (decBody pre (fun _ bs => f bs) (fun w ls bs =>
      let n : Nat := ssCount o 4 7
      match decPost w.k (f bs) (ssN1 o) with
      | none => Eff.fail (mkTrapless 8)
      | some (p, l) => Eff.of [(n, p)] [stTo w r ls l] n)) with residue := true }

/-- The checks of both packed operands. -/
def checkBoth (w : Work) (bs : List (List Byte)) : Option Eff :=
  checks [checkPacked w.k 1 (op1 bs), checkPacked w.k 2 (op2 bs)]

/-- PADD (R139). -/
def execPadd (a : Issue) (o : SOp) (s : State) : Res :=
  s.run a (fun _ k => packInsn a 11 o k checkBoth (fun bs => pval (op1 bs) + pval (op2 bs)))
/-- PSUB (R139). -/
def execPsub (a : Issue) (o : SOp) (s : State) : Res :=
  s.run a (fun _ k => packInsn a 12 o k checkBoth (fun bs => pval (op1 bs) - pval (op2 bs)))
/-- PSET (R139). -/
def execPset (a : Issue) (o : SOp) (s : State) : Res :=
  s.run a (fun _ k => packInsn a 13 o k (fun w bs => checks [checkPacked w.k 2 (op2 bs)])
    (fun bs => pval (op2 bs)))

/-- PCMP (R139). -/
def execPcmp (a : Issue) (o : SOp) (s : State) : Res :=
  s.run a (fun _ k =>
    { ssInsn a 14 o false k [ssReq1 a o k (ssN1 o) true false, ssReq2 a o k (ssN2 o)] (decBody checkBoth
        (fun _ bs => pval (op1 bs) - pval (op2 bs))
        (fun _ _ bs => Eff.of [(ssCount o 4 7, cmpPsw (pval (op1 bs)) (pval (op2 bs)))] [] (ssCount o 4 7))) with
      residue := true })

/-- The last `n` nibbles of a list, zeros on the left when it is shorter. -/
def lastNibbles (n : Nat) (l : List Nat) : List Nat :=
  List.replicate (n - l.length) 0 ++ l.drop (l.length - n)

/-- NMOV (R139). -/
def execNmov (a : Issue) (o : SOp) (s : State) : Res :=
  s.run a (fun _ k =>
    let r : Req := ssReq1 a o k (ssN1 o) true true
    ssInsn a 15 o false k [r, ssReq2 a o k (ssN2 o)] (pureBody (fun w ls bs =>
      let wn : List Nat := nibbles (op2 bs) ++ ((nibbles (op1 bs)).getLast?).toList
      Eff.of [] [stTo w r ls (ofNibbles (lastNibbles (2 * ssN1 o) wn))] (ssCount o 3 5))))

end Sys2Proof.Machine
end

