-- ==== Sys2Proof/Machine/Arcade.lean ====
section
/-! DEFINITION. The Arcade (09): microwords, one step of a customer routine, the loader rules. -/

namespace Sys2Proof.Machine

/-! ### Microwords (Tables 9-2 to 9-5) -/

/-- The data fields of a microword (Table 9-2). -/
structure UWord where
  op : Nat
  a : Nat
  b : Nat
  c : Nat
  i9 : Nat
  na : Nat
deriving DecidableEq, Repr

def uword (w : W32) : UWord :=
  { op := bits w.toNat 26 6, a := bits w.toNat 21 5, b := bits w.toNat 16 5, c := bits w.toNat 12 4
    i9 := bits w.toNat 12 9, na := bits w.toNat 0 12 }

/-- The micro flags (R243). -/
structure UFlags where
  mc : Bool
  mv : Bool
  mz : Bool
  mn : Bool
  mdv : Bool
  minv : Bool
deriving DecidableEq, Repr

/-- The fields of an Arcade entry (Table 9-6). -/
def entV (e : W64) : Bool := e.getLsbD 63
def entFmt (e : W64) : Nat := bits e.toNat 61 2
def entPriv (e : W64) : Bool := e.getLsbD 60
def entAmsk (e : W64) : Nat := bits e.toNat 52 8
def entLcls (e : W64) : Nat := bits e.toNat 48 4
def entLong (e : W64) : Bool := e.getLsbD 47
def entCount (e : W64) : Nat := bits e.toNat 40 7
def entEntry (e : W64) : Nat := bits e.toNat 24 12

/-- The length class that LCLS names. -/
def lclsOf (n : Nat) : LenCls :=
  match n with
  | 0 => .q
  | 1 => .d
  | 2 => .d16
  | 3 => .b
  | 4 => .x
  | 5 => .i
  | 6 => .z
  | _ => .any

/-- The mode byte and D of an Arcade instruction in format M or L. -/
def arcadeM (e : W64) (b1 : Byte) (d : W32) : MOp :=
  { long := entFmt e == 3, am := b1.extractLsb' 5 3, len := b1.extractLsb' 0 5
    d := if entFmt e = 3 then d else (d.truncate 16 : W16).zeroExtend 32 }

/-- A routine at work: the core and the accesses so far, working registers, micro flags, staged writes
and stores (R241, R248). `draw` numbers the free values of the step. -/
structure Micro where
  w : Work
  draw : Nat
  regs : Sparse Nat
  fl : UFlags
  wr : List RegWr
  st : List StOp
  /-- the transfers of its LDMs outside the own tile, and the cycles after issue in which it used the tile port -/
  far : List Xfer
  busy : List (Nat × Nat)

/-- The constants of a step: the opcode, what a routine can read of the instruction (Table 9-3: its fields and the
mode byte), and the malfunction that meets the step. -/
structure UArgs where
  op : Byte
  err : Option HwErr
  e : W64
  b1 : Byte
  d : W32

/-- The value of a selector (Table 9-3): architected registers as at issue. -/
def Micro.get (m : Micro) (u : UArgs) (sel : Nat) : Nat :=
  let b : Bank := m.w.k.bank
  let mo : MOp := arcadeM u.e u.b1 u.d
  let f : Nat := entFmt u.e
  match sel with
  | 0x10 => accGet b.acc 0 16
  | 0x11 => accGet b.acc 16 16
  | 0x12 => b.ix.toNat
  | 0x13 => b.iy.toNat
  | 0x14 => b.mph.toNat
  | 0x15 => b.mpl.toNat
  | 0x16 => b.dvq.toNat
  | 0x17 => b.dvm.toNat
  | 0x18 => b.fseg.toNat
  | 0x19 => b.pc.toNat
  | 0x1A => if f = 0 then 0 else if f = 1 then u.b1.toNat else ((mDisp mo).signExtend 64).toNat
  | 0x1B => if f < 2 || mImm mo then 0 else (mEa mo b).toNat
  | 0x1C => if f < 2 then 0 else mLen mo
  | 0x1D => bits b.psw.toNat 0 5
  | 0x1E => 0
  | 0x1F => 0
  | n => (spGet? m.regs n).getD (Config.workReg m.draw n).toNat

/-- A value written to a selector: its low bytes, at once to a working register, staged otherwise
(R241, R242). -/
def Micro.set (m : Micro) (sel v : Nat) : Micro :=
  let stage (r : RegWr) : Micro := { m with wr := m.wr ++ [r] }
  match sel with
  | 0x10 => stage (.acc 0 16 (v % 2 ^ 128))
  | 0x11 => stage (.acc 16 16 (v % 2 ^ 128))
  | 0x12 => stage (.ix (BitVec.ofNat 32 v))
  | 0x13 => stage (.iy (BitVec.ofNat 32 v))
  | 0x14 => stage (.mph (BitVec.ofNat 64 v))
  | 0x15 => stage (.mpl (BitVec.ofNat 64 v))
  | 0x16 => stage (.dvq (BitVec.ofNat 64 v))
  | 0x17 => stage (.dvm (BitVec.ofNat 64 v))
  | 0x18 => stage (.fseg (BitVec.ofNat 16 v))
  | n => if n < 16 then { m with regs := spPut m.regs n (v % 2 ^ 128) } else m

/-- A condition of Table 9-5. -/
def ucond (f : UFlags) (c : Nat) : Bool :=
  match c with
  | 0x0 => f.mz
  | 0x1 => !f.mz
  | 0x2 => f.mn
  | 0x3 => !f.mn
  | 0x4 => f.mc
  | 0x5 => !f.mc
  | 0x6 => f.mv
  | 0x7 => !f.mv
  | 0x8 => f.minv
  | 0x9 => !f.minv
  | 0xA => f.mdv
  | 0xB => !f.mdv
  | _ => false

/-- What one micro-operation leads to: the next address, an exception, or the end of the step, with or
without work remaining. -/
inductive UNext where
  | go (m : Micro) (na : Nat)
  | exn (m : Micro) (x : Exn)
  | poll (m : Micro)
  | exit (m : Micro)

/-- The micro flags of a binary result. -/
def UFlags.bin (f : UFlags) (g : Flags) : UFlags := { f with mc := g.c, mv := g.v, mz := g.z, mn := g.n }

/-- The micro flags of a decimal result of value `v`. -/
def UFlags.dec (f : UFlags) (v : Int) : UFlags :=
  { f with mn := decide (v < 0), mz := v == 0, mdv := !pfits v 16 }

/-- An access of LDM or STM, with checks 7 to 9 (R246). -/
def Micro.access (m : Micro) (u : UWord) (addr : Nat) (write : Bool) (err : Option HwErr) :
    Micro × Except Exn (Req × List Loc) :=
  let n : Nat := 2 ^ bits u.c 0 3
  let w : Work := m.w
  let r : Req := { ea := addr % 2 ^ 32, n := n, far := bit u.c 3, read := !write, write := write, align := 0 }
  if 16 < r.addr w.c w.k % 16 + n then (m, .error (mkFault 6 0 (r.addr w.c w.k) r.wbit))
  else
    let o : Checked := operandChecks w.s w.c w.k [r] err
    let w1 : Work := { w with s := o.s, k := o.k }
    match o.ans with
    | .error x => ({ m with w := w1 }, .error x)
    | .ok ls =>
      let l : List Loc := ls.headD []
      ({ m with w := Work.touch w1 [(r, l)] }, .ok (r, l))

/-- The value −256 to 255 of I9. -/
def i9Int (u : UWord) : Int := sext 9 u.i9

/-- The machine check of a UOP that is not assigned (R243). No word of a verified image has one. -/
def uopFail (m : Micro) (a : Nat) : UNext :=
  .exn m (mcPlain m.w.c m.w.k sevContained 0xB 0x02 (BitVec.ofNat 64 a))

/-- The residues that a malfunction makes the engine form of the decimal result at a depth (R244). -/
def UArgs.formed (ar : UArgs) (depth : Nat) : Option (BitVec 4 × BitVec 4) :=
  match ar.err with
  | some (.residue d a b) => if d = depth then some (a, b) else none
  | _ => none

/-- LDM at depth `depth`: the drain of R85 and the penalties of Table 2-9 come before the load itself (R246). -/
def Micro.ldm (m : Micro) (ar : UArgs) (u : UWord) (depth y : Nat) : UNext :=
  match m.access u y false ar.err with
  | (m1, .error e) => .exn m1 e
  | (m1, .ok (r, l)) =>
    let w : Work := m1.w
    let i0 : Nat := depth + w.pen
    match (if ar.err = some (.data depth) then l.head? else none) with
    | some x => .exn m1 (mcAt w.s w.c w.k 0 (hopOf w.s x) 0x11 x (r.addr w.c w.k) w.k.bank.pc)
    | none =>
      let (w1, bs) := w.load l
      let xs : List Xfer := (xfersOf w.c w.k r l).map (fun x => { x with depth := some (depth + w1.pen) })
      let used : Nat := w1.port - w.port
      .go ({ m1 with w := w1, far := m1.far ++ xs
                     busy := if used = 0 then m1.busy else m1.busy ++ [(i0, i0 + used)] }.set u.a (beNat bs)) u.na

/-- STM: the store is staged (R248). -/
def Micro.stm (m : Micro) (ar : UArgs) (u : UWord) (x y : Nat) : UNext :=
  match m.access u y true ar.err with
  | (m1, .error e) => .exn m1 e
  | (m1, .ok (r, l)) => .go { m1 with st := m1.st ++ [stTo m1.w r [l] (beBytes r.n x)] } u.na

/-- One micro-operation of the word at address `a` (Table 9-4), at a depth of the step. -/
def Micro.op (m : Micro) (ar : UArgs) (a depth : Nat) (u : UWord) : UNext :=
  let x : Nat := m.get ar u.a
  let y : Nat := m.get ar u.b
  let bx : W64 := BitVec.ofNat 64 x
  let by_ : W64 := BitVec.ofNat 64 y
  let imm : W64 := BitVec.ofInt 64 (i9Int u)
  let bin (r : W64) : UNext := .go (m.set u.a r.toNat) u.na
  let log (r : W64) : UNext :=
    .go { m.set u.a r.toNat with fl := m.fl.bin (logicFlags r false) } u.na
  let dec (v : Int) (fl : UFlags) : UNext :=
    match (ar.formed depth).bind (residueExn m.w.c m.w.k ar.op v) with
    | some e => .exn m e
    | none => .go { m.set u.a (beNat (pk v 16)) with fl := fl.dec v } u.na
  let px : List Byte := beBytes 16 x
  let py : List Byte := beBytes 16 y
  let dclear : UFlags := { m.fl with mc := false, mv := false }
  match u.op with
  | 0x00 => .go m u.na
  | 0x01 => .go (m.set u.a y) u.na
  | 0x02 =>
    .go { m.set u.a (addFlags bx by_ false).1.toNat with fl := m.fl.bin (addFlags bx by_ false).2 } u.na
  | 0x03 =>
    .go { m.set u.a (addFlags bx (~~~ by_) true).1.toNat with fl := m.fl.bin (addFlags bx (~~~ by_) true).2 } u.na
  | 0x04 => .go { m with fl := m.fl.bin (addFlags bx (~~~ by_) true).2 } u.na
  | 0x05 => log (bx &&& by_)
  | 0x06 => log (bx ||| by_)
  | 0x07 => log (bx ^^^ by_)
  | 0x08 => bin (bx + imm)
  | 0x09 => bin imm
  | 0x0A => bin (bx <<< bits u.i9 0 6)
  | 0x0B => bin (bx >>> bits u.i9 0 6)
  | 0x0C => .go (m.set u.a (bx.toNat * by_.toNat)) u.na
  | 0x10 | 0x11 =>
    match firstExn [checkPacked m.w.k 1 px, checkPacked m.w.k 2 py] with
    | some e => .exn m e
    | none => dec (if u.op = 0x10 then pval px + pval py else pval px - pval py) dclear
  | 0x12 =>
    match checkPacked m.w.k 1 px with
    | some e => .exn m e
    | none =>
      let k : Int := i9Int u
      dec (if 0 ≤ k then pval px * 10 ^ k.toNat else (pval px).tdiv (10 ^ (-k).toNat)) m.fl
  | 0x13 =>
    match badNibble 0 (nibbles px) with
    | some _ => .go { m with fl := { m.fl with minv := true } } u.na
    | none =>
      .go { m with fl := { m.fl with minv := false, mn := decide (pval px < 0), mz := pval px == 0 } } u.na
  | 0x18 =>
    m.ldm ar u depth y
  | 0x19 => m.stm ar u x y
  | 0x20 => .go m (if ucond m.fl u.c then u.na + 1 else u.na)
  | 0x21 =>
    let mask : W64 := BitVec.ofNat 64 (bits u.i9 0 5)
    let v : Flags := { c := m.fl.mc, v := m.fl.mv, z := m.fl.mz, n := m.fl.mn, dv := m.fl.mdv }
    .go { m with wr := m.wr ++ [.psw mask v.word] } u.na
  | 0x22 =>
    let stick (en sb : Nat) : UNext :=
      if pswBit m.w.k.bank.psw en then .exn m (mkTrapless (BitVec.ofNat 6 u.i9))
      else .go { m with wr := m.wr ++ [.psw ((1 : W64) <<< sb) ((1 : W64) <<< sb)] } u.na
    match u.i9 with
    | 7 => .exn m (dataExn m.w.k 3 0)
    | 8 => stick eDOE sDVS
    | 9 => stick eZDE sZDS
    | 10 => stick eBOE sBVS
    | _ => uopFail m a
  | 0x30 => .poll m
  | 0x31 => .exit m
  | _ => uopFail m a

/-- How a step ends: the routine, its exception and depth, or whether it has finished. -/
inductive UEnd where
  | exn (m : Micro) (x : Exn) (depth : Nat)
  | done (m : Micro) (finished : Bool)

/-- The micro-operations of a step from depth `depth` on. Rule 5 bounds a step at 64 of them; a word that
a verified image does not have there counts as unassigned. -/
def Micro.run (ar : UArgs) : Nat → Nat → Nat → Micro → UEnd
  | 0, depth, a, m =>
    match uopFail m a with
    | .exn m x => .exn m x depth
    | _ => .done m true
  | n + 1, depth, a, m =>
    if ar.err = some (.uparity depth) then
      .exn { m with w := { m.w with k := m.w.k.uperrAt a } }
        (mcPlain m.w.c m.w.k sevContained 0xB 0x02 (BitVec.ofNat 64 a)) depth
    else
      match m.op ar a depth (uword (m.w.s.ctlWord a)) with
      | .go m1 na => Micro.run ar n (depth + 1) na m1
      | .exn m1 x => .exn m1 x depth
      | .poll m1 => .done m1 false
      | .exit m1 => .done m1 true

/-- The body of an Arcade instruction: one step (R246 to R249). A fault is decided in the cycle of its
micro-operation, the penalties before it counted; the loads outside the tile that were made before it keep their W. -/
def arcadeBody (ar : UArgs) (w : Work) : Done :=
  let g : Nat := w.k.free
  let fl : UFlags :=
    { mc := Config.microFlag g 0, mv := Config.microFlag g 1, mz := Config.microFlag g 2
      mn := Config.microFlag g 3, mdv := Config.microFlag g 4, minv := Config.microFlag g 5 }
  let m0 : Micro :=
    { w := { w with k := { w.k with free := g + 1 } }, draw := g, regs := [], fl := fl, wr := [], st := []
      far := [], busy := [] }
  match Micro.run ar 64 0 (entEntry ar.e) m0 with
  | .exn m x depth =>
    { Done.of m.w (Eff.fail x) none with far := m.far, at_ := depth + m.w.pen, busy := m.busy }
  | .done m fin =>
    let n : Nat := entCount ar.e
    let eff : Eff :=
      { exn := none, wr := m.wr.map (fun r => (n, r)), st := m.st, count := n
        act := if fin then .seq else .again }
    { Done.of m.w eff none with far := m.far, busy := m.busy }

/-- The rules of an entry at check 4 (R107, R112, R250). In immediate mode LEN belongs to the class that LCLS names;
that it be 0, as for the instructions of Table 3-13, is not asked (R99 and R112 differ; DESIGN CHOICE, log 105). -/
def arcadeLegal (c : CoreId) (e : W64) (b1 : Byte) (d : W32) : Bool :=
  let m : MOp := arcadeM e b1 d
  !isCc c && entV e &&
    (decide (entFmt e < 2)
      || (decide (m.am.toNat < 6) && bit (entAmsk e) m.am.toNat && lenOk false (lclsOf (entLcls e)) m.len.toNat))

/-- ARCADE_INSTRUCTION (R250): an opcode 0xE0 + x, with its bytes after the opcode byte. A control core has no entry
table: its length for check 1 is that of the engines' entry (DESIGN CHOICE, log 106). -/
def execArcadeInstruction (a : Issue) (x : BitVec 4) (b1 : Byte) (d : W32) (s : State) : Res :=
  s.run a (fun s k =>
    let e : W64 := spGet 0 s.arcade.entries x.toNat
    { Insn.plain (BitVec.ofNat 8 (0xE0 + x.toNat)) (arcadeLen e)
        (fun w _ _ => arcadeBody { op := BitVec.ofNat 8 (0xE0 + x.toNat), err := a.err, e := e, b1 := b1, d := d } w) with
      legal := arcadeLegal a.core e b1 d, r3 := false, pfx := pfxOk .none a.pre
      slotBar := entLong e, priv := entPriv e && !k.sup })

/-! ### The loader (R253, Table 9-7) -/

/-- A word of an image by its address, 0 where the image has none. -/
def imgWord (img : List W32) (a : Nat) : UWord := uword ((img[a - 0xC00]?).getD 0)

/-- POLL or EXIT. -/
def UWord.term (u : UWord) : Bool := u.op == 0x30 || u.op == 0x31

/-- Where control can go after a word. -/
def UWord.next (u : UWord) : List Nat :=
  if u.term then [] else if u.op = 0x20 then [u.na, u.na + 1] else [u.na]

/-- Whether an address is one of the image's words. -/
def inImage (img : List W32) (a : Nat) : Bool := decide (0xC00 ≤ a) && decide (a < 0xC00 + img.length)

/-- The words that follow a set of words, each once. -/
def imgNext (img : List W32) (l : List Nat) : List Nat :=
  (((l.map (fun a => (imgWord img a).next)).flatten).filter (inImage img)).dedup

/-- The words reachable from a set, `n` rounds. -/
def imgReach (img : List W32) : Nat → List Nat → List Nat → List Nat
  | 0, _, seen => seen
  | n + 1, front, seen =>
    let new : List Nat := (imgNext img front).filter (fun a => !seen.contains a)
    if new = [] then seen else imgReach img n new (seen ++ new)

/-- The words at each depth, `n` depths. -/
def imgLevels (img : List W32) : Nat → List Nat → List (List Nat)
  | 0, _ => []
  | n + 1, l => l :: imgLevels img n (imgNext img l)

/-- The selectors that a word uses: A read, A written, B read. -/
def UWord.usesA (u : UWord) : Bool :=
  (decide (1 ≤ u.op) && decide (u.op ≤ 0x0C)) || (decide (0x10 ≤ u.op) && decide (u.op ≤ 0x13))
    || u.op == 0x18 || u.op == 0x19
def UWord.writesA (u : UWord) : Bool := u.usesA && u.op != 0x04 && u.op != 0x13 && u.op != 0x19
def UWord.usesB (u : UWord) : Bool :=
  (decide (1 ≤ u.op) && decide (u.op ≤ 0x07)) || u.op == 0x0C || u.op == 0x10 || u.op == 0x11
    || u.op == 0x18 || u.op == 0x19

/-- Rule 4 on one word. -/
def UWord.ok4 (u : UWord) : Bool :=
  let imm : Bool := [0x08, 0x09, 0x0A, 0x0B, 0x12, 0x21, 0x22].contains u.op
  let known : Bool :=
    u.usesA || [0x00, 0x20, 0x21, 0x22, 0x30, 0x31].contains u.op
  let fields : Bool :=
    (u.usesA || u.a == 0)
      && (if imm then
            (if u.op = 0x0A ∨ u.op = 0x0B then decide (u.i9 < 64)
             else if u.op = 0x21 then decide (u.i9 < 32)
             else if u.op = 0x12 then decide (-31 ≤ i9Int u) && decide (i9Int u ≤ 31)
             else true)
          else (u.usesB || u.b == 0)
            && (if u.op = 0x18 ∨ u.op = 0x19 then decide (bits u.c 0 3 ≤ 4)
                else if u.op = 0x20 then decide (u.c ≤ 0xB)
                else u.c == 0))
      && (!u.term || u.na == 0)
  let sel : Bool :=
    (!u.usesA || u.a != 0x1F) && (!u.usesB || u.b != 0x1F) && (!u.writesA || decide (u.a ≤ 0x18))
  known && fields && sel

/-- Rule 3 on one word: every successor is a word of the image (a word that the image does not supply
cannot be verified; DEDUCED, log 34). -/
def ok3 (img : List W32) (a : Nat) : Bool := (imgWord img a).next.all (inImage img)

/-- An LDM that reaches the tile port. -/
def UWord.tilePort (u : UWord) : Bool := u.op == 0x18 && !bit u.c 3

/-- Rule 7: one depth for each word, and equal port use at each depth; the lowest offending word. -/
def bad7 (img : List W32) : List (List Nat) → Option Nat
  | [] => none
  | l :: r =>
    let port (a : Nat) : Bool := (imgWord img a).tilePort
    let later : List Nat := r.flatten
    match l.find? (fun a => later.contains a || (port a && l.any (fun b => !port b))) with
    | some a => some a
    | none => bad7 img r

/-- The STMs of the worst path to each word of a depth, carried from depth to depth. -/
def stmStep (img : List W32) (l : List (Nat × Nat)) : List (Nat × Nat) :=
  let nxt : List Nat := imgNext img (l.map (fun p => p.1))
  nxt.map (fun a =>
    (a, (l.filter (fun p => (imgWord img p.1).next.contains a)).foldl (fun m p => max m p.2) 0
        + (if (imgWord img a).op = 0x19 then 1 else 0)))

/-- Rule 8 over `n` depths. -/
def bad8 (img : List W32) : Nat → List (Nat × Nat) → Bool
  | 0, _ => false
  | n + 1, l => l.any (fun p => decide (4 < p.2)) || bad8 img n (stmStep img l)

/-- Rule 9 after a MULQ word. -/
def bad9 (img : List W32) (a : Nat) : Bool :=
  let u : UWord := imgWord img a
  u.op == 0x0C &&
    ((imgLevels img 3 (imgNext img [a])).flatten).any (fun b =>
      let v : UWord := imgWord img b
      v.term || (v.usesA && v.a == u.a) || (v.usesB && v.b == u.a))

/-- Rule 2 on an entry. An entry with V = 0 is held to the reserved values alone (DEDUCED, log 107). -/
def badFields (e : W64) : Bool :=
  decide (bits e.toNat 36 4 ≠ 0) || decide (bits e.toNat 0 24 ≠ 0) || entLong e || decide (8 ≤ entLcls e)
    || (entV e && ((decide (entFmt e < 2) && (entAmsk e != 0 || entLcls e != 0))
      || decide (entCount e = 0) || decide (64 < entCount e)))

/-- The loader's verdict: none, or the reason, the entry number (0xFF for a word) and the word address. -/
def loaderFails (img : List W32) (entries : List W64) : Option (Nat × Nat × Nat) :=
  let all : List (Nat × W64) := (List.range 16).zip entries
  let es : List (Nat × W64) := all.filter (fun p => entV p.2)
  let ent (r : Nat) (bad : W64 → Bool) : Option (Nat × Nat × Nat) :=
    (es.find? (fun p => bad p.2)).map (fun p => (r, p.1, 0))
  let reach : List Nat :=
    let starts : List Nat := (es.map (fun p => entEntry p.2)).dedup
    (imgReach img 1024 starts starts).mergeSort
  let word (r : Nat) (bad : Nat → Bool) : Option (Nat × Nat × Nat) :=
    (reach.find? bad).map (fun a => (r, 0xFF, a))
  let lv (e : W64) : List (List Nat) := imgLevels img (entCount e) [entEntry e]
  let size (e : W64) : Nat := (imgReach img 1024 [entEntry e] [entEntry e]).length
  let fails : List (Option (Nat × Nat × Nat)) :=
    [ if 1024 < img.length then some (1, 0xFF, 0) else ent 1 (fun e => !inImage img (entEntry e)),
      (all.find? (fun p => badFields p.2)).map (fun p => (2, p.1, 0)),
      word 3 (fun a => !ok3 img a),
      word 4 (fun a => !(imgWord img a).ok4),
      ent 5 (fun e => ((imgLevels img (size e + 1) [entEntry e]).getLast?).getD [] != []),
      ent 6 (fun e => ((List.range (entCount e)).zip (lv e)).any (fun p =>
        p.2.any (fun a => (imgWord img a).term != decide (p.1 + 1 = entCount e)))),
      (es.findSome? (fun p => bad7 img (lv p.2))).map (fun a => (7, 0xFF, a)),
      ent 8 (fun e => bad8 img (entCount e)
        [(entEntry e, if (imgWord img (entEntry e)).op = 0x19 then 1 else 0)]),
      word 9 (bad9 img),
      word 10 (fun a => (imgWord img a).op == 0x22 && !(decide (7 ≤ (imgWord img a).i9) && decide ((imgWord img a).i9 ≤ 10))) ]
  fails.findSome? id

/-- LONG as the loader computes it: a POLL is reachable. -/
def loaderLong (img : List W32) (e : W64) : W64 :=
  setBit e 47 (entV e &&
    (imgReach img 1024 [entEntry e] [entEntry e]).any (fun a => (imgWord img a).op == 0x30))

/-- A verified image as it is staged. -/
def stagedOf (img : List W32) (entries : List W64) : Arcade :=
  { words := ((List.range img.length).zip img).map (fun p => (0xC00 + p.1, p.2))
    entries := ((List.range 16).zip (entries.map (loaderLong img))).filter (fun p => p.2 != 0) }

end Sys2Proof.Machine
end

