-- ==== Sys2Proof/Machine/Binary.lean ====
section
/-! DEFINITION. Binary integer instructions (05 R148 to R155). -/

namespace Sys2Proof.Machine

/-- The operand widened to 64 bits (Table 5-1); an immediate is sign-extended. -/
def qOperand (m : MOp) (signed : Bool) (bs : List Byte) : W64 :=
  if mImm m then (mDisp m).signExtend 64
  else if signed then BitVec.ofInt 64 (sext (8 * bs.length) (beNat bs))
  else BitVec.ofNat 64 (beNat bs)

/-- The effect of a binary result with its flags; `write` writes ACC.Q, `trap` applies vector 10 and
PSW.BVS (R150). -/
def binEff (w : Work) (r : W64) (f : Flags) (write trap : Bool) : Eff :=
  if trap && f.v && pswBit w.k.bank.psw eBOE then Eff.fail (mkTrapless 10)
  else
    let bvs : W64 := if trap && f.v then (1 : W64) <<< sBVS else 0
    Eff.of ((if write then [(1, wrQ r)] else []) ++ [(1, .psw (mCVZN ||| bvs) (f.word ||| bvs))]) [] 1

/-- An arithmetic or logical instruction with an operand: `f` answers result and flags from ACC.Q, the
operand and C. -/
def arithInsn (a : Issue) (op : Nat) (m : MOp) (k : Core) (signed write trap : Bool)
    (f : W64 → W64 → Bool → W64 × Flags) : Insn :=
  mInsn a op m .q true k true false (pureBody (fun w _ bs =>
    let r : W64 × Flags := f w.k.bank.q (qOperand m signed (op1 bs)) (w.k.bank.psw.getLsbD 0)
    binEff w r.1 r.2 write trap))

def subOf (x y : W64) (c : Bool) : W64 × Flags := addFlags x (~~~ y) c

/-- NEGQ (R149). -/
def execNegq (a : Issue) (s : State) : Res :=
  s.run a (fun _ _ => aInsn a 0x08 (pureBody (fun w _ _ =>
    binEff w (subOf 0 w.k.bank.q true).1 (subOf 0 w.k.bank.q true).2 true true)))

/-- NOTQ (R149). -/
def execNotq (a : Issue) (s : State) : Res :=
  s.run a (fun _ _ => aInsn a 0x09 (pureBody (fun w _ _ =>
    binEff w (~~~ w.k.bank.q) (logicFlags (~~~ w.k.bank.q) false) true false)))

/-- A shift of ACC.Q by S[5:0]; S[7:6] is reserved (Table 3-13). -/
def shiftInsn (a : Issue) (op : Nat) (sel : Byte) (f : W64 → Nat → W64 × Bool) : Insn :=
  { bInsn a op (pureBody (fun w _ _ =>
      let r : W64 × Bool := f w.k.bank.q (bits sel.toNat 0 6)
      binEff w r.1 (logicFlags r.1 r.2) true false)) with legal := decide (sel.toNat < 64) }

/-- SHLQ (R149). -/
def execShlq (a : Issue) (sel : Byte) (s : State) : Res := s.run a (fun _ _ => shiftInsn a 0x26 sel shlQ)
/-- SHRQ (R149). -/
def execShrq (a : Issue) (sel : Byte) (s : State) : Res := s.run a (fun _ _ => shiftInsn a 0x27 sel shrQ)
/-- SARQ (R149). -/
def execSarq (a : Issue) (sel : Byte) (s : State) : Res := s.run a (fun _ _ => shiftInsn a 0x28 sel sarQ)

/-- LDIQ (R151). -/
def execLdiq (a : Issue) (sel : Byte) (s : State) : Res :=
  s.run a (fun _ _ => bInsn a 0x2C (pureBody (fun _ _ _ => Eff.of [(1, wrQ (sel.signExtend 64))] [] 1)))

/-- A load of ACC.Q (R151). -/
def ldqInsn (a : Issue) (op : Nat) (m : MOp) (k : Core) (signed : Bool) : Insn :=
  mInsn a op m .q true k true false (pureBody (fun _ _ bs =>
    Eff.of [(2, wrQ (qOperand m signed (op1 bs)))] [] 1))

/-- LDQ (R151). -/
def execLdq (a : Issue) (m : MOp) (s : State) : Res := s.run a (fun _ k => ldqInsn a 0x40 m k false)
/-- LDQS (R151). -/
def execLdqs (a : Issue) (m : MOp) (s : State) : Res := s.run a (fun _ k => ldqInsn a 0x41 m k true)

/-- STQ (R151). -/
def execStq (a : Issue) (m : MOp) (s : State) : Res :=
  s.run a (fun _ k => mStore a 0x42 m .q k (fun k => beBytes (mLen m) k.bank.q.toNat))

/-- ADDQ (R149). -/
def execAddq (a : Issue) (m : MOp) (s : State) : Res :=
  s.run a (fun _ k => arithInsn a 0x43 m k true true true (fun x y _ => addFlags x y false))
/-- ADCQ (R149). -/
def execAdcq (a : Issue) (m : MOp) (s : State) : Res :=
  s.run a (fun _ k => arithInsn a 0x44 m k true true true addFlags)
/-- SUBQ (R149). -/
def execSubq (a : Issue) (m : MOp) (s : State) : Res :=
  s.run a (fun _ k => arithInsn a 0x45 m k true true true (fun x y _ => subOf x y true))
/-- SBCQ (R149). -/
def execSbcq (a : Issue) (m : MOp) (s : State) : Res :=
  s.run a (fun _ k => arithInsn a 0x46 m k true true true subOf)
/-- CMPQ (R149). -/
def execCmpq (a : Issue) (m : MOp) (s : State) : Res :=
  s.run a (fun _ k => arithInsn a 0x47 m k true false false (fun x y _ => subOf x y true))
/-- ANDQ (R149). -/
def execAndq (a : Issue) (m : MOp) (s : State) : Res :=
  s.run a (fun _ k => arithInsn a 0x48 m k false true false (fun x y _ => (x &&& y, logicFlags (x &&& y) false)))
/-- ORQ (R149). -/
def execOrq (a : Issue) (m : MOp) (s : State) : Res :=
  s.run a (fun _ k => arithInsn a 0x49 m k false true false (fun x y _ => (x ||| y, logicFlags (x ||| y) false)))
/-- XORQ (R149). -/
def execXorq (a : Issue) (m : MOp) (s : State) : Res :=
  s.run a (fun _ k => arithInsn a 0x4A m k false true false (fun x y _ => (x ^^^ y, logicFlags (x ^^^ y) false)))

/-- A multiply: the 128-bit product to MPH:MPL with latency 4 (R66, R152). -/
def mulInsn (a : Issue) (op : Nat) (m : MOp) (k : Core) (signed : Bool) : Insn :=
  mInsn a op m .q true k true false (pureBody (fun w _ bs =>
    let x : W64 := w.k.bank.q
    let y : W64 := qOperand m signed (op1 bs)
    let p : Nat := if signed then wrapInt 128 (x.toInt * y.toInt) else x.toNat * y.toNat
    Eff.of [(4, .mph (BitVec.ofNat 64 (p / 2 ^ 64))), (4, .mpl (BitVec.ofNat 64 p))] [] 1))

/-- MUL (R152). -/
def execMul (a : Issue) (m : MOp) (s : State) : Res := s.run a (fun _ k => mulInsn a 0x4B m k true)
/-- MULU (R152). -/
def execMulu (a : Issue) (m : MOp) (s : State) : Res := s.run a (fun _ k => mulInsn a 0x4C m k false)

/-- What a divide does: an exception, or the sticky bit set, the quotient and the remainder (R153). -/
structure DivRes where
  exn : Option Exn
  sticky : W64
  q : W64
  r : W64

/-- The divide of R153. -/
def divide (psw : W64) (signed : Bool) (x y : W64) : DivRes :=
  if y = 0 then
    { exn := if pswBit psw eZDE then some (mkTrapless 9) else none
      sticky := (1 : W64) <<< sZDS, q := 0, r := x }
  else if signed then
    if x.toInt = -(2 ^ 63 : Int) ∧ y.toInt = -1 then
      { exn := if pswBit psw eBOE then some (mkTrapless 10) else none
        sticky := (1 : W64) <<< sBVS, q := BitVec.ofInt 64 (-(2 ^ 63 : Int)), r := 0 }
    else
      { exn := none, sticky := 0, q := BitVec.ofInt 64 (Int.tdiv x.toInt y.toInt)
        r := BitVec.ofInt 64 (Int.tmod x.toInt y.toInt) }
  else
    { exn := none, sticky := 0, q := BitVec.ofNat 64 (x.toNat / y.toNat), r := BitVec.ofNat 64 (x.toNat % y.toNat) }

/-- A divide: DVQ and DVM with latency 18, the divider in use until then (R66, R153, R154). -/
def divInsn (a : Issue) (op : Nat) (m : MOp) (k : Core) (signed : Bool) : Insn :=
  { mInsn a op m .q true k true false (pureBody (fun w _ bs =>
      let d : DivRes := divide w.k.bank.psw signed w.k.bank.q (qOperand m signed (op1 bs))
      match d.exn with
      | some x => Eff.fail x
      | none =>
        Eff.of ([(18, .dvq d.q), (18, .dvm d.r)]
          ++ (if d.sticky = 0 then [] else [(1, .psw d.sticky d.sticky)])) [] 1)) with divider := 18 }

/-- DIV (R153). -/
def execDiv (a : Issue) (m : MOp) (s : State) : Res := s.run a (fun _ k => divInsn a 0x4D m k true)
/-- DIVU (R153). -/
def execDivu (a : Issue) (m : MOp) (s : State) : Res := s.run a (fun _ k => divInsn a 0x4E m k false)

end Sys2Proof.Machine
end

