-- ==== Sys2Proof/Machine/Queues.lean ====
section
/-! DEFINITION. Queue pairs (12): doorbells, fetching and its checks, completions, vectors, failures and
function level resets. -/

namespace Sys2Proof.Machine

/-! ### Rings and registers (R329, R332 to R335) -/

def QPair.sqDepth (x : QPair) : Nat := 2 ^ (bits x.qcfg.toNat 0 4 + 4)
def QPair.cqDepth (x : QPair) : Nat := 2 ^ (bits x.qcfg.toNat 4 4 + 4)
def QPair.vec (x : QPair) : Nat := bits x.qcfg.toNat 8 11
def QPair.cnt (x : QPair) : Nat := bits x.cqint.toNat 0 8
def QPair.time (x : QPair) : Nat := bits x.cqint.toNat 8 8

/-- The free CQ entries, counted from CQHEAD (R335). -/
def QPair.cqFree (x : QPair) : Nat :=
  x.cqDepth - 1 - (x.cqtail.toNat + x.cqDepth - x.cqhead.toNat) % x.cqDepth

/-- QSTAT (Table 12-2). -/
def QPair.qstat (x : QPair) : Nat :=
  fcode x.st + x.dberr.toNat * 4 + x.cqerr.toNat * 8 + x.parked.isSome.toNat * 16 + x.sqhead.toNat * 65536

/-- BOOTSTAT.STAGE is READY (R432). -/
def State.ready (s : State) : Bool := s.boot.stage == 6

/-- The tenancy and a queue pair of a function. -/
def State.qpOf (s : State) (f : FnId) (q : Nat) : Option (Nat × QPair) :=
  match s.tenOf f with
  | none => none
  | some t => (s.qp? t q).map (fun x => (t, x))

/-- The host link of a function serves its BAR0 (R432, R481, R431). -/
def State.bar0 (s : State) (f : FnId) : Bool :=
  s.ready && (s.hostPort f.port.val).st != .stopped

/-! ### Vectors (R343) -/

/-- An MSI-X vector of the function bound to a tenancy is raised. -/
def State.msixOf (s : State) (t : Nat) (x : QPair) : State :=
  match (s.tenancy t).bound with
  | none => s
  | some f =>
    let i : Nat := fnIx f * 2048 + x.vec
    { s with msix := spPut s.msix i (spGet 0 s.msix i + 1) }

/-! ### Completions (R340 to R343) -/

/-- The status codes that a command can return: those of Table 13-10 but the journal's own POSTING_REJECTED. -/
def statusCodes : List Nat :=
  [0x0000, 0x0001, 0x0002, 0x0003, 0x0005, 0x1001, 0x1002, 0x1003, 0x1004, 0x1005, 0x1006, 0x1007, 0x1008, 0x1009,
   0x100A, 0x100B, 0x100C, 0x100D, 0x100E, 0x100F, 0x1010, 0x2001, 0x2002, 0x2003, 0x2004, 0x2005, 0x2006, 0x2007,
   0x3001, 0x3002, 0x3003, 0x3004, 0x3005, 0x3006, 0x3007, 0x3008, 0x4001, 0x4002, 0x4003, 0x4004, 0x4005, 0x8001, 0x8002]

/-- What a completion reports: STATUS, RES0, RES1, DETAIL. -/
structure Ans where
  status : Nat
  res0 : Nat
  res1 : Nat
  detail : Nat
deriving DecidableEq, Repr

/-- A status alone. -/
def Ans.of (st : Nat) : Ans := { status := st, res0 := 0, res1 := 0, detail := 0 }

/-- The 32 bytes of a completion packet (Table 12-8). -/
def cplBytes (devno : Nat) (phase : Bool) (e : Fetched) (a : Ans) : List Byte :=
  let b : List Byte :=
    slice e.bytes 4 2 ++ leBytes 2 a.status ++ slice e.bytes 0 1 ++ leBytes 1 (devno + phase.toNat * 128)
      ++ leBytes 2 e.sqhd.toNat ++ leBytes 2 e.sqix.toNat ++ zeros 2 ++ leBytes 4 a.res0
      ++ leBytes 8 a.res1 ++ leBytes 4 a.detail
  b ++ leBytes 4 (crc32c b)

/-- NOINT and FENCE of a submission (Table 12-6). -/
def Fetched.noint (e : Fetched) : Bool := (byteAt e.bytes 1).getLsbD 1
def Fetched.fence (e : Fetched) : Bool := (byteAt e.bytes 1).getLsbD 0
def Fetched.opcode (e : Fetched) : Nat := (byteAt e.bytes 0).toNat

/-- A queue pair that drains is STOPPED once every fetched command has completed (R330). -/
def QPair.drained (x : QPair) : QPair :=
  if x.st = .draining ∧ x.fetched = [] then { x with st := .stopped } else x

/-- A command of queue pair `q` that a function level reset found fetched, and that is not completed yet (R344). -/
def Tenancy.isGhost (x : Tenancy) (q : Nat) (e : Fetched) : Bool := x.ghosts.any (fun g => g.1 == q && g.2.seq == e.seq)

/-- A command that a function level reset found is done: nothing is written for it (R344). -/
def State.ghostDone (s : State) (t q : Nat) (e : Fetched) : State :=
  let y : Tenancy := s.tenancy t
  if y.isGhost q e then
    s.setTenancy t { y with ghosts := y.ghosts.filter (fun g => !(g.1 == q && g.2.seq == e.seq)) }
  else s

/-- A fetched command is answered by its completion: written at the CQ tail, counted toward CQINT. A
FAULTED queue pair, and a command that a function level reset found, write nothing (R344). -/
def State.complete (s : State) (t q : Nat) (e : Fetched) (a : Ans) : State :=
  match s.qp? t q with
  | none => s.ghostDone t q e
  | some x =>
    let x1 : QPair := { x with fetched := x.fetched.filter (fun y => y.seq != e.seq) }
    if !x.fetched.any (fun y => y.seq == e.seq) then s.ghostDone t q e
    else if x.st = .faulted then s.setQp t q x1
    else
      let s1 : State :=
        s.hostWr (x.cqbase.toNat + 32 * x.cqtail.toNat) (cplBytes (s.tenancy t).devno.toNat x.phase e a)
      let tail : Nat := (x.cqtail.toNat + 1) % x.cqDepth
      let n : Nat := if e.noint then x.counted else x.counted + 1
      let fire : Bool := !e.noint && decide (max 1 x.cnt ≤ n)
      let x2 : QPair :=
        { x1 with cqtail := BitVec.ofNat 32 tail, phase := if tail = 0 then !x.phase else x.phase
                  counted := if fire then 0 else n }
      let s2 : State := s1.setQp t q x2.drained
      if fire then s2.msixOf t x else s2

/-- A reply buffer or journal area is written for a queue pair that is not FAULTED (R342, R344). -/
def State.reply (s : State) (t q : Nat) (addr : Nat) (l : List Byte) : State :=
  match s.qp? t q with
  | some x => if x.st = .faulted then s else s.hostWr addr l
  | none => s

/-! ### Batches in order (R316) -/

/-- A POST_BATCH submission. -/
def Fetched.isBatch (e : Fetched) : Bool := e.opcode == 0x30

/-- The counts of a batch that runs. -/
def State.batch (s : State) (t q seq : Nat) : BatchSt :=
  (s.batches.find? (fun b => decide (b.ten.toNat = t ∧ b.q.toNat = q ∧ b.seq = seq))).getD
    { ten := BitVec.ofNat 4 t, q := BitVec.ofNat 8 q, seq := seq, open_ := 0, bad := 0 }

/-- The counts of a batch replaced. -/
def State.setBatch (s : State) (b : BatchSt) : State :=
  { s with batches :=
      b :: s.batches.filter (fun y => !decide (y.ten = b.ten ∧ y.q = b.q ∧ y.seq = b.seq)) }

/-- The counts of a batch dropped. -/
def State.dropBatch (s : State) (t q seq : Nat) : State :=
  { s with batches := s.batches.filter (fun y => !decide (y.ten.toNat = t ∧ y.q.toNat = q ∧ y.seq = seq)) }

/-- The completion of a chain that has ended (R349). -/
def chainAns (read : Nat) (status : W16) (res1 : W64) (detail : W32) (bad : Nat) : Ans :=
  if status = 0 ∨ status = 2 then
    { status := if status = 0 ∧ bad ≠ 0 then 3 else status.toNat, res0 := read, res1 := res1.toNat, detail := bad }
  else { status := status.toNat, res0 := read, res1 := res1.toNat, detail := detail.toNat }

/-- Completes the batches of a queue pair in submission order, as far as their chains have ended and
every posting has its answer (R316). -/
def State.finishBatches (t q : Nat) : Nat → State → State
  | 0, s => s
  | n + 1, s =>
    match s.qp? t q with
    | none => s
    | some x =>
      match x.fetched.find? Fetched.isBatch with
      | none => s
      | some e =>
        match e.prog with
        | .ended read st r1 d =>
          let b : BatchSt := s.batch t q e.seq
          if b.open_ = 0 then
            State.finishBatches t q n ((s.complete t q e (chainAns read st r1 d b.bad)).dropBatch t q e.seq)
          else s
        | _ => s

/-- `finishBatches` over everything fetched. -/
def State.finish (s : State) (t q : Nat) : State :=
  match s.qp? t q with
  | none => s
  | some x => State.finishBatches t q x.fetched.length s

/-- A fetched command with its progress replaced. -/
def State.setProg (s : State) (t q seq : Nat) (p : Prog) : State :=
  let set (e : Fetched) : Fetched := if e.seq = seq then { e with prog := p } else e
  let y : Tenancy := s.tenancy t
  let s1 : State := s.setTenancy t { y with ghosts := y.ghosts.map (fun g => if g.1 = q then (q, set g.2) else g) }
  match s1.qp? t q with
  | none => s1
  | some x => s1.setQp t q { x with fetched := x.fetched.map set }

/-! ### Doorbells (R334) -/

/-- SQTAIL written. -/
def QPair.doorTail (x : QPair) (v : W32) : QPair :=
  if x.sqDepth ≤ v.toNat then { x with dberr := true } else { x with sqtail := v }

/-- CQHEAD written. -/
def QPair.doorHead (x : QPair) (v : W32) : QPair :=
  if x.cqDepth ≤ v.toNat then { x with dberr := true } else { x with cqhead := v }

/-- A change of a queue pair's page by its function (R332, R353, R481). -/
def State.onPage (s : State) (f : FnId) (q : Nat) (g : QPair → QPair) : State :=
  if s.bar0 f then
    match s.qpOf f q with
    | none => s
    | some (t, x) => s.setQp t q (g x)
  else s

/-- SQTAIL (R334). -/
def execSqtail (f : FnId) (q : Byte) (v : W32) (hw : List HostStore) (s : State) : Res :=
  .next ((s.hostStores hw).onPage f q.toNat (fun x => x.doorTail v))

/-- CQHEAD (R334). -/
def execCqhead (f : FnId) (q : Byte) (v : W32) (hw : List HostStore) (s : State) : Res :=
  .next ((s.hostStores hw).onPage f q.toNat (fun x => x.doorHead v))

/-! ### Start and stop (R330, R333, R341, R525) -/

/-- A structural setting of a queue pair takes effect (Table 13-9). -/
def QPair.apply (x : QPair) (p : PendSet) : QPair :=
  let v : Nat := p.value.toNat
  if p.pid = 0x202 then { x with qcfg := setField x.qcfg 0 4 v }
  else if p.pid = 0x203 then { x with qcfg := setField x.qcfg 4 4 v }
  else if p.pid = 0x204 then { x with qcfg := setField x.qcfg 8 11 v }
  else if p.pid = 0x205 then { x with sqbase := p.value }
  else if p.pid = 0x206 then { x with cqbase := p.value }
  else x

/-- START of a queue pair: pending settings are applied, the first pass through the CQ has P = 1. -/
def QPair.start (x : QPair) : QPair :=
  { x.pend.foldl QPair.apply x with pend := [], st := .running, phase := true, restart := false }

/-- STOP of a queue pair that is RUNNING (R330). -/
def QPair.stop (x : QPair) : QPair :=
  if x.st = .running then QPair.drained { x with st := .draining } else x

/-- The retention ring at a new size: the newest entries are kept (R370). -/
def ringResize (n : Nat) (r : List Retained) : List Retained := r.drop (r.length - n)

/-- A setting of a tenancy takes effect (Table 13-9). -/
def Tenancy.apply (x : Tenancy) (p : PendSet) : Tenancy :=
  let v : Nat := p.value.toNat
  if p.pid = 0x101 then { x with dirQuota := v }
  else if p.pid = 0x102 then { x with pinQuota := v }
  else if p.pid = 0x103 then { x with qpQuota := v }
  else if p.pid = 0x104 then { x with vecCount := v }
  else if p.pid = 0x105 then { x with jret := v, ring := ringResize v x.ring }
  else x

/-- The pending settings of a tenancy take effect. -/
def Tenancy.applyPend (x : Tenancy) : Tenancy := { x.pend.foldl Tenancy.apply x with pend := [] }

/-- A pending JRET asks for a new retention ring (R370). -/
def Tenancy.needsRing (x : Tenancy) : Bool := x.pend.any (fun p => p.pid == 0x105 && p.value != 0)

/-- The pending settings of a tenancy but JRET take effect. -/
def Tenancy.applyNoRing (x : Tenancy) : Tenancy :=
  { (x.pend.filter (fun p => p.pid != 0x105)).foldl Tenancy.apply x with pend := x.pend.filter (fun p => p.pid == 0x105) }

/-- Tenancy 0 at a QCTL.START of its queue pair 0 made while every queue pair is STOPPED: without room for a new
retention ring, JRET stays pending (R525). -/
def Tenancy.qctlPend (t : Nat) (memOk : Bool) (x : Tenancy) : Tenancy :=
  if t = 0 ∧ x.qps.all (fun p => p.2.st == .stopped) then
    if !memOk && x.needsRing then x.applyNoRing else x.applyPend
  else x

/-- QCTL.START of a function (R333, R362). -/
def State.qctlStart (s : State) (f : FnId) (memOk : Bool) : State :=
  if s.bar0 f then
    match s.qpOf f 0 with
    | none => s
    | some (t, x) =>
      if x.st = .stopped ∧ (s.tenancy t).st = .running then
        (s.setTenancy t ((s.tenancy t).qctlPend t memOk)).setQp t 0 x.start
      else s
  else s

/-- QCTL.START (R333, R362). -/
def execQctlStart (x : QctlFacts) (s : State) : Res := .next (s.qctlStart x.fn x.memOk)

/-- QCTL.STOP (R333, R330). -/
def execQctlStop (f : FnId) (s : State) : Res := .next (s.onPage f 0 QPair.stop)

/-! ### Fetching (R335, R338) -/

/-- An installed extension claims an opcode (R355, R442). -/
def State.claims (s : State) (op : Nat) : Option Extension :=
  if 0xC0 ≤ op ∧ op < 0xE0 then s.extensions.find? (fun x => x.opmap.getLsbD (op - 0xC0)) else none

/-- The opcodes of Table 13-1 below the extension range. -/
def opcodes : List Nat :=
  [0x01, 0x02, 0x03, 0x04, 0x05, 0x10, 0x11, 0x12, 0x13, 0x20, 0x21, 0x22, 0x23, 0x30, 0x40, 0x41,
   0x50, 0x51, 0x52, 0x53, 0x60, 0x61, 0x62, 0x70, 0x80]

/-- The status of the first check of orders 1 to 6 of Table 12-7 that a submission fails. -/
def State.submissionFails (s : State) (t q : Nat) (b : List Byte) : Option Nat :=
  let op : Nat := (byteAt b 0).toNat
  if leAt b 60 4 ≠ crc32c (b.take 60) then some 0x4001
  else if (byteAt b 3).toNat % 64 ≠ (s.tenancy t).devno.toNat then some 0x1004
  else if (byteAt b 2).toNat % 16 ≠ t then some 0x1003
  else if !opcodes.contains op && (s.claims op).isNone then some 0x1001
  else if 4 ≤ (byteAt b 1).toNat ∨ 16 ≤ (byteAt b 2).toNat ∨ 64 ≤ (byteAt b 3).toNat
      ∨ !allZero (slice b 6 2) ∨ !allZero (slice b 56 4) then some 0x1002
  else if q ≠ 0 ∧ op ≠ 0x30 ∧ op ≠ 0x40 ∧ op ≠ 0x41 then some 0x1008
  else none

/-- A failure of a Gloes seal is recorded at the host port (R413, R420). -/
def State.sealFailed (s : State) (t : Nat) : State :=
  match (s.tenancy t).bound with
  | none => s
  | some f =>
    { s.report { sev := sevContained, hop := 1, code := 0x20, utype := 5, uidx := BitVec.ofNat 8 f.port.val
                 asp := Config.openAsp s.free, addr := Config.openAddr s.free, synd := 0
                 ten := BitVec.ofNat 4 t, task := 0, pc := 0 } with free := s.free + 1 }

/-- The postings that a record's forward queue holds (R311). -/
def State.fwdOf (s : State) (k : RecKey) : List Posting := s.fwdq.filter (fun p => p.key == k)

/-- A full forward queue holds the queue pair back (R311). -/
def State.heldBack (s : State) (x : QPair) : Bool :=
  match x.held with
  | none => false
  | some k => decide (64 ≤ (s.fwdOf k).length)

/-- Whether the device fetches a submission from a queue pair now (R311, R330, R334, R335, R486). -/
def State.fetches (s : State) (f : FnId) (x : QPair) : Bool :=
  x.st == .running && x.sqhead != x.sqtail && decide (x.fetched.length < x.cqFree)
    && decide (x.fetched.length < 1024) && !s.heldBack x && !s.fatal
    && !(s.hostPort f.port.val).d3.getLsbD f.fn.val

/-- What the checks of the hops between host port, fetch buffer and firmware record of data that they discard
(R405, R406; Table 15-3 hops 2 to 4, 9 and 10): a ring seal at the square, the fetch buffer's or return ring's ECC,
the parity of the firmware's own registers and buffers. -/
def hopRec (s : State) : Option HwErr → Option ErrRec
  | some .seal => some { plainRec sevContained 0x20 3 0 with hop := 0x2, synd := s.synd 0x2 }
  | some .uncorrectable => some { plainRec sevContained 0x11 1 0 with hop := 0x5, synd := s.synd 0x5 }
  | some .parity => some { plainRec sevDevice 0x03 1 0 with hop := 0xC }
  | _ => none

/-- The record of such a check written, and whether it failed. -/
def State.hopFails (s : State) (err : Option HwErr) : State × Bool :=
  match hopRec s err with
  | some r => ({ s.report r with free := s.free + 1 }, true)
  | none => (s, false)

/-- The bytes of the submission that a queue pair fetches next; free where the host read fails. -/
def State.submission (s : State) (x : QPair) (readFails : Bool) : List Byte :=
  if readFails then (List.range 64).map (Config.unreadByte s.free)
  else s.hostRd (x.sqbase.toNat + 64 * x.sqhead.toNat) 64

/-- A submission fetched and checked: refused at once by the first failing check, else held to start.
The answer of a refused batch waits for earlier batches (R316). -/
def State.fetch (s : State) (f : FnId) (q : Nat) (readFails : Bool) : State :=
  match s.qpOf f q with
  | none => s
  | some (t, x) =>
    if !s.fetches f x then s
    else
      let b : List Byte := s.submission x readFails
      let head : Nat := (x.sqhead.toNat + 1) % x.sqDepth
      let bad : Option Nat := if readFails then some 0x1009 else s.submissionFails t q b
      let e : Fetched :=
        { seq := x.nextSeq, sqix := x.sqhead.truncate 16, sqhd := BitVec.ofNat 16 head, bytes := b
          prog := match bad with
            | some st => .ended 0 (BitVec.ofNat 16 st) 0 0
            | none => .none }
      let x1 : QPair :=
        { x with sqhead := BitVec.ofNat 32 head, nextSeq := x.nextSeq + 1, fetched := x.fetched ++ [e] }
      let s1 : State := { s with free := s.free + readFails.toNat }.setQp t q x1
      match bad with
      | none => s1
      | some st =>
        let s2 : State := if st = 0x4001 then s1.sealFailed t else s1
        if e.isBatch && x.fetched.any Fetched.isBatch then s2 else s2.complete t q e (Ans.of st)

/-- SUBMISSION_FETCH (R335). A check that fails on the way to the firmware leaves the submission as unread as a host
read that fails (R405). -/
def execSubmissionFetch (f : FnId) (q : Byte) (y : FetchFacts) (s : State) : Res :=
  match s.qpOf f q.toNat with
  | none => .next s
  | some (_, x) =>
    let r : State × Bool := if s.fetches f x && !y.readFails then s.hopFails y.err else (s, false)
    .next (r.1.fetch f q.toNat (y.readFails || r.2))

/-- The submission that a queue pair would fetch next has an opcode absent from Table 13-1. -/
def State.nextUnknown (s : State) (f : FnId) (q : Nat) : Bool :=
  match s.qpOf f q with
  | none => false
  | some (t, x) => s.submissionFails t q (s.submission x false) == some 0x1001

/-- UNKNOWN_OPCODE (R355): the fetch of such a submission, refused with UNKNOWN_OPCODE. -/
def execUnknownOpcode (f : FnId) (q : Byte) (s : State) : Res :=
  if s.nextUnknown f q.toNat then .next (s.fetch f q.toNat false) else .next s

/-- CQINT_TIME_EXPIRY (R343). -/
def execCqintTimeExpiry (f : FnId) (q : Byte) (s : State) : Res :=
  match s.qpOf f q.toNat with
  | none => .next s
  | some (t, x) =>
    if x.counted ≠ 0 ∧ x.time ≠ 0 ∧ x.st ≠ .faulted then
      .next ((s.setQp t q.toNat { x with counted := 0 }).msixOf t x)
    else .next s

/-! ### Failures and resets (R344) -/

/-- Nothing more is written for the commands that a queue pair has fetched: its batches are dropped, and
the postings that they had accepted are answered in the retention ring alone (R344). -/
def State.orphan (s : State) (t q : Nat) : State :=
  let mine (r : PostRef) : Bool := decide (r.ten.toNat = t) && decide (r.q.toNat = q)
  let dead (p : Posting) : Posting := if mine p.ref then { p with ref := { p.ref with live := false } } else p
  { s with fwdq := s.fwdq.map dead
           deliveries := s.deliveries.map (fun d => { d with post := d.post.map dead })
           batches := s.batches.filter (fun b => !(decide (b.ten.toNat = t) && decide (b.q.toNat = q))) }

/-- HOST_WRITE_FAILURE (R344): the queue pair goes FAULTED and raises its vector once. -/
def State.hostWriteFails (s : State) (t q : Nat) (x : QPair) : State :=
  if x.st = .running ∨ x.st = .draining then
    let x1 : QPair :=
      { x with st := .faulted, cqerr := true, held := none, counted := 0
               fetched := x.fetched.filter (fun e => !e.isBatch) }
    ((s.orphan t q).setQp t q x1).msixOf t x
  else s

/-- HOST_WRITE_FAILURE (R344). -/
def execHostWriteFailure (f : FnId) (q : Byte) (s : State) : Res :=
  match s.qpOf f q.toNat with
  | none => .next s
  | some (t, x) => .next (s.hostWriteFails t q.toNat x)

/-- Queue pair 0 after a function level reset: the registers of its page are zero (R332, R344). -/
def QPair.flr (x : QPair) : QPair := { QPair.reset with qwt := x.qwt, nextSeq := x.nextSeq }

/-- The fetched commands of a queue pair that go on to complete internally: all but its batches (R344). -/
def QPair.left (q : Nat) (x : QPair) : List (Nat × Fetched) := (x.fetched.filter (fun e => !e.isBatch)).map (fun e => (q, e))

/-- A function level reset (R344). -/
def State.flr (s : State) (f : FnId) : State :=
  match s.tenOf f with
  | none => s
  | some t =>
    let x : Tenancy := s.tenancy t
    let s1 : State := x.qps.foldl (fun s p => s.orphan t p.1) s
    s1.setTenancy t { x with qps := [(0, (spGet QPair.reset x.qps 0).flr)], devno := 0
                             ghosts := x.ghosts ++ x.qps.flatMap (fun p => p.2.left p.1) }

/-- FUNCTION_LEVEL_RESET (R344). -/
def execFunctionLevelReset (f : FnId) (s : State) : Res := .next (s.flr f)

/-! ### Commands that have been fetched (R338, R339, R356 to R358) -/

/-- A fetched command that may act now. -/
structure Cmd where
  fn : FnId
  t : Nat
  q : Nat
  e : Fetched
  /-- it completes internally after a function level reset -/
  ghost : Bool
  readFails : Bool
  readsOk : Nat
  dirBad : List (BitVec 23)
  recBad : Bool
deriving DecidableEq, Repr

/-- Whether a command has been started. -/
def Fetched.started (e : Fetched) : Bool := e.prog != .none

/-- A command may act once it is started, or may start: in SQ order, and with FENCE only after every
earlier command has completed (R339). `l` holds the commands of its queue pair. -/
def mayAct (l : List Fetched) (e : Fetched) : Bool :=
  let before : List Fetched := l.filter (fun y => decide (y.seq < e.seq))
  e.started || if e.fence then before == [] else before.all Fetched.started

/-- The command of a list that a row names, when its opcode is the row's and it may act. -/
def cmdIn (l : List Fetched) (r : CmdRef) (op : Nat → Bool) : Option Fetched :=
  l.find? (fun e => e.sqix == r.sqix && op e.opcode && mayAct l e)

/-- The commands of a queue pair that complete internally. -/
def Tenancy.ghostsOf (x : Tenancy) (q : Nat) : List Fetched := (x.ghosts.filter (fun g => g.1 == q)).map (fun g => g.2)

/-- The fetched command that a row names: one that completes internally, or one that its queue pair holds. -/
def State.cmd? (s : State) (r : CmdRef) (op : Nat → Bool) : Option Cmd :=
  match s.tenOf r.fn with
  | none => none
  | some t =>
    let c (ghost : Bool) (e : Fetched) : Cmd :=
      { fn := r.fn, t := t, q := r.q.toNat, e := e, ghost := ghost, readFails := r.readFails, readsOk := r.readsOk
        dirBad := r.dirBad, recBad := r.recBad }
    let live : List Fetched := match s.qp? t r.q.toNat with | some x => x.fetched | none => []
    if s.fatal then none
    else ((cmdIn ((s.tenancy t).ghostsOf r.q.toNat) r op).map (c true)).or ((cmdIn live r op).map (c false))

/-! ### Weighted round robin (R352) -/

/-- The postings, and the other commands, that a queue pair may still accept and start in this round. -/
def QPair.postLeft (x : QPair) : Nat := x.qwt * 16 - x.share
def QPair.cmdLeft (x : QPair) : Nat := x.qwt - x.begun

/-- A queue pair has work that it can do within its share of this round: a batch, or another command that may
start. One that a full forward queue holds back holds only itself (R352). -/
def State.hasWork (s : State) (x : QPair) : Bool :=
  (x.st == .running || x.st == .draining) && x.fetched.any (fun e =>
    if e.isBatch then
      decide (0 < x.postLeft) && !s.heldBack x
        && (match e.prog with | .none => mayAct x.fetched e | .batch _ _ _ _ _ => true | _ => false)
    else e.prog == .none && mayAct x.fetched e && decide (0 < x.cmdLeft))

/-- Another queue pair has work within its share of this round. -/
def State.othersWork (s : State) (t q : Nat) : Bool :=
  s.tenancies.any (fun y => y.2.qps.any (fun x => !(y.1 == t && x.1 == q) && s.hasWork x.2))

/-- A new round begins. -/
def State.newRound (s : State) : State :=
  let fresh (x : QPair) : QPair := { x with share := 0, begun := 0 }
  { s with tenancies := s.tenancies.map (fun y => (y.1, { y.2 with qps := y.2.qps.map (fun x => (x.1, fresh x.2)) })) }

/-- A queue pair whose share of this round is spent waits while another has work within its own; else a new round
begins (R352). -/
def State.round (s : State) (t q : Nat) (left : QPair → Nat) : Option State :=
  match s.qp? t q with
  | none => some s
  | some x => if 0 < left x then some s else if s.othersWork t q then none else some s.newRound

/-- A command has not started. -/
def State.unstarted (s : State) (c : Cmd) : Bool :=
  match s.qp? c.t c.q with
  | some x => x.fetched.any (fun e => e.seq == c.e.seq && e.prog == .none)
  | none => false

/-- A command of a queue pair starts within its share of the round (R352). -/
def State.begin? (s : State) (c : Cmd) : Option State :=
  if c.ghost || c.e.started || c.e.isBatch then some s
  else
    (s.round c.t c.q QPair.cmdLeft).map (fun s =>
      match s.qp? c.t c.q with
      | some x => s.setQp c.t c.q { x with begun := x.begun + 1 }
      | none => s)

/-- The effect of a row on the fetched command that it names, when its opcode satisfies `op`; without one nothing
happens, and a command that does not start leaves its share. -/
def State.onCmdIf (s : State) (r : CmdRef) (op : Nat → Bool) (f : Cmd → State → State) : State :=
  match s.cmd? r op with
  | none => s
  | some c =>
    match s.begin? c with
    | none => s
    | some s1 =>
      let s2 : State := f c s1
      if s2.unstarted c && !c.ghost && !c.e.isBatch then s else s2

/-- The effect of a row on the fetched command that it names, when its opcode is `op`. -/
def State.onCmd (s : State) (r : CmdRef) (op : Nat) (f : Cmd → State → State) : State := s.onCmdIf r (fun o => o == op) f

/-- The completion of a command. -/
def State.ends (s : State) (c : Cmd) (a : Ans) : State := s.complete c.t c.q c.e a

/-- Every fetched command of a tenancy that is not completed, with its queue pair. -/
def Tenancy.commands (x : Tenancy) : List (Nat × Fetched) :=
  x.ghosts ++ x.qps.flatMap (fun p => p.2.fetched.map (fun e => (p.1, e)))

/-- The progress of a command. -/
def State.progress (s : State) (c : Cmd) (p : Prog) : State := s.setProg c.t c.q c.e.seq p

/-- A reply of a command. -/
def State.replies (s : State) (c : Cmd) (addr : Nat) (l : List Byte) : State :=
  if c.ghost then s else s.reply c.t c.q addr l

/-- A little-endian field of the submission. -/
def Cmd.le (c : Cmd) (off n : Nat) : Nat := leAt c.e.bytes off n

def Cmd.ptr0 (c : Cmd) : Nat := c.le 40 8
def Cmd.ptr1 (c : Cmd) : Nat := c.le 48 8

/-- Bytes of a buffer that the command names. -/
def State.buffer (s : State) (a n : Nat) : List Byte := s.hostRd a n

/-- The refusal with a status and DETAIL. -/
def deny (st detail : Nat) : Option Ans := some { status := st, res0 := 0, res1 := 0, detail := detail }

/-- The first refusal of a list of checks. -/
def firstOf : List (Option Ans) → Option Ans
  | [] => none
  | some a :: _ => some a
  | none :: r => firstOf r

/-- The refusal of a check that fails. -/
def unless_ (ok : Bool) (st detail : Nat) : Option Ans := if ok then none else deny st detail

/-- Check 7.1: the PARAM bits outside the named ones are zero; `named` gives the bits of a byte that the
command names. -/
def reserved71 (c : Cmd) (named : Nat → Nat) : Option Ans :=
  match (List.range 32).find? (fun i =>
      decide (Nat.land (byteAt c.e.bytes (8 + i)).toNat (255 - named (8 + i)) ≠ 0)) with
  | some i => deny 0x1002 (8 + i)
  | none => none

/-- Whole bytes named. -/
def namedBytes (l : List (Nat × Nat)) (i : Nat) : Nat :=
  if l.any (fun r => decide (r.1 ≤ i) && decide (i < r.1 + r.2)) then 255 else 0

/-- Check 7.2: only the managing function (R354). -/
def issuer72 (s : State) (c : Cmd) : Option Ans := unless_ (c.fn == s.mgmtFn) 0x100B 0

/-- Check 7.3 (R356): 0 unused, 1 used, 2 used or zero; with the alignment. -/
def ptrBad (use align v : Nat) : Bool :=
  if use = 0 then v != 0
  else if use = 2 ∧ v = 0 then false
  else v == 0 || v % align != 0

def ptrs73 (c : Cmd) (use0 use1 : Nat) (align : Nat := 64) : Option Ans :=
  firstOf [unless_ (!ptrBad use0 align c.ptr0) 0x1005 0, unless_ (!ptrBad use1 align c.ptr1) 0x1005 1]

/-- A host read of a command's buffer fails (R356). -/
def read77 (c : Cmd) : Option Ans := unless_ (!c.readFails) 0x1009 0

end Sys2Proof.Machine
end

