-- ==== Sys2Proof/Machine/Placement.lean ====
section
/-! DEFINITION. Placement and the Record Directory (11): entries, heat, places, acceptance, delivery, answers,
moves and withdrawals. -/

namespace Sys2Proof.Machine

/-- A memory port that took part in the interleave is STOPPED (R373, R472). -/
def State.memStopped (s : State) : Bool :=
  s.regions.any (fun r => r.ports.any (fun p => (s.memPort p.1).st == .stopped))

/-! ### The directory (R296 to R299) -/

/-- The bucket of a record (R297). -/
def bucketOf (k : RecKey) : Nat := crc32c (leBytes 1 k.ten.toNat ++ beBytes 8 k.akey.toNat) % 2 ^ 23

/-- The entry of a record: its number and its contents. -/
def State.dirFind (s : State) (k : RecKey) : Option (Nat × DirEnt) :=
  (List.range 8).findSome? (fun i =>
    match spGet? s.dir (bucketOf k * 8 + i) with
    | some d => if d.key = k then some (bucketOf k * 8 + i, d) else none
    | none => none)

/-- The lowest-numbered entry of a record's bucket with V = 0 (R297). -/
def State.dirFree (s : State) (k : RecKey) : Option Nat :=
  ((List.range 8).map (fun i => bucketOf k * 8 + i)).find? (fun i => (spGet? s.dir i).isNone)

/-- The walker's lookups of a record are held while the square of its bucket's directory cache slice is being relocked
(R31, R298). -/
def State.sliceHeld (s : State) (k : RecKey) : Bool := (s.square (bucketOf k % 4)).relock.isSome

def State.dirPut (s : State) (i : Nat) (d : DirEnt) : State := { s with dir := spPut s.dir i d }

/-- One update of a record's entry (R298). -/
def State.dirSet (s : State) (k : RecKey) (f : DirEnt → DirEnt) : State :=
  match s.dirFind k with
  | some (i, d) => s.dirPut i (f d)
  | none => s

/-- The length of a record in bytes (Table 11-4 RLEN). -/
def DirEnt.len (d : DirEnt) : Nat := (d.rlen.toNat + 1) * 16

/-- Valid entries of a tenancy. -/
def State.dirUsed (s : State) (t : Nat) : Nat :=
  (s.dir.filter (fun p => decide (p.2.key.ten.toNat = t))).length

/-- Pinned bytes of a tenancy. -/
def State.pinned (s : State) (t : Nat) : Nat :=
  ((s.dir.filter (fun p => decide (p.2.key.ten.toNat = t) && p.2.pin)).map (fun p => p.2.len)).foldl (· + ·) 0

/-- The other members of a record's keep-together group. -/
def State.mates (s : State) (d : DirEnt) : List DirEnt :=
  if d.group = 0 then []
  else ((s.dir.filter (fun p => p.2.key.ten == d.key.ten && p.2.group == d.group)).map (fun p => p.2)).filter
    (fun m => m.key != d.key)

/-- The members of a keep-together group of a tenancy (R312, R318). -/
def State.group (s : State) (ten : BitVec 4) (g : W16) : List DirEnt :=
  if g = 0 then []
  else (s.dir.filter (fun p => p.2.key.ten == ten && p.2.group == g)).map (fun p => p.2)

/-! ### Heat (R307) -/

/-- HEAT after `now - EPOCH` epochs. -/
def DirEnt.decay (d : DirEnt) (now : W16) : DirEnt :=
  { d with heat := d.heat >>> (min (now - d.epoch).toNat 16), epoch := now }

/-- HEAT and EPOCH of an entry at an accepted posting. -/
def DirEnt.warm (d : DirEnt) (now : W16) : DirEnt :=
  let e : DirEnt := d.decay now
  { e with heat := if e.heat = 0xFFFF then e.heat else e.heat + 1 }

/-! ### Places (R290 to R294, R306, R318) -/

/-- An engine that placement may choose as a home (R306, R320, R322). -/
def State.homeable (s : State) (n : Nat) : Bool :=
  (s.street (n / 8)).st == .running && !(s.core (.eng (Fin.ofNat 128 n))).withdrawn

/-- The square key of a tenancy in a square (R293). -/
def State.squareKey (s : State) (q : Nat) (ten : BitVec 4) : Option (BitVec 4) :=
  ((s.square q).keys.find? (fun p => p.1 == ten)).map (fun p => p.2)

/-- The lowest free square key, 1 to 13 (R293). -/
def State.freeKey (s : State) (q : Nat) : Option (BitVec 4) :=
  ((List.range 13).map (fun i => BitVec.ofNat 4 (i + 1))).find? (fun k =>
    !(s.square q).keys.any (fun p => p.2 == k))

/-- The square key of a tenancy, assigned when the square has none for it. -/
def State.keyFor (s : State) (q : Nat) (ten : BitVec 4) : Option (BitVec 4) :=
  match s.squareKey q ten with
  | some k => some k
  | none => s.freeKey q

/-- The number of an area of storage: a tile region, square-memory region or attached frame (R293). -/
def regionOf (p : Place) : Nat := p.loc.toNat / 4096

/-- The places in use: by records, and by moves under way. -/
def State.placed (s : State) : List (RecKey × Nat × Place) :=
  s.dir.map (fun p => (p.2.key, p.2.len, ⟨p.2.home, p.2.cls, p.2.loc⟩))
    ++ s.moves.filterMap (fun m =>
      match m.dst, s.dirFind m.key with
      | some p, some (_, d) => some (m.key, d.len, p)
      | _, _ => none)

/-- The bytes that the firmware keeps for the record tables of one tenancy: the top table, two level-3 tables, a
level-2 table for each GiB and a level-1 table for each 2 MiB of attached memory (R295; DESIGN CHOICE, log 109). -/
def State.tabStride (s : State) : Nat := 0x403000 + s.installed / 512

/-- The top table of a tenancy's record tables. -/
def State.tabPa (s : State) (t : Nat) : Nat := s.layout.tabBase + t * s.tabStride

/-- A table entry written. -/
def State.wr8 (s : State) (pa v : Nat) : State := s.wrN pa (beBytes 8 v)

/-- An attached frame joins the record tables of a tenancy at 0x4000_0000_0000 + PA, with W = 1 and U = 1, or leaves
them (R295, Table 10-7). -/
def State.mapFrame (s : State) (t f : Nat) (on : Bool) : State :=
  if !s.layout.live then s
  else
    let b : Nat := s.tabPa t
    let pa : Nat := f * 4096
    let l3 : Nat := b + 0x1000 * (1 + pa / 2 ^ 39)
    let l2 : Nat := b + 0x3000 + pa / 2 ^ 30 * 0x1000
    let l1 : Nat := b + 0x403000 + pa / 2 ^ 21 * 0x1000
    let leaf : Nat := l1 + 8 * (f % 512)
    if on then
      (((s.wr8 (b + 8 * (0x80 + pa / 2 ^ 39)) (l3 + 1)).wr8 (l3 + 8 * (pa / 2 ^ 30 % 512)) (l2 + 1)).wr8
        (l2 + 8 * (pa / 2 ^ 21 % 512)) (l1 + 1)).wr8 leaf (pa + 7)
    else s.wr8 leaf 0

/-- Whether a place of `len` bytes lies in the record area of its class, aligned and within one region
(R290, R292). -/
def State.inArea (s : State) (p : Place) (len : Nat) : Bool :=
  let a : Nat := p.loc.toNat
  decide (a % 16 = 0) && decide (a % 4096 + len ≤ 4096) &&
    (if p.cls = 0 then
       decide (tilePa p.home.val 0x40000 ≤ a) && decide (a + len ≤ tilePa p.home.val 0x80000)
     else if p.cls = 1 then
       decide (sqPa (p.home.val / 32) 0x200000 ≤ a) && decide (a + len ≤ sqPa (p.home.val / 32) 0x600000)
     else if p.cls = 2 then
       decide (a + len ≤ s.installed)
         && !(decide (s.dirbase.toNat < a + len) && decide (a < s.dirbase.toNat + 0x80000000))
         && !(decide (s.kabase.toNat < a + len) && decide (a < s.kabase.toNat + s.installed / 4096))
         && !(s.layout.live && decide (s.layout.tabBase < a + len) && decide (a < s.layout.tabBase + 16 * s.tabStride))
     else false)

/-- Whether a place is free for a record, and its region holds records of that tenancy and square only
(R293). -/
def State.placeFree (s : State) (k : RecKey) (p : Place) (len : Nat) : Bool :=
  s.placed.all (fun x =>
    let o : Place := x.2.2
    (x.1 == k && o.loc == p.loc && o.cls == p.cls && decide (o.home.val / 32 = p.home.val / 32)) ||
      ((decide (regionOf o ≠ regionOf p) || (x.1.ten == k.ten && decide (o.home.val / 32 = p.home.val / 32)))
        && (decide (o.loc.toNat + x.2.1 ≤ p.loc.toNat) || decide (p.loc.toNat + len ≤ o.loc.toNat))))

/-- Whether placement may choose a place for a record. -/
def State.placeOk (s : State) (k : RecKey) (len : Nat) (p : Place) : Bool :=
  s.homeable p.home.val && (s.keyFor (p.home.val / 32) k.ten).isSome && s.inArea p len && s.placeFree k p len

/-- Some number below `n` satisfies `f`. -/
def anyBelow (f : Nat → Bool) : Nat → Bool
  | 0 => false
  | n + 1 => f n || anyBelow f n

/-- Whether some place of a class can take a record under R294. -/
def State.anyClass (s : State) (k : RecKey) (len : Nat) (homes : List (Fin 128)) (cls : Nat) : Bool :=
  let at_ (h : Fin 128) (i : Nat) : Nat :=
    if cls = 0 then tilePa h.val (0x40000 + 16 * i)
    else if cls = 1 then sqPa (h.val / 32) (0x200000 + 16 * i)
    else 16 * i
  let n : Nat := if cls = 0 then 0x4000 else if cls = 1 then 0x40000 else s.installed / 16
  homes.any (fun h => s.homeable h.val && (s.keyFor (h.val / 32) k.ten).isSome
    && anyBelow (fun i => s.placeOk k len ⟨h, BitVec.ofNat 2 cls, BitVec.ofNat 48 (at_ h i)⟩) n)

/-- The classes that bind a new record: COLD attached memory, PIN a tile, or square memory while no tile has room
(R318, R321). -/
def State.newClassOk (s : State) (k : RecKey) (len : Nat) (pin cold : Bool) (homes : List (Fin 128)) (cls : Nat) : Bool :=
  if cold then cls == 2
  else if pin then cls == 0 || (cls == 1 && !s.anyClass k len homes 0)
  else true

/-- Whether some place can take a new record under R294 and its hints. -/
def State.anyPlace (s : State) (k : RecKey) (len : Nat) (pin cold : Bool) (homes : List (Fin 128)) : Bool :=
  [0, 1, 2].any (fun cls => s.newClassOk k len pin cold homes cls && s.anyClass k len homes cls)

/-! ### Eligibility (R309, R318, R321) -/

/-- The class that a record is eligible for: its present class stands for the eligibility that it keeps until HEAT
falls below half a threshold (DEDUCED, log 110). -/
def State.eligible (s : State) (d : DirEnt) : Nat :=
  let h : Nat := (d.decay s.heatNow).heat.toNat
  let hot (limit : Nat) (kept : Bool) : Bool := decide (limit ≤ h) || (kept && decide (limit / 2 ≤ h))
  if hot s.placeCfg.heatTile (d.cls == 0) then 0 else if hot s.placeCfg.heatSq (d.cls != 2) then 1 else 2

/-- Whether a record may be stored in a class: a cold one in attached memory; a pinned one in a tile, while no tile
has room in square memory, and while that has none either in attached memory (R294); another between its present
class and the eligible one, and, when it must leave its engine, in a colder one while the hotter have no room. -/
def State.classOk (s : State) (d : DirEnt) (leaving : Bool) (cls : Nat) : Bool :=
  let full (c : Nat) : Bool := !s.anyClass d.key d.len engines c
  if d.cold then cls == 2
  else if d.pin then cls == 0 || (cls == 1 && full 0) || (cls == 2 && full 0 && full 1)
  else
    let e : Nat := s.eligible d
    let c : Nat := d.cls.toNat
    (decide (min c e ≤ cls) && decide (cls ≤ max c e))
      || (leaving && decide (max c e < cls) && (List.range cls).all (fun i => decide (i < min c e) || full i))

/-- The key caches write their copies of a frame's key byte back and drop them (R288). -/
def State.dropFrame (s : State) (f : Nat) : State :=
  let back (s : State) (m : Sparse Byte) : State := match spGet? m f with | some b => s.keyBack f b | none => s
  let s1 : State := s.cores.foldl (fun s c => back s c.2.keyCache) s
  let s2 : State := s1.trams.foldl (fun s u => back s u.2.keyCache) s1
  { s2 with cores := s2.cores.map (fun c => (c.1, { c.2 with keyCache := spDel c.2.keyCache f }))
            trams := s2.trams.map (fun u => (u.1, { u.2 with keyCache := spDel u.2.keyCache f })) }

/-- The key byte of a region (R285, R293): the key store of its tile or square, or the key array; the key
caches drop their copies of the frame. -/
def State.setRegionKey (s : State) (p : Place) (b : Byte) : State :=
  let a : Nat := p.loc.toNat
  if p.cls = 0 then
    { s with tileKeys := spPut s.tileKeys (p.home.val * 128 + (a - tilePa p.home.val 0) / 4096) b }
  else if p.cls = 1 then
    let q : Nat := p.home.val / 32
    { s with sqKeys := spPut s.sqKeys (q * 2048 + (a - sqPa q 0) / 4096) b }
  else (s.dropFrame (a / 4096)).setFrameKey (a / 4096) b

/-- A place is taken for a record: its square key is assigned, its region carries that key with MODE 0b01, and an
attached frame joins the record tables of its tenancy (R295). -/
def State.take (s : State) (k : RecKey) (p : Place) : State :=
  let q : Nat := p.home.val / 32
  match s.keyFor q k.ten with
  | none => s
  | some sk =>
    let sq : Square := s.square q
    let keys : List (BitVec 4 × BitVec 4) :=
      if (s.squareKey q k.ten).isSome then sq.keys else sq.keys ++ [(k.ten, sk)]
    let s1 : State := (s.setSquare q { sq with keys := keys }).setRegionKey p (BitVec.ofNat 8 (16 + sk.toNat))
    if p.cls = 2 then s1.mapFrame k.ten.toNat (regionOf p) true else s1

/-- A place given up: a region that holds no record carries KEY 0xF with MODE 0b01 and leaves the record tables, and a
square key is freed when the last record of its tenancy has left the square (R293, R295). -/
def State.release (s : State) (k : RecKey) (p : Place) : State :=
  let q : Nat := p.home.val / 32
  let s1 : State :=
    if s.placed.any (fun x => decide (regionOf x.2.2 = regionOf p)) then s
    else if p.cls = 2 then (s.setRegionKey p 0x1F).mapFrame k.ten.toNat (regionOf p) false
    else s.setRegionKey p 0x1F
  if s1.placed.any (fun x => x.1.ten == k.ten && decide (x.2.2.home.val / 32 = q)) then s1
  else
    let sq : Square := s1.square q
    s1.setSquare q { sq with keys := sq.keys.filter (fun x => x.1 != k.ten) }

/-- The place of an entry. -/
def DirEnt.place (d : DirEnt) : Place := ⟨d.home, d.cls, d.loc⟩

/-! ### Journal (R350, R369) -/

/-- JSTAT values (Table 12-13, Table 13-10). -/
def jRejected : Nat := 0x0004
def jNotDefined : Nat := 0x100C
def jInDoubt : Nat := 0x4002
def jPostInDoubt : Nat := 0x4003
def jLost : Nat := 0x4004

/-- A journal entry (Table 12-12). -/
def journalBytes (jstat pstat : Nat) (body : List Byte) : List Byte :=
  let b : List Byte := leBytes 2 jstat ++ leBytes 2 pstat ++ fit 24 body
  b ++ leBytes 4 (crc32c b)

/-- A retained entry written (Table 13-8): JENT of the posting with that JSEQ. -/
def Tenancy.retain (x : Tenancy) (jseq : W64) (j : List Byte) : Tenancy :=
  { x with ring := x.ring.map (fun r => if r.jseq = jseq then { r with jent := some j } else r) }

/-- An accepted posting is answered: its retained entry, its journal entry in the host, its batch (R350,
R369, R316). -/
def State.answer (s : State) (r : PostRef) (jstat pstat : Nat) (body : List Byte) : State :=
  let t : Nat := r.ten.toNat
  let j : List Byte := journalBytes jstat pstat body
  let s1 : State := s.setTenancy t ((s.tenancy t).retain r.jseq j)
  if r.live then
    let b : BatchSt := s1.batch t r.q.toNat r.seq
    let n : Nat := if jstat = 0 then b.bad else b.bad + 1
    ((s1.reply t r.q.toNat r.jaddr.toNat j).setBatch { b with open_ := b.open_ - 1, bad := n }).finish t r.q.toNat
  else s1

/-- A posting is refused: its journal entry in the host (R347). -/
def State.refusePost (s : State) (t q seq jaddr jstat : Nat) : State :=
  let b : BatchSt := s.batch t q seq
  (s.reply t q jaddr (journalBytes jstat 0 [])).setBatch { b with bad := b.bad + 1 }

/-! ### Delivery (R301 to R305) -/

/-- LOC in program form (Table 11-8). -/
def DirEnt.progLoc (d : DirEnt) : Nat :=
  if d.cls = 0 then (d.loc.toNat - tileBase) % tileSize
  else if d.cls = 1 then (d.loc.toNat - sqBase) % 0x1000000
  else 0x400000000000 + d.loc.toNat

/-- A Letterbox slot (R302, Table 11-7). -/
def slotBytes (kind : Nat) (d : DirEnt) (fwd redel : Bool) (handle rseq : Nat) (body : List Byte) : List Byte :=
  leBytes 1 kind ++ leBytes 1 (d.cls.toNat * 64 + fwd.toNat * 32 + redel.toNat * 16)
    ++ leBytes 1 (d.key.ten.toNat * 16 + d.skey.toNat) ++ leBytes 1 d.rlen.toNat ++ beBytes 4 handle
    ++ beBytes 2 rseq ++ beBytes 6 d.progLoc ++ fit 48 body

/-- A control core writes a slot: it waits at the Letterbox port (R20). -/
def State.slotTo (s : State) (n : Fin 128) (l : List Byte) : State :=
  let k : Core := s.core (.eng n)
  s.setCore (.eng n) { k with lbox := { k.lbox with waiting := k.lbox.waiting ++ [l] } }

/-- A slot for a record written to its home engine and awaited under a HANDLE: a posting, or RELEASE. -/
def State.deliver (s : State) (d : DirEnt) (fwd : Bool) (p : Option Posting) (rseq : Nat) : State :=
  let h : W32 := BitVec.ofNat 32 s.nextHandle
  let redel : Bool := match p with | some x => x.redel | none => false
  let body : List Byte := match p with | some x => x.body | none => []
  let l : List Byte := slotBytes (if p.isSome then 1 else 2) d fwd redel h.toNat rseq body
  let v : Delivery := { handle := h, home := d.home, key := d.key, post := p }
  { s with nextHandle := s.nextHandle + 1, deliveries := s.deliveries ++ [v] }.slotTo d.home l

/-- A sequence number precedes another, modulo 2^16. -/
def rseqBefore (a b : W16) : Bool := a != b && decide ((b - a).toNat < 0x8000)

/-- The RSEQ at which each query or replacement of a record stands (R366, R368). -/
def State.orders (s : State) (k : RecKey) : List W16 :=
  (s.tenancy k.ten.toNat).commands.filterMap (fun x =>
    match x.2.prog with
    | .ordered r => if leAt x.2.bytes 8 8 = k.akey.toNat then some r else none
    | _ => none)

/-- A removal of the record has made its entry update (R366, R367). -/
def State.removing (s : State) (k : RecKey) : Bool :=
  (s.tenancy k.ten.toNat).commands.any (fun x =>
    x.2.prog == .removing && decide (leAt x.2.bytes 8 8 = k.akey.toNat))

/-- A posting may be delivered: no query or replacement of the record stands before it. -/
def State.passes (s : State) (k : RecKey) (r : W16) : Bool := (s.orders k).all (fun o => rseqBefore r o)

/-- Every member of a record's group has reached step 6 of its move (R312). -/
def State.groupReady (s : State) (d : DirEnt) : Bool := (s.group d.key.ten d.group).all (fun m => m.st != .moving)

/-- Whether the entry of a record lets held postings go to its home now (Table 11-5, R312). -/
def State.open? (s : State) (k : RecKey) : Option DirEnt :=
  match s.dirFind k with
  | none => none
  | some (_, d) =>
    match d.st with
    | .settled => some d
    | .removing => some d
    | .forwarding => if s.groupReady d then some d else none
    | .moving => none

/-- Delivers held postings of a record, oldest first, as far as they may go; a FORWARDING record whose
queue is empty is SETTLED (Table 11-11 steps 7 and 8). -/
def State.flowGo (k : RecKey) : Nat → State → State
  | 0, s => s
  | n + 1, s =>
    match s.open? k with
    | none => s
    | some d =>
      match s.fwdOf k with
      | [] =>
        if d.st = .forwarding then s.dirSet k (fun d => { d with st := .settled, moveix := 0 }) else s
      | p :: _ =>
        if s.passes k p.rseq then
          State.flowGo k n ({ s with fwdq := s.fwdq.erase p }.deliver d (!p.redel) (some p) p.rseq.toNat)
        else s

/-- `flowGo` over everything held. -/
def State.flow (s : State) (k : RecKey) : State := State.flowGo k ((s.fwdOf k).length + 1) s

/-- The held postings of a record, and those of every member of its group (R312). -/
def State.flowGroup (s : State) (k : RecKey) : State :=
  match s.dirFind k with
  | none => s
  | some (_, d) => (s.group d.key.ten d.group).foldl (fun s m => s.flow m.key) (s.flow k)

/-! ### Acceptance (R300, R347) -/

/-- The refusal that a posting's lookup meets: JSTAT, or the entry that accepts it. -/
def State.lookup (s : State) (k : RecKey) : Except Nat DirEnt :=
  match s.dirFind k with
  | none => .error jNotDefined
  | some (_, d) =>
    if d.st = .removing ∨ s.removing k then .error jNotDefined
    else if d.lost then .error jLost
    else if d.doubt then .error jInDoubt
    else .ok d

/-- Whether an accepted posting of a record is held in its forward queue (Table 11-5, R368). -/
def State.holds (s : State) (d : DirEnt) : Bool :=
  d.st != .settled || (s.fwdOf d.key) != [] || !s.passes d.key d.rseq

/-- What a posting's seals and reserved bytes give: JSTAT of the refusal (Table 12-11). -/
def postingBad (b : List Byte) : Option Nat :=
  if leAt b 12 4 ≠ crc32c (b.take 12 ++ b.drop 16) then some 0x4001
  else if !allZero (slice b 8 4) then some 0x1002
  else none

/-- The record of a posting. -/
def postingKey (t : Nat) (b : List Byte) : RecKey := ⟨BitVec.ofNat 4 t, BitVec.ofNat 64 (leAt b 0 8)⟩

/-- The record whose full forward queue a posting would overfill (R311). -/
def State.overfills (s : State) (t : Nat) (b : List Byte) : Option RecKey :=
  let k : RecKey := postingKey t b
  match postingBad b, s.lookup k with
  | none, .ok d => if s.holds d && decide (64 ≤ (s.fwdOf k).length) then some k else none
  | _, _ => none

/-- The next JSEQ of a tenancy, and its place in the retention ring (R369). -/
def Tenancy.nextJseq (x : Tenancy) (r : Retained) : Tenancy :=
  { x with jseq := x.jseq + 1, ring := if x.jret = 0 then [] else ringResize x.jret (x.ring ++ [r]) }

/-- One posting of a batch: refused with its JSTAT, or accepted, and then delivered or held. -/
def State.post (s : State) (t q seq tag jaddr : Nat) (b : List Byte) : State :=
  match postingBad b with
  | some st => (if st = 0x4001 then s.sealFailed t else s).refusePost t q seq jaddr st
  | none =>
    let k : RecKey := postingKey t b
    match s.lookup k with
    | .error st => s.refusePost t q seq jaddr st
    | .ok d =>
      let x : Tenancy := s.tenancy t
      let js : W64 := BitVec.ofNat 64 x.jseq
      let r : PostRef :=
        { ten := BitVec.ofNat 4 t, q := BitVec.ofNat 8 q, seq := seq, jaddr := BitVec.ofNat 64 jaddr, jseq := js
          live := true }
      let p : Posting := { key := k, rseq := d.rseq, body := b.drop 16, redel := false, ref := r }
      let kept : Retained :=
        { jseq := js, akey := k.akey, rseq := d.rseq, qp := BitVec.ofNat 16 q, tag := BitVec.ofNat 16 tag
          jent := none }
      let held : Bool := s.holds d
      let bt : BatchSt := s.batch t q seq
      let s1 : State :=
        ((s.setTenancy t (x.nextJseq kept)).dirSet k
          (fun d => { d.warm s.heatNow with rseq := d.rseq + 1 })).setBatch { bt with open_ := bt.open_ + 1 }
      if held then { s1 with fwdq := s1.fwdq ++ [p] }.flow k
      else s1.deliver d false (some p) p.rseq.toNat

/-! ### Flags of a record (R323) -/

/-- A record whose contents could not be read: LOST is set and its held postings are refused. -/
def State.setLost (s : State) (k : RecKey) : State :=
  let held : List Posting := s.fwdOf k
  let s1 : State := { s with fwdq := s.fwdq.filter (fun p => p.key != k) }
  held.foldl (fun s p => s.answer p.ref jLost 0 []) (s1.dirSet k (fun d => { d with lost := true }))

/-- DOUBT of a record is set. -/
def State.setDoubt (s : State) (k : RecKey) : State := s.dirSet k (fun d => { d with doubt := true })

/-- A lookup or sweep meets a directory entry with an uncorrectable check error: the walker raises source 316 + s,
every record of the bucket is in doubt, and the firmware writes a device error record (R327; its unit and place:
DESIGN CHOICE, log 111). -/
def State.badBucket (s : State) (b : Nat) : State :=
  let ks : List RecKey := (s.dir.filter (fun p => decide (p.1 / 8 = b))).map (fun p => p.2.key)
  let s1 : State := ks.foldl (fun s k => s.setDoubt k) (s.raise (316 + b % 4))
  { s1.report { plainRec sevContained 0x11 8 0 with
      hop := 0x8, asp := 0, addr := BitVec.ofNat 48 (s.dirbase.toNat + b * 256), synd := s.synd 0x8 } with
    free := s1.free + 1 }

/-- The lookup of a record by a command, whose bucket may hold such an entry. -/
def State.lookedUp (s : State) (bad : List (BitVec 23)) (k : RecKey) : State :=
  if bad.contains (BitVec.ofNat 23 (bucketOf k)) then s.badBucket (bucketOf k) else s

/-! ### Return entries (R303, R524) -/

/-- A return entry breaks R304: a device error record (R415). -/
def State.protocol (s : State) (n : Fin 128) : State := s.report (plainRec sevContained 0x42 0 n.val)

/-- A delivery answered. -/
def State.answered (s : State) (h : W32) : State :=
  { s with deliveries := s.deliveries.filter (fun d => d.handle != h) }

/-- One return entry of an engine: its KIND, PSTAT, HANDLE and BODY. -/
def State.returned (s : State) (n : Fin 128) (l : List Byte) : State :=
  let kind : Nat := (byteAt l 0).toNat
  let h : W32 := BitVec.ofNat 32 (beAt l 4 4)
  match s.deliveries.find? (fun d => d.handle == h && d.home == n) with
  | none => s.protocol n
  | some d =>
    match d.post with
    | some p =>
      let s1 : State := s.answered h
      if kind = 0x81 ∨ kind = 0x82 then
        let lost : Bool := match s.dirFind d.key with | some (_, e) => e.lost | none => false
        let st : Nat := if lost then jLost else if kind = 0x82 then jRejected else 0
        s1.answer p.ref st (beAt l 2 2) (slice l 8 24)
      else ((s1.setDoubt d.key).answer p.ref jPostInDoubt 0 []).protocol n
    | none =>
      if kind = 0x83 then
        { s.answered h with moves := s.moves.map (fun m => if m.key = d.key then { m with released := true } else m) }
      else s.protocol n

/-- The physical address of the return entry that the firmware consumes next (R303). -/
def State.returnPa (s : State) (n : Fin 128) : Nat :=
  sqPa (n.val / 32) (n.val % 32 * 0x800 + (s.core (.eng n)).retIx.val * 32)

/-- Whether a return entry waits. -/
def State.returnWaits (s : State) (n : Fin 128) : Bool := s.rd (s.returnPa n) != 0

/-- The firmware consumes the next return entry, when one is there and its square can be reached (R31). -/
def State.consume (s : State) (n : Fin 128) : State :=
  if s.returnWaits n && !s.heldPa (s.returnPa n) then
    let l : List Byte := s.rdN (s.returnPa n) 32
    let k : Core := s.core (.eng n)
    ((s.wr (s.returnPa n) 0).setCore (.eng n) { k with retIx := k.retIx + 1 }).returned n l
  else s

/-- A return entry that a check discards on its way to the firmware: it is consumed and answers nothing (R405; Table
15-3 hop 9; DESIGN CHOICE, log 112). -/
def State.consumeBad (s : State) (n : Fin 128) (r : ErrRec) : State :=
  let k : Core := s.core (.eng n)
  let at_ : ErrRec := if r.hop = 0x5 then { r with asp := 0, addr := BitVec.ofNat 48 (s.returnPa n) } else r
  let s1 : State := ((s.wr (s.returnPa n) 0).setCore (.eng n) { k with retIx := k.retIx + 1 }).report at_
  { s1 with free := s1.free + 1 }

/-- RETURN_ENTRY_CONSUME (R303, R524). -/
def execReturnEntryConsume (x : EngineHop) (s : State) : Res :=
  let n : Fin 128 := x.eng
  match hopRec s x.err with
  | some r => if s.returnWaits n && !s.heldPa (s.returnPa n) then .next (s.consumeBad n r) else .next s
  | none => .next (s.consume n)

/-! ### Moves (R310 to R314) -/

/-- The RSEQ that a RELEASE carries: the number after that of the last posting delivered (Table 11-7). -/
def State.releaseRseq (s : State) (d : DirEnt) : Nat :=
  match s.fwdOf d.key with
  | p :: _ => p.rseq.toNat
  | [] => d.rseq.toNat

/-- The move of a record, when it has one. -/
def State.moveOf (s : State) (k : RecKey) : Option Move := s.moves.find? (fun m => m.key == k)

/-- The home that a record has, or will have after its move; none while it waits for an engine (R294). -/
def State.homeOf (s : State) (d : DirEnt) : Option (Fin 128) :=
  match s.moveOf d.key with
  | some m => m.dst.map (fun p => p.home)
  | none => some d.home

/-- A waiting record of a square can be placed there now: placement acts on it before it makes any other decision for
that square (R294). -/
def State.waitingFirst (s : State) (k : RecKey) (q : Nat) : Bool :=
  let es : List (Fin 128) := engines.filter (fun n => decide (n.val / 32 = q))
  s.moves.any (fun m => m.dst == none && m.key != k && (match s.dirFind m.key with
    | some (_, d) => [0, 1, 2].any (fun cls => s.classOk d true cls && s.anyClass d.key d.len es cls)
    | none => false))

/-- A pinned record moves only to leave its engine or to come to a tile, under R320, R321 or R322. -/
def State.pinMoves (s : State) (d : DirEnt) : Bool := !d.pin || d.cls != 0 || !s.homeable d.home.val

/-- The members of a record's group have, or move with it to, one home engine (R312, R318). -/
def State.together (s : State) (d : DirEnt) (p : Place) (mates : List (RecKey × Place)) : Bool :=
  (s.mates d).all (fun m => s.homeOf m == some p.home || mates.any (fun x => x.1 == m.key && x.2.home == p.home))

/-- Whether placement may move a record to a place, `mates` moving with it (R309, R310, R312, R318, R321). -/
def State.moveOk (s : State) (d : DirEnt) (p : Place) (mates : List (RecKey × Place)) : Bool :=
  s.placeOk d.key d.len p && s.pinMoves d && s.classOk d (!s.homeable d.home.val) p.cls.toNat
    && (p.home != d.home || p.cls != d.cls) && s.together d p mates && !s.waitingFirst d.key (p.home.val / 32)

/-- Step 2 of a move: the new place is taken, STATE is MOVING and RELEASE goes to the old home. -/
def State.startMove (s : State) (d : DirEnt) (p : Place) : State :=
  let m : Move := { key := d.key, dst := some p, released := false, ix := BitVec.ofNat 16 s.nextMove }
  let s1 : State :=
    { (s.take d.key p).dirSet d.key (fun d => { d with st := .moving, moveix := m.ix }) with
      moves := s.moves ++ [m], nextMove := s.nextMove + 1 }
  s1.deliver d false none (s.releaseRseq d)

/-- A move that waited for an engine goes on to a place (R294). -/
def State.resumeMove (s : State) (d : DirEnt) (p : Place) : State :=
  let s1 : State := s.take d.key p
  { s1 with moves := s1.moves.map (fun m => if m.key = d.key then { m with dst := some p } else m) }

/-- Whether a record that waits for an engine may go on to a place. -/
def State.resumeOk (s : State) (d : DirEnt) (p : Place) (mates : List (RecKey × Place)) : Bool :=
  (match s.moveOf d.key with | some m => m.dst == none | none => false)
    && s.placeOk d.key d.len p && s.classOk d true p.cls.toNat && s.together d p mates

/-- A SETTLED record begins to move, or one that waits for an engine goes on, when placement may choose the place. -/
def State.moveTo (s : State) (all : List (RecKey × Place)) (x : RecKey × Place) : Option State :=
  match s.dirFind x.1 with
  | none => none
  | some (_, d) =>
    if d.st = .settled then if s.moveOk d x.2 all then some (s.startMove d x.2) else none
    else if s.resumeOk d x.2 all then some (s.resumeMove d x.2)
    else none

/-- RECORD_MOVE (R310, R312): a record, and with it the other members of its group, begin to move, or go on when they wait
for an engine. A place that placement may not choose for any of them changes nothing. -/
def execRecordMove (k : RecKey) (m : MovePlaces) (s : State) : Res :=
  let all : List (RecKey × Place) := (k, m.place) :: m.mates
  if s.memStopped || all.any (fun x => s.sliceHeld x.1) then .next s
  else
    match all.foldl (fun (t : Option State) x => t.bind (fun t => t.moveTo all x)) (some s) with
    | some t => .next t
    | none => .next s

/-- A reserved channel has copied `len` bytes between physical addresses: its position registers stand at the end of
the chain, at a descriptor of the firmware's (R310, R394). -/
def State.chainRun (s : State) (k len : Nat) (src dst : Nat) : State :=
  let ad (a : Nat) : W64 := BitVec.ofNat 64 (2 ^ 63 + a)
  let pas (a : Nat) : List Nat := (List.range len).map (fun i => a + i)
  let s1 : State := tramTouch (tramTouch s k (pas src) false) k (pas dst) true
  { s1 with free := s1.free + 1 }.setChannel k
    { s1.channel k with ccur := BitVec.ofNat 64 (2 ^ 63 + (Config.openAddr s1.free).toNat / 32 * 32)
                        csrc := ad (src + len), cdst := ad (dst + len), crem := 0 }

/-- The bytes of a record copied to its new place by a reserved channel of the new square's Tram unit (Table 11-11
step 5). -/
def State.copyRec (s : State) (d : DirEnt) (p : Place) (ch : Fin 4) : State :=
  (s.chainRun (p.home.val / 32 * 32 + 28 + ch.val) d.len d.loc.toNat p.loc.toNat).wrN p.loc.toNat (s.rdN d.loc.toNat d.len)

/-- The reserved channel that copies to a place is free: its function runs and it is IDLE. -/
def State.copyFree (s : State) (p : Place) (ch : Fin 4) : Bool :=
  let c : Channel := s.channel (p.home.val / 32 * 32 + 28 + ch.val)
  c.fn == .running && c.st == .idle

/-- MOVE_COPY_COMPLETE (R310, R314): once RELEASED has arrived the copy ends, the entry takes the new place and
goes to FORWARDING, the old place is given up, and the forward queue is delivered. An uncorrectable error in
the copy sets LOST. -/
def execMoveCopyComplete (k : RecKey) (x : CopyFacts) (s : State) : Res :=
  match s.dirFind k, s.moves.find? (fun m => m.key == k) with
  | some (_, d), some m =>
    match m.dst with
    | none => .next s
    | some p =>
      if m.released && s.copyFree p x.ch && !s.sliceHeld k && !s.heldPa d.loc.toNat && !s.heldPa p.loc.toNat then
        let sk : BitVec 4 := (s.squareKey (p.home.val / 32) k.ten).getD 0
        let s1 : State := if x.bad then s else s.copyRec d p x.ch
        let s2 : State :=
          { s1.dirSet k (fun d => { d with home := p.home, cls := p.cls, loc := p.loc, skey := sk, st := .forwarding
                                           pinwait := d.pin && p.cls == 1 }) with
            moves := s1.moves.filter (fun m => m.key != k) }
        let s3 : State := s2.release k d.place
        .next ((if x.bad then s3.setLost k else s3).flowGroup k)
      else .next s
  | _, _ => .next s

/-! ### Withdrawal (R322, R323) -/

/-- The return entries that an engine has written are consumed. -/
def State.consumeAll (n : Fin 128) : Nat → State → State
  | 0, s => s
  | i + 1, s => if s.returnWaits n then State.consumeAll n i (s.consume n) else s

/-- Whether a slot is still in the Letterbox of an engine, by its HANDLE. -/
def Letterbox.unfreed (l : Letterbox) (h : W32) : Bool :=
  (l.slots ++ l.waiting).any (fun x => beAt x 4 4 == h.toNat)

/-- The new home that a withdrawal's choice gives a record, when placement may choose it. -/
def State.rehome (s : State) (homes : List (RecKey × Place)) (d : DirEnt) : Option Place :=
  match homes.find? (fun h => h.1 == d.key) with
  | some h =>
    if s.placeOk d.key d.len h.2 && s.classOk d true h.2.cls.toNat && !s.waitingFirst d.key (h.2.home.val / 32)
        && (s.mates d).all (fun m => match s.moveOf m.key with
          | some x => (match x.dst with | some p => p.home == h.2.home | none => true)
          | none => m.home == d.home || m.home == h.2.home) then some h.2 else none
  | none => none

/-- One record homed on a withdrawn engine: any move ends, the unfreed postings are to be redelivered ahead of
its forward queue, those freed and not answered are in doubt, and a copy to its new home begins. -/
def State.withdrawRec (n : Fin 128) (lb : Letterbox) (homes : List (RecKey × Place)) (s : State) (k : RecKey) :
    State :=
  match s.dirFind k with
  | none => s
  | some (_, d) =>
    let mine : List Delivery := s.deliveries.filter (fun v => v.key == k && v.home == n)
    let again : List Posting := mine.filterMap (fun v =>
      if lb.unfreed v.handle then v.post.map (fun p => { p with redel := true }) else none)
    let doubt : List Posting := mine.filterMap (fun v => if lb.unfreed v.handle then none else v.post)
    let old : Option Move := s.moves.find? (fun m => m.key == k)
    let s1 : State :=
      { s with deliveries := s.deliveries.filter (fun v => !(v.key == k && v.home == n))
               fwdq := again ++ s.fwdq, moves := s.moves.filter (fun m => m.key != k) }
    let s2 : State := match old with
      | some m => (match m.dst with | some p => s1.release k p | none => s1)
      | none => s1
    let m : Move :=
      { key := k, dst := s2.rehome homes d, released := true, ix := BitVec.ofNat 16 s2.nextMove }
    let s3 : State := match m.dst with | some p => s2.take k p | none => s2
    let s4 : State :=
      { s3.dirSet k (fun d => { d with st := .moving, moveix := m.ix }) with
        moves := s3.moves ++ [m], nextMove := s3.nextMove + 1 }
    let s5 : State := if doubt = [] then s4 else s4.setDoubt k
    doubt.foldl (fun s p => s.answer p.ref jPostInDoubt 0 []) s5

/-- A move toward a withdrawn engine: a new place is chosen, or it waits for one. -/
def State.redirect (n : Fin 128) (homes : List (RecKey × Place)) (s : State) (m : Move) : State :=
  match m.dst, s.dirFind m.key with
  | some p, some (_, d) =>
    if p.home = n then
      let away (x : Move) : Move := if x.key = m.key then { x with dst := none } else x
      let s0 : State := { s with moves := s.moves.map away }
      let s1 : State := s0.release m.key p
      match s1.rehome homes d with
      | some p1 => s1.resumeMove d p1
      | none => s1
    else s
  | _, _ => s

/-- An engine is withdrawn (R322). -/
def State.withdraw (s : State) (n : Fin 128) (homes : List (RecKey × Place)) : State :=
  if (s.core (.eng n)).withdrawn then s
  else
    let k : Core := s.core (.eng n)
    let s1 : State := State.consumeAll n 64 (s.setCore (.eng n) { k with withdrawn := true })
    let lb : Letterbox := (s1.core (.eng n)).lbox
    let keys : List RecKey := (s1.dir.filter (fun p => p.2.home == n)).map (fun p => p.2.key)
    let s2 : State := keys.foldl (State.withdrawRec n lb homes) s1
    let s3 : State := s2.moves.foldl (State.redirect n homes) s2
    let k3 : Core := s3.core (.eng n)
    s3.setCore (.eng n) { k3 with lbox := { k3.lbox with waiting := [] } }

/-- RELEASE_LIMIT_EXPIRY (R313): RELEASED has not arrived, a record is written and the engine is withdrawn. -/
def execReleaseLimitExpiry (k : RecKey) (homes : List (RecKey × Place)) (s : State) : Res :=
  match s.dirFind k, s.moves.find? (fun m => m.key == k) with
  | some (_, d), some m =>
    if m.released then .next s
    else .next ((s.report (plainRec sevUnit 0x41 0 d.home.val)).withdraw d.home homes)
  | _, _ => .next s

/-! ### Epochs, sweeps and evacuation (R307, R320) -/

/-- HEAT_EPOCH_EXPIRY (R307): the epoch counts modulo 2^16. -/
def execHeatEpochExpiry (s : State) : Res := .next { s with heatNow := s.heatNow + 1 }

/-- DIRECTORY_SWEEP (R307): every valid entry decays; in which buckets it meets an uncorrectable entry is free
(R327). The sweep is suspended while a port is STOPPED (R472). -/
def execDirectorySweep (s : State) : Res :=
  if s.memStopped then .next s
  else
    let s1 : State := { s with dir := s.dir.map (fun p => (p.1, p.2.decay s.heatNow)) }
    .next ((Config.sweepMeets s.free).foldl (fun s b => s.badBucket b.toNat) { s1 with free := s1.free + 1 })

/-- No access of a core is outstanding: its posted stores are acknowledged and its loads answered (R34). -/
def Core.quiet (k : Core) : Bool := k.posted == [] && k.waits == []

/-- No record is homed on a street, its Letterboxes are empty, every return entry is consumed, and no access of its
engines is in a Crossing (R320, R34). -/
def State.streetEmpty (s : State) (g : Nat) : Bool :=
  (streetEngines g).all (fun n =>
    let k : Core := s.core (.eng n)
    s.dir.all (fun p => p.2.home != n) && s.moves.all (fun m => match m.dst with | some p => p.home != n | none => true)
      && (k.withdrawn || (k.lbox.slots == [] && k.lbox.waiting == [])) && !s.returnWaits n && k.quiet)

/-- A street's evacuation for test begins: source 300 + g is raised and it drains. -/
def State.evacBegins (s : State) (g : Nat) : State :=
  (s.setStreet g { s.street g with st := .draining, evac := true, evacDue := false }).raise (300 + g)

/-- A street is being evacuated for test. -/
def State.evacBusy (s : State) : Bool := (List.range 16).any (fun g => (s.street g).evac)

/-- A street is to be evacuated for test: at once, or when the one under way has ended, one street at a time (R320). -/
def State.evacuate (s : State) (g : Nat) : State :=
  let x : Street := s.street g
  if x.evac then s
  else if x.st = .running ∧ !s.evacBusy then s.evacBegins g
  else s.setStreet g { x with evacDue := true }

/-- The next street that is due for evacuation, once none is under way. -/
def State.nextEvac (s : State) : State :=
  if s.evacBusy then s
  else
    match (List.range 16).find? (fun g => (s.street g).evacDue && (s.street g).st == .running) with
    | some g => s.evacBegins g
    | none => s

/-- STREET_EVACUATION (R320): source 300 + g is raised and the street drains; once it is empty it is tested, and
serves again or goes FAULTED. -/
def execStreetEvacuation (g : Fin 16) (ph : EvacPhase) (s : State) : Res :=
  let x : Street := s.street g.val
  match ph with
  | .start =>
    if x.st = .running then .next (s.evacuate g.val) else .next s
  | .finish passed =>
    if x.st = .draining ∧ x.evac ∧ s.streetEmpty g.val then
      if passed then
        .next ((s.setStreet g.val { x with st := .running, evac := false }).raise (300 + g.val)).nextEvac
      else .next (s.setStreet g.val { x with st := .faulted, evac := false }).nextEvac
    else .next s

end Sys2Proof.Machine
end

