-- ==== Sys2Proof/Machine/Integrity.lean ====
section
/-! DEFINITION. What the firmware does about errors (15): the log and its flash copy, AER, the failure actions of
Table 15-4, coalescing, and device-fatal errors. -/

namespace Sys2Proof.Machine

/-! ### Serial flash (R436, R488) -/

/-- A byte of the flash: an erased byte is 0xFF. -/
def flashRd (m : List Host.Cell) (a : Nat) : Byte := spGet 0xFF m a

/-- Bytes of the flash. -/
def flashRdN (m : List Host.Cell) (a n : Nat) : List Byte := (List.range n).map (fun i => flashRd m (a + i))

/-- Bytes written to the flash. -/
def flashWr (m : List Host.Cell) (a : Nat) : List Byte → List Host.Cell
  | [] => m
  | b :: r => flashWr (cellPut 0xFF m a b) (a + 1) r

/-- A part of the flash erased. -/
def flashErase (m : List Host.Cell) (a n : Nat) : List Host.Cell := spClear m a n

/-- The error area: its 64 entries (R423). -/
def errBase : Nat := 0x1000
def errEntry (m : List Host.Cell) (j : Nat) : List Byte := flashRdN m (errBase + 64 * j) 64
def errFree (m : List Host.Cell) (j : Nat) : Bool := (errEntry m j).all (fun b => b == 0xFF)

/-- An entry copied to the error area: at the first free place, else behind the others once the oldest has gone. -/
def errCopy (m : List Host.Cell) (l : List Byte) : List Host.Cell :=
  match (List.range 64).find? (errFree m) with
  | some j => flashWr m (errBase + 64 * j) l
  | none => flashWr m errBase (flashRdN m (errBase + 64) (63 * 64) ++ l)

/-! ### The log (R419 to R425) -/

/-- The kind of AER report of a severity: corrected, non-fatal, fatal (R425). -/
def aerKind (sev : BitVec 2) : Fin 3 := if sev = 0 then 0 else if sev = 3 then 2 else 1

/-- A report through AER, at most one of each kind in 1 ms of management cycles (R425). -/
def State.aerNote (s : State) (sev : BitVec 2) (time : Nat) : State :=
  let k : Fin 3 := aerKind sev
  let due : Bool := match s.aerLast.get k with | none => true | some t => decide (t.toNat + 100000 ≤ time)
  if due then
    { s with aer := s.aer.set k.val (s.aer.get k + 1), aerLast := s.aerLast.set k.val (some (BitVec.ofNat 64 time)) }
  else s

/-- The firmware writes a log entry: its flash copy from severity 2 on, the report, and the alert at severity 3
(R419, R423, R425, R495). -/
def State.logEntry (s : State) (sev : BitVec 2) (time action aten : Nat) (words : List Nat) : State :=
  let s1 : State := s.logWrite time 0 action aten words
  let s2 : State :=
    if 2 ≤ sev.toNat then { s1 with flash := errCopy s1.flash (logBytes s.lseq time 0 action aten words) } else s1
  let s3 : State := s2.aerNote sev time
  if sev = 3 then s3.alertOn else s3

/-- An entry for which the spec names no record: its words are free, with V and SEV as they must be. -/
def State.logOpen (s : State) (sev : BitVec 2) (action : Nat) : State :=
  let w : List Nat := (List.range 4).map (fun i => (Config.openRecord s.free i).toNat)
  let w0 : Nat := (setField (setField (Config.openRecord s.free 0) 60 2 sev.toNat) 63 1 1).toNat
  { s with free := s.free + 1 }.logEntry sev (Config.mgmtTime s.free) action 0xFF (w0 :: w.drop 1)

/-! ### Device-fatal errors (R414) -/

/-- Every fetched command of a queue pair is completed with DEVICE_FAULT. -/
def State.failFetched (s : State) (t q : Nat) : State :=
  match s.qp? t q with
  | none => s
  | some x => x.fetched.foldl (fun s e => s.complete t q e (Ans.of 0x8001)) (s.orphan t q)

/-- Every queue pair of a device goes FAULTED and raises its vector, unless it is FAULTED already (R343). -/
def State.vectorsRaised (s : State) : State :=
  s.tenancies.foldl (fun s t => t.2.qps.foldl (fun s q => if q.2.st = .faulted then s else s.msixOf t.1 q.2) s) s

/-- Every function goes to FAULTED; a lane under calibration is handed back (R414, R478). -/
def State.allFaulted (s : State) : State :=
  let ten (x : Tenancy) : Tenancy :=
    { x with st := if x.bound.isSome then .faulted else x.st
             ghosts := [], qps := x.qps.map (fun p => (p.1, { p.2 with st := .faulted })) }
  let s0 : State := s.vectorsRaised
  let s1 : State := { s0 with tenancies := s0.tenancies.map (fun p => (p.1, ten p.2)) }
  let s2 : State := (List.range 16).foldl (fun s g => s.setStreet g { s.street g with st := .faulted }) s1
  let s3 : State := (List.range 4).foldl (fun s q => s.setSquare q { s.square q with st := .faulted, group := .faulted }) s2
  let s4 : State := (List.range 128).foldl (fun s k => s.setChannel k { s.channel k with fn := .faulted }) s3
  let port (x : MemPort) : MemPort := { x with st := .faulted, cal := x.cal.map Calib.abandon }
  let s5 : State := (List.range 8).foldl (fun s p => s.setMemPort p (port (s.memPort p))) s4
  (List.range 2).foldl (fun s h => s.setHostPort h { s.hostPort h with st := .faulted }) s5

/-- Steps 1 to 3 of R414: fetching ends, fetched commands are answered, every function goes FAULTED, postings not
yet answered are in doubt. -/
def State.deviceFatal (s : State) : State :=
  if s.fatal then s
  else
    let s1 : State := s.tenancies.foldl (fun s x =>
      x.2.qps.foldl (fun s y => s.failFetched x.1 y.1) s) s
    let s2 : State := (s1.deliveries.foldl (fun s d => if d.post.isSome then s.setDoubt d.key else s) s1)
    let s3 : State := s2.fwdq.foldl (fun s p => s.setDoubt p.key) s2
    { s3.allFaulted with fatal := true }

/-- A device-fatal error for which the spec names no record. -/
def State.fatalOpen (s : State) : State := if s.fatal then s else s.deviceFatal.logOpen sevDevice 6

/-! ### Failure actions (Table 15-4) -/

/-- The physical address of an error record, where it names one. -/
def ErrRec.pa (r : ErrRec) : Option Nat :=
  if r.asp = 0 then some r.addr.toNat
  else if r.asp = 2 ∧ r.utype = 0 then locPa r.uidx.toNat (nearLoc r.uidx.toNat r.addr.toNat)
  else none

/-- The records whose storage places hold bytes of the line of attached memory, or of the word of a tile or square
memory, that an uncorrectable error has met. -/
def State.recordsAt (s : State) (pa : Nat) : List RecKey :=
  let n : Nat := if pa < sqBase then 64 else 8
  let a : Nat := pa / n * n
  (s.dir.filter (fun p => decide (p.2.loc.toNat < a + n) && decide (a < p.2.loc.toNat + p.2.len))).map
    (fun p => p.2.key)

/-- An address lies in the log ring (R419). -/
def inLog (pa : Nat) : Bool := decide (logBase ≤ pa) && decide (pa < logBase + 16384 * 64)

/-- The bucket of the Record Directory at an address. -/
def State.bucketAt (s : State) (pa : Nat) : Option Nat :=
  if s.installed ≠ 0 ∧ s.dirbase.toNat ≤ pa ∧ pa < s.dirbase.toNat + 0x80000000 then some ((pa - s.dirbase.toNat) / 256)
  else none

/-- What the firmware does about an error record: the state, ACTION and ATEN. Table 15-4 names an engine withdrawn for
a residue mismatch or a parity error in the vendor part of the control store; of one in a control core only the log speaks
(DESIGN CHOICE, log 113). -/
def State.errorAct (s : State) (r : ErrRec) (homes : List (RecKey × Place)) : State × Nat × Nat :=
  if r.sev = 3 then (s.deviceFatal, 6, 0xFF)
  else if r.sev = 2 ∧ r.utype = 0 then (s.withdraw (Fin.ofNat 128 r.uidx.toNat) homes, 4, 0xFF)
  else if r.sev = 2 then (s, 5, 0xFF)
  else if r.code = 0x42 ∨ r.utype = 8 then (s, 3, 0xFF)
  else if r.code = 0x02 then (s.evacuate (r.uidx.toNat / 8), 7, 0xFF)
  else if r.code = 0x11 then
    match r.pa with
    | none => (s, 1, r.ten.toNat)
    | some pa =>
      match s.recordsAt pa with
      | k :: ks => ((k :: ks).foldl (fun s k => s.setLost k) s, 2, k.ten.toNat)
      | [] =>
        match s.bucketAt pa with
        | some b =>
          let ds : List RecKey := (s.dir.filter (fun p => decide (p.1 / 8 = b))).map (fun p => p.2.key)
          (ds.foldl (fun s k => s.setDoubt k) (s.raise (316 + b % 4)), 3, 0xFF)
        | none =>
          match pKind pa with
          | .tile n o _ => if o < 0x40000 then (s.evacuate (n / 8), 7, 0xFF) else (s, 1, r.ten.toNat)
          | .square q o =>
            if (0x200000 ≤ o ∧ o < 0x600000) ∨ inLog pa then (s, 1, r.ten.toNat)
            else ((List.range 4).foldl (fun s i => s.evacuate (4 * q + i)) s, 7, 0xFF)
          | _ => (s, 1, r.ten.toNat)
  else (s, 1, r.ten.toNat)

/-- A corrected error counted toward the next coalesced entry of its unit, HOP and CODE (R421). -/
def coalesceAdd (r : ErrRec) (n : Nat) : List Coalesce → List Coalesce
  | [] => [{ r := r, count := n }]
  | c :: t =>
    if c.r.utype = r.utype ∧ c.r.uidx = r.uidx ∧ c.r.hop = r.hop ∧ c.r.code = r.code then
      { c with count := c.count + n } :: t
    else c :: coalesceAdd r n t

/-- ERROR_LOG_WRITE (R418 to R420): the firmware reads a slot, acts on its record, writes it to the log, and clears
V. A corrected error waits for its coalescing interval. An uncorrectable error in the firmware's own log pointers
is device fatal (R422). The log waits while square 0 is being relocked (R31). -/
def execErrorLogWrite (b : BankId) (i : Fin 16) (f : LogFacts) (homes : List (RecKey × Place)) (s : State) : Res :=
  let j : Nat := bankIx b * 16 + i.val
  match (if s.heldPa logBase then none else spGet? s.banks j) with
  | none => .next s
  | some x =>
    if f.ptrBad then .next s.fatalOpen
    else
      let s1 : State := { s with banks := spDel s.banks j }
      if x.r.sev = 0 then .next { s1 with coalesce := coalesceAdd x.r x.count.toNat s1.coalesce }
      else
        let a : State × Nat × Nat := s1.errorAct x.r homes
        .next (a.1.logEntry x.r.sev f.time.toNat a.2.1 a.2.2 (recWords x.r x.ovf x.count.toNat))

/-- CORRECTED_COALESCE_EXPIRY (R421): one entry for each unit, HOP and CODE. -/
def execCorrectedCoalesceExpiry (s : State) : Res :=
  let t : State := s.coalesce.foldl (fun s c =>
    { s with free := s.free + 1 }.logEntry 0 (Config.mgmtTime s.free) 0 0xFF (recWords c.r false (min c.count 0xFFFF))) s
  .next { t with coalesce := [] }

end Sys2Proof.Machine
end

