-- ==== Sys2Proof/Machine/Functions.lean ====
section
/-! DEFINITION. Functions and their states (13 R360, R372 to R377; 16 R443 to R446; 14 R402): STOP, START, parameters,
resets of streets and squares. -/

namespace Sys2Proof.Machine

/-! ### Function identifiers (R360) -/

/-- A function: FTYPE and FINDEX. -/
abbrev Fid := Nat × Nat

/-- The function that a command names in bytes 8 to 11. -/
def Cmd.fid (c : Cmd) : Fid := (c.le 8 1, c.le 10 2)

/-- A function identifier names nothing (R360). -/
def State.noFn (s : State) (f : Fid) : Bool :=
  match f.1 with
  | 0 => f.2 != 0
  | 1 => decide (15 < f.2) || (s.tenancy f.2).bound.isNone
  | 2 => decide (0xFFF < f.2) || (s.tenancy (f.2 / 256)).bound.isNone || (s.qp? (f.2 / 256) (f.2 % 256)).isNone
  | 3 => decide (15 < f.2)
  | 4 => decide (3 < f.2)
  | 5 => decide (7 < f.2)
  | 6 => decide (127 < f.2)
  | 7 => decide (3 < f.2)
  | 8 => decide (1 < f.2)
  | _ => true

/-- The state of a function; FTYPE 0 has none. -/
def State.fst (s : State) (f : Fid) : FState :=
  match f.1 with
  | 1 => (s.tenancy f.2).st
  | 2 => ((s.qp? (f.2 / 256) (f.2 % 256)).getD QPair.reset).st
  | 3 => (s.street f.2).st
  | 4 => (s.square f.2).st
  | 5 => (s.memPort f.2).st
  | 6 => (s.channel f.2).fn
  | 7 => (s.square f.2).group
  | 8 => (s.hostPort f.2).st
  | _ => .stopped

/-- The parent of a function (Table 16-11). -/
def State.parent (s : State) (f : Fid) : Option Fid :=
  match f.1 with
  | 1 => (s.tenancy f.2).bound.map (fun b => (8, b.port.val))
  | 2 => some (1, f.2 / 256)
  | 3 => some (4, f.2 / 4)
  | 6 => some (4, f.2 / 32)
  | 7 => some (4, f.2)
  | _ => none

/-- The functions that a command of tenancy `t` names, of those that take effect one at a time on them (R374). -/
def Fetched.names (t : Nat) (e : Fetched) : List Fid :=
  let op : Nat := e.opcode
  let streets : List Fid := (List.range 16).map (fun g => (3, g))
  if op = 0x50 ∨ op = 0x51 ∨ op = 0x52 ∨ op = 0x60 ∨ op = 0x61 ∨ op = 0x62 then [(leAt e.bytes 8 1, leAt e.bytes 10 2)]
  else if op = 0x02 ∨ op = 0x03 then [(1, leAt e.bytes 8 1)]
  else if op = 0x05 then [(2, t * 256 + leAt e.bytes 8 1)]
  else if op = 0x10 then streets.filter (fun f => bit (leAt e.bytes 8 2) f.2)
  else if op = 0x12 then streets
  else if op = 0x80 then streets ++ (List.range 16).map (fun i => (1, i))
  else []

/-- Whether a fetched command `e` of queue pair `q` of tenancy `t` goes before `c`: it has begun its effect, or has
waited longer for its turn. -/
def Cmd.after (c : Cmd) (t q : Nat) (e : Fetched) : Bool :=
  !(t == c.t && q == c.q && e.seq == c.e.seq) &&
    match e.prog with
    | .wait _ => true
    | .queued n => (match c.e.prog with | .queued m => decide (n < m) | _ => true)
    | _ => false

/-- The commands that go before `c` on a function (R374). -/
def State.ahead (s : State) (c : Cmd) (f : Fid) : List Fetched :=
  s.tenancies.flatMap (fun t => (t.2.commands.filter (fun x => c.after t.1 x.1 x.2 && (x.2.names t.1).contains f)).map
    (fun x => x.2))

/-- A function is held by a command started earlier (R374). -/
def State.heldFn (s : State) (c : Cmd) (f : Fid) : Bool := s.ahead c f != []

/-- A STOP has begun on a function. -/
def State.stopping (s : State) (c : Cmd) (f : Fid) : Bool :=
  (s.ahead c f).any (fun e => e.opcode == 0x50 && (match e.prog with | .wait _ => true | _ => false))

/-- STOP of a function or of its parent is under way (R374). -/
def State.stopHolds (s : State) (c : Cmd) (f : Fid) : Bool :=
  s.stopping c f || (match s.parent f with | some p => s.stopping c p | none => false)

/-- A command waits for its turn on a function, in the order in which the firmware starts them (R374). -/
def State.queue (s : State) (c : Cmd) : State :=
  match c.e.prog with
  | .queued _ => s
  | _ => { s.progress c (.queued s.nextTurn) with nextTurn := s.nextTurn + 1 }

/-! ### Checks 7.2 and 7.4 of the function commands (R372, R360) -/

/-- Who may name a function in STOP, START, SET_CONFIG and GET_CONFIG (R372). -/
def fn72 (s : State) (c : Cmd) : Option Ans :=
  let f : Fid := c.fid
  if c.fn = s.mgmtFn then unless_ (!(f.1 == 6 && decide (f.2 ≤ 127) && decide (28 ≤ f.2 % 32))) 0x100B 0
  else unless_ (f.1 == 2 && decide (f.2 / 256 = c.t) && f.2 % 256 != 0) 0x100B 0

/-- BAD_FUNCTION of a command that needs a function with states. -/
def fn74 (s : State) (c : Cmd) : Option Ans := unless_ (c.fid.1 != 0 && !s.noFn c.fid) 0x1010 0

/-! ### Resets of units (Table 16-1) -/

/-- An engine after a street reset, or at a START after a program load: Table 2-1, R208, TTEN 0 and an empty
Letterbox; its other registers, TLB slots and routes stay (R267, R306). -/
def Core.restart (k : Core) : Core :=
  { k with
    banks := Vector.replicate 4 Bank.reset, shadow := Bank.reset, res := #v[some 0, none, none, none]
    inShadow := false, cur := 0, lru := [0, 1, 2, 3], xtask := 0, tten := 0, sbuf := [], inflight := [], waits := []
    hold := none, fqAt := 0, fq := [], fetchAt := k.now, portBusy := [], tgt := none, loopBuf := .empty, bg := none
    exn := none, exnFar := false, entryMc := none, trap := none
    tracePend := false, trapHeld := none, ctxHeld := none, asyncMc := none, asyncCtx := none, oneStep := false
    escalated := false, halted := false, evpend := 0, evmask := 0, lbox := Letterbox.reset, retIx := 0 }

/-- An engine after a square reset (R208, R267): routes stay, and a withdrawn engine stays withdrawn (R322). -/
def Core.squareReset (k : Core) : Core :=
  { Core.reset with evroute := k.evroute, evtask := k.evtask, withdrawn := k.withdrawn, free := k.free }

/-- The 64 entries of an engine's return ring are free. -/
def State.clearRing (s : State) (n : Fin 128) : State :=
  (List.range 64).foldl (fun s i => s.wr (sqPa (n.val / 32) (n.val % 32 * 0x800 + i * 32)) 0) s

/-- The street reset of Table 16-1. -/
def State.streetReset (s : State) (g : Nat) : State :=
  (streetEngines g).foldl (fun s n =>
    let s1 : State := s.setCore (.eng n) (s.core (.eng n)).restart
    s1.clearRing n) s

/-- The key stores of a square after a reset of it (R285). -/
def State.keysReset (s : State) (q : Nat) : State :=
  { s with tileKeys := spClear s.tileKeys (q * 4096) 4096, sqKeys := spClear s.sqKeys (q * 2048) 2048 }

/-- The square reset of Table 16-1. -/
def State.squareReset (s : State) (q : Nat) : State :=
  let es : List CoreId := (engines.filter (fun n => decide (n.val / 32 = q))).map CoreId.eng
  let s1 : State := (s.mapCores es Core.squareReset).keysReset q
  let s2 : State := (List.range 32).foldl (fun s j =>
    s.setChannel (q * 32 + j) { Channel.reset with pend := (s.channel (q * 32 + j)).pend }) s1
  let s3 : State := s2.setTram q Tram.reset
  let s4 : State := (List.range 4).foldl (fun s i =>
    s.setStreet (4 * q + i) { s.street (4 * q + i) with st := .stopped, evac := false, evacDue := false }) s3
  let x : Square := s4.square q
  s4.setSquare q { x with group := .stopped, timers := x.timers.map (fun t => (t.1, { t.2 with count := 0 })) }

/-- CCTL of channel `j` of square `q` as bring-up sets it (R386, R387). -/
def bringCctl (q j : Nat) : W64 :=
  if j < 28 then
    BitVec.ofNat 64 (160 + q * 32 + j + 2 ^ 9 + j * 2 ^ 26 + 0xF * 2 ^ 36 + (if 24 ≤ j then 2 ^ 41 else 0))
  else BitVec.ofNat 64 (2 ^ 31 + 0xF * 2 ^ 36)

/-- The key of a square-memory region that holds no record (R293): the return rings and tenancy roots, the rest. -/
def regionKey0 (i : Nat) : Byte := if i ≤ 16 then 0x0E else 0x1F

/-- Bring-up of a square: its Tram channels run, its square memory carries the firmware's keys, and its tenancy roots
name the record tables (R386, R293, R295). -/
def State.bringUp (s : State) (q : Nat) : State :=
  let s1 : State := (List.range 32).foldl (fun s j =>
    let c : Channel := s.channel (q * 32 + j)
    s.setChannel (q * 32 + j) { c with cctl := bringCctl q j, cda := if j < 28 then 0x3FFE0 else c.cda, fn := .running }) s
  let put (m : Sparse Byte) (i : Nat) : Sparse Byte := spPut m (q * 2048 + i) (regionKey0 i)
  let s2 : State := { s1 with sqKeys := (List.range 2048).foldl put s1.sqKeys }
  if s2.layout.live then (List.range 16).foldl (fun s t => s.wr8 (sqPa q (0x10000 + 8 * t)) (s.tabPa t)) s2 else s2

/-! ### STOP (R373, R402, R444, R472) -/

/-- STOP of a channel's function, or a step of its drain; `ended` says that no burst is under way (R402). -/
def Channel.stopStep (c : Channel) (ended : Bool) : Channel :=
  match c.st with
  | .active =>
    if ended then
      { c.discard.posRegs with st := .halted, code := 0x01, sub := 0, side := 0, tlbHalt := false, fn := .stopped, unacked := false }
    else { c with fn := .draining }
  | .error => { c with st := .idle, fn := .stopped, tpend := 0, tpend2 := 0, pcred := 0, phase := .fetch, desc := none
                       rpos := 0, buf := [], burst := 0, code := 0, sub := 0, side := 0 }
  | .halted => { c with fn := .stopped }
  | .idle => { c with fn := .stopped }

/-- START of a channel: it resumes from its position, or serves a counted start (R402). -/
def Channel.startFn (c : Channel) : Channel :=
  let c1 : Channel := { c with fn := .running }
  match c.st with
  | .halted => { c1 with st := .active, code := 0, sub := 0, side := 0, tlbHalt := false }
  | .idle => c1.endChain
  | _ => c1

/-- The counts of a timer group are zero (R523). -/
def Square.zeroCounts (x : Square) : Square :=
  { x with timers := x.timers.map (fun t => (t.1, { t.2 with count := 0 })) }

/-- A queue pair after the clean-up of Table 16-10. -/
def QPair.clean (x : QPair) : QPair :=
  { x with st := .stopped, fetched := [], sqhead := 0, cqtail := 0, cqerr := false, held := none, counted := 0 }

/-- STOP, or clean-up, of one queue pair. -/
def State.stopQp (s : State) (t q : Nat) : State :=
  match s.qp? t q with
  | none => s
  | some x => s.setQp t q (if x.st = .faulted then x.clean else x.stop)

/-- A street that drains is STOPPED once it is empty (R373). -/
def State.streetDrain (s : State) (g : Nat) : State :=
  let x : Street := s.street g
  if x.st = .draining ∧ s.streetEmpty g then (s.setStreet g { x with st := .stopped, evac := false }).nextEvac else s

/-- STOP of a street: DRAINING, source 300 + g raised; a FAULTED street gets a street reset, once no access of its
engines is outstanding, and a test at its next START (Table 16-10, R35). -/
def State.stopStreet (s : State) (g : Nat) : State :=
  let x : Street := s.street g
  match x.st with
  | .running => ((s.setStreet g { x with st := .draining, evac := false }).raise (300 + g)).streetDrain g
  | .draining => s.streetDrain g
  | .faulted =>
    if (streetEngines g).all (fun n => (s.core (.eng n)).quiet) then
      (s.streetReset g).setStreet g { x with st := .stopped, testFirst := true, loaded := false, evacDue := false }
    else s
  | .stopped => s

/-- STOP, or clean-up, of a channel's function. -/
def State.stopChannel (s : State) (k : Nat) : State :=
  let c : Channel := s.channel k
  let ended : Bool := match c.desc with
    | some d => c.pmode == 0 || c.phase != .move || tramOver s k c d
    | none => true
  s.setChannel k (c.stopStep ended)

/-- STOP, or clean-up, of a timer group. -/
def State.stopGroup (s : State) (q : Nat) : State :=
  s.setSquare q { (s.square q).zeroCounts with group := .stopped }

/-- The children of a square: its streets, its channels, its timer group (Table 16-11). -/
def squareKids (q : Nat) : List Fid :=
  (List.range 4).map (fun i => (3, 4 * q + i)) ++ (List.range 32).map (fun j => (6, 32 * q + j)) ++ [(7, q)]

/-- A function identifier as a word. -/
def fidWord (f : Fid) : W32 := BitVec.ofNat 32 (f.1 + f.2 * 65536)

/-- STOP of a child of a square. -/
def State.stopKid (s : State) (f : Fid) : State :=
  if s.fst f = .stopped then s
  else
    match f.1 with
    | 3 => s.stopStreet f.2
    | 6 => s.stopChannel f.2
    | _ => s.stopGroup f.2

/-- The square that a physical address lies in. -/
def squareAt (pa : Nat) : Option Nat :=
  match pKind pa with
  | .square q _ => some q
  | .kerb _ => some 0
  | .tile n _ _ => some (n / 32)
  | .attached => none
  | .reg => none
  | .resv => none

/-- A core has an access outstanding to an address that satisfies `f`. -/
def Core.reaches (k : Core) (f : Nat → Bool) : Bool :=
  k.posted.any (fun p => p.cells.any (fun x => f x.1)) || k.waits.any (fun w => w.xfers.any (fun x => x.pa.any f))

/-- The Crossings into and out of a square's domain are empty: no access of its engines, and none to the square, is
outstanding (R34). -/
def State.squareQuiet (s : State) (q : Nat) : Bool :=
  s.cores.all (fun c => !c.2.reaches (fun pa => squareAt pa == some q))
    && (engines.filter (fun n => decide (n.val / 32 = q))).all (fun n => (s.core (.eng n)).quiet)

/-- A square that drains is STOPPED once its children are and its Crossings are empty (R373, R34). -/
def State.squareDrain (s : State) (q : Nat) : State :=
  let s1 : State := (squareKids q).foldl State.stopKid s
  if (squareKids q).all (fun f => s1.fst f == .stopped) && s1.squareQuiet q then
    s1.setSquare q { s1.square q with st := .stopped }
  else s1

/-- STOP of a square: its children first, and those that were RUNNING start again with it; a FAULTED square gets a
square reset once its Crossings are empty (R373, R35, Table 16-10). -/
def State.stopSquare (s : State) (q : Nat) : State :=
  let x : Square := s.square q
  match x.st with
  | .running =>
    let run : List W32 := ((squareKids q).filter (fun f => s.fst f == .running)).map fidWord
    (s.setSquare q { x with st := .draining, restart := x.restart ++ run.filter (fun w => !x.restart.contains w) }).squareDrain q
  | .draining => s.squareDrain q
  | .faulted =>
    if s.squareQuiet q then
      let s1 : State := s.squareReset q
      s1.setSquare q { s1.square q with st := .stopped, bringUp := true, relock := none }
    else s
  | .stopped => s

/-- A tenancy that drains is STOPPED once its queue pairs are (R330). -/
def State.tenancyDrain (s : State) (t : Nat) : State :=
  let s1 : State := (s.tenancy t).qps.foldl (fun s p => s.stopQp t p.1) s
  let x : Tenancy := s1.tenancy t
  if x.qps.all (fun p => p.2.st == .stopped) && x.ghosts == [] then s1.setTenancy t { x with st := .stopped } else s1

/-- The key caches of every unit are written back and dropped (R472, R279). -/
def State.dropKeyCaches (s : State) : State :=
  let back (s : State) (m : Sparse Byte) : State := m.foldl (fun s p => s.keyBack p.1 p.2) s
  let s1 : State := s.cores.foldl (fun s c => back s c.2.keyCache) s
  let s2 : State := s1.trams.foldl (fun s u => back s u.2.keyCache) s1
  { s2 with cores := s2.cores.map (fun c => (c.1, { c.2 with keyCache := [] }))
            trams := s2.trams.map (fun u => (u.1, { u.2 with keyCache := [] })) }

/-- No access of a core to a memory port's addresses is outstanding (R34). -/
def State.portQuiet (s : State) (p : Nat) : Bool :=
  s.cores.all (fun c => !c.2.reaches (fun pa => decide (pa < sqBase) && (match s.portAt pa with
    | some (i, _) => i == p
    | none => false)))

/-- STOP of a memory port (R472), once the accesses to it have ended (R34); a FAULTED one gets the port reset of Table
16-10. -/
def State.stopPort (s : State) (p : Nat) : State :=
  if !s.portQuiet p then
    (if (s.memPort p).st = .running then s.setMemPort p { s.memPort p with st := .draining } else s)
  else
  let s1 : State := s.dropKeyCaches
  let x : MemPort := s1.memPort p
  let cal : Vector Calib 2 := x.cal.map Calib.abandon
  s1.setMemPort p { x with st := .stopped, cal := cal, pg := if x.st = .faulted then Patgen.reset else x.pg
                           fail := if x.st = .faulted ∧ x.dimms ≠ 0 then 0 else x.fail }

/-- The host port reset of Table 16-1: the port's controller and a function level reset of its functions (R344). -/
def State.portReset (s : State) (h : Nat) : State :=
  let fs : List FnId := (List.finRange 16).map (fun n => ⟨Fin.ofNat 2 h, n⟩)
  let s1 : State := fs.foldl (fun s f => s.flr f) s
  let x : HostPort := s1.hostPort h
  s1.setHostPort h { x with nwidth := 0, nrate := 0, rev := false, pol := 0, d3 := 0, pg := Patgen.reset, last := .none }

/-- STOP of a host link (R481); a FAULTED one gets a host port reset. -/
def State.stopLink (s : State) (h : Nat) : State :=
  let s1 : State := if (s.hostPort h).st = .faulted then s.portReset h else s
  s1.setHostPort h { s1.hostPort h with st := .stopped, fail := 0 }

/-- STOP of a function begins, or its drain goes on. -/
def State.stopFunction (s : State) (f : Fid) : State :=
  match f.1 with
  | 1 => (s.setTenancy f.2 { s.tenancy f.2 with st := .draining }).tenancyDrain f.2
  | 2 => s.stopQp (f.2 / 256) (f.2 % 256)
  | 3 => s.stopStreet f.2
  | 4 => s.stopSquare f.2
  | 5 => s.stopPort f.2
  | 6 => s.stopChannel f.2
  | 7 => s.stopGroup f.2
  | 8 => s.stopLink f.2
  | _ => s

/-- STOP of a memory port is refused while something may use attached memory (R373, R472). -/
def State.portInUse (s : State) : Bool :=
  (List.range 16).any (fun g => (s.street g).st != .stopped)
    || s.tenancies.any (fun t => t.1 != 0 && t.2.bound.isSome && t.2.st != .stopped)
    || (s.tenancy 0).qps.any (fun q => q.1 != 0 && q.2.st != .stopped)
    || (List.range 128).any (fun k => (s.channel k).st == .active)

/-- STOP of a host link is refused unless every tenancy bound to its functions is STOPPED (Table 16-11). -/
def State.linkInUse (s : State) (h : Nat) : Bool :=
  s.tenancies.any (fun t => (match t.2.bound with | some f => decide (f.port.val = h) | none => false) && t.2.st != .stopped)

/-- What STOP never stops (R372). -/
def stop75 (s : State) (c : Cmd) : Option Ans :=
  let f : Fid := c.fid
  unless_ (!(f == (2, c.t * 256)) && !(f == (1, ((s.tenOf s.mgmtFn).getD 0))) && !(f == (8, c.fn.port.val))) 0x2003 0

/-- The answer of a STOP: its function has reached STOPPED, or it goes on. -/
def State.stopEnds (s : State) (c : Cmd) (res0 : Nat) : State :=
  if s.fst c.fid = .stopped then s.ends c { Ans.of 0 with res0 := res0 } else s.progress c (.wait (BitVec.ofNat 32 res0))

/-- STOP once its checks up to 7.5 have passed. -/
def State.stop76 (s : State) (c : Cmd) : State :=
  let f : Fid := c.fid
  match s.fst f with
  | .stopped => if s.heldFn c f then s.queue c else s.ends c (Ans.of 1)
  | .draining =>
    if s.stopHolds c f || (f.1 == 2 && !s.heldFn c f) then s.progress c (.wait 2) else s.queue c
  | st =>
    if s.heldFn c f then s.queue c
    else if (f.1 == 5 && s.portInUse) || (f.1 == 8 && s.linkInUse f.2) then s.ends c (Ans.of 0x2003)
    else (s.stopFunction f).stopEnds c (if st = .faulted then 3 else 1)

/-- STOP (R373, R374, Table 13-11): checked, begun, and completed once the function is STOPPED. -/
def execStopFn (r : CmdRef) (s : State) : Res :=
  .next (s.onCmd r 0x50 (fun c s =>
    match c.e.prog with
    | .wait res0 =>
      let s1 : State := if res0 = 2 then s else s.stopFunction c.fid
      if s1.fst c.fid = .stopped then s1.ends c { Ans.of 0 with res0 := res0.toNat } else s1
    | _ =>
      match firstOf [reserved71 c (namedBytes [(8, 1), (10, 2)]), fn72 s c, ptrs73 c 0 0, fn74 s c, stop75 s c] with
      | some a => s.ends c a
      | none => s.stop76 c))

/-! ### Parameters (R375 to R377, Table 13-9) -/

/-- The parameters of a function type, in PID order, each with whether it is structural. -/
def paramsOf : Nat → List (Nat × Bool)
  | 0 => [(0x001, false), (0x002, false), (0x003, false), (0x004, false)]
  | 1 => [(0x101, true), (0x102, true), (0x103, true), (0x104, true), (0x105, true)]
  | 2 => [(0x201, false), (0x202, true), (0x203, true), (0x204, true), (0x205, true), (0x206, true)]
  | 3 => [(0x301, true), (0x310, false)]
  | 4 => [(0x401, true)]
  | 5 => [(0x501, true), (0x502, false)]
  | 6 => [(0x601, true), (0x602, true)]
  | 7 => (List.range 8).map (fun i => (0x701 + i, true))
  | 8 => [(0x801, true), (0x802, true)]
  | _ => []

/-- The value of a parameter in force. -/
def State.param (s : State) (f : Fid) (pid : Nat) : Nat :=
  let x : QPair := (s.qp? (f.2 / 256) (f.2 % 256)).getD QPair.reset
  let y : Tenancy := s.tenancy f.2
  if pid = 0x001 then s.placeCfg.heatEpoch
  else if pid = 0x002 then s.placeCfg.heatTile
  else if pid = 0x003 then s.placeCfg.heatSq
  else if pid = 0x004 then s.placeCfg.releaseLimit
  else if pid = 0x101 then y.dirQuota
  else if pid = 0x102 then y.pinQuota
  else if pid = 0x103 then y.qpQuota
  else if pid = 0x104 then y.vecCount
  else if pid = 0x105 then y.jret
  else if pid = 0x201 then x.qwt
  else if pid = 0x202 then bits x.qcfg.toNat 0 4
  else if pid = 0x203 then bits x.qcfg.toNat 4 4
  else if pid = 0x204 then x.vec
  else if pid = 0x205 then x.sqbase.toNat
  else if pid = 0x206 then x.cqbase.toNat
  else if pid = 0x301 then (s.street f.2).pwe.toNat
  else if pid = 0x310 then (s.street f.2).evroute.toNat
  else if pid = 0x401 then (s.square f.2).eclk
  else if pid = 0x501 then (s.memPort f.2).rateSet.toNat
  else if pid = 0x502 then (s.memPort f.2).calPeriod
  else if pid = 0x601 then (s.channel f.2).cten.toNat
  else if pid = 0x602 then (s.channel f.2).ckey.toNat
  else if pid = 0x801 then (s.hostPort f.2).widthSet.toNat
  else if pid = 0x802 then (s.hostPort f.2).maxrate.toNat
  else if 0x701 ≤ pid ∧ pid ≤ 0x708 then (spGet Timer.reset (s.square f.2).timers (pid - 0x701)).period.toNat
  else 0

/-- The pin capacity: 15/16 of the tile record area of the engines in service (R319). -/
def State.pinCapacity (s : State) : Nat :=
  (engines.filter (fun n => !(s.core (.eng n)).withdrawn && (s.street (n.val / 8)).st != .faulted)).length
    * 0x40000 / 16 * 15

/-- The sum of a parameter over the other tenancies that satisfy `sel`. -/
def State.others (s : State) (t : Nat) (sel : Tenancy → Bool) (v : Tenancy → Nat) : Nat :=
  ((s.tenancies.filter (fun x => x.1 != t && x.2.bound.isSome && sel x.2)).map (fun x => v x.2)).foldl (· + ·) 0

/-- Whether a value lies within its parameter's range, `heat` being HEAT_TILE and HEAT_SQ as earlier settings of the
list leave them (R375, R377). -/
def State.valueOk (s : State) (f : Fid) (heat : Nat × Nat) (pid v : Nat) : Bool :=
  if pid = 0x001 ∨ pid = 0x004 then decide (1 ≤ v) && decide (v ≤ 1000)
  else if pid = 0x002 then decide (2 ≤ v) && decide (v ≤ 65535) && decide (heat.2 ≤ v)
  else if pid = 0x003 then decide (2 ≤ v) && decide (v ≤ heat.1)
  else if pid = 0x101 then decide (v ≤ 67108864)
  else if pid = 0x102 then
    decide (v + s.others f.2 (fun _ => true) (fun x => x.pinQuota) ≤ s.pinCapacity)
  else if pid = 0x103 then decide (1 ≤ v) && decide (v ≤ 256)
  else if pid = 0x104 then
    let port : Option (Fin 2) := (s.tenancy f.2).bound.map (fun b => b.port)
    decide (1 ≤ v) && decide (v + s.others f.2 (fun x => x.bound.map (fun b => b.port) == port)
      (fun x => x.vecCount) ≤ 2048)
  else if pid = 0x105 then v == 0 || (List.range 11).any (fun i => decide (v = 2 ^ (10 + i)))
  else if pid = 0x201 then decide (1 ≤ v) && decide (v ≤ 255)
  else if pid = 0x202 ∨ pid = 0x203 then decide (v ≤ 12)
  else if pid = 0x204 then decide (v < (s.tenancy (f.2 / 256)).vecCount)
  else if pid = 0x205 ∨ pid = 0x206 then v != 0 && v % 4096 == 0
  else if pid = 0x301 then decide (v ≤ 1)
  else if pid = 0x310 then
    decide (v < 2 ^ 24) && decide (bits v 8 9 ≤ 383) && !(decide (300 ≤ bits v 8 9) && decide (bits v 8 9 ≤ 319))
  else if pid = 0x401 then decide (400 ≤ v) && decide (v ≤ if s.part.t20 then 2000 else 1600) && v % 25 == 0
  else if pid = 0x501 then decide (3200 ≤ v) && decide (v ≤ 6400) && v % 400 == 0
  else if pid = 0x502 then decide (1 ≤ v) && decide (v ≤ 3600)
  else if pid = 0x601 ∨ pid = 0x602 then decide (v ≤ 15)
  else if pid = 0x801 then decide (v ≤ 2)
  else if pid = 0x802 then decide (1 ≤ v) && decide (v ≤ 5)
  else if 0x701 ≤ pid ∧ pid ≤ 0x708 then decide (v < 2 ^ 32)
  else false

/-- EVROUTE applied to a street (Table 13-12, R231). -/
def State.applyRoute (s : State) (g : Nat) (v : W64) : State :=
  let n : Fin 128 := Fin.ofNat 128 (g * 8 + bits v.toNat 0 3)
  let i : Nat := bits v.toNat 3 5
  let k : Core := s.core (.eng n)
  let r : Route := { src := BitVec.ofNat 9 (bits v.toNat 8 9), v := v.getLsbD 17 }
  (s.setCore (.eng n) { k with evroute := spPut k.evroute i r, evtask := spPut k.evtask i (BitVec.ofNat 6 (bits v.toNat 18 6)) }).setStreet
    g { s.street g with evroute := v }

/-- A live setting takes effect. -/
def State.applyLive (s : State) (f : Fid) (p : PendSet) : State :=
  let v : Nat := p.value.toNat
  if p.pid = 0x001 then { s with placeCfg := { s.placeCfg with heatEpoch := v } }
  else if p.pid = 0x002 then { s with placeCfg := { s.placeCfg with heatTile := v } }
  else if p.pid = 0x003 then { s with placeCfg := { s.placeCfg with heatSq := v } }
  else if p.pid = 0x004 then { s with placeCfg := { s.placeCfg with releaseLimit := v } }
  else if p.pid = 0x201 then
    match s.qp? (f.2 / 256) (f.2 % 256) with
    | some x => s.setQp (f.2 / 256) (f.2 % 256) { x with qwt := v }
    | none => s
  else if p.pid = 0x310 then s.applyRoute f.2 p.value
  else if p.pid = 0x502 then s.setMemPort f.2 { s.memPort f.2 with calPeriod := v }
  else if p.pid = 0x101 ∨ p.pid = 0x102 ∨ p.pid = 0x103 then s.setTenancy f.2 ((s.tenancy f.2).apply p)
  else s

/-- A setting held until the next START; a later one of its PID replaces it (R446). -/
def pendPut (l : List PendSet) (p : PendSet) : List PendSet := l.filter (fun q => q.pid != p.pid) ++ [p]

/-- The pending settings of a function changed. -/
def State.onPend (s : State) (f : Fid) (g : List PendSet → List PendSet) : State :=
  match f.1 with
  | 1 => s.setTenancy f.2 { s.tenancy f.2 with pend := g (s.tenancy f.2).pend }
  | 2 =>
    match s.qp? (f.2 / 256) (f.2 % 256) with
    | some x => s.setQp (f.2 / 256) (f.2 % 256) { x with pend := g x.pend }
    | none => s
  | 3 => s.setStreet f.2 { s.street f.2 with pend := g (s.street f.2).pend }
  | 4 => s.setSquare f.2 { s.square f.2 with pend := g (s.square f.2).pend }
  | 5 => s.setMemPort f.2 { s.memPort f.2 with pend := g (s.memPort f.2).pend }
  | 6 => s.setChannel f.2 { s.channel f.2 with pend := g (s.channel f.2).pend }
  | 7 => s.setSquare f.2 { s.square f.2 with groupPend := g (s.square f.2).groupPend }
  | 8 => s.setHostPort f.2 { s.hostPort f.2 with pend := g (s.hostPort f.2).pend }
  | _ => s

/-- The settings of a SET_CONFIG list: PID and VALUE of each 16 bytes. -/
def settingsOf (l : List Byte) (n : Nat) : List PendSet :=
  (List.range n).map (fun i =>
    { pid := BitVec.ofNat 16 (leAt l (16 * i) 2), value := BitVec.ofNat 64 (leAt l (16 * i + 8) 8) })

/-- The judgement of a list in list order: the refusal of the first setting that fails (R375). `base` is the offset
of the list, or of the setting within the packet. -/
def State.judge (s : State) (f : Fid) (l : List Byte) (base n : Nat) : Nat → Nat × Nat → Option Ans
  | 0, _ => none
  | k + 1, heat =>
    let i : Nat := n - (k + 1)
    match (List.range 6).find? (fun j => byteAt l (16 * i + 2 + j) != 0) with
    | some j => deny 0x1002 (base + 16 * i + 2 + j)
    | none =>
      let pid : Nat := leAt l (16 * i) 2
      let v : Nat := leAt l (16 * i + 8) 8
      if (paramsOf f.1).any (fun p => p.1 == pid) && s.valueOk f heat pid v then
        State.judge s f l base n k (if pid = 2 then (v, heat.2) else if pid = 3 then (heat.1, v) else heat)
      else deny 0x100A i

/-- Whether a setting of a function is structural. -/
def structural (f : Fid) (p : PendSet) : Bool := (paramsOf f.1).any (fun x => x.1 == p.pid.toNat && x.2)

/-- The settings of tenancy 0 that take effect while it runs (R525). -/
def quota0 (f : Fid) (p : PendSet) : Bool :=
  f == (1, 0) && (p.pid == 0x101 || p.pid == 0x102 || p.pid == 0x103)

/-- Accepted settings: live ones take effect in list order, structural ones wait (R375, R446, R525). -/
def State.settings (s : State) (f : Fid) (l : List PendSet) : State :=
  l.foldl (fun s p =>
    if structural f p && !quota0 f p then s.onPend f (fun q => pendPut q p) else s.applyLive f p) s

/-- Check 7.6 of SET_CONFIG: a structural setting needs a STOPPED function (R375, R525). -/
def set76 (s : State) (f : Fid) (l : List PendSet) : Option Ans :=
  if l.any (structural f) then
    match s.fst f with
    | .faulted => deny 0x2006 0
    | .stopped => none
    | _ => unless_ (f == (1, 0)) 0x2001 0
  else none

/-- SET_CONFIG (R375). -/
def execSetConfig (r : CmdRef) (s : State) : Res :=
  .next (s.onCmd r 0x51 (fun c s =>
    let f : Fid := c.fid
    let n : Nat := c.le 12 2
    let inPkt : Bool := n == 1 && c.ptr0 == 0
    let l : List Byte := if inPkt then slice c.e.bytes 16 16 else s.buffer c.ptr0 (16 * n)
    let named : List (Nat × Nat) := if inPkt then [(8, 1), (10, 4), (16, 16)] else [(8, 1), (10, 4)]
    let ps : List PendSet := settingsOf l n
    match firstOf
      [reserved71 c (namedBytes named), fn72 s c, ptrs73 c (if inPkt then 0 else 1) 0,
       unless_ (!s.noFn f) 0x1010 0, unless_ (decide (1 ≤ n) && decide (n ≤ 64)) 0x100A 12,
       (if inPkt then none else read77 c),
       unless_ (c.fn == s.mgmtFn || ps.all (fun p => p.pid != 0x201)) 0x100B 0,
       s.judge f l (if inPkt then 16 else 0) n n (s.placeCfg.heatTile, s.placeCfg.heatSq),
       unless_ (f != (2, c.t * 256)) 0x2003 0] with
    | some a => s.ends c a
    | none =>
      if s.heldFn c f then s.queue c
      else
        match set76 s f ps with
        | some a => s.ends c a
        | none => (s.settings f ps).ends c (Ans.of 0)))

/-- GET_CONFIG (R376). -/
def execGetConfig (r : CmdRef) (s : State) : Res :=
  .next (s.onCmd r 0x53 (fun c s =>
    let f : Fid := c.fid
    match firstOf [reserved71 c (namedBytes [(8, 1), (10, 2)]), fn72 s c, ptrs73 c 1 0, unless_ (!s.noFn f) 0x1010 0] with
    | some a => s.ends c a
    | none =>
      let ps : List Nat := (paramsOf f.1).map (fun p => p.1)
      let l : List Byte := ps.flatMap (fun p => leBytes 2 p ++ zeros 6 ++ leBytes 8 (s.param f p))
      (s.replies c c.ptr0 l).ends c { Ans.of 0 with res0 := ps.length, detail := if f.1 = 0 then 0 else fcode (s.fst f) }))

/-! ### START (R373, R443 to R446) -/

/-- The outcome of starting a function: the state, and the status and DETAIL of the START. -/
abbrev Started := State × Nat × Nat

/-- START of a street: its pending PWE, the standard self-test where one is due, engines that begin a loaded program
or resume, source 300 + g (R306, R373, Table 16-10). -/
def State.startStreet (s : State) (g : Nat) (k : StartFacts) : Started :=
  let x : Street := s.street g
  let pwe : Bool := match x.pend.find? (fun p => p.pid == 0x301) with | some p => p.value == 1 | none => x.pwe
  if x.testFirst && !k.ok then (s.setStreet g { x with st := .faulted, testFirst := false }, 0x8002, 0)
  else
    let s1 : State := if x.loaded then s.streetReset g else s
    let es : List CoreId := (streetEngines g).map CoreId.eng
    let s2 : State := s1.mapCores es (fun k => { k with tctl := setBit k.tctl 0 pwe })
    let y : Street := { x with st := .running, loaded := false, testFirst := false, pwe := pwe, pend := [] }
    (((s2.setStreet g y).raise (300 + g)).nextEvac, 0, 0)

/-- START of a channel's function (R402). -/
def State.startChannel (s : State) (k : Nat) : State :=
  let c : Channel := s.channel k
  let set (w : W64) (p : PendSet) : W64 :=
    if p.pid = 0x601 then setField w 32 4 p.value.toNat else if p.pid = 0x602 then setField w 36 4 p.value.toNat else w
  s.setChannel k { ({ c with cctl := c.pend.foldl set c.cctl, pend := [] } : Channel).startFn with fn := .running }

/-- START of a timer group: periods in force, counts zero (R523). -/
def State.startGroup (s : State) (q : Nat) : State :=
  let x : Square := s.square q
  let set (m : Sparse Timer) (p : PendSet) : Sparse Timer :=
    spPut m (p.pid.toNat - 0x701) { count := 0, period := p.value.truncate 32 }
  s.setSquare q { ({ x with timers := x.groupPend.foldl set x.timers } : Square).zeroCounts with group := .running, groupPend := [] }

/-- A child of a square starts with it. -/
def State.startKid (k : StartFacts) (s : State) (w : W32) : State :=
  let f : Fid := (w.toNat % 65536, w.toNat / 65536)
  if s.fst f = .stopped then
    match f.1 with
    | 3 => (s.startStreet f.2 k).1
    | 6 => s.startChannel f.2
    | _ => s.startGroup f.2
  else s

/-- A square runs, and the children that are to start with it do (R373, R445). -/
def State.squareUp (s : State) (q : Nat) (k : StartFacts) : State :=
  let x : Square := s.square q
  let s1 : State := s.setSquare q { x with st := .running, restart := [] }
  x.restart.foldl (State.startKid k) s1

/-- The engine clock that a START of a square is to set. -/
def Square.newClock (x : Square) : Nat :=
  match x.pend.find? (fun p => p.pid == 0x401) with
  | some p => p.value.toNat
  | none => x.eclk

/-- A memory port trained at a START: settings, detour lanes, a calibration pass (R460, R473). -/
def MemPort.trained (x : MemPort) : MemPort :=
  let rs : W16 := match x.pend.find? (fun p => p.pid == 0x501) with | some p => p.value.truncate 16 | none => x.rateSet
  let lanes : List (BitVec 7) := (List.range 40).map (BitVec.ofNat 7)
  { x with st := .running, fail := 0, ranks := x.fitted, rateSet := rs, rate := if x.spdRate.toNat ≤ rs.toNat then x.spdRate else rs, pend := []
           cal := #v[{ Calib.reset with tlast := (x.cal.get 0).tlast, todo := lanes },
                     { Calib.reset with tlast := (x.cal.get 1).tlast, todo := lanes.map (fun l => l + 64) }] }

/-- The PID that DETAIL of a failed START holds: that of the setting which could not be applied (R443). -/
def firstPid : List PendSet → Nat
  | [] => 0
  | p :: _ => p.pid.toNat

/-- START of a memory port (R473). Modules that the port refuses are refused again (R458, R459). -/
def State.startPort (s : State) (p : Nat) (k : StartFacts) : Started :=
  let x : MemPort := s.memPort p
  if k.ok ∧ x.bad = 0 then (s.setMemPort p x.trained, 0, 0)
  else
    ((s.setMemPort p { x with st := .faulted, fail := if x.bad = 0 then 4 else x.bad }).report (plainRec sevUnit 0x50 4 p),
      0x8001, firstPid x.pend)

/-- Whether a START of a host link trains it again (R481). -/
def HostPort.retrains (x : HostPort) : Bool :=
  x.tested || x.nwidth == 0 || x.pend.any (fun p =>
    (p.pid == 0x801 && p.value != x.widthSet) || (p.pid == 0x802 && p.value != x.maxrate))

/-- A setting of a host link takes effect. -/
def HostPort.apply (x : HostPort) (p : PendSet) : HostPort :=
  if p.pid = 0x801 then { x with widthSet := p.value } else if p.pid = 0x802 then { x with maxrate := p.value } else x

/-- A tenancy runs: its settings, and the queue pairs that are to start with it (R370, R445). -/
def Tenancy.startUp (x : Tenancy) : Tenancy :=
  let up (p : Nat × QPair) : Nat × QPair := if p.2.restart then (p.1, p.2.start) else p
  { x.applyPend with st := .running, restart := false, qps := x.qps.map up }

/-- START of a host link (R481, R486), with the tenancies that are to start with it (R445). -/
def State.startLink (s : State) (h : Nat) (k : StartFacts) : Started :=
  let x : HostPort := s.hostPort h
  -- a link that is trained again goes down first, and that is a host port reset (R481, R486)
  let s0 : State := if x.retrains then s.portReset h else s
  let z : HostPort := s0.hostPort h
  let y : HostPort := { z.pend.foldl HostPort.apply z with pend := [] }
  if x.retrains && !k.ok then
    ((s0.setHostPort h { y with st := .faulted, fail := 1 }).report (plainRec sevUnit 0x50 5 h), 0x8001, firstPid x.pend)
  else
    let s1 : State := s0.setHostPort h { y with st := .running, fail := 0, tested := false }
    let due (t : Tenancy) : Bool :=
      t.restart && (match t.bound with | some f => decide (f.port.val = h) | none => false) && t.st == .stopped
    -- a tenancy whose new retention ring finds no room stays STOPPED (R370)
    let up (p : Nat × Tenancy) : Nat × Tenancy :=
      if !due p.2 then p
      else if !k.memOk && p.2.needsRing then (p.1, { p.2 with restart := false })
      else (p.1, p.2.startUp)
    ({ s1 with tenancies := s1.tenancies.map up }, 0, 0)

/-- START of a tenancy: its settings, and the queue pairs that are to start with it (R370, R445). -/
def State.startTenancy (s : State) (t : Nat) (k : StartFacts) : Started :=
  let x : Tenancy := s.tenancy t
  if !k.memOk && x.needsRing then (s, 0x3007, 0) else (s.setTenancy t x.startUp, 0, 0)

/-- START of a STOPPED function whose parent runs. -/
def State.startFunction (s : State) (f : Fid) (k : StartFacts) : Started :=
  match f.1 with
  | 1 => s.startTenancy f.2 k
  | 2 =>
    match s.qp? (f.2 / 256) (f.2 % 256) with
    | some x => (s.setQp (f.2 / 256) (f.2 % 256) x.start, 0, 0)
    | none => (s, 0, 0)
  | 3 => s.startStreet f.2 k
  | 5 => s.startPort f.2 k
  | 6 => (s.startChannel f.2, 0, 0)
  | 7 => (s.startGroup f.2, 0, 0)
  | 8 => s.startLink f.2 k
  | _ => (s, 0, 0)

/-- START of a square: a pending ECLK that differs closes its Crossings until the PLL locks, once they are empty (R31;
the clock in force meanwhile: DESIGN CHOICE, log 108); after a clean-up bring-up is repeated (Table 16-10). -/
def State.startSquare (s : State) (c : Cmd) (q : Nat) (k : StartFacts) : State :=
  let x : Square := s.square q
  if x.newClock ≠ x.eclk ∧ !s.squareQuiet q then s.progress c (.wait 1)
  else if x.newClock ≠ x.eclk then
    (s.setSquare q { x with eclk := x.newClock, relock := some x.eclk, pend := [] }).progress c (.wait 0)
  else if x.bringUp && !k.ok then
    (s.setSquare q { x with st := .faulted, pend := [] }).ends c (Ans.of 0x8001)
  else
    let s1 : State := if x.bringUp then s.bringUp q else s
    ((s1.setSquare q { s1.square q with pend := [], bringUp := false }).squareUp q k).ends c (Ans.of 0)

/-- START of a square goes on once its PLL has locked, or failed to (R31, R443). -/
def State.squareLocked (s : State) (c : Cmd) (q : Nat) (k : StartFacts) : State :=
  let x : Square := s.square q
  if x.relock.isSome then s
  else if x.st = .faulted then s.ends c { Ans.of 0x8001 with detail := 0x401 }
  else s.startSquare c q k

/-- A child is marked to start with its parent (R445). -/
def State.markRestart (s : State) (f : Fid) : State :=
  match f.1 with
  | 1 => s.setTenancy f.2 { s.tenancy f.2 with restart := true }
  | 2 =>
    match s.qp? (f.2 / 256) (f.2 % 256) with
    | some x => s.setQp (f.2 / 256) (f.2 % 256) { x with restart := true }
    | none => s
  | _ =>
    match s.parent f with
    | some (_, q) =>
      let x : Square := s.square q
      s.setSquare q { x with restart := if x.restart.contains (fidWord f) then x.restart else x.restart ++ [fidWord f] }
    | none => s

/-- A START that starts its function with its parent. -/
def State.withParent (s : State) (c : Cmd) : State :=
  (s.markRestart c.fid).ends c { Ans.of 1 with res0 := fcode (s.fst c.fid) }

/-- The state of a function's parent; a function without one acts as if it ran. -/
def State.parentSt (s : State) (f : Fid) : FState :=
  match s.parent f with
  | some p => s.fst p
  | none => .running

/-- An absent memory port names nothing to START (R458). -/
def State.absent (s : State) (f : Fid) : Bool := f.1 == 5 && (s.memPort f.2).dimms == 0 && (s.memPort f.2).fail == 0

/-- A START of a STOPPED function: its parent's state and its effect. -/
def State.startStopped (s : State) (c : Cmd) (k : StartFacts) : State :=
  let f : Fid := c.fid
  match s.parentSt f with
  | .faulted => s.ends c (Ans.of 0x2006)
  | .running =>
    if f.1 = 4 then s.startSquare c f.2 k
    else
      let r : Started := s.startFunction f k
      r.1.ends c { Ans.of r.2.1 with detail := r.2.2 }
  | _ => s.withParent c

/-- START once its checks up to 7.5 have passed. -/
def State.start76 (s : State) (c : Cmd) (k : StartFacts) : State :=
  let f : Fid := c.fid
  if s.heldFn c f then s.queue c
  else if f.1 = 1 ∧ f.2 ≠ 0 ∧ s.fuses.lc = 3 then s.ends c (Ans.of 0x2004)
  else if (f.1 = 1 ∨ f.1 = 2 ∨ f.1 = 3) ∧ s.memStopped then s.ends c (Ans.of 0x2007)
  else
    match s.fst f with
    | .running => s.ends c { Ans.of 1 with res0 := 1 }
    | .draining => if s.parentSt f = .draining then s.withParent c else s.ends c (Ans.of 0x2002)
    | .faulted => s.ends c (Ans.of 0x2001)
    | .stopped => s.startStopped c k

/-- START (R373, R445, Table 13-11). -/
def execStartFn (r : CmdRef) (k : StartFacts) (s : State) : Res :=
  .next (s.onCmd r 0x52 (fun c s =>
    match c.e.prog with
    | .wait _ => s.squareLocked c c.fid.2 k
    | _ =>
      match firstOf [reserved71 c (namedBytes [(8, 1), (10, 2)]), fn72 s c, ptrs73 c 0 0, fn74 s c,
          unless_ (!s.absent c.fid) 0x1010 0] with
      | some a => s.ends c a
      | none => s.start76 c k))

/-! ### Square clocks (R31, R444) -/

/-- SQUARE_PLL_LOCK (R31): the Crossings accept entries again. -/
def execSquarePllLock (sq : Fin 4) (s : State) : Res :=
  let x : Square := s.square sq.val
  match x.relock with
  | some _ => .next (s.setSquare sq.val { x with relock := none })
  | none => .next s

/-- PLL_LOCK_TIMEOUT (R31): the earlier frequency returns and the square goes FAULTED; if it cannot be locked either,
the error is device fatal. -/
def execPllLockTimeout (sq : Fin 4) (oldLocks : Bool) (s : State) : Res :=
  let x : Square := s.square sq.val
  match x.relock with
  | some old =>
    let s1 : State := s.setSquare sq.val { x with relock := none, eclk := old, st := .faulted }
    if oldLocks then .next s1 else .next s1.fatalOpen
  | none => .next s

/-- PLL_LOCK_LOSS (R444): a RUNNING or DRAINING square goes FAULTED. -/
def execPllLockLoss (sq : Fin 4) (s : State) : Res :=
  let x : Square := s.square sq.val
  if x.st = .running ∨ x.st = .draining then .next (s.setSquare sq.val { x with st := .faulted }) else .next s

end Sys2Proof.Machine
end

