-- ==== Sys2Proof/Machine/Records.lean ====
section
/-! DEFINITION. Record commands, posting batches, queries and the journal (13 R366 to R371; 12 R345 to R350). -/

namespace Sys2Proof.Machine

/-- A record command that needs attached memory while a port of the interleave is STOPPED (R373). -/
def mem76 (s : State) (c : Cmd) : Option Ans :=
  unless_ (!(c.fn == s.mgmtFn && c.q == 0 && s.memStopped)) 0x2007 0

/-- A command that RETIRED refuses (Table 16-12). -/
def retired76 (s : State) : Option Ans := unless_ (s.fuses.lc != 3) 0x2004 0

/-- The record that a command names in bytes 8 to 15, within the requester's tenancy (R325). -/
def Cmd.key (c : Cmd) : RecKey := ⟨BitVec.ofNat 4 c.t, BitVec.ofNat 64 (c.le 8 8)⟩

/-- The entry of the record that a command names, when it is defined and not being removed. -/
def State.target (s : State) (c : Cmd) : Option DirEnt :=
  match s.dirFind c.key with
  | some (_, d) => if d.st = .removing ∨ s.removing c.key then none else some d
  | none => none

/-- Check 7.5 of a command on a record that exists. -/
def rec75 (s : State) (c : Cmd) : Option Ans := unless_ (s.target c).isSome 0x100C 0

/-! ### Hints (R318, R319) -/

/-- The refusals of R319 for a record of `len` bytes: `own` is its entry, where it has one. -/
def hints78 (s : State) (t : Nat) (own : Option DirEnt) (len : Nat) (pin cold : Bool) (group : W16) : Option Ans :=
  let mine : Nat := match own with | some d => if d.pin then d.len else 0 | none => 0
  let others : List DirEnt := (s.group (BitVec.ofNat 4 t) group).filter (fun d =>
    match own with | some o => d.key != o.key | none => true)
  let size : Nat := (others.map DirEnt.len).foldl (· + ·) 0
  firstOf
    [unless_ (!(pin && cold)) 0x100E 0,
     unless_ (!pin || decide (s.pinned t - mine + len ≤ (s.tenancy t).pinQuota)) 0x3003 0,
     unless_ (group == 0 || (decide (others.length + 1 ≤ 256) && decide (size + len ≤ 65536))) 0x3004 0]

/-! ### Definition, hints and flags (R366) -/

/-- The engines that may become the home of a record of a group: that of its members, else all. -/
def State.groupHomes (s : State) (t : Nat) (g : W16) : List (Fin 128) :=
  match (s.group (BitVec.ofNat 4 t) g).filterMap s.homeOf with
  | n :: _ => [n]
  | [] => engines

/-- A step of a record command: nothing while its directory slice cannot be reached; the lookup may meet a damaged
bucket (R31, R298, R327). -/
def State.onRecord (s : State) (c : Cmd) (f : State → State) : State :=
  if s.sliceHeld c.key then s else f (s.lookedUp c.dirBad c.key)

/-- A record is defined at a place. -/
def State.define (s : State) (c : Cmd) (i : Nat) (p : Place) : State :=
  let k : RecKey := c.key
  let len : Nat := (c.le 16 1 + 1) * 16
  let s1 : State := s.take k p
  let d : DirEnt :=
    { key := k, st := .settled, pin := bit (c.le 17 1) 0, cold := bit (c.le 17 1) 1, doubt := false, lost := false
      pinwait := bit (c.le 17 1) 0 && p.cls == 1, skey := (s1.squareKey (p.home.val / 32) k.ten).getD 0, rlen := byteAt c.e.bytes 16
      group := BitVec.ofNat 16 (c.le 18 2), heat := 0, epoch := s.heatNow, rseq := 0, home := p.home, cls := p.cls
      loc := p.loc, moveix := 0 }
  let contents : List Byte := if c.ptr0 = 0 then zeros len else s.buffer c.ptr0 len
  (s1.wrN p.loc.toNat contents).dirPut i d

/-- Whether placement may choose a place for a new record (R294, R318, R321). -/
def State.defineOk (s : State) (c : Cmd) (p : Place) : Bool :=
  let len : Nat := (c.le 16 1 + 1) * 16
  let homes : List (Fin 128) := s.groupHomes c.t (BitVec.ofNat 16 (c.le 18 2))
  s.placeOk c.key len p && s.newClassOk c.key len (bit (c.le 17 1) 0) (bit (c.le 17 1) 1) homes p.cls.toNat
    && homes.contains p.home && !s.waitingFirst c.key (p.home.val / 32) && !s.heldPa p.loc.toNat

/-- DEFINE_RECORD (R366): `p` is the place that placement chooses; one that it may not choose is no choice, and
without any the command is refused with NO_CAPACITY (R294). -/
def execDefineRecord (r : CmdRef) (p : Place) (s : State) : Res :=
  .next (s.onCmd r 0x20 (fun c s => s.onRecord c (fun s =>
    let k : RecKey := c.key
    let len : Nat := (c.le 16 1 + 1) * 16
    let pin : Bool := bit (c.le 17 1) 0
    let cold : Bool := bit (c.le 17 1) 1
    let group : W16 := BitVec.ofNat 16 (c.le 18 2)
    let named (i : Nat) : Nat := if i = 17 then 3 else namedBytes [(8, 9), (18, 6)] i
    match firstOf
      [reserved71 c named, ptrs73 c 2 0, unless_ (c.ptr0 != 0 || c.le 20 4 == 0) 0x100A 20,
       unless_ (s.dirFind k).isNone 0x100D 0, retired76 s, mem76 s c,
       (if c.ptr0 = 0 then none else read77 c),
       unless_ (c.ptr0 == 0 || c.le 20 4 == crc32c (s.buffer c.ptr0 len)) 0x4001 0,
       unless_ (decide (s.dirUsed c.t < (s.tenancy c.t).dirQuota)) 0x3002 0,
       unless_ (s.dirFree k).isSome 0x3001 0, hints78 s c.t none len pin cold group] with
    | some a => s.ends c a
    | none =>
      match s.dirFree k with
      | none => s
      | some i =>
        if s.defineOk c p then (s.define c i p).ends c (Ans.of 0)
        else if s.anyPlace k len pin cold (s.groupHomes c.t group) then s
        else s.ends c (Ans.of 0x3007))))

/-- SET_HINTS (R366). -/
def execSetHints (r : CmdRef) (s : State) : Res :=
  .next (s.onCmd r 0x22 (fun c s => s.onRecord c (fun s =>
    let pin : Bool := bit (c.le 16 1) 0
    let cold : Bool := bit (c.le 16 1) 1
    let group : W16 := BitVec.ofNat 16 (c.le 18 2)
    let named (i : Nat) : Nat := if i = 16 then 3 else namedBytes [(8, 8), (18, 2)] i
    match firstOf [reserved71 c named, ptrs73 c 0 0, rec75 s c, mem76 s c] with
    | some a => s.ends c a
    | none =>
      match s.target c with
      | none => s
      | some d =>
        match hints78 s c.t (some d) d.len pin cold group with
        | some a => s.ends c a
        | none =>
          (s.dirSet c.key (fun d => { d with pin := pin, cold := cold, group := group, pinwait := d.pinwait && pin })).ends
            c (Ans.of 0))))

/-- No posting of a record accepted before `o` is still to be applied. -/
def State.applied (s : State) (k : RecKey) (o : W16) : Bool :=
  (s.fwdOf k).all (fun p => !rseqBefore p.rseq o)
    && s.deliveries.all (fun d => d.key != k || match d.post with | some p => !rseqBefore p.rseq o | none => true)

/-- CLEAR_FLAGS with REPLACE, once its turn has come: the contents are written, then DOUBT and LOST are cleared. -/
def State.replace (s : State) (c : Cmd) (o : W16) : State :=
  match s.dirFind c.key with
  | none => s.ends c (Ans.of jNotDefined)
  | some (_, d) =>
    if (d.st = .settled ∨ d.st = .removing) ∧ s.applied c.key o ∧ !s.heldPa d.loc.toNat then
      let s1 : State := s.wrN d.loc.toNat (s.buffer c.ptr0 d.len)
      ((s1.dirSet c.key (fun d => { d with doubt := false, lost := false })).ends c (Ans.of 0)).flow c.key
    else s

/-- CLEAR_FLAGS (R366). -/
def execClearFlags (r : CmdRef) (s : State) : Res :=
  .next (s.onCmd r 0x23 (fun c s => s.onRecord c (fun s =>
    match c.e.prog with
    | .ordered o => s.replace c o
    | _ =>
      let rep : Bool := bit (c.le 16 1) 0
      let named (i : Nat) : Nat := if i = 16 then 1 else namedBytes [(8, 8), (20, 4)] i
      match firstOf [reserved71 c named, ptrs73 c (if rep then 1 else 0) 0, rec75 s c, mem76 s c] with
      | some a => s.ends c a
      | none =>
        match s.target c with
        | none => s
        | some d =>
          if rep then
            match firstOf [read77 c, unless_ (c.le 20 4 == crc32c (s.buffer c.ptr0 d.len)) 0x4001 0] with
            | some a => s.ends c a
            | none => (s.progress c (.ordered d.rseq)).replace c d.rseq
          else if d.lost then s.ends c (Ans.of jLost)
          else (s.dirSet c.key (fun d => { d with doubt := false })).ends c (Ans.of 0))))

/-! ### Removal (R366, Table 11-12) -/

/-- The end of a removal: the final contents are written, the entry is cleared, its place is given up. -/
def State.removed (s0 : State) (c : Cmd) (i : Nat) (d0 : DirEnt) : State :=
  -- the contents cannot be read (R323)
  let bad : Bool := c.recBad && c.ptr0 != 0
  let s : State := if bad then s0.setLost c.key else s0
  let d : DirEnt := { d0 with lost := d0.lost || bad }
  let s1 : State :=
    if c.ptr0 = 0 ∨ d.lost then s else s.replies c c.ptr0 (s.rdN d.loc.toNat d.len)
  let s2 : State := { s1 with dir := spDel s1.dir i }.release d.key d.place
  s2.ends c { Ans.of (if d.lost then jLost else 0) with res0 := d.rseq.toNat }

/-- A removal whose entry update has been made ends once every posting accepted before it has been applied, at the
record's home, and every query and replacement ordered before it has been served. -/
def State.removeGo (s : State) (c : Cmd) : State :=
  match s.dirFind c.key with
  | none => s.ends c (Ans.of jNotDefined)
  | some (i, d) =>
    if (d.st = .removing ∨ d.st = .settled) ∧ s.fwdOf c.key = [] ∧ s.deliveries.all (fun v => v.key != c.key)
        ∧ s.orders c.key = [] ∧ !s.heldPa d.loc.toNat then
      s.removed c i d
    else s

/-- The entry update of a removal, when the record is SETTLED; else the removal is held. -/
def State.removeStart (s : State) (c : Cmd) : State :=
  match s.dirFind c.key with
  | none => s.ends c (Ans.of jNotDefined)
  | some (_, d) =>
    if d.st = .settled then
      let s1 : State := s.dirSet c.key (fun d => { d with st := .removing, moveix := 0 })
      (s1.progress c .removing).removeGo c
    else s.progress c (.wait 0)

/-- REMOVE_RECORD (R366). -/
def execRemoveRecord (r : CmdRef) (s : State) : Res :=
  .next (s.onCmd r 0x21 (fun c s => s.onRecord c (fun s =>
    match c.e.prog with
    | .removing => s.removeGo c
    | .wait _ => s.removeStart c
    | _ =>
      match firstOf [reserved71 c (namedBytes [(8, 8)]), ptrs73 c 2 0, rec75 s c, mem76 s c] with
      | some a => s.ends c a
      | none => s.removeStart c)))

/-! ### Queries (R368) -/

/-- RES1 of a query: RSEQ, flags and GROUP. -/
def queryRes1 (d : DirEnt) (o : W16) : Nat :=
  o.toNat + d.pin.toNat * 2 ^ 16 + d.cold.toNat * 2 ^ 17 + d.doubt.toNat * 2 ^ 18 + d.lost.toNat * 2 ^ 19
    + d.pinwait.toNat * 2 ^ 20 + d.group.toNat * 2 ^ 32

/-- A query is served once every posting accepted before it has been applied. -/
def State.queryGo (s : State) (c : Cmd) (o : W16) : State :=
  match s.dirFind c.key with
  | none => s.ends c (Ans.of jNotDefined)
  | some (_, d) =>
    if d.lost then ((s.ends c { Ans.of jLost with res1 := queryRes1 d o })).flow c.key
    else if c.recBad && !s.heldPa d.loc.toNat && s.applied c.key o then
      -- the contents cannot be read (R323)
      ((s.setLost c.key).ends c { Ans.of jLost with res1 := queryRes1 { d with lost := true } o }).flow c.key
    else if s.applied c.key o ∧ !s.heldPa d.loc.toNat then
      let l : List Byte := s.rdN d.loc.toNat d.len
      ((s.replies c c.ptr0 l).ends c
        { status := 0, res0 := d.len, res1 := queryRes1 d o, detail := crc32c l }).flow c.key
    else s

/-- QUERY_RECORD (R368). -/
def execQueryRecord (r : CmdRef) (s : State) : Res :=
  .next (s.onCmd r 0x40 (fun c s => s.onRecord c (fun s =>
    match c.e.prog with
    | .ordered o => s.queryGo c o
    | _ =>
      match firstOf
        [reserved71 c (namedBytes [(8, 12)]), ptrs73 c 1 0,
         unless_ (decide (16 ≤ c.le 16 4) && decide (c.le 16 4 ≤ 4096)) 0x100A 16, rec75 s c, mem76 s c] with
      | some a => s.ends c a
      | none =>
        match s.target c with
        | none => s
        | some d =>
          -- check 7.6 goes before 7.8
          if d.lost then s.ends c { Ans.of jLost with res1 := queryRes1 d d.rseq }
          else if c.le 16 4 < d.len then s.ends c { Ans.of 0x3008 with res0 := d.len }
          else (s.progress c (.ordered d.rseq)).queryGo c d.rseq)))

/-! ### The retention ring (R369, R371) -/

/-- The 64 bytes of a retained entry that is written (Table 13-8). -/
def retainedBytes (r : Retained) : List Byte :=
  let b : List Byte :=
    leBytes 8 r.jseq.toNat ++ leBytes 8 r.akey.toNat ++ leBytes 2 r.rseq.toNat ++ leBytes 2 r.qp.toNat
      ++ leBytes 2 r.tag.toNat ++ zeros 2 ++ fit 32 (r.jent.getD []) ++ zeros 4
  b ++ leBytes 4 (crc32c b)

/-- The oldest JSEQ that a ring holds; with none held, the next one. -/
def Tenancy.oldest (x : Tenancy) : Nat :=
  match x.ring with
  | r :: _ => r.jseq.toNat
  | [] => x.jseq

/-- READ_JOURNAL (R371): up to the first entry that is not yet written. -/
def execReadJournal (r : CmdRef) (s : State) : Res :=
  .next (s.onCmd r 0x41 (fun c s =>
    let x : Tenancy := s.tenancy c.t
    let from_ : Nat := c.le 8 8
    let n : Nat := c.le 16 4
    match firstOf
      [reserved71 c (namedBytes [(8, 12)]), ptrs73 c 1 0, unless_ (decide (1 ≤ n) && decide (n ≤ 65536)) 0x100A 16,
       mem76 s c] with
    | some a => s.ends c a
    | none =>
      if x.jret = 0 then s.ends c { Ans.of 0 with res1 := from_ }
      else if from_ < x.oldest then s.ends c { Ans.of 0x3006 with res1 := x.oldest }
      else
        let l : List Retained :=
          ((x.ring.filter (fun e => decide (from_ ≤ e.jseq.toNat))).takeWhile (fun e => e.jent.isSome)).take n
        let s1 : State := if l = [] then s else s.replies c c.ptr0 (l.flatMap retainedBytes)
        s1.ends c { Ans.of 0 with res0 := l.length, res1 := from_ + l.length }))

/-! ### Posting batches (R345 to R349) -/

/-- A chain of a batch ends: the batch completes as soon as its postings have their answers. -/
def State.chainEnds (s : State) (c : Cmd) (read : Nat) (status : Nat) (res1 detail : Nat) (parked : Option W64) : State :=
  let s1 : State := match s.qp? c.t c.q with
    | some x => s.setQp c.t c.q { x with parked := parked }
    | none => s
  (s1.progress c (.ended read (BitVec.ofNat 16 status) (BitVec.ofNat 64 res1) (BitVec.ofNat 32 detail))).finish c.t c.q

/-- The host read number `k` that a row makes for its batch fails: the header, each posting and LINK of a segment are
one read each. -/
def Cmd.readBad (c : Cmd) (k : Nat) : Bool := c.readFails && k == c.readsOk

/-- LINK of a segment is read, once, by host read `k`, and decides what follows (R346 step 3, R347). -/
def State.link (s : State) (c : Cmd) (seg segNo read k : Nat) : State :=
  let v : Nat := leNat (s.hostRd seg 8)
  if c.readBad k then s.chainEnds c read 0x1009 seg segNo none
  else if bits v 2 4 ≠ 0 ∨ bits v 0 2 = 2 then s.chainEnds c read 0x1006 seg segNo none
  else if !bit v 0 then s.progress c (.batch (BitVec.ofNat 64 (v / 64 * 64)) (segNo + 1) 0 read none)
  else if bit v 1 then s.chainEnds c read 0 seg 0 none
  else s.chainEnds c read 2 seg 0 (some (BitVec.ofNat 64 seg))

/-- What is wrong with the header of a segment: its SSEAL, or its format (Table 12-11). -/
def headerBad (seg : Nat) (h : List Byte) : Option Nat :=
  if leAt h 60 4 ≠ crc32c (leBytes 8 seg ++ slice h 8 52) then some 0x4001
  else if leAt h 8 2 = 0 ∨ 1023 < leAt h 8 2 ∨ !allZero (slice h 10 6) ∨ leAt h 16 8 % 32 ≠ 0
      ∨ !allZero (slice h 24 36) then some 0x1006
  else none

/-- Why the reading of a segment's postings stops before its end. -/
inductive Halt where
  /-- the record's forward queue is full (R311) -/
  | full (k : RecKey)
  /-- the queue pair's share of the round is spent (R352), or the record's directory slice cannot be reached (R31) -/
  | wait
  /-- a host read fails (R347) -/
  | readFail
deriving DecidableEq, Repr

/-- A posting that its seal and its record's entry accept. -/
def State.accepts (s : State) (t : Nat) (b : List Byte) : Bool :=
  match postingBad b, s.lookup (postingKey t b) with
  | none, .ok _ => true
  | _, _ => false

/-- One posting counted in its queue pair's share of the round. -/
def State.shared (s : State) (t q : Nat) (n : Nat) : State :=
  match s.qp? t q with
  | some x => s.setQp t q { x with share := x.share + n }
  | none => s

/-- The next posting of a segment, the 64 bytes `b`: answered, or why it waits (R311, R352). -/
def State.posting (c : Cmd) (jaddr : Nat) (b : List Byte) (s : State) : Except Halt State :=
  let k : RecKey := postingKey c.t b
  match s.round c.t c.q QPair.postLeft with
  | none => .error .wait
  | some s1 =>
    if (postingBad b).isNone && s1.sliceHeld k then .error .wait
    else
      let s2 : State := if (postingBad b).isNone then s1.lookedUp c.dirBad k else s1
      match s2.overfills c.t b with
      | some k => .error (.full k)
      | none =>
        .ok ((s2.shared c.t c.q (s2.accepts c.t b).toNat).post c.t c.q c.e.seq (c.le 4 2) jaddr b)

/-- The postings of a segment from number `i` on, the first of them host read `k` of the row; the number reached, and
why it stops before the last. -/
def State.postings (c : Cmd) (seg jptr : Nat) : Nat → Nat → Nat → State → State × Nat × Option Halt
  | 0, i, _, s => (s, i, none)
  | n + 1, i, k, s =>
    if c.readBad k then (s, i, some .readFail)
    else
      match State.posting c (jptr + 32 * i) (s.hostRd (seg + 64 + 64 * i) 64) s with
      | .error h => (s, i, some h)
      | .ok s1 => State.postings c seg jptr n (i + 1) (k + 1) s1

/-- The queue pair of a command is held back, or goes on. -/
def State.holdQp (s : State) (c : Cmd) (k : Option RecKey) : State :=
  match s.qp? c.t c.q with
  | some x => s.setQp c.t c.q { x with held := k }
  | none => s

/-- The postings of a segment whose header has been read: `hdr` is COUNT and JPTR, `k` the host reads made by this row
so far. -/
def State.segmentGo (s : State) (c : Cmd) (seg segNo i read k : Nat) (hdr : Nat × Nat) : State :=
  let (s1, j, halt) := State.postings c seg hdr.2 (hdr.1 - i) i k s
  let n : Nat := read + (j - i)
  let s2 : State := s1.holdQp c (match halt with | some (.full r) => some r | _ => none)
  match halt with
  | none => s2.link c seg segNo n (k + (j - i))
  | some .readFail => s2.chainEnds c n 0x1009 seg segNo none
  | some _ => s2.progress c (.batch (BitVec.ofNat 64 seg) segNo j n (some hdr))

/-- One segment of a chain (R346, R347): its header is read once. -/
def State.segment (s : State) (c : Cmd) (seg segNo i read : Nat) (hdr : Option (Nat × Nat)) : State :=
  match hdr with
  | some h => s.segmentGo c seg segNo i read 0 h
  | none =>
    if c.readBad 0 then s.chainEnds c read 0x1009 seg segNo none
    else
      let h : List Byte := s.hostRd seg 64
      match headerBad seg h with
      | some st => (if st = 0x4001 then s.sealFailed c.t else s).chainEnds c read st seg segNo none
      | none => s.segmentGo c seg segNo i read 1 (leAt h 8 2, leAt h 16 8)

/-- Every earlier batch of the queue pair has been read to its end (R315, R316). -/
def State.batchTurn (s : State) (c : Cmd) : Bool :=
  match s.qp? c.t c.q with
  | none => false
  | some x => x.fetched.all (fun e => !e.isBatch || !decide (e.seq < c.e.seq) ||
      match e.prog with | .ended _ _ _ _ => true | _ => false)

/-- A batch that is refused: its answer keeps the order of batches. -/
def State.refuseBatch (s : State) (c : Cmd) (a : Ans) : State :=
  (s.progress c (.ended 0 (BitVec.ofNat 16 a.status) 0 (BitVec.ofNat 32 a.detail))).finish c.t c.q

/-- A batch starts: its first segment, or the LINK of the segment at which the last chain parked (R348). -/
def State.batchStart (s : State) (c : Cmd) : State :=
  let resume : Bool := bit (c.le 8 1) 0
  let parked : Option W64 := (s.qp? c.t c.q).bind (fun x => x.parked)
  match firstOf
    [reserved71 c (fun i => if i = 8 then 1 else 0), ptrs73 c 1 0, retired76 s, mem76 s c,
     unless_ (!resume || parked == some (BitVec.ofNat 64 c.ptr0)) 0x1007 0] with
  | some a => s.refuseBatch c a
  | none => if resume then s.link c c.ptr0 0 0 0 else s.segment c c.ptr0 0 0 0 none

/-- POST_BATCH (R346): the batch starts once its turn has come, or reads on. `hw` is what the host has made visible
before. -/
def execPostBatch (r : CmdRef) (hw : List HostStore) (s : State) : Res :=
  .next ((s.hostStores hw).onCmd r 0x30 (fun c s =>
    match c.e.prog with
    | .batch seg segNo i read hdr => s.segment c seg.toNat segNo i read hdr
    | .none => if s.batchTurn c then s.batchStart c else s
    | _ => s))

end Sys2Proof.Machine
end

