-- ==== Sys2Proof/Machine/Catalogue.lean ====
section
/-! DEFINITION. The other Gloes commands (13): identification, tenancies and queue pairs, program, Arcade and extension
loading, tests, the log, the life cycle. -/

namespace Sys2Proof.Machine

/-! ### Identification (R361) -/

/-- The ordering code in ASCII, padded with spaces (Table 13-4). -/
def ordCode (t20 : Bool) : List Byte :=
  [0x4C, 0x58, 0x37, 0x2D, 0x31, 0x32, 0x38, 0x2D, 0x54] ++ (if t20 then [0x32, 0x30] else [0x31, 0x36])
    ++ List.replicate 5 0x20

/-- An engine is in service (R319). -/
def State.inService (s : State) (n : Fin 128) : Bool :=
  !(s.core (.eng n)).withdrawn && (s.street (n.val / 8)).st != .faulted

/-- ENGMAP: bit n is 1 when engine n is in service. -/
def State.engMap (s : State) : Nat :=
  engines.foldl (fun a n => a + if s.inService n then 2 ^ n.val else 0) 0

/-- The identification structure (Table 13-4). -/
def State.identity (s : State) (c : Cmd) : List Byte :=
  let x : Tenancy := s.tenancy c.t
  let mf : Bool := c.fn == s.mgmtFn
  let dev (n v : Nat) : List Byte := leBytes n (if mf then v else 0)
  fit 256 (ordCode s.part.t20 ++ leBytes 1 (if s.part.t20 then 0x20 else 0x16) ++ [s.part.step]
    ++ leBytes 1 s.fuses.lc.toNat ++ dev 1 s.kerb.tampstat.toNat ++ beBytes 4 s.boot.fwver.toNat
    ++ leBytes 4 s.arcgen.toNat ++ leBytes 1 c.t ++ leBytes 1 x.devno.toNat ++ leBytes 1 mf.toNat ++ zeros 1
    ++ dev 8 s.installed ++ dev 16 s.engMap ++ leBytes 2 x.qpQuota ++ leBytes 2 x.qps.length
    ++ leBytes 4 x.dirQuota ++ leBytes 4 (s.dirUsed c.t) ++ leBytes 8 x.pinQuota
    ++ (List.range 4).flatMap (fun q => dev 2 (s.square q).eclk) ++ leBytes 4 x.jret ++ leBytes 8 s.part.serial.toNat)

/-- IDENTIFY (R361). -/
def execIdentify (r : CmdRef) (s : State) : Res :=
  .next (s.onCmd r 0x01 (fun c s =>
    match firstOf [reserved71 c (fun _ => 0), ptrs73 c 1 0] with
    | some a => s.ends c a
    | none =>
      (s.replies c c.ptr0 (s.identity c)).ends c { status := 0, res0 := 256, res1 := s.part.serial.toNat, detail := 0 }))

/-! ### Tenancies and queue pairs (R362) -/

/-- A tenancy as TENANCY_BIND leaves it: STOPPED, with queue pair 0 and the default quotas; its retention stays. -/
def Tenancy.bind (x : Tenancy) (f : FnId) : Tenancy :=
  { Tenancy.reset with bound := some f, jret := x.jret, jseq := x.jseq, ring := x.ring, qps := [(0, QPair.reset)]
                       ghosts := x.ghosts }

/-- Queue pairs in the device. -/
def State.qpTotal (s : State) : Nat := (s.tenancies.map (fun t => t.2.qps.length)).foldl (· + ·) 0

/-- TENANCY_BIND (R362): its queue pair 0 counts among the device's 256 (R329). -/
def execTenancyBind (r : CmdRef) (s : State) : Res :=
  .next (s.onCmd r 0x02 (fun c s =>
    let t : Nat := c.le 8 1
    let f : FnId := ⟨Fin.ofNat 2 (c.le 9 1), Fin.ofNat 16 (c.le 10 1)⟩
    match firstOf
      [reserved71 c (namedBytes [(8, 3)]), issuer72 s c, ptrs73 c 0 0, unless_ (decide (t ≤ 15)) 0x100A 8,
       unless_ (decide (c.le 9 1 ≤ 1)) 0x100A 9, unless_ (decide (c.le 10 1 ≤ 15)) 0x100A 10,
       unless_ ((s.tenancy t).bound.isNone && (s.tenOf f).isNone) 0x2003 0] with
    | some a => s.ends c a
    | none =>
      if s.heldFn c (1, t) then s.queue c
      else
        match firstOf [unless_ (s.fuses.lc != 3 || t == 0) 0x2004 0, unless_ (decide (s.qpTotal < 256)) 0x3005 0] with
        | some a => s.ends c a
        | none => (s.setTenancy t ((s.tenancy t).bind f)).ends c (Ans.of 0)))

/-- A tenancy as TENANCY_UNBIND leaves it: its retention stays, or is cleared. -/
def Tenancy.unbind (x : Tenancy) (purge : Bool) : Tenancy :=
  if purge then { Tenancy.reset with ghosts := x.ghosts }
  else { Tenancy.reset with jret := x.jret, jseq := x.jseq, ring := x.ring, ghosts := x.ghosts }

/-- A record is removed from the directory and its place given up. -/
def State.dropRec (s : State) (k : RecKey) : State :=
  match s.dirFind k with
  | some (i, d) => { s with dir := spDel s.dir i }.release k d.place
  | none => s

/-- A purge: every SETTLED record of the tenancy goes now, one that moves when it is next SETTLED; the tenancy is
unbound once none is left. -/
def State.purge (s : State) (c : Cmd) (t : Nat) : State :=
  let gone : List RecKey := (s.dir.filter (fun p => decide (p.2.key.ten.toNat = t)
    && (p.2.st == .settled || p.2.st == .removing))).map (fun p => p.2.key)
  let s1 : State := gone.foldl State.dropRec s
  if s1.dirUsed t = 0 then (s1.setTenancy t ((s1.tenancy t).unbind true)).ends c (Ans.of 0)
  else s1.progress c (.wait 0)

/-- TENANCY_UNBIND (R362). -/
def execTenancyUnbind (r : CmdRef) (s : State) : Res :=
  .next (s.onCmd r 0x03 (fun c s =>
    let t : Nat := c.le 8 1
    match c.e.prog with
    | .wait _ => s.purge c t
    | _ =>
      match firstOf
        [reserved71 c (fun i => if i = 8 then 255 else if i = 9 then 1 else 0), issuer72 s c, ptrs73 c 0 0,
         unless_ (decide (t ≤ 15)) 0x100A 8, unless_ (s.tenancy t).bound.isSome 0x1010 0, unless_ (t != c.t) 0x2003 0] with
      | some a => s.ends c a
      | none =>
        if s.heldFn c (1, t) then s.queue c
        else if (s.tenancy t).st ≠ .stopped then s.ends c (Ans.of 0x2001)
        else if bit (c.le 9 1) 0 then s.purge c t
        else (s.setTenancy t ((s.tenancy t).unbind false)).ends c (Ans.of 0)))

/-- QP_CREATE (R362). -/
def execQpCreate (r : CmdRef) (s : State) : Res :=
  .next (s.onCmd r 0x04 (fun c s =>
    let q : Nat := c.le 8 1
    let x : Tenancy := s.tenancy c.t
    match firstOf
      [reserved71 c (namedBytes [(8, 3), (12, 2)]), ptrs73 c 1 1 4096, unless_ (q != 0) 0x100A 8,
       unless_ (decide (c.le 9 1 ≤ 12)) 0x100A 9, unless_ (decide (c.le 10 1 ≤ 12)) 0x100A 10,
       unless_ (decide (c.le 12 2 < x.vecCount)) 0x100A 12, unless_ (s.qp? c.t q).isNone 0x2003 0,
       unless_ (decide (x.qps.length < x.qpQuota) && decide (s.qpTotal < 256)) 0x3005 0] with
    | some a => s.ends c a
    | none =>
      let p : QPair :=
        { QPair.reset with nextSeq := (x.ghostsOf q).foldl (fun n e => max n (e.seq + 1)) 0
                           qcfg := BitVec.ofNat 32 (c.le 9 1 + c.le 10 1 * 16 + c.le 12 2 * 256)
                           sqbase := BitVec.ofNat 64 c.ptr0, cqbase := BitVec.ofNat 64 c.ptr1 }
      (s.setQp c.t q p).ends c (Ans.of 0)))

/-- QP_DELETE (R362). -/
def execQpDelete (r : CmdRef) (s : State) : Res :=
  .next (s.onCmd r 0x05 (fun c s =>
    let q : Nat := c.le 8 1
    let x : Tenancy := s.tenancy c.t
    match firstOf
      [reserved71 c (namedBytes [(8, 1)]), ptrs73 c 0 0, unless_ (q != 0) 0x100A 8, unless_ (s.qp? c.t q).isSome 0x1010 0] with
    | some a => s.ends c a
    | none =>
      if s.heldFn c (2, c.t * 256 + q) then s.queue c
      else if (s.fst (2, c.t * 256 + q)) ≠ .stopped then s.ends c (Ans.of 0x2001)
      else (s.setTenancy c.t { x with qps := spDel x.qps q }).ends c (Ans.of 0)))

/-! ### Programs, Arcade images, extensions (R363 to R365, R254, R442) -/

/-- An engine's tile is loaded with a program: the image from offset 0, zeros in the rest of regions 0 to 63, keys 0
there; PWE, an empty Letterbox and return ring. -/
def State.loadEngine (img : List Byte) (pwe : Bool) (s : State) (n : Fin 128) : State :=
  let k : Core := s.core (.eng n)
  let s1 : State := k.sbuf.foldl (fun s e => s.drainEnt n.val e) s
  let s2 : State :=
    { s1 with mem := spClear s1.mem (tilePa n.val 0) 0x40000, tileKeys := spClear s1.tileKeys (n.val * 128) 64 }
  let k1 : Core := { k with tctl := setBit k.tctl 0 pwe, sbuf := [], lbox := Letterbox.reset, retIx := 0 }
  ((s2.wrN (tilePa n.val 0) img).setCore (.eng n) k1).clearRing n

/-- A street is loaded with a program. -/
def State.loadStreet (img : List Byte) (pwe : Bool) (s : State) (g : Nat) : State :=
  let s1 : State := (streetEngines g).foldl (State.loadEngine img pwe) s
  s1.setStreet g { s1.street g with loaded := true, pwe := pwe }

/-- LOAD_PROGRAM (R363). -/
def execLoadProgram (r : CmdRef) (s : State) : Res :=
  .next (s.onCmd r 0x10 (fun c s =>
    let gs : List Nat := (List.range 16).filter (fun g => bit (c.le 8 2) g)
    let len : Nat := c.le 12 4
    let img : List Byte := s.buffer c.ptr0 len
    match firstOf
      [reserved71 c (fun i => if i = 10 then 1 else namedBytes [(8, 2), (12, 8)] i), issuer72 s c, ptrs73 c 1 0,
       unless_ (c.le 8 2 != 0) 0x100A 8,
       unless_ (decide (16 ≤ len) && decide (len ≤ 262144) && len % 16 == 0) 0x100A 12] with
    | some a => s.ends c a
    | none =>
      if gs.any (fun g => s.heldFn c (3, g)) then s.queue c
      else
        match firstOf
          [retired76 s, unless_ (gs.all (fun g => (s.street g).st != .faulted)) 0x2006 0,
           unless_ (gs.all (fun g => (s.street g).st == .stopped)) 0x2001 0, read77 c,
           unless_ (c.le 16 4 == crc32c img) 0x4001 0] with
        | some a => s.ends c a
        | none =>
          (gs.foldl (State.loadStreet img (bit (c.le 10 1) 0)) s).ends c { Ans.of 0 with res0 := gs.length }))

/-- The words of a little-endian buffer. -/
def wordsOf (n w : Nat) (l : List Byte) : List Nat := (List.range n).map (fun i => leAt l (w * i) w)

/-- STAGE_ARCADE (R364, R253). -/
def execStageArcade (r : CmdRef) (s : State) : Res :=
  .next (s.onCmd r 0x11 (fun c s =>
    let n : Nat := c.le 8 2
    let b0 : List Byte := s.buffer c.ptr0 (4 * n)
    let b1 : List Byte := s.buffer c.ptr1 128
    match firstOf
      [reserved71 c (namedBytes [(8, 2), (12, 4)]), issuer72 s c, ptrs73 c 1 1,
       unless_ (decide (1 ≤ n) && decide (n ≤ 1024)) 0x100A 8, read77 c, unless_ (c.le 12 4 == crc32c (b0 ++ b1)) 0x4001 0] with
    | some a => s.ends c a
    | none =>
      let img : List W32 := (wordsOf n 4 b0).map (BitVec.ofNat 32)
      let es : List W64 := (wordsOf 16 8 b1).map (BitVec.ofNat 64)
      match loaderFails img es with
      | some (reason, ent, word) => s.ends c { Ans.of 0x100F with detail := reason + ent * 256 + word * 65536 }
      | none => { s with staged := some (stagedOf img es) }.ends c (Ans.of 0)))

/-- The control store after an installation: the staged words stand in the Arcade RAM, whose words above them stay as
they are, and the entries replace those of the earlier image (R254). -/
def Arcade.install (old new : Arcade) : Arcade :=
  { words := new.words.foldl (fun m w => spPut m w.1 w.2) old.words, entries := new.entries }

/-- INSTALL_ARCADE (R254, R364). -/
def execInstallArcade (r : CmdRef) (s : State) : Res :=
  .next (s.onCmd r 0x12 (fun c s =>
    match firstOf [reserved71 c (fun _ => 0), issuer72 s c, ptrs73 c 0 0] with
    | some a => s.ends c a
    | none =>
      if (List.range 16).any (fun g => s.heldFn c (3, g)) then s.queue c
      else
        match s.staged with
        | none => s.ends c (Ans.of 0x2005)
        | some a =>
          if (List.range 16).all (fun g => (s.street g).st == .stopped) then
            { s with arcade := s.arcade.install a, arcgen := s.arcgen + 1 }.ends c { Ans.of 0 with res0 := (s.arcgen + 1).toNat }
          else s.ends c (Ans.of 0x2001)))

/-- Whether the header of an extension package has its form (Table 16-8, R442). -/
def extForm (l : List Byte) (len : Nat) : Bool :=
  slice l 0 4 == [0x4C, 0x58, 0x37, 0x45] && leAt l 12 1 < 4 && allZero (slice l 13 3) && leAt l 16 4 ≤ 1048064
    && allZero (slice l 20 4) && allZero (slice l 72 344) && len == 512 + leAt l 16 4

/-- The extension that a package holds. -/
def extOf (l : List Byte) : Extension :=
  { version := BitVec.ofNat 32 (leAt l 4 4), opmap := BitVec.ofNat 32 (leAt l 8 4), caps := byteAt l 12
    codeLen := BitVec.ofNat 32 (leAt l 16 4) }

/-- The bytes that the extension store holds (Table 16-5). -/
def extStored (l : List Extension) : Nat := (l.map (fun x => 512 + x.codeLen.toNat)).foldl (· + ·) 0

/-- The extensions after a package has been accepted, or the refusal (R365, R442). -/
def extAccept (l : List Extension) (x : Extension) : Except Nat (List Extension) :=
  let same : Option Extension := l.find? (fun y => y.opmap == x.opmap)
  let rest : List Extension := l.filter (fun y => y.opmap != x.opmap)
  let fits (m : List Extension) : Except Nat (List Extension) := if extStored m ≤ 0x800000 then .ok m else .error 0x3007
  match same with
  | some y =>
    if x.codeLen = 0 then .ok rest
    else if y.version.toNat < x.version.toNat then fits (rest ++ [x])
    else if x.opmap = 0 then .ok l
    else .error 0x2003
  | none => if l.any (fun y => y.opmap &&& x.opmap != 0) then .error 0x2003 else fits (l ++ [x])

/-- LOAD_EXTENSION (R365, R442): `chashOk` and `sigOk` say whether CHASH checks and SIG verifies. -/
def execLoadExtension (r : CmdRef) (chashOk : Bool) (sigOk : Bool) (s : State) : Res :=
  .next (s.onCmd r 0x13 (fun c s =>
    let len : Nat := c.le 12 4
    let l : List Byte := s.buffer c.ptr0 512
    match firstOf
      [reserved71 c (namedBytes [(12, 4)]), issuer72 s c, ptrs73 c 1 0,
       unless_ (decide (64 ≤ len) && decide (len ≤ 1048576)) 0x100A 12, unless_ (s.fuses.lc == 1 || s.fuses.lc == 2) 0x2004 0,
       read77 c, unless_ (extForm l len && chashOk && sigOk) 0x4005 0] with
    | some a => s.ends c a
    | none =>
      match extAccept s.extensions (extOf l) with
      | .error st => s.ends c (Ans.of st)
      | .ok m => { s with extensions := m }.ends c (Ans.of 0)))

/-- EXTENSION_OPCODE (R355): the extension that claims the opcode answers, with a code of Table 13-10 (R381); where the
extension has been removed since the fetch, the firmware answers UNKNOWN_OPCODE. -/
def execExtensionOpcode (r : CmdRef) (ans : ExtAnswer) (s : State) : Res :=
  .next (s.onCmdIf r (fun o => decide (0xC0 ≤ o) && decide (o < 0xE0)) (fun c s =>
    if (s.claims c.e.opcode).isNone then s.ends c (Ans.of 0x1001)
    else if statusCodes.contains ans.status.toNat then
      s.ends c { status := ans.status.toNat, res0 := ans.res0.toNat, res1 := ans.res1.toNat, detail := ans.detail.toNat }
    else s))

/-! ### Tests (R378, R474, R475, R491) -/

/-- A failing memory port goes FAULTED, with its record (R415, R469). -/
def State.portFails (s : State) (p : Nat) (fail : Byte) : State :=
  let x : MemPort := s.memPort p
  let sev : BitVec 2 := if x.st = .running then sevDevice else sevUnit
  let s1 : State := s.setMemPort p { x with st := .faulted, fail := fail, cal := x.cal.map Calib.abandon }
  if fail = 6 then s1 else s1.report (plainRec sev 0x50 4 p)

/-- The temperature recorded at the end of a pass: that of the module, or of either of two (Table 17-8). -/
def MemPort.tempPick (x : MemPort) (second : Bool) : Byte := if x.dimms = 2 ∧ second then x.temp1 else x.temp0

/-- A calibration pass of both subchannels of a port. -/
def State.calibrated (live : Bool) (s : State) (p : Nat) : State :=
  let x : MemPort := s.memPort p
  let t : Byte := x.tempPick (Config.openChoice s.free)
  { s with free := s.free + 1 }.setMemPort p
    { x with cal := #v[(x.cal.get 0).passed 0 t live, (x.cal.get 1).passed 1 t live] }

/-- The result of a test. -/
def testAns (k : TestFacts) : Ans :=
  if k.ok then { status := 0, res0 := k.units.toNat, res1 := k.micros.toNat, detail := 0 }
  else { status := 0x8002, res0 := k.units.toNat, res1 := k.micros.toNat, detail := k.detail.toNat }

/-- A street has been tested: one that served serves again (R320), a STOPPED one stays STOPPED, a failing one goes
FAULTED. -/
def State.streetTested (s : State) (g : Nat) (k : TestFacts) : State :=
  let x : Street := s.street g
  if !k.ok then (s.setStreet g { x with st := .faulted, evac := false }).nextEvac
  else if x.st = .draining then ((s.setStreet g { x with st := .running, evac := false }).raise (300 + g)).nextEvac
  else s

/-- Whether the test of a street is due: it is STOPPED, or its evacuation for a test has ended. -/
def State.testDue (s : State) (g : Nat) : Bool :=
  (s.street g).st == .stopped || ((s.street g).st == .draining && (s.street g).evac && s.streetEmpty g)

/-- SELFTEST of a street goes on. -/
def State.testStreet (s : State) (c : Cmd) (g : Nat) (k : TestFacts) : State :=
  if s.testDue g then (s.streetTested g k).ends c (testAns k)
  else (s.evacuate g).progress c (.wait 0)

/-- SELFTEST of a square goes on with its street `i`: each street in turn. -/
def State.testSquare (s : State) (c : Cmd) (q i : Nat) (k : TestFacts) : State :=
  let g : Nat := 4 * q + i
  let skip : Bool := (s.street g).st == .faulted
  if skip || s.testDue g then
    let s1 : State := if skip then s else s.streetTested g k
    if (!k.ok && !skip) || 3 ≤ i then s1.ends c (testAns k) else s1.progress c (.wait (BitVec.ofNat 32 (i + 1)))
  else (s.evacuate g).progress c (.wait (BitVec.ofNat 32 i))

/-- The attached memory of a port loses its contents, and the firmware's structures on it are restored: the key bytes
that it holds and those of its frames, and every retention ring, whose entries lie across the ports (R474). -/
def State.portErased (s : State) (p : Nat) : State :=
  let mine (a : Nat) : Bool := match s.portAt a with | some (q, _) => q == p | none => false
  { s with mem := s.mem.filter (fun c => !(decide (c.1 < sqBase) && mine c.1))
           keyArr := s.keyArr.filter (fun c => !(mine c.1 || mine ((c.1 - s.layout.keyBase) * 4096)))
           tenancies := s.tenancies.map (fun t => (t.1, { t.2 with ring := [] })) }

/-- SELFTEST of a memory port, checks 7.6 and effect. -/
def State.testPort (s : State) (c : Cmd) (p : Nat) (k : TestFacts) : State :=
  if c.le 12 1 = 1 then
    if (s.memPort p).st ≠ .stopped then s.ends c (Ans.of 0x2001)
    else if s.dir ≠ [] then s.ends c (Ans.of 0x2003)
    else if k.ok then (s.portErased p).ends c (testAns k)
    else ((s.portErased p).portFails p 6).ends c (testAns k)
  else if k.ok then (s.calibrated true p).ends c (testAns k)
  else (s.portFails p 5).ends c (testAns k)

/-- Check 7.6 of SELFTEST on a street or a square; that of a memory port depends on MODE (Table 13-13). -/
def test76 (s : State) (f : Fid) : Option Ans :=
  if f.1 = 5 then none
  else
    match s.fst f with
    | .faulted => deny 0x2006 0
    | .draining => deny 0x2002 0
    | _ => none

/-- SELFTEST (R378). -/
def execSelftest (r : CmdRef) (k : TestFacts) (s : State) : Res :=
  .next (s.onCmd r 0x60 (fun c s =>
    let f : Fid := c.fid
    match c.e.prog with
    | .wait i => if f.1 = 3 then s.testStreet c f.2 k else s.testSquare c f.2 i.toNat k
    | _ =>
      match firstOf
        [reserved71 c (namedBytes [(8, 1), (10, 3)]), issuer72 s c, ptrs73 c 0 0, unless_ (!s.noFn f) 0x1010 0,
         unless_ (f.1 == 3 || f.1 == 4 || f.1 == 5) 0x100A 8, unless_ (decide (c.le 12 1 ≤ 1)) 0x100A 12] with
      | some a => s.ends c a
      | none =>
        if s.heldFn c f then s.queue c
        else
          match test76 s f with
          | some a => s.ends c a
          | none =>
            if f.1 = 3 then s.testStreet c f.2 k
            else if f.1 = 4 then s.testSquare c f.2 0 k
            else s.testPort c f.2 k))

/-- The ports that CALIBRATE of the device takes, in ascending order: those that trained and are not FAULTED. -/
def State.calPorts (s : State) : List Nat :=
  (List.range 8).filter (fun p => (s.memPort p).dimms != 0 && (s.memPort p).st != .faulted)

/-- The lanes that CALIBRATE takes on ports: each data lane of a subchannel once, whether a pass was under way or not,
unless its passes have stopped (R467, R478). -/
def State.calLanes (s : State) (ports : List Nat) : Nat :=
  let n (c : Calib) : Nat := if c.stopped then 0 else 40
  (ports.map (fun p => n ((s.memPort p).cal.get 0) + n ((s.memPort p).cal.get 1))).foldl (· + ·) 0

/-- CALIBRATE (R378, R467). -/
def execCalibrate (r : CmdRef) (k : TestFacts) (s : State) : Res :=
  .next (s.onCmd r 0x61 (fun c s =>
    let f : Fid := c.fid
    match firstOf
      [reserved71 c (namedBytes [(8, 1), (10, 2)]), issuer72 s c, ptrs73 c 0 0, unless_ (!s.noFn f) 0x1010 0,
       unless_ (f.1 == 0 || f.1 == 5) 0x100A 8] with
    | some a => s.ends c a
    | none =>
      if s.heldFn c f then s.queue c
      else if f.1 = 5 ∧ s.fst f = .faulted then s.ends c (Ans.of 0x2006)
      else
        let ports : List Nat := if f.1 = 5 then [f.2] else s.calPorts
        let bad : Nat := if f.1 = 5 then f.2 else k.port.val
        if k.ok || !ports.contains bad then
          (ports.foldl (State.calibrated false) s).ends c { Ans.of 0 with res0 := s.calLanes ports }
        else
          (((ports.takeWhile (fun p => p != bad)).foldl (State.calibrated false) s).portFails bad 5).ends c
            { testAns k with res1 := 0 }))

/-- The lanes that a lane mask selects (R475, R491; Table 17-3). -/
def testLanes (host : Bool) (mask : Nat) : List Nat :=
  if host then (List.range 16).filter (fun i => bit mask i)
  else
    let half (m base : Nat) : List Nat :=
      ((List.range 10).flatMap (fun p => if bit m p then (List.range 4).map (fun i => base + 4 * p + i) else []))
        ++ (if bit m 10 then [base + 40] else [])
        ++ (if bit m 11 then (List.range 8).map (fun i => base + 48 + i) else [])
    half mask 0 ++ half (mask / 65536) 64

/-- The result of a lane: a lane without a measurement has no lock and no errors (R491). -/
def laneOf (l : List LaneResult) (i : Nat) : LaneResult :=
  (l.find? (fun x => x.lane.toNat == i)).getD { lane := BitVec.ofNat 16 i, lock := false, errors := 0 }

/-- The 8 bytes of a lane's result (Table 13-13). -/
def laneBytes (x : LaneResult) : List Byte :=
  leBytes 2 x.lane.toNat ++ leBytes 1 x.lock.toNat ++ zeros 1 ++ leBytes 4 x.errors.toNat

/-- The pattern registers after LINK_TEST: its last values (R477, R491). -/
def pgTested (host : Bool) (p : Patgen) (pat user : Nat) (lanes : List LaneResult) : Patgen :=
  let m (base : Nat) : W64 := BitVec.ofNat 64 ((lanes.filter (fun x => decide (base ≤ x.lane.toNat)
    && decide (x.lane.toNat < base + 64))).foldl (fun a x => a + 2 ^ (x.lane.toNat - base)) 0)
  { p with pgctl := BitVec.ofNat 64 (pat + if host then 64 else 0), user := BitVec.ofNat 64 user, mask0 := m 0
           mask1 := if host then p.mask1 else m 64
           lpstat := lanes.map (fun x => (x.lane.toNat, x.errors.zeroExtend 64)), lfsr := [] }

/-- The bytes and bits of LINK_TEST's parameters, by target (R475, R491). -/
def linkNamed (host : Bool) (i : Nat) : Nat :=
  if 16 ≤ i ∧ i < 24 then
    if host then (if i < 18 then 255 else 0)
    else if i = 16 ∨ i = 18 then 255
    else if i = 17 ∨ i = 19 then 0x0F
    else 0
  else namedBytes [(8, 1), (10, 3), (24, 9)] i

/-- LINK_TEST (R378): it measures and does not judge. -/
def execLinkTest (r : CmdRef) (lanes : List LaneResult) (s : State) : Res :=
  .next (s.onCmd r 0x62 (fun c s =>
    let f : Fid := c.fid
    let host : Bool := f.1 == 8
    let pat : Nat := c.le 12 1
    let ls : List LaneResult := (testLanes host (c.le 16 8)).map (laneOf lanes)
    let pg : Patgen := if host then (s.hostPort f.2).pg else (s.memPort f.2).pg
    match firstOf
      [reserved71 c (linkNamed host), issuer72 s c, ptrs73 c 1 0, unless_ (!s.noFn f) 0x1010 0,
       unless_ (f.1 == 5 || host) 0x100A 8,
       unless_ (if host then decide (pat ≤ 5) else pat == 8 || pat == 9) 0x100A 12,
       unless_ (decide (1 ≤ c.le 24 4) && decide (c.le 24 4 ≤ 10000000)) 0x100A 24] with
    | some a => s.ends c a
    | none =>
      if s.heldFn c f then s.queue c
      else if s.fst f ≠ .stopped then s.ends c (Ans.of 0x2001)
      else if pg.pgctl.getLsbD 4 && pg.byMgmt then s.ends c (Ans.of 0x2003)
      else
        let p1 : Patgen := pgTested host pg pat (c.le 28 5) ls
        let s1 : State :=
          if host then
            -- the link is down after the test, and that is a host port reset (R486, R491)
            let s0 : State := s.portReset f.2
            s0.setHostPort f.2 { s0.hostPort f.2 with pg := p1, tested := true }
          else s.setMemPort f.2 { s.memPort f.2 with pg := p1 }
        let bad : Nat := (ls.filter (fun x => !x.lock || x.errors != 0)).length
        (s1.replies c c.ptr0 (ls.flatMap laneBytes)).ends c { Ans.of 0 with res0 := bad }))

/-! ### The log and the life cycle (R379, R450) -/

/-- The oldest LSEQ that the log ring holds. -/
def State.logOldest (s : State) : Nat := s.lseq - 16384

/-- The 64 bytes of a log entry as stored. -/
def State.logAt (s : State) (n : Nat) : List Byte := s.rdN (logBase + n % 16384 * 64) 64

/-- What is delivered for a log entry whose bytes meet an uncorrectable error: the LSEQ of its position, DAMAGED, a new
LSEAL (R428). -/
def logDamaged (n : Nat) : List Byte :=
  let b : List Byte := leBytes 8 n ++ zeros 8 ++ [0x02] ++ zeros 43
  b ++ leBytes 4 (crc32c b)

/-- A log entry as it is delivered; `bad` says that it meets an uncorrectable error. -/
def State.logRead (s : State) (n : Nat) (bad : Bool) : List Byte := if bad then logDamaged n else s.logAt n

/-- READ_LOG (R379, R428). The log cannot be read while square 0 is being relocked (R31). -/
def execReadLog (r : CmdRef) (s : State) : Res :=
  .next (s.onCmd r 0x70 (fun c s =>
    let from_ : Nat := c.le 8 8
    let n : Nat := c.le 16 4
    match firstOf
      [reserved71 c (namedBytes [(8, 12)]), issuer72 s c, ptrs73 c 1 0,
       unless_ (decide (1 ≤ n) && decide (n ≤ 65536)) 0x100A 16] with
    | some a => s.ends c a
    | none =>
      if s.heldPa logBase then s
      else
      let start : Nat := max from_ s.logOldest
      let m : Nat := min n (s.lseq - start)
      let l : List Byte := (List.range m).flatMap (fun i => s.logRead (start + i) (r.logBad.contains (BitVec.ofNat 64 (start + i))))
      let s1 : State := if m = 0 then s else s.replies c c.ptr0 l
      s1.ends c { status := if from_ < s.logOldest then 5 else 0, res0 := m
                  res1 := if m = 0 then s.lseq else start + m, detail := s.logOldest - from_ }))

/-- Whether a transition takes a new owner key (Table 16-13). -/
def newOwner (lc target : Nat) : Bool := (lc == 0 && target == 1) || (lc == 1 && target == 1)

/-- Whether a transition of the life cycle is permitted (R448). -/
def lcPermits (f : Fuses) (target : Nat) : Bool :=
  let lc : Nat := f.lc.toNat
  ((lc == 0 && (target == 1 || target == 3)) || lc == 1 || (lc == 2 && (target == 1 || target == 3)))
    && (f.lccount != 31 || target == 3) && (!newOwner lc target || decide (f.ownerBanks < 8))

/-- Whether an authorisation package has its form and names this device at this moment (R449, Table 16-14). -/
def lcForm (s : State) (l : List Byte) (target : Nat) : Bool :=
  let lc : Nat := s.fuses.lc.toNat
  slice l 0 4 == [0x4C, 0x58, 0x4C, 0x43] && leAt l 4 1 == lc && leAt l 5 1 == target
    && (if target = 1 then decide (leAt l 6 1 < 4) else leAt l 6 1 == 0) && leAt l 7 1 == 0
    && leAt l 8 8 == s.part.serial.toNat && leAt l 16 2 == s.fuses.lccount.toNat && allZero (slice l 18 6)
    && (newOwner lc target || allZero (slice l 24 96)) && allZero (slice l 120 296)

/-- An accepted LC_CHANGE (R450). -/
def State.lcChanged (s : State) (l : List Byte) (target : Nat) : State :=
  let own : Bool := newOwner s.fuses.lc.toNat target
  let s1 : State := kerbWipe s
  let f : Fuses :=
    { s.fuses with lc := BitVec.ofNat 2 target, lccount := if s.fuses.lccount = 31 then 31 else s.fuses.lccount + 1
                   ownerBanks := s.fuses.ownerBanks + own.toNat }
  { s1 with fuses := f, extensions := if own || target == 3 then [] else s1.extensions
            kerb := { s1.kerb with tampen := if target = 1 then BitVec.ofNat 2 (leAt l 6 1) else s1.kerb.tampen
                                   lock := s1.kerb.lock || target == 3 } }

/-- LC_CHANGE (R380, R450): `sigOk` says whether SIG verifies under the key of Table 16-13. -/
def execLcChange (r : CmdRef) (sigOk : Bool) (s : State) : Res :=
  .next (s.onCmd r 0x80 (fun c s =>
    let target : Nat := c.le 8 1
    let l : List Byte := s.buffer c.ptr0 512
    match firstOf
      [reserved71 c (namedBytes [(8, 1), (12, 4)]), issuer72 s c, ptrs73 c 1 0,
       unless_ (decide (1 ≤ target) && decide (target ≤ 3)) 0x100A 8, unless_ (c.le 12 4 == 512) 0x100A 12] with
    | some a => s.ends c a
    | none =>
      let ids : List Fid := (List.range 16).map (fun g => (3, g)) ++ (List.range 16).map (fun t => (1, t))
      if ids.any (fun f => s.heldFn c f) then s.queue c
      else
        match firstOf
          [unless_ (lcPermits s.fuses target) 0x2004 0,
           unless_ ((List.range 16).all (fun g => (s.street g).st == .stopped)
             && s.tenancies.all (fun t => t.1 == c.t || t.2.bound.isNone || t.2.st == .stopped)) 0x2001 0,
           read77 c, unless_ (lcForm s l target && sigOk) 0x4005 0] with
        | some a => s.ends c a
        | none => (s.lcChanged l target).ends c { Ans.of 0 with res0 := target }))

end Sys2Proof.Machine
end

