-- ==== Sys2Proof/Machine/Float.lean ====
section
/-! DEFINITION. Floating-point arithmetic (05 R156 to R169): binary64 and decimal128. -/

namespace Sys2Proof.Machine

/-! ### Exceptions (R159, R160) -/

/-- The result of an operation: its bits, the exceptions of Table 5-5 in FEN bit order (1 invalid, 2
division by zero, 4 overflow, 8 underflow, 16 inexact), and whether it is tiny. -/
structure FRes where
  v : Nat
  e : Nat
  tiny : Bool
deriving DecidableEq, Repr

/-- A result without exception. -/
def FRes.exact (v : Nat) : FRes := { v := v, e := 0, tiny := false }

/-- The set E: a tiny result raises underflow when it is inexact, or when its trap is enabled. -/
def FRes.set (r : FRes) (fen : Nat) : Nat :=
  if r.tiny && !bit r.e 3 && bit fen 3 then r.e + 8 else r.e

/-- PSW.FEN. -/
def Bank.fen (b : Bank) : Nat := bits b.psw.toNat 32 5

/-- R160 step 4: the trap, or the writes with E ORed into FST. -/
def fpEff (w : Work) (r : FRes) (count : Nat) (wr : Nat → List RegWr) : Eff :=
  let e : Nat := r.set w.k.bank.fen
  if Nat.land e w.k.bank.fen ≠ 0 then Eff.fail (mkFault 11 0 0 e)
  else
    let fst : W64 := BitVec.ofNat 64 (e * 2 ^ 52)
    Eff.of (((wr r.v) ++ (if e = 0 then [] else [RegWr.psw fst fst])).map (fun x => (count, x))) [] count

/-- The bit length of a number. -/
def bitLen (m : Nat) : Nat := if m = 0 then 0 else Nat.log2 m + 1

/-! ### binary64 -/

/-- A binary64 value: NaN, infinity, or m * 2^e. -/
inductive Bin where
  | nan (signalling : Bool)
  | inf (neg : Bool)
  | fin (neg : Bool) (m : Nat) (e : Int)
deriving DecidableEq, Repr

def binOf (v : Nat) : Bin :=
  let x : Nat := bits v 52 11
  let f : Nat := v % 2 ^ 52
  let neg : Bool := bit v 63
  if x = 2047 then if f = 0 then .inf neg else .nan (!bit v 51)
  else if x = 0 then .fin neg f (-1074)
  else .fin neg (f + 2 ^ 52) ((x : Int) - 1075)

def binInf (neg : Bool) : Nat := neg.toNat * 2 ^ 63 + 0x7FF0000000000000
def binMax (neg : Bool) : Nat := neg.toNat * 2 ^ 63 + 0x7FEFFFFFFFFFFFFF
def binZero (neg : Bool) : Nat := neg.toNat * 2 ^ 63
def binDefNan : Nat := 0x7FF8000000000000

/-- Whether an overflow delivers infinity in a rounding mode (Table 5-5). -/
def ovfInf (mode : Nat) (neg : Bool) : Bool :=
  match mode with
  | 1 => false
  | 2 => !neg
  | 3 => neg
  | _ => true

/-- A magnitude `m * 2^e` (and a little more when `sticky`) rounded to a multiple of `2^q`: the multiple
and whether it differs from the exact value. -/
def roundAt (mode : Nat) (neg : Bool) (m : Nat) (e : Int) (sticky : Bool) (q : Int) : Nat × Bool :=
  if q ≤ e then (m * 2 ^ (e - q).toNat, sticky)
  else
    let d : Nat := (q - e).toNat
    let keep : Nat := m / 2 ^ d
    let t : Nat := 2 * (m % 2 ^ d) + sticky.toNat
    (if roundUp mode neg keep t (2 * 2 ^ d) then keep + 1 else keep, t != 0)

/-- round_BRM of a non-zero magnitude (R158, R159). Tininess is detected after rounding. -/
def binRound (mode : Nat) (neg : Bool) (m : Nat) (e : Int) (sticky : Bool) : FRes :=
  let eu : Int := e + bitLen m - 53
  let u : Nat × Bool := roundAt mode neg m e sticky eu
  let top : Int := eu + bitLen u.1
  if 1024 < top then
    { v := if ovfInf mode neg then binInf neg else binMax neg, e := 20, tiny := false }
  else
    let q : Int := max eu (-1074)
    let r : Nat × Bool := roundAt mode neg m e sticky q
    let tiny : Bool := decide (top ≤ -1022)
    { v := neg.toNat * 2 ^ 63 + ((q + 1074).toNat * 2 ^ 52 + r.1)
      e := (if r.2 then 16 else 0) + (if tiny && r.2 then 8 else 0), tiny := tiny }

/-- The result of an operation with a NaN operand, if there is one (R161). -/
def binNan (x y : Nat) : Option FRes :=
  let iv : Nat := if binOf x = .nan true ∨ binOf y = .nan true then 1 else 0
  let quiet (v : Nat) : FRes := { v := Nat.lor v (2 ^ 51), e := iv, tiny := false }
  match binOf x, binOf y with
  | .nan _, _ => some (quiet x)
  | _, .nan _ => some (quiet y)
  | _, _ => none

def binInvalid : FRes := { v := binDefNan, e := 1, tiny := false }

/-- The sum of a value and another, which is taken with its sign changed when `sub`. -/
def binAdd (mode : Nat) (sub : Bool) (x y : Nat) : FRes :=
  match binNan x y with
  | some r => r
  | none =>
    match binOf x, binOf y with
    | .inf a, .inf b => if a == (b != sub) then FRes.exact (binInf a) else binInvalid
    | .inf a, _ => FRes.exact (binInf a)
    | _, .inf b => FRes.exact (binInf (b != sub))
    | .fin a m e, .fin b n f =>
      let b' : Bool := b != sub
      let g : Int := min e f
      let p : Int := m * 2 ^ (e - g).toNat
      let r : Int := n * 2 ^ (f - g).toNat
      let v : Int := (if a then -p else p) + (if b' then -r else r)
      if v = 0 then
        FRes.exact (binZero (if a == b' then a else mode == 3))
      else binRound mode (decide (v < 0)) v.natAbs g false
    | _, _ => binInvalid

def binMul (mode : Nat) (x y : Nat) : FRes :=
  match binNan x y with
  | some r => r
  | none =>
    let neg : Bool := bit x 63 != bit y 63
    match binOf x, binOf y with
    | .fin _ m e, .fin _ n f =>
      if m = 0 ∨ n = 0 then FRes.exact (binZero neg) else binRound mode neg (m * n) (e + f) false
    | .inf _, .fin _ n _ => if n = 0 then binInvalid else FRes.exact (binInf neg)
    | .fin _ m _, .inf _ => if m = 0 then binInvalid else FRes.exact (binInf neg)
    | _, _ => FRes.exact (binInf neg)

def binDiv (mode : Nat) (x y : Nat) : FRes :=
  match binNan x y with
  | some r => r
  | none =>
    let neg : Bool := bit x 63 != bit y 63
    match binOf x, binOf y with
    | .fin _ m e, .fin _ n f =>
      if n = 0 then
        if m = 0 then binInvalid else { v := binInf neg, e := 2, tiny := false }
      else if m = 0 then FRes.exact (binZero neg)
      else
        let p : Nat := m * 2 ^ 120
        binRound mode neg (p / n) (e - f - 120) (p % n != 0)
    | .inf _, .inf _ => binInvalid
    | .inf _, _ => FRes.exact (binInf neg)
    | _, _ => FRes.exact (binZero neg)

/-- The integer square root, found bit by bit from bit `n`. -/
def isqrt (m : Nat) : Nat → Nat → Nat
  | 0, r => r
  | n + 1, r => isqrt m n (if (r + 2 ^ n) * (r + 2 ^ n) ≤ m then r + 2 ^ n else r)

def binSqrt (mode : Nat) (x : Nat) : FRes :=
  match binNan x 0 with
  | some r => r
  | none =>
    match binOf x with
    | .inf neg => if neg then binInvalid else FRes.exact (binInf false)
    | .fin neg m e =>
      if m = 0 then FRes.exact (binZero neg)
      else if neg then binInvalid
      else
        -- an even exponent, and at least 120 bits more
        let odd : Nat := if e % 2 = 0 then 0 else 1
        let p : Nat := m * 2 ^ (120 + odd)
        let r : Nat := isqrt p 100 0
        binRound mode false r ((e - 120 - odd) / 2) (r * r != p)
    | .nan _ => binInvalid

/-- The flags of Table 5-6. -/
def relFlags (lt eq unordered : Bool) : Flags := { c := unordered, v := false, z := eq, n := lt, dv := false }

/-- Comparison of signed scaled integers of base `r`. -/
def cmpScaled (r : Nat) (a : Bool) (m : Nat) (e : Int) (b : Bool) (n : Nat) (f : Int) : Flags :=
  let g : Int := min e f
  let p : Int := m * r ^ (e - g).toNat
  let q : Int := n * r ^ (f - g).toNat
  let x : Int := if a then -p else p
  let y : Int := if b then -q else q
  relFlags (decide (x < y)) (x == y) false

def binCmp (x y : Nat) : Flags × Nat :=
  let iv : Nat := if binOf x = .nan true ∨ binOf y = .nan true then 1 else 0
  match binOf x, binOf y with
  | .nan _, _ => (relFlags false false true, iv)
  | _, .nan _ => (relFlags false false true, iv)
  | .inf a, .inf b => (relFlags (a && !b) (a == b) false, 0)
  | .inf a, _ => (relFlags a false false, 0)
  | _, .inf b => (relFlags (!b) false false, 0)
  | .fin a m e, .fin b n f => (cmpScaled 2 a m e b n f, 0)

def binOfInt (mode : Nat) (v : Int) : FRes :=
  if v = 0 then FRes.exact 0 else binRound mode (decide (v < 0)) v.natAbs 0 false

def q63 : Int := 2 ^ 63

/-- CVBQ (R164, Table 5-7). -/
def binToInt (mode : Nat) (x : Nat) : FRes :=
  let bad (v : Int) : FRes := { v := wrapInt 64 v, e := 1, tiny := false }
  match binOf x with
  | .nan _ => bad 0
  | .inf neg => bad (if neg then -q63 else q63 - 1)
  | .fin neg m e =>
    if 64 < e then if m = 0 then FRes.exact 0 else bad (if neg then -q63 else q63 - 1)
    else
      let r : Nat × Bool := roundAt mode neg m e false 0
      let v : Int := if neg then -(r.1 : Int) else (r.1 : Int)
      if v < -q63 ∨ q63 - 1 < v then bad (if neg then -q63 else q63 - 1)
      else { v := wrapInt 64 v, e := if r.2 then 16 else 0, tiny := false }

/-! ### decimal128 (R156, R162) -/

/-- A declet's three digits (DPD). -/
def decletDigits (d : Nat) : Nat × Nat × Nat :=
  let pqr : Nat := bits d 7 3
  let stu : Nat := bits d 4 3
  let r : Nat := bits d 7 1
  let u : Nat := bits d 4 1
  let y : Nat := d % 2
  let pq : Nat := bits d 8 2
  let st : Nat := bits d 5 2
  if !bit d 3 then (pqr, stu, bits d 0 3)
  else
    match bits d 1 2 with
    | 0 => (pqr, stu, 8 + y)
    | 1 => (pqr, 8 + u, 2 * st + y)
    | 2 => (8 + r, stu, 2 * pq + y)
    | _ =>
      match st with
      | 0 => (8 + r, 8 + u, 2 * pq + y)
      | 1 => (8 + r, 2 * pq + u, 8 + y)
      | 2 => (pqr, 8 + u, 8 + y)
      | _ => (8 + r, 8 + u, 8 + y)

/-- The canonical declet of three digits. -/
def declet (a e i : Nat) : Nat :=
  let d : Nat := a % 2
  let h : Nat := e % 2
  let m : Nat := i % 2
  let pack (p s vwx : Nat) : Nat := p * 128 + s * 16 + vwx * 2 + m
  match decide (8 ≤ a), decide (8 ≤ e), decide (8 ≤ i) with
  | false, false, false => a * 128 + e * 16 + i
  | false, false, true => pack a e 4
  | false, true, false => pack a (i / 2 * 2 + h) 5
  | true, false, false => pack (i / 2 * 2 + d) e 6
  | true, true, false => pack (i / 2 * 2 + d) (0 + h) 7
  | true, false, true => pack (e / 2 * 2 + d) (2 + h) 7
  | false, true, true => pack a (4 + h) 7
  | true, true, true => pack d (6 + h) 7

/-- The number that `n` declets spell. -/
def decletsVal : Nat → Nat → Nat
  | 0, _ => 0
  | n + 1, v =>
    let t := decletDigits (v % 1024)
    decletsVal n (v / 1024) * 1000 + t.1 * 100 + t.2.1 * 10 + t.2.2

/-- `n` canonical declets of a number. -/
def decletsOf : Nat → Nat → Nat
  | 0, _ => 0
  | n + 1, c => decletsOf n (c / 1000) * 1024 + declet (c / 100 % 10) (c / 10 % 10) (c % 10)

/-- A decimal128 value: NaN, infinity, or c * 10^e. -/
inductive Dec where
  | nan (signalling : Bool)
  | inf (neg : Bool)
  | fin (neg : Bool) (c : Nat) (e : Int)
deriving DecidableEq, Repr

def decOf (v : Nat) : Dec :=
  let neg : Bool := bit v 127
  let g : Nat := bits v 122 5
  if g = 31 then .nan (bit v 121)
  else if g = 30 then .inf neg
  else
    let t : Nat × Nat := if 24 ≤ g then (g / 2 % 4, 8 + g % 2) else (g / 8, g % 8)
    .fin neg (t.2 * 10 ^ 33 + decletsVal 11 (v % 2 ^ 110)) ((t.1 * 4096 + bits v 110 12 : Nat) - 6176)

/-- The canonical encoding of c * 10^e, with c below 10^34 and e from -6176 to 6111. -/
def decEnc (neg : Bool) (c : Nat) (e : Int) : Nat :=
  let b : Nat := (e + 6176).toNat
  let top : Nat := c / 10 ^ 33
  let g : Nat := if 8 ≤ top then 24 + b / 4096 * 2 + top % 2 else b / 4096 * 8 + top
  neg.toNat * 2 ^ 127 + g * 2 ^ 122 + b % 4096 * 2 ^ 110 + decletsOf 11 (c % 10 ^ 33)

def decInf (neg : Bool) : Nat := neg.toNat * 2 ^ 127 + 0x78 * 2 ^ 120
def decMax (neg : Bool) : Nat := decEnc neg (10 ^ 34 - 1) 6111
def decDefNan : Nat := 0x7C * 2 ^ 120

/-- The decimal digits of a number, counted with `n` steps at most. -/
def nDigits : Nat → Nat → Nat
  | 0, _ => 0
  | n + 1, c => if c = 0 then 0 else nDigits n (c / 10) + 1

/-- An exact c * 10^e moved toward exponent `p` by stripping zeros (n steps at most). -/
def stripTo (p : Int) : Nat → Nat → Int → Nat × Int
  | 0, c, e => (c, e)
  | n + 1, c, e => if e < p ∧ c % 10 = 0 then stripTo p n (c / 10) (e + 1) else (c, e)

/-- An exact c * 10^e moved toward exponent `p` by adding zeros, up to 34 digits. -/
def padTo (p : Int) : Nat → Nat → Int → Nat × Int
  | 0, c, e => (c, e)
  | n + 1, c, e => if p < e ∧ c * 10 < 10 ^ 34 then padTo p n (c * 10) (e - 1) else (c, e)

/-- round_DRM of c * 10^e (and a little more when `sticky`), with preferred exponent `p` (R158, R159,
R162). Tininess is detected before rounding. -/
def decRound (mode : Nat) (neg : Bool) (c : Nat) (e : Int) (sticky : Bool) (p : Int) : FRes :=
  if c = 0 ∧ !sticky then FRes.exact (decEnc neg 0 (max (-6176) (min 6111 p)))
  else
    let n : Nat := nDigits 200 c
    let tiny : Bool := decide (e + n ≤ -6143)
    let q : Int := max (-6176) (max e (e + n - 34))
    let d : Nat := (q - e).toNat
    let keep : Nat := c / 10 ^ d
    let t : Nat := 2 * (c % 10 ^ d) + sticky.toNat
    let inexact : Bool := t != 0
    let up : Nat := if roundUp mode neg keep t (2 * 10 ^ d) then keep + 1 else keep
    let a : Nat × Int := if up = 10 ^ 34 then (10 ^ 33, q + 1) else (up, q)
    let b : Nat × Int :=
      if inexact then a
      else
        let s := stripTo p 200 a.1 a.2
        padTo (max p (-6176)) 40 s.1 s.2
    -- a short coefficient with too great an exponent is extended with zeros
    let z : Nat × Int := if 6111 < b.2 then padTo 6111 40 b.1 b.2 else b
    if 6111 < z.2 then
      { v := if ovfInf mode neg then decInf neg else decMax neg, e := 20, tiny := false }
    else
      { v := decEnc neg z.1 z.2
        e := (if inexact then 16 else 0) + (if tiny && inexact then 8 else 0), tiny := tiny }

/-- A NaN made quiet and canonical: a payload that is not canonical becomes zero. -/
def decQuiet (v : Nat) : Nat :=
  let t : Nat := v % 2 ^ 110
  bits v 127 1 * 2 ^ 127 + decDefNan + (if decletsOf 11 (decletsVal 11 t) = t then t else 0)

def decNan (x y : Nat) : Option FRes :=
  let iv : Nat := if decOf x = .nan true ∨ decOf y = .nan true then 1 else 0
  match decOf x, decOf y with
  | .nan _, _ => some { v := decQuiet x, e := iv, tiny := false }
  | _, .nan _ => some { v := decQuiet y, e := iv, tiny := false }
  | _, _ => none

def decInvalid : FRes := { v := decDefNan, e := 1, tiny := false }

/-- A non-zero operand so far below the other that only its sign and its presence matter. -/
def nearer (c : Nat) (e : Int) (other : Int) : Nat × Int := if e + 80 < other then (1, other - 80) else (c, e)

def decAdd (mode : Nat) (sub : Bool) (x y : Nat) : FRes :=
  match decNan x y with
  | some r => r
  | none =>
    match decOf x, decOf y with
    | .inf a, .inf b => if a == (b != sub) then FRes.exact (decInf a) else decInvalid
    | .inf a, _ => FRes.exact (decInf a)
    | _, .inf b => FRes.exact (decInf (b != sub))
    | .fin a c e, .fin b d f =>
      let b' : Bool := b != sub
      let p : Int := min e f
      if c = 0 ∧ d = 0 then decRound mode (if a == b' then a else mode == 3) 0 0 false p
      else if d = 0 then decRound mode a c e false p
      else if c = 0 then decRound mode b' d f false p
      else
        let x1 : Nat × Int := nearer c e f
        let y1 : Nat × Int := nearer d f e
        let g : Int := min x1.2 y1.2
        let u : Int := x1.1 * 10 ^ (x1.2 - g).toNat
        let w : Int := y1.1 * 10 ^ (y1.2 - g).toNat
        let v : Int := (if a then -u else u) + (if b' then -w else w)
        if v = 0 then decRound mode (mode == 3) 0 0 false p
        else decRound mode (decide (v < 0)) v.natAbs g false p
    | _, _ => decInvalid

def decMul (mode : Nat) (x y : Nat) : FRes :=
  match decNan x y with
  | some r => r
  | none =>
    let neg : Bool := bit x 127 != bit y 127
    match decOf x, decOf y with
    | .fin _ c e, .fin _ d f => decRound mode neg (c * d) (e + f) false (e + f)
    | .inf _, .fin _ d _ => if d = 0 then decInvalid else FRes.exact (decInf neg)
    | .fin _ c _, .inf _ => if c = 0 then decInvalid else FRes.exact (decInf neg)
    | _, _ => FRes.exact (decInf neg)

def decDiv (mode : Nat) (x y : Nat) : FRes :=
  match decNan x y with
  | some r => r
  | none =>
    let neg : Bool := bit x 127 != bit y 127
    match decOf x, decOf y with
    | .fin _ c e, .fin _ d f =>
      if d = 0 then
        if c = 0 then decInvalid else { v := decInf neg, e := 2, tiny := false }
      else if c = 0 then decRound mode neg 0 0 false (e - f)
      else
        let p : Nat := c * 10 ^ 70
        decRound mode neg (p / d) (e - f - 70) (p % d != 0) (e - f)
    | .inf _, .inf _ => decInvalid
    | .inf _, _ => FRes.exact (decInf neg)
    | _, _ => FRes.exact (decEnc neg 0 (-6176))

def decCmp (x y : Nat) : Flags × Nat :=
  let iv : Nat := if decOf x = .nan true ∨ decOf y = .nan true then 1 else 0
  match decOf x, decOf y with
  | .nan _, _ => (relFlags false false true, iv)
  | _, .nan _ => (relFlags false false true, iv)
  | .inf a, .inf b => (relFlags (a && !b) (a == b) false, 0)
  | .inf a, _ => (relFlags a false false, 0)
  | _, .inf b => (relFlags (!b) false false, 0)
  | .fin a c e, .fin b d f => (cmpScaled 10 a c e b d f, 0)

/-- CVDX: the value of a valid ACC.D; minus zero gives -0 (R164). -/
def decOfPacked (mode : Nat) (l : List Byte) : FRes :=
  decRound mode ((nibbles l).getLast? == some 0xD) (pval l).natAbs 0 false 0

/-- CVXD (R164, Table 5-7): the value, as the field to write, with E. -/
def decToPacked (mode : Nat) (x : Nat) : List Byte × Nat :=
  let nines (neg : Bool) : List Byte :=
    pk (if neg then -((10 ^ 63 - 1 : Nat) : Int) else ((10 ^ 63 - 1 : Nat) : Int)) 32
  match decOf x with
  | .nan _ => (pk 0 32, 1)
  | .inf neg => (nines neg, 1)
  | .fin neg c e =>
    if 63 < e ∧ c ≠ 0 then (nines neg, 1)
    else
      let r : Nat × Bool :=
        if 0 ≤ e then (if c = 0 then 0 else c * 10 ^ e.toNat, false)
        else
          let d : Nat := (-e).toNat
          let keep : Nat := c / 10 ^ d
          let t : Nat := c % 10 ^ d
          (if roundUp mode neg keep t (10 ^ d) then keep + 1 else keep, t != 0)
      if 10 ^ 63 ≤ r.1 then (nines neg, 1)
      else (pk (if neg then -(r.1 : Int) else (r.1 : Int)) 32, if r.2 then 16 else 0)

/-! ### The instructions -/

/-- ACC.X, and ACC.X and ACC.B as results. -/
def Bank.x (b : Bank) : Nat := accGet b.acc 16 16
def wrX (v : Nat) : List RegWr := [.acc 16 16 v]
def wrB (v : Nat) : List RegWr := [.acc 24 8 v]

/-- A binary64 instruction on ACC.B and an operand. -/
def binInsn (a : Issue) (op : Nat) (m : MOp) (k : Core) (f : Bank → Nat → Work → Eff) : Insn :=
  { mInsn a op m .b false k true false (pureBody (fun w _ bs => f w.k.bank (beNat (op1 bs)) w)) with r3 := false }

/-- LDX (R157). -/
def execLdx (a : Issue) (m : MOp) (s : State) : Res :=
  s.run a (fun _ k => { mInsn a 0x5E m .x false k true false (pureBody (fun _ _ bs =>
    Eff.of [(2, .acc 16 16 (beNat (op1 bs)))] [] 1)) with r3 := false })

/-- STX (R157). -/
def execStx (a : Issue) (m : MOp) (s : State) : Res :=
  s.run a (fun _ k => { mStore a 0x5F m .x k (fun k => beBytes 16 k.bank.x) with r3 := false })

/-- FADDB (R157). -/
def execFaddb (a : Issue) (m : MOp) (s : State) : Res :=
  s.run a (fun _ k => binInsn a 0x60 m k (fun b y w => fpEff w (binAdd b.brm false b.q.toNat y) 3 wrB))
/-- FSUBB (R157). -/
def execFsubb (a : Issue) (m : MOp) (s : State) : Res :=
  s.run a (fun _ k => binInsn a 0x61 m k (fun b y w => fpEff w (binAdd b.brm true b.q.toNat y) 3 wrB))
/-- FMULB (R157). -/
def execFmulb (a : Issue) (m : MOp) (s : State) : Res :=
  s.run a (fun _ k => binInsn a 0x62 m k (fun b y w => fpEff w (binMul b.brm b.q.toNat y) 4 wrB))

/-- FDIVB (R157, R154). -/
def execFdivb (a : Issue) (m : MOp) (s : State) : Res :=
  s.run a (fun _ k => { mInsn a 0x63 m .b false k true false (pureBody (fun w _ bs =>
    let b : Bank := w.k.bank
    fpEff w (binDiv b.brm b.q.toNat (beNat (op1 bs))) 22 wrB)) with
    r3 := false, divider := 22 })

/-- FCMPB (R163). -/
def execFcmpb (a : Issue) (m : MOp) (s : State) : Res :=
  s.run a (fun _ k => binInsn a 0x64 m k (fun b y w =>
    let r : Flags × Nat := binCmp b.q.toNat y
    fpEff w { v := 0, e := r.2, tiny := false } 3 (fun _ => [.psw mCVZN r.1.word])))

/-- BSQRT (R157, R154). -/
def execBsqrt (a : Issue) (s : State) : Res :=
  s.run a (fun _ _ => { aInsn a 0x13 (pureBody (fun w _ _ =>
    fpEff w (binSqrt w.k.bank.brm w.k.bank.q.toNat) 26 wrB)) with
    r3 := false, divider := 26 })

/-- CVQB (R164). -/
def execCvqb (a : Issue) (s : State) : Res :=
  s.run a (fun _ _ => { aInsn a 0x12 (pureBody (fun w _ _ =>
    fpEff w (binOfInt w.k.bank.brm w.k.bank.q.toInt) 3 wrB)) with r3 := false })

/-- CVBQ (R164). -/
def execCvbq (a : Issue) (s : State) : Res :=
  s.run a (fun _ _ => { aInsn a 0x11 (pureBody (fun w _ _ =>
    fpEff w (binToInt w.k.bank.brm w.k.bank.q.toNat) 3 wrB)) with r3 := false })

/-- A magnitude with a sign. -/
def signed (neg : Bool) (c : Nat) : Int := if neg then -(c : Int) else (c : Int)

/-- The exact sum of two decimal128 numbers in units of the smaller exponent, whose residues R165 checks: none when
an operand is no number. -/
def sumRes (sub : Bool) (x y : Nat) : Option Int :=
  match decOf x, decOf y with
  | .fin a c e, .fin b d f =>
    let g : Int := min e f
    some (signed a c * 10 ^ (e - g).toNat + signed (b != sub) d * 10 ^ (f - g).toNat)
  | _, _ => none

/-- The exact product of the coefficients (R165). -/
def mulRes (x y : Nat) : Option Int :=
  match decOf x, decOf y with
  | .fin a c _, .fin b d _ => some (signed a c * signed b d)
  | _, _ => none

/-- The dividend, which R165 compares with quotient × divisor + remainder: none where there is no quotient. -/
def divRes (x y : Nat) : Option Int :=
  match decOf x, decOf y with
  | .fin a c _, .fin _ d _ => if d = 0 then none else some (signed a c)
  | _, _ => none

/-- A decimal128 instruction on ACC.X and an operand; `res` is the value of its residue check. -/
def decXInsn (a : Issue) (op : Nat) (m : MOp) (k : Core) (res : Nat → Nat → Option Int) (f : Bank → Nat → Work → Eff) :
    Insn :=
  { mInsn a op m .x false k true false (fun w _ bs =>
      Done.of w (f w.k.bank (beNat (op1 bs)) w) (res w.k.bank.x (beNat (op1 bs)))) with
    r3 := false, residue := true }

/-- FADDX (R157). -/
def execFaddx (a : Issue) (m : MOp) (s : State) : Res :=
  s.run a (fun _ k => decXInsn a 0x65 m k (sumRes false) (fun b y w => fpEff w (decAdd b.drm false b.x y) 3 wrX))
/-- FSUBX (R157). -/
def execFsubx (a : Issue) (m : MOp) (s : State) : Res :=
  s.run a (fun _ k => decXInsn a 0x66 m k (sumRes true) (fun b y w => fpEff w (decAdd b.drm true b.x y) 3 wrX))
/-- FMULX (R157). -/
def execFmulx (a : Issue) (m : MOp) (s : State) : Res :=
  s.run a (fun _ k => decXInsn a 0x67 m k mulRes (fun b y w => fpEff w (decMul b.drm b.x y) 8 wrX))
/-- FDIVX (R157). -/
def execFdivx (a : Issue) (m : MOp) (s : State) : Res :=
  s.run a (fun _ k => decXInsn a 0x68 m k divRes (fun b y w => fpEff w (decDiv b.drm b.x y) 40 wrX))

/-- FCMPX (R163). -/
def execFcmpx (a : Issue) (m : MOp) (s : State) : Res :=
  s.run a (fun _ k => { mInsn a 0x69 m .x false k true false (pureBody (fun w _ bs =>
    let r : Flags × Nat := decCmp w.k.bank.x (beNat (op1 bs))
    fpEff w { v := 0, e := r.2, tiny := false } 3 (fun _ => [.psw mCVZN r.1.word]))) with r3 := false })

/-- CVDX (R164): ACC.D is checked first. -/
def execCvdx (a : Issue) (s : State) : Res :=
  s.run a (fun _ _ => { aInsn a 0x0F (decBody (fun w _ => checks [checkPacked w.k 1 w.k.bank.d]) (fun w _ => accVal w)
    (fun w _ _ => fpEff w (decOfPacked w.k.bank.drm w.k.bank.d) 6 wrX)) with r3 := false, residue := true })

/-- CVXD (R164). -/
def execCvxd (a : Issue) (s : State) : Res :=
  s.run a (fun _ _ => { aInsn a 0x10 (fun w _ _ =>
    let r : List Byte × Nat := decToPacked w.k.bank.drm w.k.bank.x
    Done.of w (fpEff w { v := 0, e := r.2, tiny := false } 8 (fun _ => [wrD r.1]))
      (if r.2 = 1 then none else some (pval r.1))) with
    r3 := false, residue := true })

end Sys2Proof.Machine
end

