-- ==== Sys2Proof/Machine/HostLinks.lean ====
section
/-! DEFINITION. Host links (18 R479 to R488, 16 R431, R432, R441): training, link down, power states, requests, the
flash window of BAR2, and host reads that time out. -/

namespace Sys2Proof.Machine

/-! ### Links (R431, R432, R480, R486) -/

/-- Sub-link 0 is up: the port answers requests. -/
def State.linkIsUp (s : State) (h : Nat) : Bool :=
  !s.held && (s.hostPort h).perst && (s.hostPort h).nwidth != 0

/-- PERST (R431): ignored while PWRGOOD is low; a low level resets the port. -/
def execPerst (h : Fin 2) (level : Bool) (s : State) : Res :=
  if !s.pins.pwrgood then .next s
  else
    let s1 : State := if level then s else s.portReset h.val
    .next (s1.setHostPort h.val { s1.hostPort h.val with perst := level })

/-- LINK_DOWN (R486): a hot reset, a link disable or a link down is a host port reset. -/
def execLinkDown (h : Fin 2) (s : State) : Res :=
  if s.linkIsUp h.val then .next (s.portReset h.val) else .next s

/-- LINK_RETRAIN_TIMEOUT (R486, R415): a link that is down goes FAULTED with its record. -/
def execLinkRetrainTimeout (h : Fin 2) (s : State) : Res :=
  let x : HostPort := s.hostPort h.val
  if (x.st = .running ∨ x.st = .draining) ∧ x.perst ∧ x.nwidth = 0 then
    .next ((s.setHostPort h.val { x with st := .faulted, fail := 2 }).report (plainRec sevUnit 0x50 5 h.val))
  else .next s

/-- The widest sub-link 0 that WIDTH gives (Table 18-1). -/
def HostPort.lanes (x : HostPort) : Nat := if x.widthSet = 0 then 16 else if x.widthSet = 1 then 8 else 4

/-- Whether a port can train to a width and a rate (R479, R480, Table 18-8). -/
def HostPort.trainsTo (x : HostPort) (k : LinkFacts) : Bool :=
  [1, 2, 4, 8, 16].contains k.width.toNat && decide (k.width.toNat ≤ x.lanes) && decide (1 ≤ k.rate.toNat)
    && decide (k.rate.toNat ≤ x.maxrate.toNat)

/-- LINK_UP (R432): sub-link 0 enters L0. A link that LINK_TEST took down waits for START, as a FAULTED one does. -/
def execLinkUp (h : Fin 2) (k : LinkFacts) (s : State) : Res :=
  let x : HostPort := s.hostPort h.val
  if !s.held && s.boot.stage != 0 && x.perst && x.nwidth == 0 && !x.tested && x.st != .faulted && x.trainsTo k then
    .next (s.setHostPort h.val
      { x with nwidth := k.width, nrate := k.rate, rev := k.reversed, pol := k.polarity })
  else .next s

/-- D3HOT_ENTRY (R486): the function fetches no submission. -/
def execD3hotEntry (f : FnId) (s : State) : Res :=
  let x : HostPort := s.hostPort f.port.val
  if s.linkIsUp f.port.val then .next (s.setHostPort f.port.val { x with d3 := setBit x.d3 f.fn.val true }) else .next s

/-- D0_RETURN (R486): the return performs a function level reset. -/
def execD0Return (f : FnId) (s : State) : Res :=
  let x : HostPort := s.hostPort f.port.val
  if x.d3.getLsbD f.fn.val then
    .next ((s.setHostPort f.port.val { x with d3 := setBit x.d3 f.fn.val false }).flr f)
  else .next s

/-! ### Configuration space (R482, R484) -/

/-- The MSI-X Table Size of a function: one less than its vectors, or 0 while it is unbound (Table 18-4). -/
def State.tableSize (s : State) (f : FnId) : Nat :=
  match s.tenOf f with
  | some t => (s.tenancy t).vecCount - 1
  | none => 0

/-- The bits of configuration space that the spec gives: offset of 4 bytes, mask, value. The identity of Table 18-2
stands where a type 0 header has it, the 64-bit non-prefetchable BARs of 64 KiB of Table 18-3 where the header of a physical
function and the SR-IOV capability have them, the values of Table 18-4 where their capabilities have them (PRESUMED,
log 114). -/
def State.configFields (s : State) (f : FnId) : List (Nat × Nat × Nat) :=
  let pf : Bool := f.fn == 0
  let cap (i : Nat) : Nat := Config.capAt (fnIx f) i
  let serial : Nat := s.part.serial.toNat
  [(0x00, 0xFFFFFFFF, 0x1E9C + (if pf then 0x7C70 else 0x7C71) * 0x10000),
   (0x08, 0xFFFFFFFF, s.part.step.toNat + 0x120000 * 0x100),
   (0x2C, 0xFFFFFFFF, 0x1E9C + 0x7C70 * 0x10000),
   (0x3C, 0xFF00, 0),
   (0x10, 0xFFFF, if pf then 4 else 0), (0x18, 0xFFFF, if pf then 4 else 0), (0x20, 0xFFFF, if pf then 4 else 0),
   (cap 0, 0x000000FF, 0x01),
   (cap 0 + 4, 0x0000000B, if (s.hostPort f.port.val).d3.getLsbD f.fn.val then 3 else 0),
   (cap 1, 0x000000FF, 0x10),
   (cap 1 + 4, 0x10000007, 0x10000002),
   (cap 1 + 0x24, 0x0003000F, 0x0003000F),
   (cap 2, 0x07FF00FF, 0x11 + s.tableSize f * 0x10000),
   (cap 3, 0x0000FFFF, 0x0001),
   (cap 4, 0x0000FFFF, 0x000E),
   (cap 5, 0x0000FFFF, 0x0003), (cap 5 + 4, 0xFFFFFFFF, serial % 2 ^ 32), (cap 5 + 8, 0xFFFFFFFF, serial / 2 ^ 32)]
    ++ (if pf then
      [(cap 6, 0x0000FFFF, 0x0010), (cap 6 + 0x0C, 0xFFFFFFFF, 0x000F000F), (cap 6 + 0x14, 0xFFFFFFFF, 0x00010001),
       (cap 6 + 0x18, 0xFFFF0000, 0x7C710000),
       (cap 6 + 0x24, 0xFFFF, 4), (cap 6 + 0x2C, 0xFFFFFFFF, 0), (cap 6 + 0x30, 0xFFFFFFFF, 0), (cap 6 + 0x34, 0xFFFF, 4)]
    else [])

/-- Four bytes of configuration space: what the spec gives, and free bits elsewhere. -/
def State.configSpace (s : State) (f : FnId) (off : Nat) : W32 :=
  let a : Nat := off / 4 * 4
  (s.configFields f).foldr (fun x (w : W32) =>
    if x.1 = a then (w &&& ~~~ BitVec.ofNat 32 x.2.1) ||| BitVec.ofNat 32 x.2.2 else w) (Config.configWord s.free a)

/-- CONFIGURATION_REQUEST (R432, R482): retry status until CC0 has read the boot configuration block, then the 4 bytes
asked for. -/
def execConfigurationRequest (q : CfgRead) (s : State) : Res :=
  let f : FnId := q.fn
  if s.linkIsUp f.port.val then
    let x : HostPort := s.hostPort f.port.val
    if s.boot.cfgRead then
      .next ({ s with free := s.free + 1 }.setHostPort f.port.val
        { x with last := .success, data := s.configSpace f q.off.toNat })
    else .next (s.setHostPort f.port.val { x with last := .retry })
  else .next s

/-- UNSUPPORTED_REQUEST (R485). -/
def execUnsupportedRequest (h : Fin 2) (s : State) : Res :=
  if s.linkIsUp h.val then .next (s.setHostPort h.val { s.hostPort h.val with last := .unsupported }) else .next s

/-! ### The flash window (R441, R487, R488; Tables 18-5 and 18-6) -/

/-- BAR2 of a physical function answers (R432). -/
def State.bar2 (s : State) (f : FnId) : Bool := f.fn == 0 && s.linkIsUp f.port.val && s.boot.cfgRead

/-- An image slot is in use: bit 0 slot A, bit 1 slot B. A start-up that ended before it selected one uses none. -/
def State.slotUsed (s : State) (b : Bool) : Bool :=
  s.boot.slotB == b && !(s.boot.stage == 0xF && s.boot.fail.toNat ≤ 3)

/-- The slot that holds a flash address (Table 16-5). -/
def flashSlot (a : Nat) : Option Bool :=
  if 0x400000 ≤ a ∧ a < 0xC00000 then some false
  else if 0xC00000 ≤ a ∧ a < 0x1400000 then some true
  else none

/-- A sector whose writing the device refuses (R441). -/
def State.flashProtected (s : State) (a : Nat) : Bool :=
  (decide (0x1000 ≤ a) && decide (a < 0x2000)) || (decide (0x100000 ≤ a) && decide (a < 0x400000))
    || (decide (0x1400000 ≤ a) && decide (a < 0x1C00000))
    || (match flashSlot a with | some b => s.slotUsed b | none => false)

/-- Why an operation is refused, as FWSTAT.ERR: with two reasons, one of them. -/
def State.flashRefuses (s : State) (op : BitVec 2) : Option (BitVec 4) :=
  if op = 1 then none
  else
    let prot : Bool := s.flashProtected s.fwaddr.toNat
    let ret : Bool := s.fuses.lc == 3
    if prot && ret then some (if Config.openChoice s.free then 1 else 2)
    else if prot then some 1
    else if ret then some 2
    else none

/-- A write of OP to FWCTL by a physical function (R487, R488). -/
def State.fwctl (s : State) (f : FnId) (op : BitVec 2) : State :=
  if !s.bar2 f || s.flashOp.isSome then s
  else if f ≠ s.mgmtFn then { s with fwerr := 3 }
  else if op = 0 then s
  else
    match s.flashRefuses op with
    | some e => { s with fwerr := e, free := s.free + 1 }
    | none => { s with flashOp := some { op := op, sector := s.fwaddr.toNat } }

/-- FWCTL_READ (R487). -/
def execFwctlRead (f : FnId) (s : State) : Res := .next (s.fwctl f 1)

/-- FWCTL_ERASE (R487). -/
def execFwctlErase (f : FnId) (s : State) : Res := .next (s.fwctl f 2)

/-- FWCTL_PROGRAM (R487). -/
def execFwctlProgram (f : FnId) (s : State) : Res := .next (s.fwctl f 3)

/-- A byte of the flash as READ finds it: the sealed image and the extension store are free where they hold
anything. -/
def State.flashSees (s : State) (a : Nat) : Byte :=
  if (decide (0x100000 ≤ a) && decide (a < 0x400000) && s.kerb.image.isSome)
      || (decide (0x1400000 ≤ a) && decide (a < 0x1C00000) && s.extensions != []) then Config.storedByte s.free a
  else flashRd s.flash a

/-- The 4,096 bytes of a buffer. -/
def bufBytes (m : List Host.Cell) : List Byte := (List.range 4096).map (fun i => memRd m i)

/-- A buffer of bytes. -/
def bufOf (l : List Byte) : List Host.Cell :=
  (l.zipIdx.filter (fun p => p.1 != memDefault)).map (fun p => (p.2, p.1))

/-- What an operation that failed, or was broken off, leaves of 4,096 bytes. -/
def State.flashDebris (s : State) : List Byte := (List.range 4096).map (Config.flashByte s.free)

/-- The slot bit of a sector. -/
def slotBit (a : Nat) (m : BitVec 2) (on : Bool) : BitVec 2 :=
  match flashSlot a with
  | none => m
  | some b => setBit m b.toNat on

/-- A running flash operation ends (R488): PROGRAM only clears bits. -/
def State.flashEnds (s : State) (x : FlashOp) (fails : Bool) : State :=
  let a : Nat := x.sector
  let s1 : State := { s with flashOp := none, fwerr := if fails then 4 else 0, free := s.free + 1 }
  if x.op = 1 then
    { s1 with fwbuf := bufOf (if fails then s.flashDebris else (List.range 4096).map (fun i => s.flashSees (a + i))) }
  else
    let new : List Byte :=
      if fails then s.flashDebris
      else if x.op = 2 then List.replicate 4096 0xFF
      else (bufBytes s.fwbuf).zipWith (fun b o => b &&& o) (flashRdN s.flash a 4096)
    { s1 with flash := flashWr s.flash a new, torn := slotBit a s.torn false }

/-- FLASH_OPERATION_COMPLETE (R488). -/
def execFlashOperationComplete (fails : Bool) (s : State) : Res :=
  match s.flashOp with
  | none => .next s
  | some x => .next (s.flashEnds x fails)

/-- A host write of 4 or 8 bytes to BAR2 (R487, R488). -/
def State.bar2Write (s : State) (f : FnId) (off : Nat) (wide : Bool) (v : W64) : State :=
  let n : Nat := if wide then 8 else 4
  if !s.bar2 f || off % n != 0 || s.flashOp.isSome then s
  else if off = 0x100 then s.fwctl f (v.truncate 2)
  else if off = 0x108 then { s with fwaddr := v &&& 0xFFFFF000 }
  else if 0x1000 ≤ off ∧ off < 0x2000 then { s with fwbuf := hostPut s.fwbuf (off - 0x1000) (leBytes n v.toNat) }
  else s

/-! ### What the host reads (R12, R13, R332, R481, R487) -/

/-- Four bytes of a doorbell page (Table 12-1); write-only and reserved bits read zero, and so do the pages of queue
pairs that do not exist (R332). -/
def State.pageRead (s : State) (f : FnId) (off : Nat) : Nat :=
  let q : Nat := off / 256
  let o : Nat := off % 256
  match (if s.bar0 f then s.qpOf f q else none) with
  | none => 0
  | some (t, x) =>
    if o = 0x00 then x.sqtail.toNat
    else if o = 0x04 then x.cqhead.toNat
    else if o = 0x08 then x.qstat
    else if o = 0x0C then x.qcfg.toNat
    else if o = 0x10 then x.sqbase.toNat % 2 ^ 32
    else if o = 0x14 then x.sqbase.toNat / 2 ^ 32
    else if o = 0x18 then x.cqbase.toNat % 2 ^ 32
    else if o = 0x1C then x.cqbase.toNat / 2 ^ 32
    else if o = 0x20 then x.cqint.toNat
    else if q = 0 ∧ o = 0x24 then (s.tenancy t).devno.toNat
    else 0

/-- FWSTAT (Table 18-6). -/
def State.fwstat (s : State) : Nat := s.flashOp.isSome.toNat + s.fwerr.toNat * 16

/-- Four bytes of BAR2 (Table 18-5). -/
def State.bar2Read (s : State) (f : FnId) (off : Nat) : Nat :=
  if !s.bar2 f then 0
  else if off = 0x0 then s.bootstat
  else if off = 0x108 then s.fwaddr.toNat
  else if off = 0x110 then s.fwstat
  else if 0x1000 ≤ off ∧ off < 0x2000 then leNat ((List.range 4).map (fun i => memRd s.fwbuf (off - 0x1000 + i)))
  else 0

/-- The bytes of a function's MSI-X table in BAR4: 16 for each of its vectors (R484). -/
def State.tableBytes (s : State) (f : FnId) : Nat := if s.bar0 f && (s.tenOf f).isSome then (s.tableSize f + 1) * 16 else 0

/-- Four bytes of BAR4: the MSI-X table; no vector is ever pending, since the model masks none (log 115). -/
def State.bar4Read (s : State) (f : FnId) (off : Nat) : Nat :=
  if off < s.tableBytes f then leNat ((List.range 4).map (fun i => spGet 0 s.msixTab (fnIx f * 32768 + off + i))) else 0

/-- A host write of 4 or 8 bytes to BAR4: the MSI-X table (Table 18-3). -/
def State.bar4Write (s : State) (f : FnId) (off : Nat) (wide : Bool) (v : W64) : State :=
  let n : Nat := if wide then 8 else 4
  if off % n ≠ 0 ∨ s.tableBytes f < off + n then s
  else { s with msixTab := hostPut s.msixTab (fnIx f * 32768 + off) (leBytes n v.toNat) }

/-- What a host reads with an aligned access of 4 or 8 bytes at an offset of a BAR; other accesses return zero. -/
def State.hostRead (s : State) (f : FnId) (bar off : Nat) (wide : Bool) : Nat :=
  let w (a : Nat) : Nat :=
    if bar = 0 then s.pageRead f a else if bar = 2 then s.bar2Read f a else if bar = 4 then s.bar4Read f a else 0
  if off % (if wide then 8 else 4) ≠ 0 then 0
  else if wide then w off + w (off + 4) * 2 ^ 32
  else w off

/-! ### Host reads that time out (R485, R347, R356) -/

/-- The fetched command that a row names has this opcode. -/
def State.opOf (s : State) (r : CmdRef) : Option Fetched :=
  match s.qpOf r.fn r.q.toNat with
  | none => none
  | some (_, x) => x.fetched.find? (fun e => e.sqix == r.sqix)

/-- HOST_READ_TIMEOUT (R485): the command that reads host memory acts as one whose read fails. A command that reads
none is not concerned. -/
def execHostReadTimeout (r : CmdRef) (s : State) : Res :=
  let q : CmdRef := { r with readFails := true }
  match s.opOf r with
  | none => .next s
  | some e =>
    let ptr : Nat := leAt e.bytes 40 8
    if e.opcode = 0x51 then
      if leAt e.bytes 12 2 = 1 ∧ ptr = 0 then .next s else execSetConfig q s
    else if e.opcode = 0x10 then execLoadProgram q s
    else if e.opcode = 0x11 then execStageArcade q s
    else if e.opcode = 0x13 then execLoadExtension q true true s
    else if e.opcode = 0x20 then
      if ptr = 0 then .next s else execDefineRecord q { home := 0, cls := 0, loc := 0 } s
    else if e.opcode = 0x23 then
      if ptr = 0 then .next s else execClearFlags q s
    else if e.opcode = 0x30 then execPostBatch q [] s
    else if e.opcode = 0x80 then execLcChange q true s
    else .next s

end Sys2Proof.Machine
end

