-- ==== Sys2Proof/Machine/Translate.lean ====
section
/-! DEFINITION. The instructions that write translations and storage keys, and invalidation (10 R262 to
R267, R278 to R289). -/

namespace Sys2Proof.Machine

/-- An invalidation applied to the core at work (R280). -/
def Work.inval (w : Work) (i : Inval) : Work :=
  let s : State := w.put.invalCore i w.c
  { w with s := s, k := s.core w.c }

/-- The scope that stays in the issuing unit (Tables 10-9 and 10-11). -/
def localScope (scope : BitVec 5) : Bool := scope == 4

/-- TLBI or KEYI takes effect: on the issuing unit at once, then as a broadcast (R280). While an access that the
issuing unit made with an invalidated entry is in flight, the unit itself has still to acknowledge (R281). -/
def Work.invalidate (w : Work) (key : Bool) (scope : BitVec 5) (addr : W64) (ten : BitVec 4) : Work :=
  let i : Inval :=
    { from_ := w.c, key := key, scope := scope, addr := addr, ten := ten
      unseen := if localScope scope then [] else otherUnits w.c, unacked := [] }
  let j : Inval := { i with unacked := if w.k.inFlightWith i then [.core w.c] else [] }
  let w1 : Work := w.inval i
  if j.unseen = [] ∧ j.unacked = [] then w1 else { w1 with s := { w1.s with invals := w1.s.invals ++ [j] } }

/-- The common part of TLBI and KEYI: the scope is LEN, in immediate mode too (R99, R278, R279). -/
def invalInsn (a : Issue) (op : Nat) (m : MOp) (key : Bool) (scopes : List Nat) (k : Core) : Insn :=
  { mInsn a op m .any true k false false (workBody (fun w =>
      let w1 : Work := w.drainAll
      let ea : Nat := (mEa m w.k.bank).toNat
      let addr : W64 :=
        if key || !isCc w.c then BitVec.ofNat 64 (w.k.bank.fseg.toNat * 2 ^ 32 + ea)
        else BitVec.ofNat 64 (ccVa w.k w.k.bank.fseg ea)
      let ten : BitVec 4 := if !key && m.len == 2 then w.k.bank.q.truncate 4 else w.k.tten
      (if w1.k.posted = [] then { w1 with pen := w1.pen + w1.k.ackWait w1.k.now }.invalidate key m.len addr ten
        else { w1 with k := { w1.k with hold := some (.inval key m.len addr ten) } },
        Eff.of [] [] 2))) with
    legal := decide (m.am.toNat < 6) && scopes.contains m.len.toNat && !m.long && decide (m.d.toNat < 65536)
    r3 := false, pfx := pfxOk .none a.pre, reqs := [], priv := !k.sup }

/-- TLBI (R278). -/
def execTlbi (a : Issue) (m : MOp) (s : State) : Res :=
  s.run a (fun _ k => invalInsn a 0x6C m false [0, 1, 2, 3, 4] k)

/-- KEYI (R279). -/
def execKeyi (a : Issue) (m : MOp) (s : State) : Res :=
  s.run a (fun _ k => invalInsn a 0x6D m true [0, 1, 4] k)

/-- The image access of TLBWR and TLBRD: 16 bytes, aligned (R266). -/
def slotReq (m : MOp) (k : Core) (write : Bool) : Req :=
  { ea := (mEa m k.bank).toNat, n := 16, far := false, read := !write, write := write, align := 16 }

/-- The common part of TLBWR and TLBRD: engines only, AM absolute, IX or IY plus displacement, LEN the
slot. -/
def slotInsn (a : Issue) (op : Nat) (m : MOp) (k : Core) (write : Bool)
    (f : Work → List (List Loc) → List (List Byte) → Eff) : Insn :=
  { mInsn a op m .any false k false false (pureBody f) with
    legal := !isCc a.core && [1, 2, 3].contains m.am.toNat && !m.long && decide (m.d.toNat < 65536)
    r3 := false, pfx := pfxOk .none a.pre, reqs := [slotReq m k write], priv := !k.sup }

/-- TLBWR (R266). -/
def execTlbwr (a : Issue) (m : MOp) (s : State) : Res :=
  s.run a (fun _ k => slotInsn a 0x6E m k false (fun _ _ bs =>
    Eff.of [(3, .tlb m.len (BitVec.ofNat 64 (beAt (op1 bs) 0 8)) (BitVec.ofNat 64 (beAt (op1 bs) 8 8)))] [] 3))

/-- TLBRD (R266). -/
def execTlbrd (a : Issue) (m : MOp) (s : State) : Res :=
  s.run a (fun _ k => slotInsn a 0x6F m k true (fun w ls _ =>
    let e : Nat × Nat := tlbImage (spGet TlbEnt.empty w.k.tlb m.len.toNat)
    Eff.of [] [stTo w (slotReq m w.k true) ls (beBytes 8 e.1 ++ beBytes 8 e.2)] 3))

/-- The tile key entry that KSET and KGET reach, through the own-tile window or an alias (R289). -/
def keyRegion (c : CoreId) (ea : Nat) : Option Nat :=
  match c with
  | .eng n => if ea < 0x180000 then some (n.val * 128 + ea % tileSize / 4096) else none
  | .cc _ => none

/-- The common part of KSET and KGET. -/
def keyInsn (a : Issue) (op : Nat) (m : MOp) (k : Core) (write : Bool)
    (f : Work → Nat → Work × Eff) : Insn :=
  { eaInsn a op m k (workBody (fun w =>
      let ea : Nat := (mEa m w.k.bank).toNat
      match keyRegion w.c ea with
      | some i => f w i
      | none => (w, Eff.fail (mkFault 4 0x04 ea (w.k.key.toNat + if write then 256 else 0))))) with
    priv := !k.sup }

/-- KSET (R289). -/
def execKset (a : Issue) (m : MOp) (s : State) : Res :=
  s.run a (fun _ k => keyInsn a 0x70 m k true (fun w i =>
    let b : Byte := keyStored (w.k.bank.q.truncate 8)
    ({ w with s := { w.s with tileKeys := spPut w.s.tileKeys i b } }, Eff.of [] [] 2)))

/-- KGET (R289). -/
def execKget (a : Issue) (m : MOp) (s : State) : Res :=
  s.run a (fun _ k => keyInsn a 0x71 m k false (fun w i =>
    (w, Eff.of [(2, wrQ ((spGet 0 w.s.tileKeys i).zeroExtend 64))] [] 2)))

/-- TLBSYNC (R281). -/
def execTlbsync (a : Issue) (s : State) : Res :=
  s.run a (fun _ k => { aInsn a 0x06 (workBody (fun w =>
    ({ w with k := { w.k with hold := if w.s.syncing w.c then some .sync else none } }, Eff.of [] [] 2))) with
    r3 := false, priv := !k.sup })

/-! ### Broadcast invalidations (R280, R281) -/

/-- The oldest invalidation of a unit that satisfies a condition is replaced; one that every unit has
acknowledged is dropped. -/
def invalUpdate (p : Inval → Bool) (f : Inval → Inval) : List Inval → List Inval
  | [] => []
  | i :: r =>
    if p i then
      let j : Inval := f i
      if j.unseen = [] ∧ j.unacked = [] then r else j :: r
    else i :: invalUpdate p f r

/-- INVALIDATION_RECEIVE (R280): steps 1, 2 and 4. -/
def execInvalidationReceive (u : UnitId) (from_ : CoreId) (s : State) : Res :=
  let p (i : Inval) : Bool := i.from_ == from_ && i.unseen.contains u
  match s.invals.find? p with
  | none => .next s
  | some i =>
    let s1 : State := s.invalUnit i u
    let seen (i : Inval) : Inval :=
      { i with unseen := i.unseen.filter (fun v => v != u), unacked := i.unacked ++ [u] }
    .next { s1 with invals := invalUpdate p seen s1.invals }

/-- Whether a unit's accesses made with an entry that an invalidation covers have completed (R280 step 3): a Tram
unit's are complete as they are made. -/
def State.settled (s : State) (i : Inval) : UnitId → Bool
  | .core c => !(s.core c).inFlightWith i
  | .tram _ => true

/-- A TLBSYNC of a core ends once all its invalidations are acknowledged. -/
def State.syncEnd (s : State) (c : CoreId) : State :=
  let k : Core := s.core c
  if k.hold = some .sync ∧ !s.syncing c then s.setCore c k.holdEnd else s

/-- INVALIDATION_ACK (R281): of the oldest invalidation that the unit can acknowledge. -/
def execInvalidationAck (u : UnitId) (from_ : CoreId) (s : State) : Res :=
  let p (i : Inval) : Bool := i.from_ == from_ && i.unacked.contains u && s.settled i u
  if s.invals.any p then
    let acked (i : Inval) : Inval := { i with unacked := i.unacked.filter (fun v => v != u) }
    .next ({ s with invals := invalUpdate p acked s.invals }.syncEnd from_)
  else .next s

end Sys2Proof.Machine
end

