-- ==== Sys2Proof/Machine/Internal.lean ====
section
/-! DEFINITION. What happens in a core beside its instructions: fetches, drains, results, responses,
entries, switches, events, the Letterbox and the responses that never come (02, 07, 08, 11 R301, 15 R411). -/

namespace Sys2Proof.Machine

/-! ### Fetch, drains and results (R81, R190, R195) -/

/-- The port serves the requester that is next at rank 4 or 5, when it is the one asked for: in a cycle that has
passed, or while the core holds issue. The instructions themselves make every such access of the cycles before
theirs (R194, R195). -/
def State.portStep (s : State) (c : CoreId) (g : Grant) : State :=
  let k : Core := s.core c
  match k.nextGrant (isCc c) with
  | none => s
  | some (h, t) =>
    if h = g ∧ (t < k.now ∨ !s.canIssue c) then
      let r : State × Core := s.grant c k g t
      r.1.setCore c r.2
    else s

/-- INSTRUCTION_FETCH (R195): the next block joins the queue while 16 or more of its bytes are free. -/
def execInstructionFetch (c : CoreId) (s : State) : Res := .next (s.portStep c .fetch)

/-- What a check discards of the store-buffer entry that drains (R405, R406, R408; its report: DESIGN CHOICE, log 112):
its own parity fails, an asynchronous machine check of the engine; the tile word that it would change is uncorrectable
and stays as it was, with its record. -/
def State.drainBad (s : State) (c : CoreId) (k : Core) (e : StoreEnt) : HwErr → Option (State × Core)
  | .parity =>
    let x : Exn := mkMc c k 3 sevContained 0xC 0x03 3 0 k.bank.pc.toNat 0 k.bank.pc
    some (s, { k with asyncMc := k.asyncMc.or (some x) })
  | .uncorrectable =>
    some ({ s.report { plainRec sevContained 0x11 0 (engNo c) with
      hop := 0x4, asp := 2, addr := BitVec.ofNat 48 e.off, synd := s.synd 0x4 } with free := s.free + 1 }, k)
  | _ => none

/-- STORE_BUFFER_DRAIN (R81): the oldest entry reaches the tile, unless a check discards it. -/
def execStoreBufferDrain (x : DrainFacts) (s : State) : Res :=
  let c : CoreId := x.core
  let k : Core := s.core c
  match x.err, k.nextGrant (isCc c), k.sbuf with
  | some y, some (.drain, t), e :: r =>
    match (if t < k.now ∨ !s.canIssue c then s.drainBad c k e y else none) with
    | some (s1, k1) => .next (s1.setCore c { k1 with sbuf := r, fetchAt := t + 1 })
    | none => .next (s.portStep c .drain)
  | _, _, _ => .next (s.portStep c .drain)

/-- The earliest cycle in which a result in flight is due. -/
def Core.dueNext (k : Core) : Option Nat :=
  match k.inflight.map (fun f => f.due) with
  | [] => none
  | d :: r => some (r.foldl min d)

/-- RESULT_WRITE (R190): the results due next are written, when their cycle has come or the core holds
issue until it comes. -/
def execResultWrite (c : CoreId) (s : State) : Res :=
  let k : Core := s.core c
  match k.dueNext with
  | none => .next s
  | some d =>
    if d ≤ k.now then .next (s.setCore c (k.settle (isCc c) d))
    else if s.canIssue c then .next s
    else .next (s.setCore c ({ k with now := d }.settle (isCc c) d))

/-! ### Responses (R197, R198, R411) -/

/-- The response of a request to a physical address: a port that is out of service answers POISON
(R469, R473). -/
def State.respAt (s : State) (pa : Option Nat) (r : Resp) : Resp :=
  match r, pa.bind s.portDown with
  | .ok, some code => .poison code
  | _, _ => r

/-- The machine check of a failed access outside the tile (R411, R416): CODE and HOP. -/
def respFault (s : State) (pa : Option Nat) : Resp → Byte × BitVec 4
  | .poison code => (code, hopOf s (match pa with | some a => .phys a | none => .lbox 0))
  | .timeout => (0x21, 0xE)
  | .ok => (0, 0)

/-- The data of the oldest access outside the tile has arrived, `wt.got` cycles later than its count alone would end
(R197): its results fall due, its stores are made, and the next instruction can issue. -/
def Work.farDone (w : Work) (wt : FarWait) : Work :=
  let n : Nat := wt.eff.count + wt.got
  let due (lat : Nat) : Nat := if lat ≤ 2 then n else lat + wt.got
  let cur : Bool := wt.bank == w.k.curIx
  let w1 : Work := { w with count := wt.issued + n - w.k.now }.stores wt.pc wt.eff.st
  let k1 : Core := w1.k.fly wt.bank wt.issued (wt.eff.wr.map (fun p => (due p.1, p.2)))
  let k2 : Core :=
    { k1 with now := if cur then max k1.now (wt.issued + n + w1.pen) else k1.now
              divFree := if wt.divider = 0 then k1.divFree else wt.issued + wt.divider + wt.got }
  let k3 : Core := if cur && wt.back then k2.fetchBack (w1.s.code w.c) else k2
  let (s4, k4) := w1.s.portTo w.c k3 k3.now
  let k5 : Core := k4.settle (isCc w.c) k4.now
  { w1 with s := s4, k := if cur then k5.retire (wt.te && wt.bank != 4) else { k5 with retired := k5.retired + 1 } }

/-- A bank as the instruction of a failed access found it. -/
def Core.rewind (k : Core) (wt : FarWait) : Core :=
  k.setBankAt wt.bank { k.bankAt wt.bank with pc := wt.pc, slot := wt.slot, lc := wt.lc }

/-- The running task waits for an access: its bank is current, and no switch away from it has been issued. -/
def Core.waiting (k : Core) (wt : FarWait) : Bool :=
  wt.bank == k.curIx && match k.hold with | some (.fall _ _) => false | _ => true

/-- The cycles after issue at which a transfer `x` that took `cyc` has arrived: an LDM is made after those before it. -/
def FarWait.arrived (wt : FarWait) (x : Xfer) (cyc : Nat) : Nat :=
  match x.depth with
  | some d => d + wt.got + cyc
  | none => cyc

/-- An access with one transfer more arrived. -/
def FarWait.take (wt : FarWait) (x : Xfer) (rest : List Xfer) (cyc : Nat) : FarWait :=
  { wt with xfers := rest
            got := match x.depth with | some _ => wt.got + (cyc - 1) | none => max wt.got (cyc - 1) }

/-- Every transfer of an access has arrived: it completes, or its exception is decided. A task that was switched out
meets the exception again. -/
def State.farEnd (s : State) (c : CoreId) (k : Core) (wt : FarWait) : State :=
  match wt.eff.exn with
  | none => (Work.farDone { s := s, c := c, k := k, pen := 0 } wt).put
  | some x =>
    if k.waiting wt then
      let t : Nat := max k.now (wt.issued + wt.at_ + wt.got)
      s.setCore c { k.rewind wt with exn := some x, exnFar := true, now := t }
    else s.setCore c k

/-- A transfer has failed (R411, R416): the machine check of the instruction, in place of an event that arrived
during the hold (R203). -/
def State.farFail (s : State) (c : CoreId) (k : Core) (wt : FarWait) (x : Xfer) (cyc : Nat) (r : Resp) : State :=
  let f : Byte × BitVec 4 := respFault s x.pa r
  let s1 : State := match r, x.pa with | .poison code, some pa => s.served pa code | _, _ => s
  let l : Loc := match x.pa with | some pa => .phys pa | none => .lbox 0
  let e (cls : BitVec 2) : Exn := mcAt s1 c k cls f.2 f.1 l x.ea.toNat wt.pc
  if k.waiting wt then
    let t : Nat := max k.now (wt.issued + wt.arrived x cyc)
    s1.setCore c { k.rewind wt with exn := some (e 0), exnFar := true, now := t }
  else s1.setCore c { k.rewind wt with asyncMc := k.asyncMc.or (some (e 3)) }

/-- FAR_LOAD_RESPONSE (R197): the next transfer of the oldest access arrives, `cyc` cycles after it was made. A
response from a square that is being relocked is held (R31). -/
def State.farResponse (s : State) (c : CoreId) (cyc : Nat) (r : Resp) : State :=
  let k : Core := s.core c
  match k.waits with
  | [] => s
  | wt :: rest =>
    let k1 : Core := { k with waits := rest }
    match wt.xfers with
    | [] => s.farEnd c k1 wt
    | x :: xs =>
      if x.pa.any s.heldPa then s
      else
        match s.respAt x.pa r with
        | .ok =>
          let wt1 : FarWait := wt.take x xs cyc
          if xs = [] then s.farEnd c k1 wt1 else s.setCore c { k with waits := wt1 :: rest }
        | bad => s.farFail c k1 wt x cyc bad

/-- FAR_LOAD_RESPONSE (R197). -/
def execFarLoadResponse (c : CoreId) (w : Nat) (r : Resp) (s : State) : Res := .next (s.farResponse c w r)

/-- A hold of issue ends with the last acknowledgement of a posted store. -/
def Work.holdOver (w : Work) : Work := { w with k := { w.k with hold := none, now := max w.k.now w.k.ackAt } }

/-- The fall-back scheduler's SWITCH to `t` issued in cycle `h` (R213): the running task, when it has met a fault,
keeps it for its own boundary; a context-bank fault leaves it current. -/
def Work.fallTo (w : Work) (t : BitVec 6) (h : Nat) : Work :=
  let w1 : Work := { w with k := { w.k with hold := none } }
  match w1.switchTo t h with
  | .ok w2 => w2
  | .error x =>
    { w1 with k := { w1.k with asyncCtx := w1.k.asyncCtx.or (some { x with cls := 3 }), now := max w1.k.now h } }

/-- What waited for the acknowledgement of every posted store goes on (R198, R213, R280). -/
def Work.postedEnd (w : Work) : Work :=
  if w.k.posted = [] then
    match w.k.hold with
    | some .drain => w.holdOver
    | some (.inval key scope addr ten) => w.holdOver.invalidate key scope addr ten
    | some (.fall t h) => w.fallTo t h
    | _ => w
  else w

/-- Whether an entry is made as soon as every posted store is acknowledged (R218 step 3). -/
def State.entryWaits (s : State) (c : CoreId) : Bool :=
  let k : Core := s.core c
  s.runs c && (k.hold.isNone || k.hold == some .wait) && !k.awaiting
    && (if k.inShadow then k.shadowExn.isSome else k.pick.isSome)

/-- A core with its oldest posted store acknowledged: a ninth store ends its hold, and what waits for the
acknowledgement waits until it has come. -/
def Core.acked (k : Core) (p : Posted) : Core :=
  let full : Bool := decide (8 < k.posted.length)
  let at_ : Nat := p.issued + Config.holdTime k.free
  { k with posted := k.posted.drop 1, ackAt := max k.ackAt at_, now := if full then max k.now at_ else k.now
           free := k.free + 1 }

/-- The failure of a posted store: an asynchronous machine check, or, while an entry waits for the store, a failure of
that entry (R198, R218, R227). -/
def Core.postFails (k : Core) (entry : Bool) (x : Exn) : Core :=
  if entry then { k with entryMc := k.entryMc.or (some x) } else { k with asyncMc := k.asyncMc.or (some x) }

/-- The oldest posted store is acknowledged or has failed (R198). One to a square that is being relocked is held
(R31). -/
def State.postedAck (s : State) (c : CoreId) (r : Resp) : State :=
  let k : Core := s.core c
  match k.posted with
  | [] => s
  | p :: _ =>
    if p.cells.any (fun x => s.heldPa x.1) then s
    else
      let pa : Option Nat := (p.cells.head?).map (fun x => x.1)
      let k1 : Core := k.acked p
      match s.respAt pa r with
      | .ok =>
        let s1 : State := (s.setCore c k1).performed c p
        (Work.postedEnd { s := s1, c := c, k := s1.core c, pen := 0 }).put
      | bad =>
        let f : Byte × BitVec 4 := respFault s pa bad
        let code : Byte := match bad with | .timeout => 0x21 | _ => 0x31
        let s1 : State := match bad, pa with | .poison x, some a => s.served a x | _, _ => s
        let l : Loc := match pa with | some a => .phys a | none => .none
        let x : Exn := mcAt s1 c k1 3 f.2 code l p.ea.toNat p.pc
        (Work.postedEnd { s := s1, c := c, k := k1.postFails (s.entryWaits c) x, pen := 0 }).put

/-- POSTED_STORE_ACK (R198). -/
def execPostedStoreAck (c : CoreId) (r : Resp) (s : State) : Res := .next (s.postedAck c r)

/-- The channel of a Tram unit whose request gets no response: the lowest that is at work. -/
def State.tramWaiting (s : State) (q : Nat) : Option Nat :=
  ((List.range 32).map (fun j => q * 32 + j)).find? (fun k => (s.channel k).st == .active)

/-- REQUEST_TIMEOUT (R411): the oldest request of a unit completes as failed with TIMEOUT. -/
def execRequestTimeout (u : UnitId) (s : State) : Res :=
  match u with
  | .core c =>
    let k : Core := s.core c
    if k.waits = [] then .next (s.postedAck c .timeout)
    else .next (s.farResponse c 0 .timeout)
  | .tram q =>
    match s.tramWaiting q.val with
    | none => .next s
    | some k =>
      let ch : Channel := s.channel k
      match ch.phase, ch.desc with
      | .move, some d => .next (tramFail s k 0 0x30 0 (adWith d.src (srcElem d ch.rpos)) false true 0x21)
      | .done, _ => .next (tramFail s k 2 0x30 0 (adWith ch.ccur (adAddr ch.ccur + 30)) false false 0x21)
      | _, _ => .next (tramFail s k 2 0x30 0 ch.ccur true false 0x21)

/-! ### Entries, switches and fills (R212, R213, R218) -/

/-- EXCEPTION_ENTRY (R218). -/
def execExceptionEntry (c : CoreId) (err : Option HwErr) (s : State) : Res :=
  if s.canEnter c then
    let k : Core := s.core c
    let w : Work := Work.idle { s := s, c := c, k := k, pen := 0 } k.now
    .next (Work.entry { w with k := w.k.settle (isCc c) w.k.now } err).put
  else .next s

/-- The first task with its TRDY bit set, searching upward from a task and wrapping at 63 (R213). -/
def Core.nextReady (k : Core) : Option (BitVec 6) :=
  let t : Nat := k.task.toNat
  ((List.range 63).map (fun i => (t + 1 + i) % 64)).findSome? (fun j =>
    if k.trdy.getLsbD j then some (BitVec.ofNat 6 j) else none)

/-- Whether the running task is held as R213 counts it: an access or acknowledgement awaited, or WAIT. -/
def Core.heldTask (k : Core) : Bool :=
  k.awaiting || k.hold == some .wait || k.hold == some .drain || decide (8 < k.posted.length)

/-- Whether the fall-back scheduler can act on a core now. -/
def State.fallback (s : State) (c : CoreId) : Option (BitVec 6) :=
  let k : Core := s.core c
  if s.runs c && !isCc c && !k.inShadow && k.swth != 0 && k.heldTask && k.bank.slot.isNone && k.exn.isNone
      && k.trap.isNone && (k.awaiting || !k.boundary) then
    match k.nextReady with
    | some t => if k.victimBusy t then none else some t
    | none => none
  else none

/-- FALLBACK_SWITCH (R213): a SWITCH issued in the first cycle in which the hold exceeds SWTH; it waits for posted
stores. -/
def execFallbackSwitch (c : CoreId) (s : State) : Res :=
  match s.fallback c with
  | none => .next s
  | some t =>
    let k : Core := s.core c
    let h : Nat := k.now + (if k.awaiting then 1 else 0) + k.swth.toNat
    if k.posted = [] then
      let w : Work := Work.idle { s := s, c := c, k := k, pen := 0 } h
      .next ({ w with k := { w.k.settle false h with now := h, oneStep := false } }.fallTo t h).put
    else .next (s.setCore c { k with hold := some (.fall t h), oneStep := false })

/-- TPRE_FILL_BLOCK (R212): the next block of a background fill, in a cycle in which the port is idle. -/
def execTpreFillBlock (c : CoreId) (s : State) : Res := .next (s.portStep c .fill)

/-! ### Events and timers (R231 to R234, R523) -/

/-- The slots that a source is routed to. -/
def Core.routed (k : Core) (src : Nat) : W32 :=
  BitVec.ofNat 32 ((List.range 32).foldl (fun a i =>
    let r : Route := spGet ⟨0, false⟩ k.evroute i
    if r.v && decide (r.src.toNat = src) then a ||| 2 ^ i else a) 0)

/-- EVENT_RECORD_ARRIVAL (R233). A record to an engine of a square that is being relocked waits (R31). -/
def State.eventTo (s : State) (c : CoreId) (src : Nat) : State :=
  match (if !isCc c && (s.square (coreSquare c)).relock.isSome then none else s.arrive (coreIx c) src true) with
  | none => s
  | some s1 =>
    let k : Core := s1.core c
    s1.setCore c { k with evpend := k.evpend ||| k.routed src }.wake

/-- EVENT_RECORD_ARRIVAL (R233). -/
def execEventRecordArrival (c : CoreId) (src : Fin 384) (s : State) : Res := .next (s.eventTo c src.val)

/-- TIMER_EXPIRY (R523): the timer of a RUNNING group with a period starts again from 0. -/
def execTimerExpiry (m : Fin 32) (s : State) : Res :=
  let q : Square := s.square (m.val / 8)
  let t : Timer := spGet Timer.reset q.timers (m.val % 8)
  if q.group = .running ∧ t.period ≠ 0 then
    let q1 : Square := { q with timers := spPut q.timers (m.val % 8) { t with count := 0 } }
    .next ((s.setSquare (m.val / 8) q1).raise m.val)
  else .next s

/-- An access of a core to its event window or its Letterbox drains the store buffer first (R85). -/
def State.drained (s : State) (c : CoreId) : State :=
  let w : Work := Work.drainAll { s := s, c := c, k := s.core c, pen := 0 }
  { w with k := { w.k with now := w.k.now + w.pen } }.put

/-- SIGOUT (R232). -/
def execSigout (c : CoreId) (s : State) : Res :=
  if s.runs c then .next ((s.drained c).raise (sigSource c)) else .next s

/-! ### The Letterbox (R301) -/

/-- The record of a check that discards a slot on its way to the Letterbox: the Crossing's, or the parity of the
firmware's forming buffers (R405, R406; Table 15-3). -/
def letterRec (s : State) (n : Fin 128) : Option HwErr → Option ErrRec
  | some .uncorrectable => some { plainRec sevContained 0x11 3 (n.val / 32) with hop := 0x3, synd := s.synd 0x3 }
  | some .parity => some { plainRec sevDevice 0x03 1 (n.val / 32 * 2) with hop := 0xC }
  | _ => none

/-- LETTERBOX_WRITE (R301): the oldest waiting write takes the slot at TAIL, or waits while all are full, or while the
square is being relocked (R31). One that a check discards on the way is made again (R20; DESIGN CHOICE, log 112). -/
def execLetterboxWrite (h : EngineHop) (s : State) : Res :=
  let n : Fin 128 := h.eng
  let k : Core := s.core (.eng n)
  match k.lbox.waiting with
  | [] => .next s
  | x :: r =>
    if k.lbox.slots.length < 16 ∧ !s.heldPa (tilePa n.val 0) then
      match letterRec s n h.err with
      | some e => .next { s.report e with free := s.free + 1 }
      | none =>
      let l : Letterbox := { k.lbox with slots := k.lbox.slots ++ [fit 64 x], waiting := r }
      .next (s.setCore (.eng n) { k with lbox := l }.wake)
    else .next s

/-- LETTERBOX_SLOT_READ (R301): the head slot is read and freed. After a device-fatal error engines take no further slot
(R414). -/
def execLetterboxSlotRead (n : Fin 128) (s : State) : Res :=
  if s.runs (.eng n) ∧ !s.fatal then
    let s1 : State := s.drained (.eng n)
    let k : Core := s1.core (.eng n)
    .next (s1.setCore (.eng n) { k with lbox := k.lbox.free })
  else .next s

end Sys2Proof.Machine
end

