-- ==== Sys2Proof/Machine/MemPorts.lean ====
section
/-! DEFINITION. Memory ports at work (17): temperatures, calibration, scrubbing, refresh, and the pattern generators of
memory and host ports. -/

namespace Sys2Proof.Machine

/-! ### Calibration (R465 to R469) -/

/-- A lane has been handed back: the next lane, or the end of the pass at temperature `t` and the further pass that is
due (R467). -/
def Calib.laneDone (c : Calib) (u : Nat) (t : Byte) : Calib :=
  match c.todo with
  | _ :: _ => c.next
  | [] => c.passEnds u t

/-- What the end of a phase does: the subchannel, whether the firmware logs it, and whether calibration has failed
(Table 17-4, R469). -/
def Calib.phaseEnds (c : Calib) (u : Nat) (t : Byte) (ok : Bool) : Calib × Bool × Bool :=
  match c.phase with
  | 0 => (c.next, false, false)
  | 1 => if ok then ({ c with phase := 2 }, false, false) else ({ c.abandon with dfail := true }, true, false)
  | 2 => ({ c with phase := 3, detour := true }, false, false)
  | 3 => ({ c with phase := 4 }, false, false)
  | 4 =>
    if ok then ({ c with phase := 5, fails := 0 }, false, false)
    else if c.fails < 2 then ({ c with phase := 3, fails := c.fails + 1 }, false, false)
    else if c.stopped then (c, false, true)
    else ({ c.abandon with spared := c.lane }, true, false)
  | _ => (c.laneDone u t, false, false)

/-- A subchannel of a port replaced. -/
def MemPort.setCal (x : MemPort) (u : Fin 2) (c : Calib) : MemPort := { x with cal := x.cal.set u.val c }

/-- CAL_PERIOD_EXPIRY (R467): a pass starts on the subchannel of a RUNNING port, and the count of errors per lane
begins again. -/
def execCalPeriodExpiry (p : Fin 8) (u : Fin 2) (s : State) : Res :=
  let x : MemPort := s.memPort p.val
  if x.st = .running then
    .next (s.setMemPort p.val (x.setCal u ({ x.cal.get u with errs := [] }.trigger u.val none)))
  else .next s

/-- CALIBRATION_PHASE (R465, R469). -/
def execCalibrationPhase (p : Fin 8) (u : Fin 2) (ok : Bool) (s : State) : Res :=
  let x : MemPort := s.memPort p.val
  if x.st = .running then
    let r : Calib × Bool × Bool := (x.cal.get u).phaseEnds u.val (x.tempPick (Config.openChoice s.free)) ok
    let s1 : State := { s with free := s.free + 1 }
    if r.2.2 then .next (s1.portFails p.val 5)
    else
      let s2 : State := s1.setMemPort p.val (x.setCal u r.1)
      .next (if r.2.1 then s2.logOpen sevCorrected 0 else s2)
  else .next s

/-! ### Temperature, refresh and scrubbing (R461, R470, R471) -/

/-- A temperature reading differs by 4 °C or more from the one recorded at the last pass (Table 17-5). -/
def Calib.drifted (c : Calib) (t : Byte) : Bool := decide (4 ≤ (t.toInt - c.tlast.toInt).natAbs)

/-- The thermal trigger of a subchannel. -/
def MemPort.thermal (x : MemPort) (u : Fin 2) : MemPort :=
  let c : Calib := x.cal.get u
  if c.drifted x.temp0 || (x.dimms == 2 && c.drifted x.temp1) then x.setCal u (c.trigger u.val none) else x

/-- A module of the port reads 95 °C or above (R470). -/
def MemPort.tooHot (x : MemPort) : Bool := decide (95 ≤ x.temp0.toInt) || (x.dimms == 2 && decide (95 ≤ x.temp1.toInt))

/-- TEMPERATURE_READ (R461): the thermal trigger of a RUNNING port, and a log entry once per minute, which is every
480th reading, at 95 °C or above. -/
def execTemperatureRead (p : Fin 8) (t0 : Byte) (t1 : Byte) (s : State) : Res :=
  let x : MemPort := s.memPort p.val
  if x.dimms = 0 then .next s
  else
    let y : MemPort := { x with temp0 := t0, temp1 := if x.dimms = 2 then t1 else x.temp1 }
    let z : MemPort := if y.st = .running then (y.thermal 0).thermal 1 else y
    if !z.tooHot then .next (s.setMemPort p.val { z with hot := 0 })
    else if z.hot = 0 then .next ((s.setMemPort p.val { z with hot := 479 }).logOpen sevCorrected 0)
    else .next (s.setMemPort p.val { z with hot := z.hot - 1 })

/-- The physical address of a port-local one (R464). -/
def State.portPa (s : State) (p a : Nat) : Option Nat :=
  s.regions.findSome? (fun r =>
    match r.ports.zipIdx.find? (fun x => x.1.1 == p) with
    | some ((_, l), i) =>
      if l ≤ a ∧ a < l + r.m then some (r.base + ((a - l) / 4096 * r.ports.length + i) * 4096 + a % 4096) else none
    | none => none)

/-- PATROL_SCRUB (R471): the next line; a corrected one is written back and noted, an uncorrectable one is recorded. -/
def execPatrolScrub (p : Fin 8) (err : Option HwErr) (lane : Fin 128) (s : State) : Res :=
  let x : MemPort := s.memPort p.val
  if x.st = .running ∧ x.size ≠ 0 then
    let a : Nat := x.scrub * 64
    let pa : Nat := (s.portPa p.val a).getD a
    let u : Fin 2 := Fin.ofNat 2 (a / 64 % 2)
    let y : MemPort := { x with scrub := (x.scrub + 1) % (x.size / 64) }
    let s1 : State := s.setMemPort p.val y
    match err with
    | some .corrected =>
      let s2 : State := s.setMemPort p.val (y.setCal u ((y.cal.get u).laneError u.val lane.val))
      .next ({ s2 with free := s2.free + 1 }.report
        { plainRec sevCorrected 0x10 4 p.val with
          hop := 0xA, asp := 0, addr := BitVec.ofNat 48 pa, synd := s2.synd 0xA })
    | some .uncorrectable =>
      .next ({ s1 with free := s1.free + 1 }.report
        { plainRec sevContained 0x11 4 p.val with
          hop := 0xA, asp := 0, addr := BitVec.ofNat 48 pa, synd := s1.synd 0xA })
    | _ => .next s1
  else .next s

/-- The refreshes of one base interval that a module gets at its temperature: twice as many from 85 °C on (R470). -/
def refreshRate (t : Byte) : Nat := if 85 ≤ t.toInt then 2 else 1

/-- REFRESH (R470): one base interval of a port whose ranks are not in self-refresh. -/
def execRefresh (p : Fin 8) (s : State) : Res :=
  let x : MemPort := s.memPort p.val
  if x.st = .stopped ∨ x.dimms = 0 then .next s
  else
    let n1 : Nat := if x.dimms = 2 then refreshRate x.temp1 else 0
    .next (s.setMemPort p.val
      { x with refreshes := #v[x.refreshes.get 0 + refreshRate x.temp0, x.refreshes.get 1 + n1] })

/-- DQS_DRIFT_CORRECTION (R468). -/
def execDqsDriftCorrection (p : Fin 8) (s : State) : Res :=
  let x : MemPort := s.memPort p.val
  if x.st = .running then .next (s.setMemPort p.val { x with dqs := x.dqs + 1 }) else .next s

/-! ### Pattern generators and checkers (R477, R490; Tables 17-9 and 18-8) -/

/-- A unit has host lanes. -/
def pgHost : PgUnit → Bool
  | .mp _ => false
  | .hp _ => true

/-- The pattern registers of a unit. -/
def State.pgOf (s : State) : PgUnit → Patgen
  | .mp p => (s.memPort p.val).pg
  | .hp h => (s.hostPort h.val).pg

def State.setPg (s : State) (u : PgUnit) (g : Patgen) : State :=
  match u with
  | .mp p => s.setMemPort p.val { s.memPort p.val with pg := g }
  | .hp h => s.setHostPort h.val { s.hostPort h.val with pg := g }

/-- A unit with pattern generators is STOPPED. -/
def State.pgStopped (s : State) : PgUnit → Bool
  | .mp p => (s.memPort p.val).st == .stopped
  | .hp h => (s.hostPort h.val).st == .stopped

/-- PGCTL_RUN (R477): RUN is written 1 only while the unit is STOPPED. -/
def execPgctlRun (u : PgUnit) (on : Bool) (s : State) : Res :=
  if on && !s.pgStopped u then .next s else .next (s.setPg u (pgRun (pgHost u) (s.pgOf u) on))

/-- PGCTL_CLR (R477). -/
def execPgctlClr (u : PgUnit) (s : State) : Res := .next (s.setPg u (pgClr (s.pgOf u)))

/-- PATTERN_CHECKER_LOCK (R477): the checker of an enabled lane of a running unit has received the 64 bits that
the generator sent then; it sets LOCK, and counts the errors. Where no listed pattern
is selected, whether the bits are the right ones is free. -/
def execPatternCheckerLock (u : PgUnit) (x : PatternSeen) (s : State) : Res :=
  let p : Patgen := s.pgOf u
  let ok : Bool := pgLocked p x.lane.val || (match pgSent (pgHost u) p x.lane.val x.at_.toNat with
    | some w => w == x.rx
    | none => Config.openChoice s.free)
  if ok then .next ({ s with free := s.free + 1 }.setPg u (pgLock (pgHost u) p x.lane.val x.errors))
  else .next { s with free := s.free + 1 }

end Sys2Proof.Machine
end

