-- ==== Sys2Proof/Machine/Resets.lean ====
section
/-! DEFINITION. Resets of the device and start-up (16 R429 to R442, 17 R458 to R464). -/

namespace Sys2Proof.Machine

/-! ### Device and power-on reset (Table 16-1) -/

/-- A host port after a reset of the device: the level of PERST# stays. -/
def HostPort.afterReset (x : HostPort) : HostPort := { HostPort.reset with perst := x.perst }

/-- The flash after a reset: an operation that was writing is broken off (R456). -/
def State.flashBroken (s : State) : State :=
  match s.flashOp with
  | none => s
  | some x =>
    if x.op = 1 then s
    else { s with flash := flashWr s.flash x.sector s.flashDebris, torn := slotBit x.sector s.torn true }

/-- The Kerb after a device reset: the VBAT domain, the fuses and the sealed image stay, and the count of wipes since
the last power-on reset (Tables 16-1 and 16-15). -/
def Kerb.afterReset (k : Kerb) : Kerb :=
  { lock := true, empty := true, sealed_ := false, keyok := k.keyok, wipes := k.wipes, tampstat := 0
    tampen := k.tampen, vbatRec := k.vbatRec, image := k.image, forced := false }

/-- The squares after a device reset: each at the maximum clock of the grade (R3, Table 13-9). -/
def State.squaresReset (s : State) : Sparse Square :=
  if s.part.t20 then [] else (List.range 4).map (fun q => (q, { Square.reset with eclk := 1600 }))

/-- A device reset (R429, R430). Attached memory lies outside the device and keeps its bytes, those of the key array
among them (R285; DESIGN CHOICE, log 1). -/
def State.deviceReset (s : State) : State :=
  let b : State := s.flashBroken
  { State.reset with
    mem := s.mem.filter (fun c => decide (c.1 < sqBase)), keyArr := s.keyArr, layout := s.layout
    squares := s.squaresReset
    pending := s.pending, part := s.part, hostMem := s.hostMem
    hostPorts := [(0, (s.hostPort 0).afterReset), (1, (s.hostPort 1).afterReset)]
    fuses := s.fuses, extensions := s.extensions, flash := b.flash, torn := b.torn, kerb := s.kerb.afterReset
    mgmt := { State.reset.mgmt with sensors := s.mgmt.sensors, thermtrip := s.mgmt.thermtrip }
    tap := s.tap, pins := s.pins, free := s.free + 1 }

/-- A power-on reset (Table 16-1): as a device reset, with the test access port and attached memory, which loses power
(log 1); the count of wipes and THERMTRIP_N start again (Table 16-15, R521). -/
def State.powerOnReset (s : State) : State :=
  let t : State := s.deviceReset
  { t with
    mem := [], keyArr := [], layout := State.reset.layout, kerb := { t.kerb with wipes := 0 }
    mgmt := { t.mgmt with thermtrip := false }, tap := State.reset.tap }

/-- The device enters the hold of device reset (R498, R513): it is reset unless it was held already. -/
def State.holdBegins (s : State) : State := if s.held then s else s.deviceReset

/-! ### The boot configuration block (R437, Table 16-6) -/

/-- What the boot configuration block says. -/
structure BootCfg where
  mgmt : Fin 2
  width0 : Nat
  width1 : Nat
  maxrate : Nat
  rate : Nat
deriving DecidableEq, Repr

/-- The defaults. -/
def BootCfg.default : BootCfg := { mgmt := 0, width0 := 0, width1 := 0, maxrate := 5, rate := 6400 }

/-- Whether a block is valid. -/
def bootCfgValid (l : List Byte) : Bool :=
  slice l 0 4 == [0x4C, 0x58, 0x42, 0x43] && leAt l 4 1 == 1 && decide (leAt l 5 1 ≤ 1)
    && decide (leAt l 6 1 ≤ 2) && decide (leAt l 7 1 ≤ 2) && decide (1 ≤ leAt l 8 1) && decide (leAt l 8 1 ≤ 5)
    && decide (3200 ≤ leAt l 9 2) && decide (leAt l 9 2 ≤ 6400) && leAt l 9 2 % 400 == 0
    && allZero (slice l 11 4081) && leAt l 4092 4 == crc32c (l.take 4092)

/-- The fields of a block. -/
def bootCfgOf (l : List Byte) : BootCfg :=
  { mgmt := Fin.ofNat 2 (leAt l 5 1), width0 := leAt l 6 1, width1 := leAt l 7 1, maxrate := leAt l 8 1
    rate := leAt l 9 2 }

/-- The configuration in use, or none when the defaults are. -/
def State.bootCfg? (s : State) : Option BootCfg :=
  let l : List Byte := flashRdN s.flash 0 4096
  if bootCfgValid l then some (bootCfgOf l) else none

/-! ### Start-up (R433, Table 16-2) -/

/-- Start-up ends with FAILED (Table 16-4): the configuration space of the ports answers, and the alert is asserted
(R435, R495). -/
def State.bootFails (s : State) (code : Byte) : State :=
  { s with boot := { s.boot with stage := 0xF, fail := code, cfgRead := true } }.alertOn

/-- Step 3, the configuration block: the managing function, link and memory settings (R437). -/
def State.configured (s : State) : State :=
  let c : BootCfg := s.bootCfg?.getD BootCfg.default
  let link (h : Nat) (w : Nat) : HostPort :=
    { s.hostPort h with widthSet := BitVec.ofNat 64 w, maxrate := BitVec.ofNat 64 c.maxrate }
  { s with boot := { s.boot with mgmt := c.mgmt, defcfg := s.bootCfg?.isNone, cfgRead := true }
           hostPorts := [(0, link 0 c.width0), (1, link 1 c.width1)]
           memPorts := (List.range 8).map (fun p => (p, { MemPort.reset with rateSet := BitVec.ofNat 16 c.rate }))
           tenancies := [(0, { Tenancy.reset with bound := some ⟨c.mgmt, 0⟩, qps := [(0, QPair.reset)] })] }

/-- A copy of an entry of the error area: PREV, a new LSEQ and LSEAL (R423). -/
def prevEntry (l : List Byte) (lseq : Nat) : List Byte :=
  let b : List Byte := leBytes 8 lseq ++ slice l 8 8 ++ [byteAt l 16 ||| 1] ++ slice l 17 43
  b ++ leBytes 4 (crc32c b)

/-- The entries of the flash error area are copied into the log (R423). -/
def State.copyErrors (s : State) : State :=
  ((List.range 64).filter (fun j => !errFree s.flash j)).foldl (fun s j =>
    { s.wrN (logBase + s.lseq % 16384 * 64) (prevEntry (errEntry s.flash j) s.lseq) with lseq := s.lseq + 1 }) s

/-- What the tamper monitor finds at start-up (R455): the record of the VBAT domain, and VBAT too low. -/
def State.tamperFound (s : State) (vbatLow : Bool) : State :=
  let r : Nat := s.kerb.vbatRec.toNat
  let bits_ : Nat := (if vbatLow then 4 else 0) + (if r ≠ 0 then 64 + r else 0)
  let k : Kerb := { s.kerb with tampstat := s.kerb.tampstat ||| BitVec.ofNat 8 bits_, vbatRec := 0
                                keyok := s.kerb.keyok && !vbatLow }
  let t : State := { s with kerb := k }
  if bits_ ≠ 0 then t.alertOn else t

/-- A verified image: the fields of its header that start-up uses, and what its digests say (Table 16-7). -/
structure Image where
  fwver : W32
  svn : W32
  raise : Bool
  coreOk : Bool
  auxOk : Bool
deriving DecidableEq, Repr

/-- MAGIC, the zero fields and the lengths of an image header are correct (R439, Table 16-7). -/
def imageForm (l : List Byte) : Bool :=
  slice l 0 4 == [0x4C, 0x58, 0x37, 0x46] && decide (leAt l 12 1 < 2) && allZero (slice l 13 3)
    && decide (64 ≤ leAt l 16 4) && decide (leAt l 16 4 ≤ 786432) && leAt l 16 4 % 64 == 0
    && decide (leAt l 20 4 ≤ 7340032) && leAt l 20 4 % 64 == 0 && allZero (slice l 120 296)

/-- Where an image slot begins in the flash (Table 16-5). -/
def slotBase (b : Bool) : Nat := if b then 0xC00000 else 0x400000

/-- The image of a slot, where the boot ROM verifies its header: its form, SIG, SVN at least the fuse floor, and not one
whose writing a reset broke off (R439, R456). FWVER is compared with the major byte, the first, most significant. -/
def State.slotOk (s : State) (b : Bool) (x : SlotFacts) : Option Image :=
  let l : List Byte := flashRdN s.flash (slotBase b) 512
  if !s.torn.getLsbD b.toNat && imageForm l && x.sigOk && decide (s.fuses.floor.toNat ≤ leAt l 8 4) then
    some { fwver := BitVec.ofNat 32 (beAt l 4 4), svn := BitVec.ofNat 32 (leAt l 8 4), raise := bit (leAt l 12 1) 0
           coreOk := x.coreOk, auxOk := x.auxOk }
  else none

/-- The slot that the boot ROM selects, false for A: the higher FWVER first, slot A on equal ones, the other when CHASH
fails (R439). -/
def pickSlot (a b : Option Image) : Option (Bool × Image) :=
  let order : List (Bool × Image) :=
    match a, b with
    | some x, some y => if x.fwver.toNat < y.fwver.toNat then [(true, y), (false, x)] else [(false, x), (true, y)]
    | some x, none => [(false, x)]
    | none, some y => [(true, y)]
    | none, none => []
  order.find? (fun p => p.2.coreOk)

/-- Step 4: the Kerb according to the life-cycle state (R451, R453). -/
def State.kerbStep (s : State) (opens : Bool) : State :=
  let k : Kerb := s.kerb
  let bare : Kerb := { k with lock := s.fuses.lc == 3, empty := true, sealed_ := false }
  let clear : List Host.Cell := spClear s.mem (sqPa 0 kerbOff) 0x200000
  match k.image with
  | some l =>
    if (s.fuses.lc = 1 ∨ s.fuses.lc = 2) ∧ k.keyok ∧ opens then
      { s with mem := l.foldl (fun m c => memWr m (sqPa 0 kerbOff + c.1) c.2) clear
               kerb := { k with lock := false, empty := false, sealed_ := true } }
    else { s with mem := clear, kerb := bare }
  | none => { s with mem := clear, kerb := bare }

/-! ### Memory training (R458 to R460, R464) -/

/-- A module of Table 17-1. -/
def DimmKnown (d : DimmFacts) : Bool := [(32, 1), (48, 1), (64, 2)].contains (d.gib, d.ranks) && d.rdimm && d.x4

/-- What is wrong with a port's modules, as FAIL of Table 17-7. -/
def populationBad (a b : Option DimmFacts) : Option Byte :=
  let all : List DimmFacts := a.toList ++ b.toList
  if all.any (fun d => d.gib == 0) then some 3
  else if !all.all DimmKnown then some 2
  else if b.isSome && a != b then some 1
  else none

/-- A port at training: absent, FAULTED, or RUNNING with its modules. -/
def MemPort.train (x : MemPort) (f : PortFacts) : MemPort :=
  let all : List DimmFacts := f.slot0.toList ++ f.slot1.toList
  let bad : Byte := (populationBad f.slot0 f.slot1).getD 0
  let y : MemPort :=
    { x with dimms := all.length, spdRate := f.spdRate, bad := bad
             fitted := if bad = 0 then (all.map (fun d => d.ranks)).foldl (· + ·) 0 else 0
             size := if bad = 0 then (all.map (fun d => d.gib)).foldl (· + ·) 0 * 2 ^ 30 else 0 }
  if all = [] then x
  else
    if bad ≠ 0 then { y with st := .faulted, fail := bad }
    else if !f.trains then { y with st := .faulted, fail := 4 }
    else
      { y with st := .running, ranks := y.fitted
               rate := if f.spdRate.toNat ≤ x.rateSet.toNat then f.spdRate else x.rateSet }

/-- The regions of the interleave over what remains of each port: its number, the bytes left and the port-local address
reached (R464). -/
def interleave : Nat → Nat → List (Nat × Nat × Nat) → List Region
  | 0, _, _ => []
  | k + 1, base, l =>
    match l.filter (fun p => decide (0 < p.2.1)) with
    | [] => []
    | p :: r =>
      let m : Nat := r.foldl (fun a q => min a q.2.1) p.2.1
      let g : Region := { base := base, m := m, ports := (p :: r).map (fun q => (q.1, q.2.2)) }
      g :: interleave k (base + (r.length + 1) * m) ((p :: r).map (fun q => (q.1, q.2.1 - m, q.2.2 + m)))

/-- The end of the last region. -/
def installedOf (l : List Region) : Nat := l.foldl (fun _ r => r.base + r.ports.length * r.m) 0

/-- Step 5: every populated port trains, and the interleave is built over those that did. -/
def State.trained (s : State) (l : List PortFacts) : State :=
  let s1 : State := l.foldl (fun s f =>
    let x : MemPort := (s.memPort f.port.val).train f
    let s1 : State := s.setMemPort f.port.val x
    if x.st = .faulted then s1.report (plainRec sevUnit 0x50 4 f.port.val) else s1) s
  let up : List Nat := (List.range 8).filter (fun p => (s1.memPort p).st == .running)
  let g : List Region := interleave 8 0 (up.map (fun p => (p, (s1.memPort p).size, 0)))
  { s1 with regions := g, installed := installedOf g
            boot := { s1.boot with portok := BitVec.ofNat 8 ((up.map (fun p => 2 ^ p)).foldl (· + ·) 0) } }

/-- The rest of step 5: KABASE and DIRBASE, every byte of the key array, the directory and the record tables of the
tenancies cleared (R295, R296). -/
def State.structures (s : State) (b : BootFacts) : State :=
  let ka : W64 := b.kabase.zeroExtend 64 &&& 0x0000FFFFFFF00000
  let da : W64 := b.dirbase.zeroExtend 64 &&& 0x0000FFFF80000000
  let ta : Nat := b.tables.toNat / 4096 * 4096
  let keys : Nat := s.installed / 4096
  let clear : List Host.Cell :=
    spClear (spClear (spClear s.mem ka.toNat keys) da.toNat dirSize) ta (16 * s.tabStride)
  { s with kabase := ka, dirbase := da, keyArr := [], dir := [], mem := clear
           layout := { live := true, keyBase := ka.toNat, keyLen := keys, dirBase := da.toNat, tabBase := ta }
           boot := { s.boot with stage := 4 } }

/-! ### Squares, streets and readiness (R433, R434, R440) -/

/-- Step 6 for one square: its clock at the grade maximum, its bring-up, the standard self-test of its streets. -/
def State.squareStep (b : BootFacts) (s : State) (q : Nat) : State :=
  let x : Square := { Square.reset with eclk := if s.part.t20 then 2000 else 1600 }
  if b.squares.getLsbD q then
    let s1 : State := (s.setSquare q { x with st := .running }).bringUp q
    let s2 : State := { s1 with boot := { s1.boot with sqok := setBit s1.boot.sqok q true } }
    (List.range 4).foldl (fun s i =>
      let g : Nat := 4 * q + i
      if b.streets.getLsbD g then s
      else (s.setStreet g { Street.reset with st := .faulted }).logOpen sevUnit 5) s2
  else (s.setSquare q { x with st := .faulted, group := .stopped }).logOpen sevUnit 5

/-- Step 6: every stored package is verified again and installed, and one that fails is discarded (R442). -/
def State.restored (s : State) (bad : List W32) : State :=
  { s with extensions := s.extensions.filter (fun x => !bad.contains x.opmap) }

/-- Step 7: tenancy 0 and the host links run, STAGE is READY, and the fuse floor is raised where the image says so
(R434, R440). -/
def State.readyStep (s : State) (x : Image) : State :=
  let run (p : Nat × HostPort) : Nat × HostPort := (p.1, { p.2 with st := .running })
  let f : W32 := if x.raise ∧ s.fuses.floor.toNat < x.svn.toNat then x.svn else s.fuses.floor
  let s1 : State := s.setTenancy 0 { s.tenancy 0 with st := .running }
  { s1 with hostPorts := s1.hostPorts.map run, fuses := { s1.fuses with floor := f }, boot := { s1.boot with stage := 6 } }

/-- The steps from 4 on, with the selected image. -/
def State.startUp4 (s : State) (b : BootFacts) (slotB : Bool) (x : Image) : State :=
  let s0 : State := { s with boot := { s.boot with stage := 2, slotB := slotB, fwver := x.fwver } }
  let s1 : State := s0.kerbStep b.kerbOpens
  let s2 : State := { s1 with boot := { s1.boot with stage := 3 } }.trained b.ports
  if s2.regions = [] then s2.bootFails 0x04
  else if !x.auxOk then s2.bootFails 0x05
  else
    let s3 : State := (List.range 4).foldl (State.squareStep b) (s2.structures b)
    if !b.squares.getLsbD 0 then s3.bootFails 0x06
    else { s3.restored b.extBad with boot := { s3.boot with stage := 5 } }.readyStep x

/-- Start-up from step 2 on (Table 16-2). -/
def State.startUp (s : State) (b : BootFacts) : State :=
  let s1 : State := { s with boot := { s.boot with stage := 1 } }.tamperFound b.vbatLow
  if !b.fuses then s1.bootFails 0x03
  else if !b.flash then s1.bootFails 0x01
  else
    let s2 : State := s1.configured.copyErrors
    match pickSlot (s2.slotOk false b.slotA) (s2.slotOk true b.slotB) with
    | none => s2.bootFails 0x02
    | some (slotB, x) => s2.startUp4 b slotB x

end Sys2Proof.Machine
end

