-- ==== Sys2Proof/Machine/Mgmt.lean ====
section
/-! DEFINITION. The management port and the test access port (18 R492 to R500). -/

namespace Sys2Proof.Machine

/-! ### SMBus commands (Table 18-10) -/

/-- BOOTSTAT.STAGE has reached a value: a start-up that failed has reached what precedes its failure. -/
def State.reached (s : State) (n : Nat) : Bool :=
  if s.boot.stage = 0xF then
    decide (n ≤ match s.boot.fail.toNat with | 4 => 3 | 5 => 3 | 6 => 4 | _ => 1)
  else decide (n ≤ s.boot.stage.toNat)

/-- What the port answered and LASTERR. -/
def State.smb (s : State) (out : List Byte) (err : Byte) : State :=
  { s with mgmt := { s.mgmt with out := out, lasterr := err } }

/-- A command that the hardware serves while PWRGOOD is high, and what it answers. -/
def State.smbHw (s : State) (out : List Byte) : State :=
  if s.pins.pwrgood then { s with mgmt := { s.mgmt with out := out } } else s

/-- The hottest of the 23 sensors (R520). -/
def Mgmt.hottest (m : Mgmt) : BitVec 16 :=
  m.sensors.toList.foldl (fun a b => if a.toInt < b.toInt then b else a) (m.sensors.get 0)

/-- GET_STATUS (R493). -/
def execGetStatus (s : State) : Res :=
  .next (s.smbHw (leBytes 4 s.bootstat ++ leBytes 2 s.mgmt.hottest.toNat ++ [s.kerb.tampstat, s.mgmt.lasterr]))

/-- FWVER as GET_IDENT gives it: zero before READY. -/
def State.identFwver (s : State) : List Byte := if s.ready then beBytes 4 s.boot.fwver.toNat else zeros 4

/-- GET_IDENT (R493). -/
def execGetIdent (s : State) : Res :=
  .next (s.smbHw (ordCode s.part.t20 ++ leBytes 1 (if s.part.t20 then 0x20 else 0x16) ++ [s.part.step]
    ++ leBytes 1 s.fuses.lc.toNat ++ zeros 1 ++ leBytes 8 s.part.serial.toNat ++ s.identFwver))

/-- A command that the firmware serves from a stage on: LASTERR 1 before it, 3 for a wrong length (R493). -/
def State.smbFw (s : State) (stage : Nat) (lenOk : Bool) (f : State) : State :=
  if !s.pins.pwrgood then s
  else if !s.reached stage then s.smb [] 1
  else if !lenOk then s.smb [] 3
  else f

/-- The registers that the management port and the test access port reach (R494). -/
def reachable (u off : Nat) : Bool := (decide (u < 8) && decide (off < 0x1800)) || ((u == 8 || u == 9) && decide (off < 0x1100))

/-- A register as they read it. -/
def State.mgRead (s : State) (u off : Nat) : Nat := if u < 8 then mpRead s u off else hpRead s (u - 8) off

/-- RUN set here is known to LINK_TEST (R500). -/
def Patgen.fromMgmt (old new : Patgen) (off : Nat) : Patgen :=
  { new with byMgmt := new.byMgmt || (off == 0x200 && new.pgctl.getLsbD 4 && !old.pgctl.getLsbD 4) }

/-- A write here: only PGCTL, PGUSER and the PGMASK registers change (R494). -/
def State.mgWrite (s : State) (u off : Nat) (v : W64) : State :=
  let m : W64 := BitVec.allOnes 64
  if u < 8 then
    let x : MemPort := s.memPort u
    s.setMemPort u { x with pg := x.pg.fromMgmt (pgPut false (x.st == .stopped) x.pg off m v) off }
  else
    let x : HostPort := s.hostPort (u - 8)
    s.setHostPort (u - 8) { x with pg := x.pg.fromMgmt (pgPut true (x.st == .stopped) x.pg off m v) off }

/-- READ_REG (R494): UNIT and OFFSET are 4 bytes. -/
def execReadReg (n : Nat) (u : Byte) (off : BitVec 24) (s : State) : Res :=
  .next (s.smbFw 2 (n == 4)
    (if reachable u.toNat off.toNat then s.smb (leBytes 8 (s.mgRead u.toNat off.toNat)) 0 else s.smb [] 2))

/-- WRITE_REG (R494): UNIT, OFFSET and a value are 12 bytes. -/
def execWriteReg (n : Nat) (u : Byte) (off : BitVec 24) (v : W64) (s : State) : Res :=
  .next (s.smbFw 2 (n == 12)
    (if reachable u.toNat off.toNat then (s.mgWrite u.toNat off.toNat v).smb [] 0 else s.smb [] 2))

/-- SMB_READ_LOG (R493): the entry, or zeros when the ring does not hold it (R428). -/
def execSmbReadLog (n : Nat) (x : SmbLog) (s : State) : Res :=
  let i : Nat := x.lseq.toNat
  .next (s.smbFw 6 (n == 8) (s.smb (if s.logOldest ≤ i ∧ i < s.lseq then s.logRead i x.bad else zeros 64) 0))

/-- DEVICE_RESET (R493): the value 0xA5 causes a device reset, others are ignored. -/
def execDeviceReset (v : Byte) (s : State) : Res :=
  if s.pins.pwrgood ∧ v = 0xA5 then .next s.deviceReset else .next s

/-- SMB_ALERT_N is released (R495). -/
def State.alertOff (s : State) : State :=
  if s.pins.pwrgood then { s with mgmt := { s.mgmt with alert := false } } else s

/-- CLEAR_ALERT (R495). -/
def execClearAlert (s : State) : Res := .next s.alertOff

/-- ALERT_RESPONSE_ADDRESS (R495). -/
def execAlertResponseAddress (s : State) : Res := .next s.alertOff

/-- A cause of the alert persists (R495). -/
def State.alertCause (s : State) : Bool :=
  decide (460 ≤ s.mgmt.hottest.toInt) || s.boot.stage == 0xF || s.kerb.tampstat != 0 || s.fatal

/-- ALERT_REASSERT (R495). -/
def execAlertReassert (s : State) : Res :=
  if s.pins.pwrgood ∧ s.alertCause then .next s.alertOn else .next s

/-! ### The test access port (Tables 18-11 and 18-12) -/

/-- A test instruction takes effect at Update-IR. -/
def State.setIr (s : State) (ir : Byte) : State := { s with tap := { s.tap with ir := ir } }

/-- A boundary test instruction takes effect: the device is held in device reset (R498). -/
def State.boundary (s : State) (ir : Byte) : State := s.holdBegins.setIr ir

/-- EXTEST (R498). -/
def execExtest (s : State) : Res := .next (s.boundary 0x00)

/-- SAMPLE_PRELOAD (R497). -/
def execSamplePreload (s : State) : Res := .next (s.setIr 0x01)

/-- IDCODE (R496). -/
def execIdcode (s : State) : Res := .next (s.setIr 0x02)

/-- CLAMP (R498). -/
def execClamp (s : State) : Res := .next (s.boundary 0x03)

/-- HIGHZ (R498). -/
def execHighz (s : State) : Res := .next (s.boundary 0x04)

/-- EXTEST_PULSE (R498). -/
def execExtestPulse (s : State) : Res := .next (s.boundary 0x05)

/-- EXTEST_TRAIN (R498). -/
def execExtestTrain (s : State) : Res := .next (s.boundary 0x06)

/-- The codes of Table 18-11 other than BYPASS. -/
def tapCodes : List Byte := [0x00, 0x01, 0x02, 0x03, 0x04, 0x05, 0x06]

/-- BYPASS (R497): a listed code is not this command, and acts as 0xFF here. -/
def execBypass (code : Byte) (s : State) : Res := .next (s.setIr (if tapCodes.contains code then 0xFF else code))

/-- The value of the IDCODE register (R496). -/
def State.idcode (s : State) : W32 := 0x07C707B3 + BitVec.ofNat 32 (s.part.ver.toNat * 2 ^ 28)

/-- PGACC is an instruction of the present life-cycle state. -/
def State.pgaccOn (s : State) : Bool := s.fuses.lc == 0 || s.fuses.lc == 1

/-- A PGACC request: refused before stage 2 and outside the reach of R494, else `f` with its DATA (R499). -/
def State.pgacc (s : State) (u : Byte) (off : BitVec 24) (op : BitVec 2) (f : State) (data : W64) : State :=
  if !s.pgaccOn then s.setIr 0x10
  else
    let u4 : BitVec 4 := u.truncate 4
    let ok : Bool := s.reached 2 && reachable u4.toNat off.toNat
    let t : State := if ok then f else s
    { t with tap := { ir := 0x10, data := if ok then data else 0, off := off, u := u4, err := !ok, done := true, op := op } }

/-- PGACC_READ (R499). -/
def execPgaccRead (u : Byte) (off : BitVec 24) (s : State) : Res :=
  .next (s.pgacc u off 1 s (BitVec.ofNat 64 (s.mgRead (u.toNat % 16) off.toNat)))

/-- PGACC_WRITE (R499). -/
def execPgaccWrite (u : Byte) (off : BitVec 24) (v : W64) (s : State) : Res :=
  .next (s.pgacc u off 2 (s.mgWrite (u.toNat % 16) off.toNat v) v)

/-- TRST_N (R496): Test-Logic-Reset. -/
def execTrstN (s : State) : Res := .next { s with tap := State.reset.tap }

end Sys2Proof.Machine
end

