-- ==== Sys2Proof/Machine/Ring.lean ====
section
/-! DEFINITION. Flits from the Ring Road (15 R410, R411) and writes to registers that have no row of their own (R13,
R231, R332, R333, R487). -/

namespace Sys2Proof.Machine

/-! ### Flits (Table 15-2) -/

/-- SEAL of a flit, as carried and as computed. -/
def flitSeal (f : Flit) : Nat := beAt f.header 12 4
def flitCrc (f : Flit) : Nat := crc32c (fit 12 f.header ++ f.payload)

/-- CLASS and POISON. -/
def flitClass (f : Flit) : Nat := bits (byteAt f.header 0).toNat 6 2
def flitPoison (f : Flit) : Bool := bit (byteAt f.header 0).toNat 5

/-- The unit behind a stop, as UTYPE and UIDX (Table 1-3). -/
def stopUnit (st : Nat) : Nat × Nat :=
  match st with
  | 0 => (3, 0)
  | 1 => (7, 0)
  | 2 => (4, 0)
  | 3 => (4, 1)
  | 4 => (5, 0)
  | 5 => (3, 1)
  | 6 => (4, 2)
  | 7 => (4, 3)
  | 8 => (3, 2)
  | 9 => (8, 0)
  | 10 => (4, 4)
  | 11 => (4, 5)
  | 12 => (5, 1)
  | 13 => (3, 3)
  | 14 => (4, 6)
  | _ => (4, 7)

/-- The record of a flit whose seal fails (R411): HOP 2, CODE SEAL, what the header carries. -/
def flitBadRec (f : Flit) (st : Nat) : ErrRec :=
  { plainRec sevContained 0x20 (stopUnit st).1 (stopUnit st).2 with
    hop := 2, asp := 0, addr := BitVec.ofNat 48 (beAt f.header 6 6)
    synd := BitVec.ofNat 64 (flitSeal f * 2 ^ 32 + flitCrc f), ten := BitVec.ofNat 4 (byteAt f.header 3).toNat }

/-- A response flit: the oldest awaited access of its core ends. -/
def State.respondTo (s : State) (c : CoreId) (poison : Bool) : State :=
  let r : Resp := if poison then .poison 0x11 else .ok
  if (s.core c).waits = [] then s.postedAck c r
  else { s with free := s.free + 1 }.farResponse c (1 + Config.holdTime s.free) r

/-- A flit that is discarded: an event record that it carried is lost. -/
def State.flitLost (s : State) (act : FlitAct) : State :=
  match act with
  | .event c src => (s.arrive (coreIx c) src.val true).getD s
  | _ => s

/-- RING_FLIT_RECEIVE (R410, R411): the receiving unit verifies the seal, then acts on the flit or discards it whole. -/
def execRingFlitReceive (st : Fin 16) (f : Flit) (act : FlitAct) (s : State) : Res :=
  if flitSeal f ≠ flitCrc f then .next ((s.flitLost act).report (flitBadRec f st.val))
  else
    match act with
    | .none => .next s
    | .response c => if flitClass f = 1 then .next (s.respondTo c (flitPoison f)) else .next s
    | .event c src => if flitClass f = 2 ∧ !flitPoison f then .next (s.eventTo c src.val) else .next s

/-! ### Doorbell pages (Tables 12-1 to 12-5) -/

/-- QCFG written: values 13 to 15 of SQSZ and CQSZ are not stored. -/
def qcfgWritten (old v : W32) : W32 :=
  let a : W32 := if bits v.toNat 0 4 ≤ 12 then setField old 0 4 v.toNat else old
  let b : W32 := if bits v.toNat 4 4 ≤ 12 then setField a 4 4 (v.toNat / 16) else a
  setField b 8 11 (v.toNat / 256)

/-- A half of a 64-bit base register written; bits [11:0] are reserved. -/
def baseWritten (old : W64) (upper : Bool) (v : W32) : W64 :=
  let x : W64 := setField old (if upper then 32 else 0) 32 v.toNat
  x &&& ~~~ 0xFFF

/-- A 4-byte write to the page of a queue pair: DEVNO and QCTL apart. Registers that only QP 0 has, or that are read-only
now, ignore it (R333). -/
def QPair.pageWrite (x : QPair) (q off : Nat) (v : W32) : QPair :=
  let cfg : Bool := q == 0 && x.st == .stopped
  if off = 0x00 then x.doorTail v
  else if off = 0x04 then x.doorHead v
  else if off = 0x08 then { x with dberr := x.dberr && !v.getLsbD 2 }
  else if off = 0x0C then if cfg then { x with qcfg := qcfgWritten x.qcfg v } else x
  else if off = 0x10 then if cfg then { x with sqbase := baseWritten x.sqbase false v } else x
  else if off = 0x14 then if cfg then { x with sqbase := baseWritten x.sqbase true v } else x
  else if off = 0x18 then if cfg then { x with cqbase := baseWritten x.cqbase false v } else x
  else if off = 0x1C then if cfg then { x with cqbase := baseWritten x.cqbase true v } else x
  else if off = 0x20 then { x with cqint := v &&& 0xFFFF }
  else x

/-- DEVNO written: only while queue pair 0 is STOPPED (R333). -/
def State.devnoWrite (s : State) (f : FnId) (v : W32) : State :=
  match s.qpOf f 0 with
  | none => s
  | some (t, x) => if x.st = .stopped then s.setTenancy t { s.tenancy t with devno := v.truncate 6 } else s

/-- QCTL written: both bits set is ignored (Table 12-5). Whether a new retention ring finds room is free (R525, log
115). -/
def State.qctlWrite (s : State) (f : FnId) (v : W32) : State :=
  if v.getLsbD 0 && v.getLsbD 1 then s
  else if v.getLsbD 0 then { s with free := s.free + 1 }.qctlStart f (Config.openChoice s.free)
  else if v.getLsbD 1 then s.onPage f 0 QPair.stop
  else s

/-- A 4-byte write at an offset of BAR0. -/
def State.pageWord (s : State) (f : FnId) (off : Nat) (v : W32) : State :=
  let q : Nat := off / 256
  let o : Nat := off % 256
  if !s.bar0 f then s
  else if q = 0 ∧ o = 0x24 then s.devnoWrite f v
  else if q = 0 ∧ o = 0x28 then s.qctlWrite f v
  else s.onPage f q (fun x => x.pageWrite q o v)

/-- A host write of 4 or 8 bytes to BAR0: misaligned ones are ignored (R332). -/
def State.pageStore (s : State) (f : FnId) (off : Nat) (wide : Bool) (v : W64) : State :=
  if off % (if wide then 8 else 4) ≠ 0 then s
  else
    let s1 : State := s.pageWord f off (v.truncate 32)
    if wide then s1.pageWord f (off + 4) (v.extractLsb' 32 32) else s1

/-! ### Routes (R231) -/

/-- A slot's route written by the firmware; sources 300 to 319 are routed to no engine (Table 8-10). -/
def State.routeWrite (s : State) (c : CoreId) (i src : Nat) (v : Bool) (task : BitVec 6) : State :=
  if !isCc c && decide (300 ≤ src) && decide (src < 320) then s
  else
    let k : Core := s.core c
    s.setCore c { k with evroute := spPut k.evroute i { src := BitVec.ofNat 9 src, v := v }, evtask := spPut k.evtask i task }

/-- The device answers control cores: it is out of reset. -/
def State.awake (s : State) : Bool := s.boot.stage != 0 && !s.held

/-- A control core's write of 8 bytes at a physical address of the register ranges. -/
def State.physWrite (s : State) (pa : Nat) (v : W64) : State :=
  let l : List Nat := (List.range 8).map (fun i => pa + i)
  if s.awake && l.all (fun a => pKind a == .reg) then s.ccStore true l (beBytes 8 v.toNat) else s

/-- REGISTER_WRITE (R13). -/
def execRegisterWrite (w : RegWriteOp) (s : State) : Res :=
  match w with
  | .phys pa v => .next (s.physWrite pa.toNat v)
  | .page f off wide v => .next (s.pageStore f off.toNat wide v)
  | .bar2 f off wide v => .next (s.bar2Write f off.toNat wide v)
  | .bar4 f off wide v => .next (s.bar4Write f off.toNat wide v)
  | .route c i src v task => if s.awake then .next (s.routeWrite c i.val src.val v task) else .next s

end Sys2Proof.Machine
end

