-- ==== Sys2Proof/Machine/Lifecycle.lean ====
section
/-! DEFINITION. Power, reset and test pins, the tamper monitor, the Kerb's control register and junction temperatures
(16 R429 to R433, R452 to R455; 18 R495; 19 R509, R512, R513, R521). -/

namespace Sys2Proof.Machine

/-! ### Pins (R429, R512, R513) -/

/-- PWRGOOD_RISE (R512): SMB_ADDR is sampled in the cycle in which PWRGOOD is first seen high. -/
def execPwrgoodRise (strap : BitVec 2) (s : State) : Res :=
  if s.pins.pwrgood then .next s else .next { s with pins := { s.pins with pwrgood := true, smbAddr := strap } }

/-- PWRGOOD_FALL (R429): a power-on reset. -/
def execPwrgoodFall (s : State) : Res :=
  if s.pins.pwrgood then
    let t : State := s.powerOnReset
    .next { t with pins := { t.pins with pwrgood := false } }
  else .next s

/-- RESET_N_LOW (R512): a device reset, ignored while PWRGOOD is low. -/
def execResetNLow (s : State) : Res :=
  let t : State := if s.pins.pwrgood then s.deviceReset else s
  .next { t with pins := { t.pins with resetN := false } }

/-- RESET_RELEASE (R433): RESET_N is high, and start-up begins when nothing else holds the device. -/
def execResetRelease (b : BootFacts) (s : State) : Res :=
  let t : State := { s with pins := { s.pins with resetN := true } }
  if t.held || t.boot.stage != 0 then .next t else .next (t.startUp b)

/-- TESTMODE (R513): while high, the device is held in device reset. -/
def execTestmode (level : Bool) (s : State) : Res :=
  let t : State := if level then s.holdBegins else s
  .next { t with pins := { t.pins with testmode := level } }

/-! ### Tamper monitor and Kerb (R452 to R455, R509) -/

/-- Whether the detection of a source wipes the Kerb: mesh and case only as TAMPEN in PROVISIONED and SERVICE
(R455, Table 16-12). -/
def State.tamperWipes (s : State) (src : Nat) : Bool :=
  if src < 2 then s.kerb.tampen.getLsbD src && (s.fuses.lc == 1 || s.fuses.lc == 2) else src != 2

/-- A source detected while main power is on: TAMPSTAT, the alert, the wipe, and for the core supply and the system
reference a device-fatal error (R455, R495, R509, R514). -/
def State.tamperOn (s : State) (src : Nat) : State :=
  let s1 : State := { s with kerb := { s.kerb with tampstat := setBit s.kerb.tampstat src true } }.alertOn
  let s2 : State := if s.tamperWipes src then kerbWipe s1 else s1
  if (src = 3 ∨ src = 5) ∧ s.awake then s2.fatalOpen else s2

/-- TAMPER_DETECT (R455). While main power is off the VBAT domain watches mesh and case: the sealing key is zeroed and
the detection recorded; a low VBAT loses the key. The VBAT source is found at start-up only. -/
def execTamperDetect (src : Fin 6) (s : State) : Res :=
  if s.pins.pwrgood then
    if src.val = 2 then .next s else .next (s.tamperOn src.val)
  else if src.val < 2 then
    .next { s with kerb := { s.kerb with keyok := false, vbatRec := setBit s.kerb.vbatRec src.val true } }
  else if src.val = 2 then .next { s with kerb := { s.kerb with keyok := false } }
  else .next s

/-- KCTL_WIPE (R454). -/
def execKctlWipe (s : State) : Res := if s.awake then .next (kerbWipe s) else .next s

/-- KCTL_SEAL (R453). -/
def execKctlSeal (s : State) : Res := if s.awake then .next (kerbSeal s) else .next s

/-- KCTL_LOCK (R452). -/
def execKctlLock (s : State) : Res := if s.awake then .next (kerbLock s) else .next s

/-! ### Junction temperature (R495, R520, R521) -/

/-- Sensor `i` reads `t` quarter-degrees: from 115 °C on, SMB_ALERT_N is asserted (R495, R520). -/
def State.junction (s : State) (i : Fin 23) (t : BitVec 16) : State :=
  let s1 : State := { s with mgmt := { s.mgmt with sensors := s.mgmt.sensors.set i.val t } }
  if 460 ≤ t.toInt then s1.alertOn else s1

/-- JUNCTION_TEMPERATURE_ALERT (R495). -/
def execJunctionTemperatureAlert (x : SensorReading) (s : State) : Res :=
  if s.pins.pwrgood then .next (s.junction x.sensor x.t) else .next s

/-- THERMTRIP (R521): from 135 °C on, THERMTRIP_N is low until PWRGOOD falls. -/
def execThermtrip (x : SensorReading) (s : State) : Res :=
  if s.pins.pwrgood then
    let s1 : State := s.junction x.sensor x.t
    .next (if 540 ≤ x.t.toInt then { s1 with mgmt := { s1.mgmt with thermtrip := true } } else s1)
  else .next s

end Sys2Proof.Machine
end

