-- ==== Sys2Proof/Machine/Strings.lean ====
section
/-! DEFINITION. String, translate and edit instructions (06). -/

namespace Sys2Proof.Machine

/-! ### One byte at a time (R172) -/

/-- What a store of a kind does to a byte. -/
def stByte (kd : StKind) (old new : Byte) : Byte :=
  match kd with
  | .plain => new
  | .set => old ||| new
  | .clr => old &&& ~~~ new

/-- What a store does to a byte of the event window as a later load reads it (Table 8-11): EVPEND is W1C, EVMASK
and EVTASK are RW, the rest ignores writes. -/
def evStByte (off : Nat) (old new : Byte) : Byte :=
  if off < 8 then old &&& ~~~ new
  else if 12 ≤ off ∧ off < 16 then new
  else if 0x200 ≤ off ∧ off < 0x300 ∧ off % 8 = 7 then new &&& 0x3F
  else old

/-- The cell behind a location of engine `n`, a tile byte through its plain window and the event window past every
physical address, and how a store there acts on the byte (R74). -/
def locCell (n : Nat) : Loc → Option (Nat × (Byte → Byte → Byte))
  | .tile o kd => some (tilePa n o, stByte kd)
  | .phys pa =>
    match pKind pa with
    | .tile m o kd => some (tilePa m o, stByte kd)
    | _ => some (pa, stByte .plain)
  | .lbox _ => none
  | .ev o => some (2 ^ 48 + o, evStByte o)
  | .none => none

/-- The bytes held at a list of locations once `v` has been stored at `l`. -/
def seen (n : Nat) (l : Loc) (v : Byte) : List Loc → List Byte → List Byte
  | x :: xs, b :: bs =>
    (match locCell n l, locCell n x with
      | some (a, st), some (a', _) => if a = a' then st b v else b
      | _, _ => b) :: seen n l v xs bs
  | _, _ => []

/-- Byte by byte from the lowest address: `f` answers the byte stored from the byte of operand 1 and
operand 2 as they stand; every later byte is read after the store (R172). -/
def byByte (n : Nat) (f : Byte → Nat → List Byte → Byte) (l1 l2 : List Loc) :
    Nat → List Loc → List Byte → List Byte → List Byte
  | _, [], _, _ => []
  | i, l :: ls, b1, b2 =>
    let v : Byte := f (byteAt b1 i) i b2
    v :: byByte n f l1 l2 (i + 1) ls (seen n l v l1 b1) (seen n l v l2 b2)

/-- The bytes that an instruction of this kind stores to operand 1. -/
def byteOp (w : Work) (f : Byte → Nat → List Byte → Byte) (ls : List (List Loc)) (b1 b2 : List Byte) :
    List Byte :=
  let l1 : List Loc := ls.headD []
  let l2 : List Loc := (ls.drop 1).headD []
  byByte (engNo w.c) f l1 l2 0 l1 b1 b2

/-! ### Short instructions -/

/-- Four cycles for at most 16 bytes, else 8 (Table 6-6). -/
def strCount (o : SOp) : Nat := if ssN1 o ≤ 16 then 4 else 8

/-- BMOV (R174). -/
def execBmov (a : Issue) (o : SOp) (s : State) : Res :=
  s.run a (fun _ k =>
    let r : Req := ssReq1 a o k (ssN1 o) false true
    ssInsn a 0 o true k [r, ssReq2 a o k (ssN1 o)] (pureBody (fun w ls bs =>
      Eff.of [] [stTo w r ls (byteOp w (fun _ i b2 => byteAt b2 i) ls (op1 bs) (op2 bs))] (strCount o))))

/-- The index of the first difference of two byte lists, from `i` on. -/
def firstDiff : Nat → List Byte → List Byte → Option Nat
  | i, x :: xs, y :: ys => if x = y then firstDiff (i + 1) xs ys else some i
  | _, _, _ => none

/-- The flags of an unsigned byte comparison (R174, R186). -/
def diffFlags (b1 b2 : List Byte) : Flags :=
  match firstDiff 0 b1 b2 with
  | none => { c := true, v := false, z := true, n := false, dv := false }
  | some i =>
    let lt : Bool := decide ((byteAt b1 i).toNat < (byteAt b2 i).toNat)
    { c := !lt, v := false, z := false, n := lt, dv := false }

/-- BCMP (R174). -/
def execBcmp (a : Issue) (o : SOp) (s : State) : Res :=
  s.run a (fun _ k => ssInsn a 1 o true k [ssReq1 a o k (ssN1 o) true false, ssReq2 a o k (ssN1 o)]
    (pureBody (fun _ _ bs =>
      Eff.of [(strCount o, .psw mCVZN (diffFlags (op1 bs) (op2 bs)).word)] [] (strCount o))))

/-- BAND, BOR, BXOR (R174). -/
def bitInsn (a : Issue) (op : Nat) (o : SOp) (k : Core) (f : Byte → Byte → Byte) : Insn :=
  let r : Req := ssReq1 a o k (ssN1 o) true true
  ssInsn a op o true k [r, ssReq2 a o k (ssN1 o)] (pureBody (fun w ls bs =>
    let out : List Byte := byteOp w (fun x i b2 => f x (byteAt b2 i)) ls (op1 bs) (op2 bs)
    let fl : Flags := { c := false, v := false, z := allZero out, n := false, dv := false }
    Eff.of [(strCount o, .psw mCVZN fl.word)] [stTo w r ls out] (strCount o)))

/-- BAND (R174). -/
def execBand (a : Issue) (o : SOp) (s : State) : Res := s.run a (fun _ k => bitInsn a 2 o k (fun x y => x &&& y))
/-- BOR (R174). -/
def execBor (a : Issue) (o : SOp) (s : State) : Res := s.run a (fun _ k => bitInsn a 3 o k (fun x y => x ||| y))
/-- BXOR (R174). -/
def execBxor (a : Issue) (o : SOp) (s : State) : Res := s.run a (fun _ k => bitInsn a 4 o k (fun x y => x ^^^ y))

/-- BXLT (R175). -/
def execBxlt (a : Issue) (o : SOp) (s : State) : Res :=
  s.run a (fun _ k =>
    let r : Req := ssReq1 a o k (ssN1 o) true true
    ssInsn a 5 o true k [r, ssReq2 a o k 256] (pureBody (fun w ls bs =>
      Eff.of [] [stTo w r ls (byteOp w (fun x _ t => byteAt t x.toNat) ls (op1 bs) (op2 bs))] (3 + ssN1 o))))

/-- BXSR (R175). -/
def execBxsr (a : Issue) (o : SOp) (s : State) : Res :=
  s.run a (fun _ k =>
    ssInsn a 6 o true k [ssReq1 a o k (ssN1 o) true false, ssReq2 a o k 256] (pureBody (fun w _ bs =>
      let n : Nat := 3 + ssN1 o
      let fl (z c : Bool) : RegWr := .psw mCVZN ({ c := c, v := false, z := z, n := false, dv := false } : Flags).word
      match (op1 bs).findIdx? (fun x => byteAt (op2 bs) x.toNat != 0) with
      | none => Eff.of [(n, fl true false)] [] n
      | some i =>
        let v : Byte := byteAt (op2 bs) (byteAt (op1 bs) i).toNat
        Eff.of [(n, fl false (i + 1 == ssN1 o)), (n, wrQ (v.zeroExtend 64)),
          (n, .ix (ssEa1 o w.k.bank + BitVec.ofNat 32 i))] [] n)))

/-- Four or seven cycles (Table 6-6). -/
def packCount (o : SOp) : Nat := ssCount o 4 7

/-- Nibbles taken from the right, two to a byte, for `n` bytes: ZTOP's digits. -/
def packRight : Nat → List Nat → List Byte
  | 0, _ => []
  | n + 1, d => packRight n (d.drop 2) ++ [BitVec.ofNat 8 ((d[1]?).getD 0 * 16 + (d[0]?).getD 0)]

/-- Zoned digits from the right, for `n` bytes: PTOZ's digits. -/
def zoneRight : Nat → List Nat → List Byte
  | 0, _ => []
  | n + 1, d => zoneRight n (d.drop 1) ++ [BitVec.ofNat 8 (0x30 + (d[0]?).getD 0)]

/-- The byte with its nibbles exchanged. -/
def swapNib (b : Byte) : Byte := BitVec.ofNat 8 (b.toNat % 16 * 16 + b.toNat / 16)

/-- ZTOP of a zoned field to `n` bytes (R176). -/
def zonedToPacked (n : Nat) (w : List Byte) : List Byte :=
  packRight (n - 1) (w.dropLast.reverse.map (fun b => b.toNat % 16)) ++ [swapNib (w.getLastD 0)]

/-- PTOZ of a packed field to `n` bytes (R176). -/
def packedToZoned (n : Nat) (p : List Byte) : List Byte :=
  zoneRight (n - 1) (nibbles p.dropLast).reverse ++ [swapNib (p.getLastD 0)]

/-- ZTOP (R176). -/
def execZtop (a : Issue) (o : SOp) (s : State) : Res :=
  s.run a (fun _ k =>
    let r : Req := ssReq1 a o k (ssN1 o) false true
    ssInsn a 7 o false k [r, ssReq2 a o k (ssN2 o)] (pureBody (fun w ls bs =>
      Eff.of [] [stTo w r ls (zonedToPacked (ssN1 o) (op2 bs))] (packCount o))))

/-- PTOZ (R176). -/
def execPtoz (a : Issue) (o : SOp) (s : State) : Res :=
  s.run a (fun _ k =>
    let r : Req := ssReq1 a o k (ssN1 o) false true
    ssInsn a 8 o false k [r, ssReq2 a o k (ssN2 o)] (pureBody (fun w ls bs =>
      Eff.of [] [stTo w r ls (packedToZoned (ssN1 o) (op2 bs))] (packCount o))))

/-! ### Editing (R177 to R179) -/

/-- A byte of ACC. -/
def Bank.accByte (b : Bank) (i : Nat) : Byte := BitVec.ofNat 8 (accGet b.acc i 1)

/-- The characters of a pattern under Table 6-3: the output and the position of the first significant
character. `i` is the position, `sig` the significance, `first` what is known so far. -/
def editGo (fill : Byte) (neg : Bool) :
    Nat → Bool → Option Nat → List Byte → List Nat → List Byte × Option Nat
  | _, _, first, [], _ => ([], first)
  | i, sig, first, p :: ps, dig =>
    if p = 0x10 ∨ p = 0x11 then
      let d : Nat := dig.headD 0
      let on : Bool := decide (p = 0x11) || decide (d ≠ 0)
      let first' : Option Nat := if on && !sig then some i else first
      let sig' : Bool := sig || on
      let r := editGo fill neg (i + 1) sig' first' ps dig.tail
      ((if sig' then BitVec.ofNat 8 (0x30 + d) else fill) :: r.1, r.2)
    else
      let r := editGo fill neg (i + 1) sig first ps dig
      let c : Byte :=
        if p = 0x12 then if neg then 0x2D else fill
        else if 0x13 ≤ p.toNat ∧ p.toNat ≤ 0x1F then fill
        else if 0x80 ≤ p.toNat then if neg then p &&& 0x7F else fill
        else if sig then p
        else fill
      (c :: r.1, r.2)

/-- The digit places of a pattern. -/
def digitPlaces (pat : List Byte) : Nat := pat.countP (fun p => decide (p = 0x10) || decide (p = 0x11))

/-- FMT and FMTM: `float` places the float character (R179). -/
def fmtInsn (a : Issue) (op : Nat) (o : SOp) (k : Core) (float : Bool) : Insn :=
  let r : Req := ssReq1 a o k (ssN1 o) true true
  ssInsn a op o false k [r, ssReq2 a o k (ssN2 o)] (pureBody (fun w ls bs =>
    let b : Bank := w.k.bank
    let n : Nat := 6 * ((ssN1 o + 7) / 8)
    match checkPacked w.k 2 (op2 bs) with
    | some x => Eff.fail x
    | none =>
      let pat : List Byte := op1 bs
      let v : Int := pval (op2 bs)
      let p : Nat := digitPlaces pat
      let ovf : Bool := decide (10 ^ p ≤ v.natAbs)
      if ovf && pswBit b.psw eDOE then Eff.fail (mkTrapless 8)
      else
        let fill : Byte := b.accByte 23
        let (out, first) := editGo fill (decide (v < 0)) 0 false none pat (decDigits p v.natAbs)
        let pos : Option Nat :=
          match first with
          | some (j + 1) => if float && byteAt out j == fill then some j else none
          | _ => none
        let out' : List Byte := match pos with | some j => patch out j [b.accByte 22] | none => out
        let sb : W64 := if ovf then (1 : W64) <<< sDVS else 0
        let f : Flags := { c := pos.isSome, v := false, z := v == 0, n := decide (v < 0), dv := ovf }
        Eff.of ((n, .psw (mFlags ||| sb) (f.word ||| sb)) ::
            (match pos with | some j => [(n, .ix (ssEa1 o b + BitVec.ofNat 32 j))] | none => []))
          [stTo w r ls out'] n))

/-- FMT (R178). -/
def execFmt (a : Issue) (o : SOp) (s : State) : Res := s.run a (fun _ k => fmtInsn a 9 o k false)
/-- FMTM (R179). -/
def execFmtm (a : Issue) (o : SOp) (s : State) : Res := s.run a (fun _ k => fmtInsn a 10 o k true)

/-! ### Long instructions (R180 to R186) -/

/-- The length of a long instruction: ACC.Q [31:0]. -/
def Bank.longLen (b : Bank) : Nat := b.q.toNat % 2 ^ 32

/-- The bytes of a step. -/
def Bank.stepLen (b : Bank) (most : Nat) : Nat := min b.longLen most

/-- The operands of a step at IX and IY, far under the control byte (R181). -/
def longReq (ix far : Bool) (k : Core) (n : Nat) (read write : Bool) : Req :=
  { ea := (if ix then k.bank.ix else k.bank.iy).toNat, n := n, far := far, read := read, write := write, align := 0 }

/-- A step of a long instruction; a step of length 0 checks and accesses nothing (R182). -/
def longInsn (a : Issue) (op : Nat) (k : Core) (reqs : List Req)
    (f : Work → List (List Loc) → List (List Byte) → Eff) : Insn :=
  { aInsn a op (pureBody f) with
    r3 := false, slotBar := true, reqs := if k.bank.longLen = 0 then [] else reqs, ss := true, micro := true }

/-- ACC.Q after a step, as a result. -/
def longQ (n : Nat) : RegWr := wrQ (BitVec.ofNat 64 n)

/-- The control bits of a long instruction (Table 6-5). -/
def Bank.f1 (b : Bank) : Bool := (b.accByte 22).getLsbD 0
def Bank.f2 (b : Bank) : Bool := (b.accByte 22).getLsbD 1
def Bank.ne (b : Bank) : Bool := (b.accByte 22).getLsbD 2

/-- The end of a step: again while work remains. -/
def longEff (wr : List RegWr) (st : List StOp) (count : Nat) (done : Bool) : Eff :=
  { exn := none, wr := wr.map (fun r => (count, r)), st := st, count := count
    act := if done then .seq else .again }

/-- LMOV (R186). -/
def execLmov (a : Issue) (s : State) : Res :=
  s.run a (fun _ k =>
    let n : Nat := k.bank.stepLen 16
    let r : Req := longReq true k.bank.f1 k n false true
    longInsn a 0x1A k [r, longReq false k.bank.f2 k n true false] (fun w ls bs =>
      let b : Bank := w.k.bank
      let m : Nat := b.stepLen 16
      let d : W32 := BitVec.ofNat 32 m
      longEff [longQ (b.longLen - m), .ix (b.ix + d), .iy (b.iy + d)]
        (if m = 0 then [] else [stTo w r ls (byteOp w (fun _ i b2 => byteAt b2 i) ls (op1 bs) (op2 bs))])
        4 (decide (b.longLen ≤ m))))

/-- LCMP (R186). -/
def execLcmp (a : Issue) (s : State) : Res :=
  s.run a (fun _ k =>
    let n : Nat := k.bank.stepLen 16
    longInsn a 0x1B k [longReq true k.bank.f1 k n true false, longReq false k.bank.f2 k n true false] (fun w _ bs =>
      let b : Bank := w.k.bank
      let m : Nat := b.stepLen 16
      let go : Nat := (firstDiff 0 (op1 bs) (op2 bs)).getD m
      let found : Bool := (firstDiff 0 (op1 bs) (op2 bs)).isSome
      let d : W32 := BitVec.ofNat 32 go
      let done : Bool := found || decide (b.longLen ≤ m)
      longEff ([longQ (b.longLen - go), .ix (b.ix + d), .iy (b.iy + d)]
          ++ (if done then [.psw mCVZN (diffFlags (op1 bs) (op2 bs)).word] else []))
        [] 4 done))

/-- SCAN (R186). -/
def execScan (a : Issue) (s : State) : Res :=
  s.run a (fun _ k =>
    let n : Nat := k.bank.stepLen 16
    { longInsn a 0x1C k [longReq true k.bank.f1 k n true false] (fun w _ bs =>
        let b : Bank := w.k.bank
        let m : Nat := b.stepLen 16
        let hit : Option Nat := (op1 bs).findIdx? (fun x => (x == b.accByte 23) != b.ne)
        let go : Nat := hit.getD m
        let done : Bool := hit.isSome || decide (b.longLen ≤ m)
        let f : Flags := { c := false, v := false, z := hit.isNone, n := false, dv := false }
        longEff ([longQ (b.longLen - go), .ix (b.ix + BitVec.ofNat 32 go)]
            ++ (if done then [.psw mCVZN f.word] else []))
          [] 3 done) with ss := true })

/-- LXLT (R186). -/
def execLxlt (a : Issue) (s : State) : Res :=
  s.run a (fun _ k =>
    let n : Nat := k.bank.stepLen 8
    let r : Req := longReq true k.bank.f1 k n true true
    longInsn a 0x1D k [r, longReq false k.bank.f2 k 256 true false] (fun w ls bs =>
      let b : Bank := w.k.bank
      let m : Nat := b.stepLen 8
      longEff [longQ (b.longLen - m), .ix (b.ix + BitVec.ofNat 32 m)]
        (if m = 0 then [] else [stTo w r ls (byteOp w (fun x _ t => byteAt t x.toNat) ls (op1 bs) (op2 bs))])
        10 (decide (b.longLen ≤ m))))

end Sys2Proof.Machine
end

