-- ==== Sys2Proof/Machine/TramRows.lean ====
section
/-! DEFINITION. The commands of the Tram channels (14): starts, records, bursts, reads and writes, descriptors, misses. -/

namespace Sys2Proof.Machine

/-- SWST (R395). -/
def execSwst (k : Fin 128) (s : State) : Res := .next (tramSwst s k.val)

/-- RESUME (R400). -/
def execResume (k : Fin 128) (s : State) : Res := .next (tramResume s k.val)

/-- DIS (R403). -/
def execDis (k : Fin 128) (s : State) : Res := .next (tramDis s k.val)

/-- The source of the records of a channel's partner: the SIGOUT of the engine at position CENG + 4 (R387). -/
def Channel.partnerSrc (c : Channel) (k : Nat) : Nat := 160 + k / 32 * 32 + (c.ceng + 4) % 32

/-- A start record counts while the channel's function is RUNNING; else it is discarded (R395). -/
def Channel.startRecord (c : Channel) (want part : Bool) : Channel :=
  if c.fn = .running ∧ want then c.start part else c

/-- A pacing record adds a credit; at 255 it is lost and POVF is set (R396). -/
def Channel.credit (c : Channel) : Channel :=
  if c.pcred = 255 then { c with povf := true } else { c with pcred := c.pcred + 1 }

/-- TRAM_TRIGGER (R395): a completion record of a source, or an event record, arrives at the channel's trigger. -/
def execTramTrigger (k : Fin 128) (src : Fin 384) (s : State) : Res :=
  match s.arrive (trigDest k.val) src.val false with
  | none => .next s
  | some s1 =>
    let c : Channel := s1.channel k.val
    .next (s1.setChannel k.val (c.startRecord (c.tv && c.tsrc == src.val) false))

/-- PARTNER_START (R387): a record of the partner's SIGOUT arrives. -/
def execPartnerStart (k : Fin 128) (s : State) : Res :=
  let c : Channel := s.channel k.val
  match s.arrive (partDest k.val) (c.partnerSrc k.val) true with
  | none => .next s
  | some s1 => .next (s1.setChannel k.val (c.startRecord c.tpair true))

/-- PACING_RECORD (R396): a record of a source arrives at the channel's pacing input. -/
def execPacingRecord (k : Fin 128) (src : Fin 384) (s : State) : Res :=
  match s.arrive (paceDest k.val) src.val true with
  | none => .next s
  | some s1 =>
    let c : Channel := s1.channel k.val
    .next (s1.setChannel k.val (if c.pmode = 2 ∧ c.psrc = src.val then c.credit else c))

/-- PACED_BURST_START (R396). -/
def execPacedBurstStart (k : Fin 128) (s : State) : Res := .next (tramBurst s k.val)

/-- TRAM_READ (R383). -/
def execTramRead (k : Fin 128) (err : Option HwErr) (s : State) : Res := .next (tramRead s k.val err)

/-- TRAM_WRITE (R383). -/
def execTramWrite (k : Fin 128) (err : Option HwErr) (s : State) : Res := .next (tramWrite s k.val err)

/-- DESCRIPTOR_FETCH (R388). -/
def execDescriptorFetch (k : Fin 128) (err : Option HwErr) (s : State) : Res := .next (tramFetch s k.val err)

/-- DESCRIPTOR_COMPLETE (R394). -/
def execDescriptorComplete (k : Fin 128) (err : Option HwErr) (s : State) : Res := .next (tramComplete s k.val err)

/-- TRAM_MISS_SERVICE (R268). -/
def execTramMissService (k : Fin 128) (walkErr : Bool) (s : State) : Res := .next (tramServe s k.val walkErr)

end Sys2Proof.Machine
end

