-- ==== Sys2Proof/Machine/Dispatch.lean ====
section
/-! DEFINITION. The effect of a command on everything but the queue: one arm for each command, each one call of
the command's own meaning. -/

namespace Sys2Proof.Machine

/-- The effect of one command. -/
def exec (i : Instr) (s : State) : Host.Outcome State Fault Refusal :=
  match i with
  | .nop a => Sys2Proof.Machine.execNop a s
  | .wait a => Sys2Proof.Machine.execWait a s
  | .ret a => Sys2Proof.Machine.execRet a s
  | .retx a => Sys2Proof.Machine.execRetx a s
  | .flushi a => Sys2Proof.Machine.execFlushi a s
  | .drain a => Sys2Proof.Machine.execDrain a s
  | .tlbsync a => Sys2Proof.Machine.execTlbsync a s
  | .clra a => Sys2Proof.Machine.execClra a s
  | .negq a => Sys2Proof.Machine.execNegq a s
  | .notq a => Sys2Proof.Machine.execNotq a s
  | .dneg a => Sys2Proof.Machine.execDneg a s
  | .dpref a => Sys2Proof.Machine.execDpref a s
  | .cvdq a => Sys2Proof.Machine.execCvdq a s
  | .cvqd a => Sys2Proof.Machine.execCvqd a s
  | .tstd a => Sys2Proof.Machine.execTstd a s
  | .cvdx a => Sys2Proof.Machine.execCvdx a s
  | .cvxd a => Sys2Proof.Machine.execCvxd a s
  | .cvbq a => Sys2Proof.Machine.execCvbq a s
  | .cvqb a => Sys2Proof.Machine.execCvqb a s
  | .bsqrt a => Sys2Proof.Machine.execBsqrt a s
  | .incx a => Sys2Proof.Machine.execIncx a s
  | .decx a => Sys2Proof.Machine.execDecx a s
  | .incy a => Sys2Proof.Machine.execIncy a s
  | .decy a => Sys2Proof.Machine.execDecy a s
  | .txy a => Sys2Proof.Machine.execTxy a s
  | .tyx a => Sys2Proof.Machine.execTyx a s
  | .lmov a => Sys2Proof.Machine.execLmov a s
  | .lcmp a => Sys2Proof.Machine.execLcmp a s
  | .scan a => Sys2Proof.Machine.execScan a s
  | .lxlt a => Sys2Proof.Machine.execLxlt a s
  | .mfs a sel => Sys2Proof.Machine.execMfs a sel s
  | .mts a sel => Sys2Proof.Machine.execMts a sel s
  | .tpre a => Sys2Proof.Machine.execTpre a s
  | .tevict a => Sys2Proof.Machine.execTevict a s
  | .switch a sel => Sys2Proof.Machine.execSwitch a sel s
  | .trap a sel => Sys2Proof.Machine.execTrap a sel s
  | .svc a sel => Sys2Proof.Machine.execSvc a sel s
  | .addix a sel => Sys2Proof.Machine.execAddix a sel s
  | .addiy a sel => Sys2Proof.Machine.execAddiy a sel s
  | .shlq a sel => Sys2Proof.Machine.execShlq a sel s
  | .shrq a sel => Sys2Proof.Machine.execShrq a sel s
  | .sarq a sel => Sys2Proof.Machine.execSarq a sel s
  | .dshl a sel => Sys2Proof.Machine.execDshl a sel s
  | .dshr a sel => Sys2Proof.Machine.execDshr a sel s
  | .dsrr a sel => Sys2Proof.Machine.execDsrr a sel s
  | .ldiq a sel => Sys2Proof.Machine.execLdiq a sel s
  | .ldq a m => Sys2Proof.Machine.execLdq a m s
  | .ldqs a m => Sys2Proof.Machine.execLdqs a m s
  | .stq a m => Sys2Proof.Machine.execStq a m s
  | .addq a m => Sys2Proof.Machine.execAddq a m s
  | .adcq a m => Sys2Proof.Machine.execAdcq a m s
  | .subq a m => Sys2Proof.Machine.execSubq a m s
  | .sbcq a m => Sys2Proof.Machine.execSbcq a m s
  | .cmpq a m => Sys2Proof.Machine.execCmpq a m s
  | .andq a m => Sys2Proof.Machine.execAndq a m s
  | .orq a m => Sys2Proof.Machine.execOrq a m s
  | .xorq a m => Sys2Proof.Machine.execXorq a m s
  | .mul a m => Sys2Proof.Machine.execMul a m s
  | .mulu a m => Sys2Proof.Machine.execMulu a m s
  | .div a m => Sys2Proof.Machine.execDiv a m s
  | .divu a m => Sys2Proof.Machine.execDivu a m s
  | .ldd a m => Sys2Proof.Machine.execLdd a m s
  | .std a m => Sys2Proof.Machine.execStd a m s
  | .addd a m => Sys2Proof.Machine.execAddd a m s
  | .subd a m => Sys2Proof.Machine.execSubd a m s
  | .cmpd a m => Sys2Proof.Machine.execCmpd a m s
  | .dmul a m => Sys2Proof.Machine.execDmul a m s
  | .ddiv a m => Sys2Proof.Machine.execDdiv a m s
  | .ldix a m => Sys2Proof.Machine.execLdix a m s
  | .ldiy a m => Sys2Proof.Machine.execLdiy a m s
  | .stix a m => Sys2Proof.Machine.execStix a m s
  | .stiy a m => Sys2Proof.Machine.execStiy a m s
  | .leax a m => Sys2Proof.Machine.execLeax a m s
  | .leay a m => Sys2Proof.Machine.execLeay a m s
  | .bcc a m => Sys2Proof.Machine.execBcc a m s
  | .call a m => Sys2Proof.Machine.execCall a m s
  | .ldx a m => Sys2Proof.Machine.execLdx a m s
  | .stx a m => Sys2Proof.Machine.execStx a m s
  | .faddb a m => Sys2Proof.Machine.execFaddb a m s
  | .fsubb a m => Sys2Proof.Machine.execFsubb a m s
  | .fmulb a m => Sys2Proof.Machine.execFmulb a m s
  | .fdivb a m => Sys2Proof.Machine.execFdivb a m s
  | .fcmpb a m => Sys2Proof.Machine.execFcmpb a m s
  | .faddx a m => Sys2Proof.Machine.execFaddx a m s
  | .fsubx a m => Sys2Proof.Machine.execFsubx a m s
  | .fmulx a m => Sys2Proof.Machine.execFmulx a m s
  | .fdivx a m => Sys2Proof.Machine.execFdivx a m s
  | .fcmpx a m => Sys2Proof.Machine.execFcmpx a m s
  | .loopi a b1 d => Sys2Proof.Machine.execLoopi a b1 d s
  | .loopx a b1 d => Sys2Proof.Machine.execLoopx a b1 d s
  | .tlbi a m => Sys2Proof.Machine.execTlbi a m s
  | .keyi a m => Sys2Proof.Machine.execKeyi a m s
  | .tlbwr a m => Sys2Proof.Machine.execTlbwr a m s
  | .tlbrd a m => Sys2Proof.Machine.execTlbrd a m s
  | .kset a m => Sys2Proof.Machine.execKset a m s
  | .kget a m => Sys2Proof.Machine.execKget a m s
  | .smm a b1 d => Sys2Proof.Machine.execSmm a b1 d s
  | .lmm a b1 d => Sys2Proof.Machine.execLmm a b1 d s
  | .saveh a b1 d => Sys2Proof.Machine.execSaveh a b1 d s
  | .loadh a b1 d => Sys2Proof.Machine.execLoadh a b1 d s
  | .bmov a o => Sys2Proof.Machine.execBmov a o s
  | .bcmp a o => Sys2Proof.Machine.execBcmp a o s
  | .band a o => Sys2Proof.Machine.execBand a o s
  | .bor a o => Sys2Proof.Machine.execBor a o s
  | .bxor a o => Sys2Proof.Machine.execBxor a o s
  | .bxlt a o => Sys2Proof.Machine.execBxlt a o s
  | .bxsr a o => Sys2Proof.Machine.execBxsr a o s
  | .ztop a o => Sys2Proof.Machine.execZtop a o s
  | .ptoz a o => Sys2Proof.Machine.execPtoz a o s
  | .fmt a o => Sys2Proof.Machine.execFmt a o s
  | .fmtm a o => Sys2Proof.Machine.execFmtm a o s
  | .padd a o => Sys2Proof.Machine.execPadd a o s
  | .psub a o => Sys2Proof.Machine.execPsub a o s
  | .pset a o => Sys2Proof.Machine.execPset a o s
  | .pcmp a o => Sys2Proof.Machine.execPcmp a o s
  | .nmov a o => Sys2Proof.Machine.execNmov a o s
  | .arcadeInstruction a x b1 d => Sys2Proof.Machine.execArcadeInstruction a x b1 d s
  | .unassignedOpcode a b => Sys2Proof.Machine.execUnassignedOpcode a b s
  | .instructionFetch c => Sys2Proof.Machine.execInstructionFetch c s
  | .storeBufferDrain x => Sys2Proof.Machine.execStoreBufferDrain x s
  | .resultWrite c => Sys2Proof.Machine.execResultWrite c s
  | .farLoadResponse c w r => Sys2Proof.Machine.execFarLoadResponse c w r s
  | .postedStoreAck c r => Sys2Proof.Machine.execPostedStoreAck c r s
  | .exceptionEntry c err => Sys2Proof.Machine.execExceptionEntry c err s
  | .fallbackSwitch c => Sys2Proof.Machine.execFallbackSwitch c s
  | .tpreFillBlock c => Sys2Proof.Machine.execTpreFillBlock c s
  | .eventRecordArrival c src => Sys2Proof.Machine.execEventRecordArrival c src s
  | .timerExpiry m => Sys2Proof.Machine.execTimerExpiry m s
  | .sigout c => Sys2Proof.Machine.execSigout c s
  | .registerWrite w => Sys2Proof.Machine.execRegisterWrite w s
  | .letterboxWrite x => Sys2Proof.Machine.execLetterboxWrite x s
  | .letterboxSlotRead n => Sys2Proof.Machine.execLetterboxSlotRead n s
  | .ringFlitReceive st f act => Sys2Proof.Machine.execRingFlitReceive st f act s
  | .requestTimeout u => Sys2Proof.Machine.execRequestTimeout u s
  | .squarePllLock sq => Sys2Proof.Machine.execSquarePllLock sq s
  | .pllLockTimeout sq oldLocks => Sys2Proof.Machine.execPllLockTimeout sq oldLocks s
  | .invalidationReceive u from_ => Sys2Proof.Machine.execInvalidationReceive u from_ s
  | .invalidationAck u from_ => Sys2Proof.Machine.execInvalidationAck u from_ s
  | .sqtail f q v hw => Sys2Proof.Machine.execSqtail f q v hw s
  | .cqhead f q v hw => Sys2Proof.Machine.execCqhead f q v hw s
  | .qctlStart x => Sys2Proof.Machine.execQctlStart x s
  | .qctlStop f => Sys2Proof.Machine.execQctlStop f s
  | .submissionFetch f q x => Sys2Proof.Machine.execSubmissionFetch f q x s
  | .cqintTimeExpiry f q => Sys2Proof.Machine.execCqintTimeExpiry f q s
  | .hostWriteFailure f q => Sys2Proof.Machine.execHostWriteFailure f q s
  | .functionLevelReset f => Sys2Proof.Machine.execFunctionLevelReset f s
  | .identify r => Sys2Proof.Machine.execIdentify r s
  | .tenancyBind r => Sys2Proof.Machine.execTenancyBind r s
  | .tenancyUnbind r => Sys2Proof.Machine.execTenancyUnbind r s
  | .qpCreate r => Sys2Proof.Machine.execQpCreate r s
  | .qpDelete r => Sys2Proof.Machine.execQpDelete r s
  | .loadProgram r => Sys2Proof.Machine.execLoadProgram r s
  | .stageArcade r => Sys2Proof.Machine.execStageArcade r s
  | .installArcade r => Sys2Proof.Machine.execInstallArcade r s
  | .loadExtension r chashOk sigOk => Sys2Proof.Machine.execLoadExtension r chashOk sigOk s
  | .extensionOpcode r ans => Sys2Proof.Machine.execExtensionOpcode r ans s
  | .unknownOpcode f q => Sys2Proof.Machine.execUnknownOpcode f q s
  | .defineRecord r p => Sys2Proof.Machine.execDefineRecord r p s
  | .removeRecord r => Sys2Proof.Machine.execRemoveRecord r s
  | .setHints r => Sys2Proof.Machine.execSetHints r s
  | .clearFlags r => Sys2Proof.Machine.execClearFlags r s
  | .postBatch r hw => Sys2Proof.Machine.execPostBatch r hw s
  | .queryRecord r => Sys2Proof.Machine.execQueryRecord r s
  | .readJournal r => Sys2Proof.Machine.execReadJournal r s
  | .stopFn r => Sys2Proof.Machine.execStopFn r s
  | .setConfig r => Sys2Proof.Machine.execSetConfig r s
  | .startFn r k => Sys2Proof.Machine.execStartFn r k s
  | .getConfig r => Sys2Proof.Machine.execGetConfig r s
  | .selftest r k => Sys2Proof.Machine.execSelftest r k s
  | .calibrate r k => Sys2Proof.Machine.execCalibrate r k s
  | .linkTest r lanes => Sys2Proof.Machine.execLinkTest r lanes s
  | .readLog r => Sys2Proof.Machine.execReadLog r s
  | .lcChange r sigOk => Sys2Proof.Machine.execLcChange r sigOk s
  | .returnEntryConsume x => Sys2Proof.Machine.execReturnEntryConsume x s
  | .recordMove k m => Sys2Proof.Machine.execRecordMove k m s
  | .moveCopyComplete k x => Sys2Proof.Machine.execMoveCopyComplete k x s
  | .releaseLimitExpiry k homes => Sys2Proof.Machine.execReleaseLimitExpiry k homes s
  | .heatEpochExpiry => Sys2Proof.Machine.execHeatEpochExpiry s
  | .directorySweep => Sys2Proof.Machine.execDirectorySweep s
  | .streetEvacuation g ph => Sys2Proof.Machine.execStreetEvacuation g ph s
  | .swst k => Sys2Proof.Machine.execSwst k s
  | .resume k => Sys2Proof.Machine.execResume k s
  | .dis k => Sys2Proof.Machine.execDis k s
  | .tramTrigger k src => Sys2Proof.Machine.execTramTrigger k src s
  | .partnerStart k => Sys2Proof.Machine.execPartnerStart k s
  | .pacingRecord k src => Sys2Proof.Machine.execPacingRecord k src s
  | .pacedBurstStart k => Sys2Proof.Machine.execPacedBurstStart k s
  | .tramRead k err => Sys2Proof.Machine.execTramRead k err s
  | .tramWrite k err => Sys2Proof.Machine.execTramWrite k err s
  | .descriptorFetch k err => Sys2Proof.Machine.execDescriptorFetch k err s
  | .descriptorComplete k err => Sys2Proof.Machine.execDescriptorComplete k err s
  | .tramMissService k walkErr => Sys2Proof.Machine.execTramMissService k walkErr s
  | .errorLogWrite b j x homes => Sys2Proof.Machine.execErrorLogWrite b j x homes s
  | .correctedCoalesceExpiry => Sys2Proof.Machine.execCorrectedCoalesceExpiry s
  | .temperatureRead p t0 t1 => Sys2Proof.Machine.execTemperatureRead p t0 t1 s
  | .calPeriodExpiry p u => Sys2Proof.Machine.execCalPeriodExpiry p u s
  | .calibrationPhase p u ok => Sys2Proof.Machine.execCalibrationPhase p u ok s
  | .patrolScrub p err lane => Sys2Proof.Machine.execPatrolScrub p err lane s
  | .refresh p => Sys2Proof.Machine.execRefresh p s
  | .pgctlRun u on => Sys2Proof.Machine.execPgctlRun u on s
  | .pgctlClr u => Sys2Proof.Machine.execPgctlClr u s
  | .perst h level => Sys2Proof.Machine.execPerst h level s
  | .linkDown h => Sys2Proof.Machine.execLinkDown h s
  | .linkRetrainTimeout h => Sys2Proof.Machine.execLinkRetrainTimeout h s
  | .d3hotEntry f => Sys2Proof.Machine.execD3hotEntry f s
  | .d0Return f => Sys2Proof.Machine.execD0Return f s
  | .fwctlRead f => Sys2Proof.Machine.execFwctlRead f s
  | .fwctlErase f => Sys2Proof.Machine.execFwctlErase f s
  | .fwctlProgram f => Sys2Proof.Machine.execFwctlProgram f s
  | .flashOperationComplete fails => Sys2Proof.Machine.execFlashOperationComplete fails s
  | .getStatus => Sys2Proof.Machine.execGetStatus s
  | .getIdent => Sys2Proof.Machine.execGetIdent s
  | .readReg n u off => Sys2Proof.Machine.execReadReg n u off s
  | .writeReg n u off v => Sys2Proof.Machine.execWriteReg n u off v s
  | .smbReadLog n x => Sys2Proof.Machine.execSmbReadLog n x s
  | .deviceReset v => Sys2Proof.Machine.execDeviceReset v s
  | .clearAlert => Sys2Proof.Machine.execClearAlert s
  | .alertResponseAddress => Sys2Proof.Machine.execAlertResponseAddress s
  | .alertReassert => Sys2Proof.Machine.execAlertReassert s
  | .extest => Sys2Proof.Machine.execExtest s
  | .samplePreload => Sys2Proof.Machine.execSamplePreload s
  | .idcode => Sys2Proof.Machine.execIdcode s
  | .clamp => Sys2Proof.Machine.execClamp s
  | .highz => Sys2Proof.Machine.execHighz s
  | .extestPulse => Sys2Proof.Machine.execExtestPulse s
  | .extestTrain => Sys2Proof.Machine.execExtestTrain s
  | .bypass code => Sys2Proof.Machine.execBypass code s
  | .pgaccRead u off => Sys2Proof.Machine.execPgaccRead u off s
  | .pgaccWrite u off v => Sys2Proof.Machine.execPgaccWrite u off v s
  | .trstN => Sys2Proof.Machine.execTrstN s
  | .pwrgoodRise strap => Sys2Proof.Machine.execPwrgoodRise strap s
  | .pwrgoodFall => Sys2Proof.Machine.execPwrgoodFall s
  | .resetNLow => Sys2Proof.Machine.execResetNLow s
  | .resetRelease b => Sys2Proof.Machine.execResetRelease b s
  | .testmode level => Sys2Proof.Machine.execTestmode level s
  | .tamperDetect src => Sys2Proof.Machine.execTamperDetect src s
  | .kctlWipe => Sys2Proof.Machine.execKctlWipe s
  | .kctlSeal => Sys2Proof.Machine.execKctlSeal s
  | .kctlLock => Sys2Proof.Machine.execKctlLock s
  | .thermtrip x => Sys2Proof.Machine.execThermtrip x s
  | .linkUp h k => Sys2Proof.Machine.execLinkUp h k s
  | .pllLockLoss sq => Sys2Proof.Machine.execPllLockLoss sq s
  | .junctionTemperatureAlert x => Sys2Proof.Machine.execJunctionTemperatureAlert x s
  | .configurationRequest x => Sys2Proof.Machine.execConfigurationRequest x s
  | .unsupportedRequest h => Sys2Proof.Machine.execUnsupportedRequest h s
  | .hostReadTimeout r => Sys2Proof.Machine.execHostReadTimeout r s
  | .patternCheckerLock u x => Sys2Proof.Machine.execPatternCheckerLock u x s
  | .dqsDriftCorrection p => Sys2Proof.Machine.execDqsDriftCorrection p s

end Sys2Proof.Machine
end

