-- ==== Sys2Proof/WellFormed.lean ====
section
/-! DEFINITION. Well-formed commands: operands that the encoding, or what happens outside the device, can produce. -/

namespace Sys2Proof

/-- The 16-bit field of format M (Table 3-2). -/
def mopWf (m : MOp) : Bool := m.long || decide (m.d.toNat < 65536)

/-- Opcodes 0x60 to 0x7F have no format L form (R106). -/
def mopOnlyM (m : MOp) : Bool := !m.long && mopWf m

/-- The opcode bytes that the map leaves unassigned (Tables 3-8 to 3-10, R102). 0x2F is SVC in compatibility mode. -/
def unassignedByte (b : Byte) : Bool :=
  let n : Nat := b.toNat
  n == 0x1E || n == 0x1F || (decide (0x2D ≤ n) && decide (n < 0x40) && n != 0x2F) || (decide (0x76 ≤ n) && decide (n < 0x80))
    || decide (0xF2 < n)

/-- An instruction with its prefixes has at most 16 bytes, of which ten may be prefixes before one of six: R103 refuses a
second prefix and names no greatest number of them (DESIGN CHOICE, log 116). -/
def issueWf (a : Issue) : Bool := decide (a.pre.length ≤ 10)

/-- What the host made visible lies within its bus addresses. -/
def storesWf (l : List HostStore) : Bool := l.all (fun h => decide (h.addr.toNat + h.bytes.length ≤ 2 ^ 64))

/-- A flit has a header of 16 bytes and PLEN units of payload (Table 15-2). -/
def flitWf (f : Flit) : Bool :=
  f.header.length == 16 && f.payload.length == 16 * (((f.header[0]?).getD 0).toNat % 8) && decide (f.payload.length ≤ 64)

/-- The rates of Table 17-2. -/
def rateWf (r : W16) : Bool := decide (3200 ≤ r.toNat) && decide (r.toNat ≤ 6400) && r.toNat % 400 == 0

/-- No port appears twice, and a populated one has a rate of Table 17-2. -/
def portsWf (l : List PortFacts) : Bool :=
  (l.map (fun p => p.port)).Nodup && l.all (fun p => (p.slot0.isNone && p.slot1.isNone) || rateWf p.spdRate)

/-- KABASE and DIRBASE keep their reserved bits zero (Table 10-2, R296); tables begin a frame. -/
def bootWf (b : BootFacts) : Bool :=
  portsWf b.ports && b.kabase.toNat % 0x100000 == 0 && b.dirbase.toNat % 0x80000000 == 0 && b.tables.toNat % 4096 == 0

/-- A register write is aligned to its register, within the ranges of Table 1-6 and the pages of Table 18-3. -/
def regWriteWf : RegWriteOp → Bool
  | .phys pa _ => pa.toNat % 8 == 0 && decide (0x10300000000 ≤ pa.toNat) && decide (pa.toNat < 0x1030A000000)
  | .page _ off wide _ => off.toNat % (if wide then 8 else 4) == 0
  | .bar4 _ off wide _ => off.toNat % (if wide then 8 else 4) == 0
  | .bar2 f off wide _ => f.fn == 0 && off.toNat % (if wide then 8 else 4) == 0
  | .route _ _ _ _ _ => true

/-- A trained link (Table 18-8). -/
def linkWf (k : LinkFacts) : Bool := [1, 2, 4, 8, 16].contains k.width.toNat && decide (1 ≤ k.rate.toNat) && decide (k.rate.toNat ≤ 5)

/-- A command that can arrive. -/
def Instr.wf : Instr → Bool
  | .ldq a m | .ldqs a m | .stq a m | .addq a m | .adcq a m | .subq a m | .sbcq a m | .cmpq a m | .andq a m | .orq a m
  | .xorq a m | .mul a m | .mulu a m | .div a m | .divu a m | .ldd a m | .std a m | .addd a m | .subd a m | .cmpd a m
  | .dmul a m | .ddiv a m | .ldix a m | .ldiy a m | .stix a m | .stiy a m | .leax a m | .leay a m | .bcc a m | .call a m
  | .ldx a m | .stx a m => issueWf a && mopWf m
  | .faddb a m | .fsubb a m | .fmulb a m | .fdivb a m | .fcmpb a m | .faddx a m | .fsubx a m | .fmulx a m | .fdivx a m
  | .fcmpx a m | .tlbi a m | .keyi a m | .tlbwr a m | .tlbrd a m | .kset a m | .kget a m => issueWf a && mopOnlyM m
  | .unassignedOpcode a b => issueWf a && unassignedByte b
  | .nop a | .wait a | .ret a | .retx a | .flushi a | .drain a | .tlbsync a | .clra a | .negq a | .notq a | .dneg a | .dpref a
  | .cvdq a | .cvqd a | .tstd a | .cvdx a | .cvxd a | .cvbq a | .cvqb a | .bsqrt a | .incx a | .decx a | .incy a | .decy a
  | .txy a | .tyx a | .lmov a | .lcmp a | .scan a | .lxlt a | .tpre a | .tevict a => issueWf a
  | .mfs a _ | .mts a _ | .switch a _ | .trap a _ | .svc a _ | .addix a _ | .addiy a _ | .shlq a _ | .shrq a _ | .sarq a _
  | .dshl a _ | .dshr a _ | .dsrr a _ | .ldiq a _ => issueWf a
  | .loopi a _ _ | .loopx a _ _ | .smm a _ _ | .lmm a _ _ | .saveh a _ _ | .loadh a _ _ => issueWf a
  | .bmov a _ | .bcmp a _ | .band a _ | .bor a _ | .bxor a _ | .bxlt a _ | .bxsr a _ | .ztop a _ | .ptoz a _ | .fmt a _
  | .fmtm a _ | .padd a _ | .psub a _ | .pset a _ | .pcmp a _ | .nmov a _ => issueWf a
  | .arcadeInstruction a _ _ _ => issueWf a
  | .farLoadResponse _ w _ => decide (1 ≤ w)
  | .registerWrite w => regWriteWf w
  | .ringFlitReceive _ f _ => flitWf f
  | .sqtail _ _ _ hw | .cqhead _ _ _ hw | .postBatch _ hw => storesWf hw
  | .linkUp _ k => linkWf k
  | .tamperDetect src => src != 2
  | .resetRelease b => bootWf b
  | .bypass code => !([0x00, 0x01, 0x02, 0x03, 0x04, 0x05, 0x06, 0x10].contains code.toNat)
  | .pgaccRead u _ | .pgaccWrite u _ _ => decide (u.toNat < 16)
  | .patrolScrub _ err lane => err != some .corrected || decide (lane.val % 64 < 40)
  | .extensionOpcode _ ans => Machine.statusCodes.contains ans.status.toNat
  | .configurationRequest x => x.off.toNat % 4 == 0
  | .instructionFetch _ | .storeBufferDrain _ | .resultWrite _ | .postedStoreAck _ _ | .exceptionEntry _ _ | .fallbackSwitch _
  | .tpreFillBlock _ | .eventRecordArrival _ _ | .timerExpiry _ | .sigout _ | .letterboxWrite _ | .letterboxSlotRead _
  | .requestTimeout _ | .squarePllLock _ | .pllLockTimeout _ _ | .invalidationReceive _ _ | .invalidationAck _ _
  | .qctlStart _ | .qctlStop _ | .submissionFetch _ _ _ | .cqintTimeExpiry _ _ | .hostWriteFailure _ _ | .functionLevelReset _
  | .identify _ | .tenancyBind _ | .tenancyUnbind _ | .qpCreate _ | .qpDelete _ | .loadProgram _ | .stageArcade _
  | .installArcade _ | .loadExtension _ _ _ | .unknownOpcode _ _ | .defineRecord _ _ | .removeRecord _
  | .setHints _ | .clearFlags _ | .queryRecord _ | .readJournal _ | .stopFn _ | .setConfig _ | .startFn _ _ | .getConfig _
  | .selftest _ _ | .calibrate _ _ | .linkTest _ _ | .readLog _ | .lcChange _ _ | .returnEntryConsume _ | .recordMove _ _
  | .moveCopyComplete _ _ | .releaseLimitExpiry _ _ | .heatEpochExpiry | .directorySweep | .streetEvacuation _ _ | .swst _
  | .resume _ | .dis _ | .tramTrigger _ _ | .partnerStart _ | .pacingRecord _ _ | .pacedBurstStart _ | .tramRead _ _
  | .tramWrite _ _ | .descriptorFetch _ _ | .descriptorComplete _ _ | .tramMissService _ _ | .errorLogWrite _ _ _ _
  | .correctedCoalesceExpiry | .temperatureRead _ _ _ | .calPeriodExpiry _ _ | .calibrationPhase _ _ _ | .refresh _
  | .pgctlRun _ _ | .pgctlClr _ | .perst _ _ | .linkDown _ | .linkRetrainTimeout _ | .d3hotEntry _ | .d0Return _
  | .fwctlRead _ | .fwctlErase _ | .fwctlProgram _ | .flashOperationComplete _ | .getStatus | .getIdent | .readReg _ _ _
  | .writeReg _ _ _ _ | .smbReadLog _ _ | .deviceReset _ | .clearAlert | .alertResponseAddress | .alertReassert | .extest
  | .samplePreload | .idcode | .clamp | .highz | .extestPulse | .extestTrain | .trstN | .pwrgoodRise _ | .pwrgoodFall
  | .resetNLow | .testmode _ | .kctlWipe | .kctlSeal | .kctlLock | .thermtrip _ | .pllLockLoss _
  | .junctionTemperatureAlert _ | .unsupportedRequest _ | .hostReadTimeout _
  | .patternCheckerLock _ _ | .dqsDriftCorrection _ => true

end Sys2Proof
end

