-- ==== Sys2Proof/Safety.lean ====
section
/-! DEFINITION. What a good state is, in the terms the statements use. -/

namespace Sys2Proof.Machine

/-- A map by number lists its numbers in strictly rising order. -/
def Sparse.wf {α : Type} (m : Sparse α) : Prop := (m.map (fun p => p.1)).Pairwise (· < ·)

/-- Every memory of the device keeps its canonical form: attached, square and tile memory, the host's memory, the flash
and its buffer. -/
def State.memOk (s : State) : Prop :=
  Memory.wf memDefault s.mem = true ∧ Memory.wf memDefault s.hostMem = true ∧ Memory.wf 0xFF s.flash = true
    ∧ Memory.wf memDefault s.fwbuf = true

/-- The invariant of the life-cycle fuses (R439, R440, R448): at most eight owner keys, each burnt at a counted transition;
BLANK has counted none; PROVISIONED and SERVICE have an owner key. -/
def State.fusesOk (s : State) : Prop :=
  s.fuses.ownerBanks ≤ 8 ∧ s.fuses.ownerBanks ≤ s.fuses.lccount.toNat ∧ (s.fuses.lc = 0 → s.fuses.lccount = 0)
    ∧ (s.fuses.lc = 1 ∨ s.fuses.lc = 2 → 1 ≤ s.fuses.ownerBanks)

/-- The firmware's structures lie where start-up placed them (R285, R295, R296): KABASE and DIRBASE name the key array,
which covers the installed memory, and the directory; the record tables of the tenancies lie apart from the directory,
and the key caches hold frames of installed memory alone. A write of KABASE or DIRBASE leaves these states. -/
def State.laidOut (s : State) : Prop :=
  s.layout.live = true ∧ s.kabase.toNat = s.layout.keyBase ∧ s.dirbase.toNat = s.layout.dirBase
    ∧ s.installed ≤ s.layout.keyLen * 4096 ∧ s.installed % 2 ^ 21 = 0 ∧ s.installed ≤ sqBase
    ∧ s.layout.keyBase + s.layout.keyLen ≤ sqBase ∧ s.layout.tabBase + 16 * s.tabStride ≤ sqBase
    ∧ (s.layout.tabBase + 16 * s.tabStride ≤ s.layout.dirBase ∨ s.layout.dirBase + dirSize ≤ s.layout.tabBase)
    ∧ (∀ c ∈ s.cores, ∀ p ∈ c.2.keyCache, p.1 < s.layout.keyLen)
    ∧ (∀ u ∈ s.trams, ∀ p ∈ u.2.keyCache, p.1 < s.layout.keyLen)

/-- Every waiting command is well-formed. -/
def State.queueOk (s : State) : Prop := ∀ c ∈ s.pending, c.wf = true

end Sys2Proof.Machine
end

