-- ==== Sys2Proof/Certificates/Slice0/Obligations.lean ====
section
/-! DEFINITION. The statements about the model. In them `Ready` is an instruction that has passed the checks of
Table 3-14 with its operands loaded (`State.issues`), and `Ready.perform` its end: completion, the wait for an access that
left the tile, or the exception of its effect. A statement for `s.issues … = .inr r` holds for every operand form. -/

open Sys2Proof Sys2Proof.Machine

/-! ## Instructions: binary integers (05) -/

/-- R149, R150: the six additions and subtractions. The operand is widened with its sign (Table 5-1); C is the carry
out, or no borrow; V says that the signed result does not fit, which with PSW.BOE raises vector 10 and writes nothing. -/
def Obligations.BinaryAddSubtract : Prop :=
  ∀ (a : Issue) (m : MOp) (s : State) (r : Ready),
    let x : W64 := r.w.k.bank.q
    let y : W64 := qOperand m true (op1 r.bs)
    let c : Nat := (r.w.k.bank.psw.getLsbD 0).toNat
    let out (v : Int) : Bool := decide (v < -(2 ^ 63 : Int)) || decide ((2 ^ 63 : Int) ≤ v)
    let res (v : Int) : W64 := BitVec.ofInt 64 v
    let eff (v : Int) (carry : Bool) : Eff :=
      if out v ∧ pswBit r.w.k.bank.psw eBOE then Eff.fail (mkTrapless 10)
      else
        let bvs : W64 := if out v then (1 : W64) <<< sBVS else 0
        let f : Flags := { c := carry, v := out v, z := res v == 0, n := decide ((res v).toInt < 0), dv := false }
        Eff.of [(1, wrQ (res v)), (1, .psw (mCVZN ||| bvs) (f.word ||| bvs))] [] 1
    let cmp (v : Int) (carry : Bool) : Eff :=
      Eff.of [(1, .psw mCVZN ({ c := carry, v := out v, z := res v == 0, n := decide ((res v).toInt < 0), dv := false }
        : Flags).word)] [] 1
    let m_ (op : Nat) : Prop := s.issues a (fun _ k => mForm a op m .q true k true false) = .inr r
    (m_ 0x43 → exec (.addq a m) s
        = .next (r.perform (Done.of r.w (eff (x.toInt + y.toInt) (decide (2 ^ 64 ≤ x.toNat + y.toNat))) none)))
    ∧ (m_ 0x44 → exec (.adcq a m) s
        = .next (r.perform (Done.of r.w (eff (x.toInt + y.toInt + c) (decide (2 ^ 64 ≤ x.toNat + y.toNat + c))) none)))
    ∧ (m_ 0x45 → exec (.subq a m) s
        = .next (r.perform (Done.of r.w (eff (x.toInt - y.toInt) (decide (y.toNat ≤ x.toNat))) none)))
    ∧ (m_ 0x46 → exec (.sbcq a m) s
        = .next (r.perform (Done.of r.w (eff (x.toInt - y.toInt - 1 + c) (decide (y.toNat + 1 ≤ x.toNat + c))) none)))
    ∧ (m_ 0x47 → exec (.cmpq a m) s
        = .next (r.perform (Done.of r.w (cmp (x.toInt - y.toInt) (decide (y.toNat ≤ x.toNat))) none)))
    ∧ (s.issues a (fun _ _ => aForm a 0x08) = .inr r → exec (.negq a) s
        = .next (r.perform (Done.of r.w (eff (-x.toInt) (decide (x = 0))) none)))

/-- R149: the logical instructions and the shifts; V is 0, and C is 0 or the bit shifted out last. -/
def Obligations.BinaryLogicShift : Prop :=
  ∀ (a : Issue) (m : MOp) (sel : Byte) (s : State) (r : Ready),
    let x : W64 := r.w.k.bank.q
    let y : W64 := qOperand m false (op1 r.bs)
    let n : Nat := sel.toNat % 64
    let eff (v : W64) (carry : Bool) : Eff :=
      let f : Flags := { c := carry, v := false, z := v == 0, n := v.getLsbD 63, dv := false }
      Eff.of [(1, wrQ v), (1, .psw mCVZN f.word)] [] 1
    let m_ (op : Nat) : Prop := s.issues a (fun _ k => mForm a op m .q true k true false) = .inr r
    let b_ (op : Nat) : Prop :=
      s.issues a (fun _ _ => { bForm a op with legal := decide (sel.toNat < 64) }) = .inr r
    (m_ 0x48 → exec (.andq a m) s = .next (r.perform (Done.of r.w (eff (x &&& y) false) none)))
    ∧ (m_ 0x49 → exec (.orq a m) s = .next (r.perform (Done.of r.w (eff (x ||| y) false) none)))
    ∧ (m_ 0x4A → exec (.xorq a m) s = .next (r.perform (Done.of r.w (eff (x ^^^ y) false) none)))
    ∧ (s.issues a (fun _ _ => aForm a 0x09) = .inr r → exec (.notq a) s
        = .next (r.perform (Done.of r.w (eff (~~~ x) false) none)))
    ∧ (b_ 0x26 → exec (.shlq a sel) s = .next (r.perform (Done.of r.w
        (eff (BitVec.ofNat 64 (x.toNat * 2 ^ n)) (decide (n ≠ 0) && x.getLsbD (64 - n))) none)))
    ∧ (b_ 0x27 → exec (.shrq a sel) s = .next (r.perform (Done.of r.w
        (eff (BitVec.ofNat 64 (x.toNat / 2 ^ n)) (decide (n ≠ 0) && x.getLsbD (n - 1))) none)))
    ∧ (b_ 0x28 → exec (.sarq a sel) s = .next (r.perform (Done.of r.w
        (eff (BitVec.ofInt 64 (x.toInt / (2 ^ n : Nat))) (decide (n ≠ 0) && x.getLsbD (n - 1))) none)))

/-- R151, R192, R157, R130: loads and stores of ACC.Q, the index registers and ACC.X change no flag; a load has its
result after two cycles, an immediate index load and LDIQ after one; STQ drops the high bytes. -/
def Obligations.LoadsAndStores : Prop :=
  ∀ (a : Issue) (m : MOp) (sel : Byte) (s : State) (r : Ready),
    let b : Bank := r.w.k.bank
    let m_ (op : Nat) (cls : LenCls) (imm read write : Bool) : Prop :=
      s.issues a (fun _ k => mForm a op m cls imm k read write) = .inr r
    let load (n : Nat) (w : RegWr) : Host.Outcome State Fault Refusal :=
      .next (r.perform (Done.of r.w (Eff.of [(n, w)] [] 1) none))
    let store (bs : List Byte) : Host.Outcome State Fault Refusal :=
      .next (r.perform (Done.of r.w
        (Eff.of [] ((mReqs a m r.w.k false true).map (fun q => stTo r.w q r.ls bs)) 1) none))
    let v : Nat := beNat (op1 r.bs)
    (m_ 0x40 .q true true false → mImm m = false → exec (.ldq a m) s = load 2 (wrQ (BitVec.ofNat 64 v)))
    ∧ (m_ 0x40 .q true true false → mImm m = true → exec (.ldq a m) s = load 2 (wrQ ((mDisp m).signExtend 64)))
    ∧ (m_ 0x41 .q true true false → mImm m = false →
        exec (.ldqs a m) s = load 2 (wrQ (BitVec.ofInt 64 (sext (8 * (op1 r.bs).length) v))))
    ∧ (m_ 0x41 .q true true false → mImm m = true → exec (.ldqs a m) s = load 2 (wrQ ((mDisp m).signExtend 64)))
    ∧ (s.issues a (fun _ _ => bForm a 0x2C) = .inr r → exec (.ldiq a sel) s = load 1 (wrQ (sel.signExtend 64)))
    ∧ (m_ 0x42 .q false false true → exec (.stq a m) s = store (beBytes (mLen m) b.q.toNat))
    ∧ (m_ 0x56 .i true true false → mImm m = false → exec (.ldix a m) s = load 2 (.ix (BitVec.ofNat 32 v)))
    ∧ (m_ 0x56 .i true true false → mImm m = true → exec (.ldix a m) s = load 1 (.ix (mDisp m)))
    ∧ (m_ 0x57 .i true true false → mImm m = false → exec (.ldiy a m) s = load 2 (.iy (BitVec.ofNat 32 v)))
    ∧ (m_ 0x57 .i true true false → mImm m = true → exec (.ldiy a m) s = load 1 (.iy (mDisp m)))
    ∧ (m_ 0x58 .i false false true → exec (.stix a m) s = store (beBytes 4 b.ix.toNat))
    ∧ (m_ 0x59 .i false false true → exec (.stiy a m) s = store (beBytes 4 b.iy.toNat))
    ∧ (s.issues a (fun _ k => { mForm a 0x5E m .x false k true false with r3 := false }) = .inr r →
        exec (.ldx a m) s = load 2 (.acc 16 16 v))
    ∧ (s.issues a (fun _ k => { mForm a 0x5F m .x false k false true with r3 := false }) = .inr r →
        exec (.stx a m) s = store (beBytes 16 (accGet b.acc 16 16)))

/-- R152, R66: MUL and MULU write the exact product to MPH:MPL with latency 4, and no flag. -/
def Obligations.BinaryMultiply : Prop :=
  ∀ (a : Issue) (m : MOp) (s : State) (r : Ready),
    let x : W64 := r.w.k.bank.q
    let y (signed : Bool) : W64 := qOperand m signed (op1 r.bs)
    let m_ (op : Nat) : Prop := s.issues a (fun _ k => mForm a op m .q true k true false) = .inr r
    let eff (h l : W64) : Eff := Eff.of [(4, .mph h), (4, .mpl l)] [] 1
    (m_ 0x4B → ∃ h l : W64, (h ++ l).toInt = x.toInt * (y true).toInt
        ∧ exec (.mul a m) s = .next (r.perform (Done.of r.w (eff h l) none)))
    ∧ (m_ 0x4C → ∃ h l : W64, (h ++ l).toNat = x.toNat * (y false).toNat
        ∧ exec (.mulu a m) s = .next (r.perform (Done.of r.w (eff h l) none)))

/-- R153, R154, R66: DIV and DIVU. A divisor of zero and the one overflow trap when enabled, else set their sticky
bit; the divider is in use for 18 cycles (the form's `divider`) and the results arrive then. -/
def Obligations.BinaryDivide : Prop :=
  ∀ (a : Issue) (m : MOp) (s : State) (r : Ready),
    let b : Bank := r.w.k.bank
    let x : W64 := b.q
    let y (signed : Bool) : W64 := qOperand m signed (op1 r.bs)
    let m_ (op : Nat) : Prop :=
      s.issues a (fun _ k => { mForm a op m .q true k true false with divider := 18 }) = .inr r
    let done (q rem : W64) (sticky : List (Nat × RegWr)) : Host.Outcome State Fault Refusal :=
      .next (r.perform (Done.of r.w (Eff.of ([(18, .dvq q), (18, .dvm rem)] ++ sticky) [] 1) none))
    let trap (v : BitVec 6) : Host.Outcome State Fault Refusal :=
      .next (r.perform (Done.of r.w (Eff.fail (mkTrapless v)) none))
    let bit1 (n : Nat) : List (Nat × RegWr) := [(1, .psw ((1 : W64) <<< n) ((1 : W64) <<< n))]
    (m_ 0x4D → y true = 0 → pswBit b.psw eZDE = true → exec (.div a m) s = trap 9)
    ∧ (m_ 0x4D → y true = 0 → pswBit b.psw eZDE = false → exec (.div a m) s = done 0 x (bit1 sZDS))
    ∧ (m_ 0x4D → x.toInt = -(2 ^ 63 : Int) → (y true).toInt = -1 → pswBit b.psw eBOE = true → exec (.div a m) s = trap 10)
    ∧ (m_ 0x4D → x.toInt = -(2 ^ 63 : Int) → (y true).toInt = -1 → pswBit b.psw eBOE = false →
        exec (.div a m) s = done (BitVec.ofInt 64 (-(2 ^ 63 : Int))) 0 (bit1 sBVS))
    ∧ (m_ 0x4D → y true ≠ 0 → ¬(x.toInt = -(2 ^ 63 : Int) ∧ (y true).toInt = -1) →
        ∃ q rem : W64, exec (.div a m) s = done q rem [] ∧ x.toInt = q.toInt * (y true).toInt + rem.toInt
          ∧ rem.toInt.natAbs < (y true).toInt.natAbs ∧ 0 ≤ rem.toInt * x.toInt)
    ∧ (m_ 0x4E → y false = 0 → pswBit b.psw eZDE = true → exec (.divu a m) s = trap 9)
    ∧ (m_ 0x4E → y false = 0 → pswBit b.psw eZDE = false → exec (.divu a m) s = done 0 x (bit1 sZDS))
    ∧ (m_ 0x4E → y false ≠ 0 →
        ∃ q rem : W64, exec (.divu a m) s = done q rem [] ∧ x.toNat = q.toNat * (y false).toNat + rem.toNat
          ∧ rem.toNat < (y false).toNat)

/-- R192: the instructions on the index registers write one register, modulo 2^32, and no flag. -/
def Obligations.IndexRegisters : Prop :=
  ∀ (a : Issue) (m : MOp) (sel : Byte) (s : State) (r : Ready),
    let b : Bank := r.w.k.bank
    let a_ (op : Nat) : Prop := s.issues a (fun _ _ => aForm a op) = .inr r
    let b_ (op : Nat) : Prop := s.issues a (fun _ _ => bForm a op) = .inr r
    let m_ (op : Nat) : Prop :=
      s.issues a (fun _ k => { mForm a op m .z true k false false with pfx := pfxOk .none a.pre, reqs := [] }) = .inr r
    let ix (v : Int) : Host.Outcome State Fault Refusal :=
      .next (r.perform (Done.of r.w (Eff.of [(1, .ix (BitVec.ofInt 32 v))] [] 1) none))
    let iy (v : Int) : Host.Outcome State Fault Refusal :=
      .next (r.perform (Done.of r.w (Eff.of [(1, .iy (BitVec.ofInt 32 v))] [] 1) none))
    (a_ 0x14 → exec (.incx a) s = ix (b.ix.toNat + 1))
    ∧ (a_ 0x15 → exec (.decx a) s = ix (b.ix.toNat - 1))
    ∧ (a_ 0x16 → exec (.incy a) s = iy (b.iy.toNat + 1))
    ∧ (a_ 0x17 → exec (.decy a) s = iy (b.iy.toNat - 1))
    ∧ (a_ 0x18 → exec (.txy a) s = iy b.ix.toNat)
    ∧ (a_ 0x19 → exec (.tyx a) s = ix b.iy.toNat)
    ∧ (b_ 0x24 → exec (.addix a sel) s = ix (b.ix.toInt + sel.toInt))
    ∧ (b_ 0x25 → exec (.addiy a sel) s = iy (b.iy.toInt + sel.toInt))
    ∧ (m_ 0x5A → exec (.leax a m) s = ix (mEa m b).toInt)
    ∧ (m_ 0x5B → exec (.leay a m) s = iy (mEa m b).toInt)

/-! ## Instructions: decimal (04) -/

/-- R130, R131, R136, R137: loads, stores, additions and comparisons of ACC.D. Both fields are checked first (R125); a
value that does not fit in 63 digits raises vector 8 when PSW.DOE is 1, else sets DV and DVS and drops the high
digits. -/
def Obligations.DecimalAccumulator : Prop :=
  ∀ (a : Issue) (m : MOp) (s : State) (r : Ready),
    let d : List Byte := r.w.k.bank.d
    let o : List Byte := dOperand m (op1 r.bs)
    let psw : W64 := r.w.k.bank.psw
    let good (l : List Byte) : Prop := badNibble 0 (nibbles l) = none
    let ends (e : Eff) (res : Option Int) : Host.Outcome State Fault Refusal := .next (r.perform (Done.of r.w e res))
    let post (v : Int) (n : Nat) : Eff :=
      if v.natAbs < 10 ^ 63 then Eff.of [(n, .psw mFlags (decFlags v false).word), (n, wrD (pk v 32))] [] n
      else if pswBit psw eDOE then Eff.fail (mkTrapless 8)
      else Eff.of [(n, .psw (mFlags ||| 1 <<< sDVS) ((decFlags v true).word ||| 1 <<< sDVS)), (n, wrD (pk v 32))] [] n
    let d_ (op : Nat) : Prop :=
      s.issues a (fun _ k => { mForm a op m .d true k true false with micro := true, residue := true }) = .inr r
    let a_ (op : Nat) : Prop := s.issues a (fun _ _ => { aForm a op with micro := true }) = .inr r
    let load : Prop := s.issues a (fun _ k => { mForm a 0x4F m .d true k true false with micro := true }) = .inr r
    let store : Prop := s.issues a (fun _ k => { mForm a 0x50 m .d false k false true with micro := true }) = .inr r
    let put (l : List Byte) : List StOp := (mReqs a m r.w.k false true).map (fun q => stTo r.w q r.ls l)
    let n : Nat := if mImm m ∨ mLen m ≤ 16 then 4 else 7
    (d_ 0x51 → good d → good o → exec (.addd a m) s = ends (post (pval d + pval o) n) (some (pval d + pval o)))
    ∧ (d_ 0x52 → good d → good o → exec (.subd a m) s = ends (post (pval d - pval o) n) (some (pval d - pval o)))
    ∧ (d_ 0x53 → good d → good o → exec (.cmpd a m) s
        = ends (Eff.of [(n, .psw mFlags (decFlags (pval d - pval o) false).word)] [] n) (some (pval d - pval o)))
    ∧ (s.issues a (fun _ _ => { aForm a 0x0A with micro := true, residue := false }) = .inr r → good d →
        exec (.dneg a) s = ends (post (-pval d) 1) (some (pval d)))
    ∧ (s.issues a (fun _ _ => { aForm a 0x0B with micro := true, residue := false }) = .inr r → good d →
        exec (.dpref a) s = ends (post (pval d) 1) (some (pval d)))
    ∧ (a_ 0x0E → exec (.tstd a) s = ends (Eff.of [(1, .psw mFlags
        ({ c := (nibbles d).getLast? == some 0xF, v := (badNibble 0 (nibbles d)).isSome
           z := (badNibble 0 (nibbles d)).isNone && pval d == 0
           n := (badNibble 0 (nibbles d)).isNone && decide (pval d < 0), dv := false } : Flags).word)] [] 1) none)
    ∧ (a_ 0x07 → exec (.clra a) s = ends (Eff.of [(1, .acc 0 32 0)] [] 1) none)
    ∧ (load → mImm m = false → exec (.ldd a m) s = ends (Eff.of [(2, wrD (zeros (32 - o.length) ++ o))] [] 1) none)
    ∧ (load → mImm m = true → good o →
        exec (.ldd a m) s = ends (Eff.of [(2, wrD (zeros (32 - o.length) ++ o))] [] 1) none)
    ∧ (store → allZero (d.take (32 - mLen m)) = true →
        exec (.std a m) s = ends (Eff.of [(1, .psw mDV 0)] (put (d.drop (32 - mLen m))) 1) none)
    ∧ (store → allZero (d.take (32 - mLen m)) = false → pswBit psw eDOE = true →
        exec (.std a m) s = ends (Eff.fail (mkTrapless 8)) none)
    ∧ (store → allZero (d.take (32 - mLen m)) = false → pswBit psw eDOE = false →
        exec (.std a m) s
          = ends (Eff.of [(1, .psw (mDV ||| 1 <<< sDVS) (mDV ||| 1 <<< sDVS))] (put (d.drop (32 - mLen m))) 1) none)

/-- R132 to R135, R138: products, quotients, digit shifts and conversions of valid fields. -/
def Obligations.DecimalMultiplyDivideShift : Prop :=
  ∀ (a : Issue) (m : MOp) (sel : Byte) (s : State) (r : Ready),
    let b : Bank := r.w.k.bank
    let d : List Byte := b.d
    let o : List Byte := dOperand m (op1 r.bs)
    let good (l : List Byte) : Prop := badNibble 0 (nibbles l) = none
    let ends (e : Eff) (res : Option Int) : Host.Outcome State Fault Refusal := .next (r.perform (Done.of r.w e res))
    let post (v : Int) (n : Nat) : Eff :=
      if v.natAbs < 10 ^ 63 then Eff.of [(n, .psw mFlags (decFlags v false).word), (n, wrD (pk v 32))] [] n
      else if pswBit b.psw eDOE then Eff.fail (mkTrapless 8)
      else Eff.of [(n, .psw (mFlags ||| 1 <<< sDVS) ((decFlags v true).word ||| 1 <<< sDVS)), (n, wrD (pk v 32))] [] n
    let sticky (v : BitVec 6) (en : Nat) (p : W64) (n : Nat) : Eff :=
      if pswBit b.psw en then Eff.fail (mkTrapless v) else Eff.of [(n, .psw p p)] [] n
    let d_ (op : Nat) : Prop :=
      s.issues a (fun _ k => { mForm a op m .d16 true k true false with micro := true, residue := true }) = .inr r
    let b_ (op : Nat) : Prop :=
      s.issues a (fun _ _ => { bForm a op with legal := decide (sel.toNat < 64), micro := true, residue := true }) = .inr r
    let a_ (op : Nat) : Prop := s.issues a (fun _ _ => { aForm a op with micro := true, residue := true }) = .inr r
    let n : Nat := sel.toNat % 64
    let sgn (q : Nat) : Int := if pval d < 0 then -(q : Int) else q
    let q : Nat := (pval d).natAbs / 10 ^ n
    let t : Nat := (pval d).natAbs % 10 ^ n
    (d_ 0x54 → good d → good o → allZero (d.take 16) = true → exec (.dmul a m) s = ends (post (pval d * pval o) 36) (some (pval d * pval o)))
    ∧ (d_ 0x54 → good d → good o → allZero (d.take 16) = false →
        exec (.dmul a m) s = ends (sticky 8 eDOE (mDV ||| 1 <<< sDVS) 36) none)
    ∧ (d_ 0x55 → good d → good o → pval o = 0 → exec (.ddiv a m) s = ends (sticky 9 eZDE (1 <<< sZDS) 66) none)
    ∧ (d_ 0x55 → good d → good o → pval o ≠ 0 → ∃ u v : Int,
        pval d = u * pval o + v ∧ v.natAbs < (pval o).natAbs ∧ 0 ≤ v * pval d
          ∧ exec (.ddiv a m) s = ends (Eff.of [(66, .psw mFlags (decFlags u false).word), (66, wrD (pk u 32)),
              (66, .mph (BitVec.ofNat 64 (beAt (pk v 16) 0 8))), (66, .mpl (BitVec.ofNat 64 (beAt (pk v 16) 8 8)))] [] 66)
              (some (pval d)))
    ∧ (b_ 0x29 → good d → exec (.dshl a sel) s = ends (post (pval d * (10 ^ n : Nat)) 2) (some (pval d * (10 ^ n : Nat))))
    ∧ (b_ 0x2A → good d → exec (.dshr a sel) s = ends (post (sgn q) 2) (some (sgn q)))
    ∧ (b_ 0x2B → good d → n = 0 → exec (.dsrr a sel) s = ends (post (pval d) 3) (some (pval d)))
    ∧ (b_ 0x2B → good d → n ≠ 0 →
        exec (.dsrr a sel) s
          = (let v : Int := sgn (if roundUp b.drm (decide (pval d < 0)) q t (10 ^ n) then q + 1 else q)
             ends (post v 3) (some v)))
    ∧ (a_ 0x0C → good d → -(2 ^ 63 : Int) ≤ pval d → pval d < (2 ^ 63 : Int) →
        exec (.cvdq a) s = ends (Eff.of
          [(12, .psw mCVZN ({ c := false, v := false, z := pval d == 0, n := decide (pval d < 0), dv := false } : Flags).word),
           (12, wrQ (BitVec.ofInt 64 (pval d)))] [] 12) (some (pval d)))
    ∧ (a_ 0x0C → good d → (pval d < -(2 ^ 63 : Int) ∨ (2 ^ 63 : Int) ≤ pval d) → pswBit b.psw eBOE = true →
        exec (.cvdq a) s = ends (Eff.fail (mkTrapless 10)) (some (pval d)))
    ∧ (a_ 0x0C → good d → (pval d < -(2 ^ 63 : Int) ∨ (2 ^ 63 : Int) ≤ pval d) → pswBit b.psw eBOE = false →
        exec (.cvdq a) s =
          (let w : W64 := BitVec.ofInt 64 (pval d)
           let f : Flags := { c := false, v := true, z := w == 0, n := w.msb, dv := false }
           ends (Eff.of [(12, .psw (mCVZN ||| 1 <<< sBVS) (f.word ||| 1 <<< sBVS)), (12, wrQ w)] [] 12) (some (pval d))))
    ∧ (a_ 0x0D → exec (.cvqd a) s = ends (Eff.of
        [(14, .psw mCVZN (decFlags b.q.toInt false).word), (14, wrD (pk b.q.toInt 32))] [] 14) (some b.q.toInt))

/-- R139, R140: the packed instructions on two memory operands. R125, R126: an invalid nibble in ACC.D (operand 1), or
in the other field of an instruction whose ACC.D is valid (operand 2), raises vector 7 with the operand and the nibble
in FINFO; nothing is written. -/
def Obligations.DecimalMemory : Prop :=
  (∀ (a : Issue) (o : SOp) (s : State) (r : Ready),
     let x : List Byte := op1 r.bs
     let y : List Byte := op2 r.bs
     let good (l : List Byte) : Prop := badNibble 0 (nibbles l) = none
     let ends (e : Eff) (res : Option Int) : Host.Outcome State Fault Refusal := .next (r.perform (Done.of r.w e res))
     let r1 (k : Core) (read write : Bool) : Req := ssReq1 a o k (ssN1 o) read write
     let n : Nat := if ssN1 o ≤ 16 ∧ ssN2 o ≤ 16 then 4 else 7
     let post (v : Int) : Eff :=
       let st : List StOp := [stTo r.w (r1 r.k0 true true) r.ls (pk v (ssN1 o))]
       if v.natAbs < 10 ^ (2 * ssN1 o - 1) then Eff.of [(n, .psw mFlags (decFlags v false).word)] st n
       else if pswBit r.w.k.bank.psw eDOE then Eff.fail (mkTrapless 8)
       else Eff.of [(n, .psw (mFlags ||| 1 <<< sDVS) ((decFlags v true).word ||| 1 <<< sDVS))] st n
     let p_ (op : Nat) (read write : Bool) : Prop :=
       s.issues a (fun _ k =>
         { ssForm a op o false k [r1 k read write, ssReq2 a o k (ssN2 o)] with residue := true }) = .inr r
     (p_ 11 true true → good x → good y → exec (.padd a o) s = ends (post (pval x + pval y)) (some (pval x + pval y)))
     ∧ (p_ 12 true true → good x → good y → exec (.psub a o) s = ends (post (pval x - pval y)) (some (pval x - pval y)))
     ∧ (p_ 13 true true → good y → exec (.pset a o) s = ends (post (pval y)) (some (pval y)))
     ∧ (p_ 14 true false → good x → good y →
         exec (.pcmp a o) s = ends (Eff.of [(n, .psw mFlags (decFlags (pval x - pval y) false).word)] [] n) (some (pval x - pval y)))
     ∧ (s.issues a (fun _ k => ssForm a 15 o false k [r1 k true true, ssReq2 a o k (ssN2 o)]) = .inr r →
         exec (.nmov a o) s = ends (Eff.of [] [stTo r.w (r1 r.k0 true true) r.ls
           (ofNibbles (lastNibbles (2 * ssN1 o) (nibbles y ++ ((nibbles x).getLast?).toList)))]
           (if ssN1 o ≤ 16 ∧ ssN2 o ≤ 16 then 3 else 5)) none))
  ∧ (∀ (a : Issue) (m : MOp) (o : SOp) (sel : Byte) (s : State) (r : Ready) (i : Nat),
       let d : List Byte := r.w.k.bank.d
       let y : List Byte := dOperand m (op1 r.bs)
       let bad (l : List Byte) : Prop := badNibble 0 (nibbles l) = some i
       let good (l : List Byte) : Prop := badNibble 0 (nibbles l) = none
       let raised (c : Instr) (opnd : Nat) : Prop :=
         exec c s = .next (r.perform (Done.of r.w (Eff.fail (mkFault 7 0 r.w.k.bank.pc.toNat (opnd + i * 256))) none))
       let mf (op : Nat) (cls : LenCls) : State → Core → Form :=
         fun _ k => { mForm a op m cls true k true false with micro := true, residue := true }
       let bf (op : Nat) : State → Core → Form :=
         fun _ _ => { bForm a op with legal := decide (sel.toNat < 64), micro := true, residue := true }
       let af (op : Nat) (res : Bool) : State → Core → Form := fun _ _ => { aForm a op with micro := true, residue := res }
       let pf (op : Nat) (read write : Bool) : State → Core → Form :=
         fun _ k => { ssForm a op o false k [ssReq1 a o k (ssN1 o) read write, ssReq2 a o k (ssN2 o)] with residue := true }
       let accM : List ((State → Core → Form) × Instr) :=
         [(mf 0x51 .d, .addd a m), (mf 0x52 .d, .subd a m), (mf 0x53 .d, .cmpd a m), (mf 0x54 .d16, .dmul a m),
          (mf 0x55 .d16, .ddiv a m)]
       let acc : List ((State → Core → Form) × Instr) :=
         [(bf 0x29, .dshl a sel), (bf 0x2A, .dshr a sel), (bf 0x2B, .dsrr a sel), (af 0x0A false, .dneg a),
          (af 0x0B false, .dpref a), (af 0x0C true, .cvdq a)]
       let both : List ((State → Core → Form) × Instr) :=
         [(pf 11 true true, .padd a o), (pf 12 true true, .psub a o), (pf 14 true false, .pcmp a o)]
       (∀ p ∈ accM ++ acc, s.issues a p.1 = .inr r → bad d → raised p.2 1)
       ∧ (∀ p ∈ accM, s.issues a p.1 = .inr r → good d → bad y → raised p.2 2)
       ∧ (∀ p ∈ both, s.issues a p.1 = .inr r → bad (op1 r.bs) → raised p.2 1)
       ∧ (∀ p ∈ both, s.issues a p.1 = .inr r → good (op1 r.bs) → bad (op2 r.bs) → raised p.2 2)
       ∧ (s.issues a (pf 13 true true) = .inr r → bad (op2 r.bs) → raised (.pset a o) 2))

/-- R119 to R122: `pk` and `val` agree on every value that fits, and `pk` spells a valid field of its length. -/
def Obligations.PackedRoundTrip : Prop :=
  ∀ (v : Int) (n : Nat), 0 < n → v.natAbs < 10 ^ (2 * n - 1) →
    pval (pk v n) = v ∧ (pk v n).length = n ∧ badNibble 0 (nibbles (pk v n)) = none

/-! ## Instructions: floating point (05) -/

/-- R157, R159, R160, R163, R164: the binary64 instructions on ACC.B. With E the exceptions of the operation, a bit of
E that PSW.FEN enables raises vector 11 with E in FINFO and nothing is written; else the result is written and E joins
PSW.FST. FDIVB and BSQRT use the divider for 22 and 26 cycles (the form's `divider`). -/
def Obligations.FloatBinary64 : Prop :=
  ∀ (a : Issue) (m : MOp) (s : State) (r : Ready),
    let b : Bank := r.w.k.bank
    let x : Nat := b.q.toNat
    let y : Nat := beNat (op1 r.bs)
    let raised (v : FRes) : Nat := if v.tiny && !bit v.e 3 && bit b.fen 3 then v.e + 8 else v.e
    let eff (v : FRes) (n : Nat) (wr : List RegWr) : Eff :=
      if Nat.land (raised v) b.fen ≠ 0 then Eff.fail (mkFault 11 0 0 (raised v))
      else
        let fst : W64 := BitVec.ofNat 64 (raised v * 2 ^ 52)
        Eff.of ((wr ++ (if raised v = 0 then [] else [RegWr.psw fst fst])).map (fun w => (n, w))) [] n
    let m_ (op : Nat) (div : Nat) : Prop :=
      s.issues a (fun _ k => { mForm a op m .b false k true false with r3 := false, divider := div }) = .inr r
    let a_ (op : Nat) (div : Nat) : Prop :=
      s.issues a (fun _ _ => { aForm a op with r3 := false, divider := div }) = .inr r
    let res (v : FRes) (n : Nat) : Host.Outcome State Fault Refusal :=
      .next (r.perform (Done.of r.w (eff v n [.acc 24 8 v.v]) none))
    (m_ 0x60 0 → exec (.faddb a m) s = res (binAdd b.brm false x y) 3)
    ∧ (m_ 0x61 0 → exec (.fsubb a m) s = res (binAdd b.brm true x y) 3)
    ∧ (m_ 0x62 0 → exec (.fmulb a m) s = res (binMul b.brm x y) 4)
    ∧ (m_ 0x63 22 → exec (.fdivb a m) s = res (binDiv b.brm x y) 22)
    ∧ (m_ 0x64 0 → exec (.fcmpb a m) s = .next (r.perform (Done.of r.w
        (eff { v := 0, e := (binCmp x y).2, tiny := false } 3 [.psw mCVZN (binCmp x y).1.word]) none)))
    ∧ (a_ 0x13 26 → exec (.bsqrt a) s = res (binSqrt b.brm x) 26)
    ∧ (a_ 0x12 0 → exec (.cvqb a) s = res (binOfInt b.brm b.q.toInt) 3)
    ∧ (a_ 0x11 0 → exec (.cvbq a) s = res (binToInt b.brm x) 3)

/-- R157, R159, R160, R162 to R164: the decimal128 instructions on ACC.X, and the conversions from and to ACC.D. All
but the comparison carry a residue check (R165), of the value last in each clause. -/
def Obligations.FloatDecimal128 : Prop :=
  ∀ (a : Issue) (m : MOp) (s : State) (r : Ready),
    let b : Bank := r.w.k.bank
    let x : Nat := accGet b.acc 16 16
    let y : Nat := beNat (op1 r.bs)
    let raised (v : FRes) : Nat := if v.tiny && !bit v.e 3 && bit b.fen 3 then v.e + 8 else v.e
    let eff (v : FRes) (n : Nat) (wr : List RegWr) : Eff :=
      if Nat.land (raised v) b.fen ≠ 0 then Eff.fail (mkFault 11 0 0 (raised v))
      else
        let fst : W64 := BitVec.ofNat 64 (raised v * 2 ^ 52)
        Eff.of ((wr ++ (if raised v = 0 then [] else [RegWr.psw fst fst])).map (fun w => (n, w))) [] n
    let ends (e : Eff) (v : Option Int) : Host.Outcome State Fault Refusal := .next (r.perform (Done.of r.w e v))
    let m_ (op : Nat) (residue : Bool) : Prop :=
      s.issues a (fun _ k => { mForm a op m .x false k true false with r3 := false, residue := residue }) = .inr r
    let a_ (op : Nat) : Prop := s.issues a (fun _ _ => { aForm a op with r3 := false, residue := true }) = .inr r
    let res (v : FRes) (n : Nat) (val : Option Int) : Host.Outcome State Fault Refusal :=
      ends (eff v n [.acc 16 16 v.v]) val
    (m_ 0x65 true → exec (.faddx a m) s = res (decAdd b.drm false x y) 3 (sumRes false x y))
    ∧ (m_ 0x66 true → exec (.fsubx a m) s = res (decAdd b.drm true x y) 3 (sumRes true x y))
    ∧ (m_ 0x67 true → exec (.fmulx a m) s = res (decMul b.drm x y) 8 (mulRes x y))
    ∧ (m_ 0x68 true → exec (.fdivx a m) s = res (decDiv b.drm x y) 40 (divRes x y))
    ∧ (m_ 0x69 false → exec (.fcmpx a m) s = ends
        (eff { v := 0, e := (decCmp x y).2, tiny := false } 3 [.psw mCVZN (decCmp x y).1.word]) none)
    ∧ (a_ 0x0F → badNibble 0 (nibbles b.d) = none → exec (.cvdx a) s = res (decOfPacked b.drm b.d) 6 (some (pval b.d)))
    ∧ (a_ 0x0F → ∀ i, badNibble 0 (nibbles b.d) = some i →
        exec (.cvdx a) s = ends (Eff.fail (mkFault 7 0 b.pc.toNat (1 + i * 256))) none)
    ∧ (a_ 0x10 → exec (.cvxd a) s = ends
        (eff { v := 0, e := (decToPacked b.drm x).2, tiny := false } 8 [wrD (decToPacked b.drm x).1])
        (if (decToPacked b.drm x).2 = 1 then none else some (pval (decToPacked b.drm x).1)))

/-- R156: the canonical encoding of a finite decimal128 number decodes to its sign, coefficient and exponent. -/
def Obligations.Decimal128RoundTrip : Prop :=
  ∀ (neg : Bool) (c : Nat) (e : Int), c < 10 ^ 34 → -6176 ≤ e → e ≤ 6111 →
    decOf (decEnc neg c e) = .fin neg c e ∧ decEnc neg c e < 2 ^ 128

/-! ## Instructions: strings and editing (06) -/

/-- R174 to R176: the short byte instructions. A byte is stored before the next is read (R172); BCMP and BXSR store
nothing. R172, R174: where no two of the bytes concerned lie in one cell, each byte of the result is the byte function
of the operands as they were; and a move one byte upward over itself fills operand 1 with the first byte of operand 2.
The model's own: log 22. -/
def Obligations.ByteStrings : Prop :=
  (∀ (a : Issue) (o : SOp) (s : State) (r : Ready),
     let b : Bank := r.w.k.bank
     let x : List Byte := op1 r.bs
     let y : List Byte := op2 r.bs
     let r1 (read write : Bool) : Core → Req := fun k => ssReq1 a o k (ssN1 o) read write
     let n1 : Nat := if ssN1 o ≤ 16 then 4 else 8
     let n2 : Nat := if ssN1 o ≤ 16 ∧ ssN2 o ≤ 16 then 4 else 7
     let ends (wr : List (Nat × RegWr)) (st : List StOp) (n : Nat) : Host.Outcome State Fault Refusal :=
       .next (r.perform (Done.of r.w (Eff.of wr st n) none))
     let put (read : Bool) (l : List Byte) : List StOp := [stTo r.w (r1 read true r.k0) r.ls l]
     let each (f : Byte → Nat → List Byte → Byte) : List Byte := byteOp r.w f r.ls x y
     let f_ (op : Nat) (read write : Bool) (n : Nat) (one : Bool) : Prop :=
       s.issues a (fun _ k => ssForm a op o one k [r1 read write k, ssReq2 a o k n]) = .inr r
     let zf (z c : Bool) : RegWr := .psw mCVZN ({ c := c, v := false, z := z, n := false, dv := false } : Flags).word
     (f_ 0 false true (ssN1 o) true → exec (.bmov a o) s = ends [] (put false (each (fun _ i t => byteAt t i))) n1)
     ∧ (f_ 1 true false (ssN1 o) true → x = y → exec (.bcmp a o) s = ends [(n1, zf true true)] [] n1)
     ∧ (f_ 1 true false (ssN1 o) true → ∀ i, i < x.length → i < y.length → x.take i = y.take i → byteAt x i ≠ byteAt y i →
         exec (.bcmp a o) s = ends [(n1, .psw mCVZN
           ({ c := decide ((byteAt y i).toNat < (byteAt x i).toNat), v := false, z := false
              n := decide ((byteAt x i).toNat < (byteAt y i).toNat), dv := false } : Flags).word)] [] n1)
     ∧ (f_ 2 true true (ssN1 o) true → exec (.band a o) s =
         (let out := each (fun u i t => u &&& byteAt t i)
          ends [(n1, zf (allZero out) false)] (put true out) n1))
     ∧ (f_ 3 true true (ssN1 o) true → exec (.bor a o) s =
         (let out := each (fun u i t => u ||| byteAt t i)
          ends [(n1, zf (allZero out) false)] (put true out) n1))
     ∧ (f_ 4 true true (ssN1 o) true → exec (.bxor a o) s =
         (let out := each (fun u i t => u ^^^ byteAt t i)
          ends [(n1, zf (allZero out) false)] (put true out) n1))
     ∧ (f_ 5 true true 256 true → exec (.bxlt a o) s =
         ends [] (put true (each (fun u _ t => byteAt t u.toNat))) (3 + ssN1 o))
     ∧ (f_ 6 true false 256 true → (∀ u ∈ x, byteAt y u.toNat = 0) →
         exec (.bxsr a o) s = ends [(3 + ssN1 o, zf true false)] [] (3 + ssN1 o))
     ∧ (f_ 6 true false 256 true → ∀ i, i < x.length → (∀ u ∈ x.take i, byteAt y u.toNat = 0) →
         byteAt y (byteAt x i).toNat ≠ 0 → exec (.bxsr a o) s = ends [(3 + ssN1 o, zf false (i + 1 == ssN1 o)),
           (3 + ssN1 o, wrQ ((byteAt y (byteAt x i).toNat).zeroExtend 64)),
           (3 + ssN1 o, .ix (ssEa1 o b + BitVec.ofNat 32 i))] [] (3 + ssN1 o))
     ∧ (f_ 7 false true (ssN2 o) false → exec (.ztop a o) s = ends [] (put false (zonedToPacked (ssN1 o) y)) n2)
     ∧ (f_ 8 false true (ssN2 o) false → exec (.ptoz a o) s = ends [] (put false (packedToZoned (ssN1 o) y)) n2))
  ∧ (∀ (n : Nat) (f : Byte → Nat → List Byte → Byte) (l1 l2 : List Loc) (b1 b2 : List Byte),
       ((((l1 ++ l2).filterMap (locCell n)).map (fun p => p.1)).Nodup → b1.length = l1.length → b2.length = l2.length →
         byByte n f l1 l2 0 l1 b1 b2 = (List.range l1.length).map (fun i => f (byteAt b1 i) i b2))
       ∧ (∀ off len : Nat, b2.length = len →
           let at_ (o : Nat) : List Loc := (List.range len).map (fun i => Loc.tile (o + i) .plain)
           byByte n (fun _ i t => byteAt t i) (at_ (off + 1)) (at_ off) 0 (at_ (off + 1)) [] b2
             = List.replicate len (byteAt b2 0)))

/-- R177 to R179: FMT and FMTM edit a valid packed field through the pattern in operand 1. More digits than places
raise vector 8 with PSW.DOE, else set DV and DVS. FMTM places the float character before the first significant one and
points IX at it. -/
def Obligations.Editing : Prop :=
  ∀ (a : Issue) (o : SOp) (s : State) (r : Ready),
    let b : Bank := r.w.k.bank
    let pat : List Byte := op1 r.bs
    let v : Int := pval (op2 r.bs)
    let p : Nat := digitPlaces pat
    let n : Nat := 6 * ((ssN1 o + 7) / 8)
    let fill : Byte := b.accByte 23
    let ed : List Byte × Option Nat := editGo fill (decide (v < 0)) 0 false none pat (decDigits p v.natAbs)
    let req (k : Core) : Req := ssReq1 a o k (ssN1 o) true true
    let ends (e : Eff) : Host.Outcome State Fault Refusal := .next (r.perform (Done.of r.w e none))
    let f_ (op : Nat) : Prop := s.issues a (fun _ k => ssForm a op o false k [req k, ssReq2 a o k (ssN2 o)]) = .inr r
    let fits : Prop := v.natAbs < 10 ^ p
    let good : Prop := badNibble 0 (nibbles (op2 r.bs)) = none
    let flags (c dv : Bool) : W64 := ({ c := c, v := false, z := v == 0, n := decide (v < 0), dv := dv } : Flags).word
    let put (out : List Byte) : List StOp := [stTo r.w (req r.k0) r.ls out]
    (∀ i, badNibble 0 (nibbles (op2 r.bs)) = some i →
        (f_ 9 → exec (.fmt a o) s = ends (Eff.fail (mkFault 7 0 b.pc.toNat (2 + i * 256))))
        ∧ (f_ 10 → exec (.fmtm a o) s = ends (Eff.fail (mkFault 7 0 b.pc.toNat (2 + i * 256)))))
    ∧ (good → ¬fits → pswBit b.psw eDOE = true →
        (f_ 9 → exec (.fmt a o) s = ends (Eff.fail (mkTrapless 8)))
        ∧ (f_ 10 → exec (.fmtm a o) s = ends (Eff.fail (mkTrapless 8))))
    ∧ (f_ 9 → good → fits → exec (.fmt a o) s = ends (Eff.of [(n, .psw mFlags (flags false false))] (put ed.1) n))
    ∧ (f_ 9 → good → ¬fits → pswBit b.psw eDOE = false → exec (.fmt a o) s = ends
        (Eff.of [(n, .psw (mFlags ||| 1 <<< sDVS) (flags false true ||| 1 <<< sDVS))] (put ed.1) n))
    ∧ (f_ 10 → good → fits → ∀ j, ed.2 = some (j + 1) → byteAt ed.1 j = fill →
        exec (.fmtm a o) s = ends (Eff.of [(n, .psw mFlags (flags true false)), (n, .ix (ssEa1 o b + BitVec.ofNat 32 j))]
          (put (patch ed.1 j [b.accByte 22])) n))
    ∧ (f_ 10 → good → fits → (∀ j, ed.2 = some (j + 1) → byteAt ed.1 j ≠ fill) →
        exec (.fmtm a o) s = ends (Eff.of [(n, .psw mFlags (flags false false))] (put ed.1) n))

/-- R180 to R186: one step of a long instruction takes at most 16 bytes (LXLT 8), moves the registers past what it
took, and ends or repeats; a step of length 0 ends and accesses nothing. The model's own: log 22. -/
def Obligations.LongSteps : Prop :=
  ∀ (a : Issue) (s : State) (r : Ready),
    let b : Bank := r.w.k.bank
    let len : Nat := b.q.toNat % 2 ^ 32
    let x : List Byte := op1 r.bs
    let y : List Byte := op2 r.bs
    let bit22 (i : Nat) (k : Core) : Bool := (k.bank.accByte 22).getLsbD i
    let rq (most : Nat) (ix : Bool) (i : Nat) (read write : Bool) : Core → Req := fun k =>
      { ea := (if ix then k.bank.ix else k.bank.iy).toNat, n := min (k.bank.q.toNat % 2 ^ 32) most, far := bit22 i k
        read := read, write := write, align := 0 }
    let f_ (op : Nat) (rs : Core → List Req) : Prop :=
      s.issues a (fun _ k => { aForm a op with
        r3 := false, slotBar := true, reqs := if k.bank.q.toNat % 2 ^ 32 = 0 then [] else rs k
        ss := true, micro := true }) = .inr r
    let ends (n : Nat) (wr : List RegWr) (st : List StOp) (fin : Bool) : Host.Outcome State Fault Refusal :=
      .next (r.perform (Done.of r.w { exn := none, wr := wr.map (fun w => (n, w)), st := st, count := n
                                      act := if fin then .seq else .again } none))
    let q (taken : Nat) : RegWr := .acc 24 8 (BitVec.ofNat 64 (len - taken)).toNat
    let w (n : Nat) : W32 := BitVec.ofNat 32 n
    let fl (z c n : Bool) : RegWr := .psw mCVZN ({ c := c, v := false, z := z, n := n, dv := false } : Flags).word
    let m16 : Nat := min len 16
    let m8 : Nat := min len 8
    let lmov : Prop := f_ 0x1A (fun k => [rq 16 true 0 false true k, rq 16 false 1 true false k])
    let lcmp : Prop := f_ 0x1B (fun k => [rq 16 true 0 true false k, rq 16 false 1 true false k])
    let scan : Prop := f_ 0x1C (fun k => [rq 16 true 0 true false k])
    let lxlt : Prop := f_ 0x1D (fun k => [rq 8 true 0 true true k,
      { ea := k.bank.iy.toNat, n := 256, far := bit22 1 k, read := true, write := false, align := 0 }])
    (lmov → len = 0 → exec (.lmov a) s = ends 4 [q 0, .ix (b.ix + 0), .iy (b.iy + 0)] [] true)
    ∧ (lmov → len ≠ 0 → exec (.lmov a) s = ends 4 [q m16, .ix (b.ix + w m16), .iy (b.iy + w m16)]
        [stTo r.w (rq 16 true 0 false true r.k0) r.ls (byteOp r.w (fun _ i t => byteAt t i) r.ls x y)] (decide (len ≤ 16)))
    ∧ (lcmp → x = y → len ≤ 16 →
        exec (.lcmp a) s = ends 4 [q m16, .ix (b.ix + w m16), .iy (b.iy + w m16), fl true true false] [] true)
    ∧ (lcmp → x = y → 16 < len → exec (.lcmp a) s = ends 4 [q 16, .ix (b.ix + 16), .iy (b.iy + 16)] [] false)
    ∧ (lcmp → ∀ i, i < x.length → i < y.length → x.take i = y.take i → byteAt x i ≠ byteAt y i →
        exec (.lcmp a) s = ends 4 [q i, .ix (b.ix + w i), .iy (b.iy + w i),
          fl false (decide ((byteAt y i).toNat < (byteAt x i).toNat)) (decide ((byteAt x i).toNat < (byteAt y i).toNat))]
          [] true)
    ∧ (scan → ∀ i, i < x.length → (byteAt x i = b.accByte 23 ↔ bit22 2 r.w.k = false) →
        (∀ j < i, ¬(byteAt x j = b.accByte 23 ↔ bit22 2 r.w.k = false)) →
        exec (.scan a) s = ends 3 [q i, .ix (b.ix + w i), fl false false false] [] true)
    ∧ (scan → (∀ u ∈ x, ¬(u = b.accByte 23 ↔ bit22 2 r.w.k = false)) → len ≤ 16 →
        exec (.scan a) s = ends 3 [q m16, .ix (b.ix + w m16), fl true false false] [] true)
    ∧ (scan → (∀ u ∈ x, ¬(u = b.accByte 23 ↔ bit22 2 r.w.k = false)) → 16 < len →
        exec (.scan a) s = ends 3 [q 16, .ix (b.ix + 16)] [] false)
    ∧ (lxlt → len = 0 → exec (.lxlt a) s = ends 10 [q 0, .ix (b.ix + 0)] [] true)
    ∧ (lxlt → len ≠ 0 → exec (.lxlt a) s = ends 10 [q m8, .ix (b.ix + w m8)]
        [stTo r.w (rq 8 true 0 true true r.k0) r.ls (byteOp r.w (fun u _ t => byteAt t u.toNat) r.ls x y)] (decide (len ≤ 8)))

/-! ## Instructions: control and system (02, 03, 07, 08) -/

/-- R192, R109 to R111, R58, R59, R61, R79: NOP, branches, calls, returns and loop instructions. A taken branch goes
to its target after the delay slot; CALL pushes the address behind the delay slot; a push to a full stack or a pop
from an empty one raises vector 12 with PSW.RSE, else sets PSW.RSS. A loop with count 0 goes to LE at once. The
model's own: log 31, 97. -/
def Obligations.ControlFlow : Prop :=
  ∀ (a : Issue) (m : MOp) (b1 : Byte) (d : W16) (s : State) (r : Ready),
    let b : Bank := r.w.k.bank
    let ends (e : Eff) : Host.Outcome State Fault Refusal := .next (r.perform (Done.of r.w e none))
    let acts (wr : List RegWr) (act : Act) : Host.Outcome State Fault Refusal :=
      ends { exn := none, wr := wr.map (fun x => (1, x)), st := [], count := 1, act := act }
    let bf (op : Nat) (cls : LenCls) (ok : Bool) : Prop :=
      s.issues a (fun _ k => { mForm a op m cls false k false false with
        legal := [1, 2, 3, 5].contains m.am.toNat && ok && mOk false cls false m, pfx := pfxOk .none a.pre, reqs := []
        slotBar := true, branch := true }) = .inr r
    let lf (op : Nat) (ok : Bool) : Prop :=
      s.issues a (fun _ _ => { Form.plain (BitVec.ofNat 8 op) 4 with
        legal := ok, pfx := pfxOk .none a.pre, slotBar := true }) = .inr r
    let ret : Prop := s.issues a (fun _ _ => { aForm a 0x02 with slotBar := true, branch := true }) = .inr r
    let call : Prop := bf 0x5D .z true
    let bcc : Prop := bf 0x5C .any (decide (m.len.toNat ≤ 0x10))
    let slot : W32 := b.pc + (if m.long then 6 else 4)
    let back : W32 := slot + BitVec.ofNat 32 (r.w.s.slotLen r.w.c r.w.k slot)
    let rss : RegWr := .psw (1 <<< sRSS) (1 <<< sRSS)
    let loop (le cnt : W32) : Host.Outcome State Fault Refusal :=
      .next (r.perform (Done.of { r.w with k := { r.w.k.setBank { b with lc := cnt, ls := b.pc + 4, le := le } with
          loopBuf := loopBegin (b.pc + 4) le } }
        { exn := none, wr := [(1, .lc cnt), (1, .ls (b.pc + 4)), (1, .le le)], st := [], count := 1
          act := if cnt = 0 then .jump le else .seq } none))
    (s.issues a (fun _ _ => aForm a 0x00) = .inr r → exec (.nop a) s = acts [] .seq)
    ∧ (bcc → condHolds b.psw m.len.toNat = true → exec (.bcc a m) s = acts [] (.branch (mEa m b) true))
    ∧ (bcc → condHolds b.psw m.len.toNat = false → ∃ x, exec (.bcc a m) s = acts [] (.branch x false))
    ∧ (call → b.rsp.toNat < 16 →
        exec (.call a m) s = acts [.rse (Fin.ofNat 16 b.rsp.toNat) back, .rsp (b.rsp + 1)] (.branch (mEa m b) true))
    ∧ (call → 16 ≤ b.rsp.toNat → pswBit b.psw eRSE = true → exec (.call a m) s = ends (Eff.fail (mkTrapless 12)))
    ∧ (call → 16 ≤ b.rsp.toNat → pswBit b.psw eRSE = false →
        exec (.call a m) s = acts ((List.finRange 16).map (fun i => RegWr.rse i (if i.val = 15 then back else b.rseAt (i.val + 1)))
          ++ [.rsp 16, rss]) (.branch (mEa m b) true))
    ∧ (ret → b.rsp ≠ 0 →
        exec (.ret a) s = acts [.rsp (b.rsp - 1)] (.branch (b.rseAt (b.rsp.toNat - 1)) true))
    ∧ (ret → b.rsp = 0 → pswBit b.psw eRSE = true → exec (.ret a) s = ends (Eff.fail (mkTrapless 12)))
    ∧ (ret → b.rsp = 0 → pswBit b.psw eRSE = false → ∃ x, exec (.ret a) s = acts [rss] (.branch x false))
    ∧ (lf 0x6A true → exec (.loopi a b1 d) s = loop (b.pc + 5 + b1.zeroExtend 32) (d.zeroExtend 32))
    ∧ (lf 0x6B (b1 == 0 && d != 0) → exec (.loopx a b1 d) s = loop (b.pc + 4 + d.zeroExtend 32) b.ix)

/-- R234, R89, R198, R281: WAIT holds until its condition, DRAIN until no posted store is outstanding (its cycle is
not before any acknowledgement), TLBSYNC until the unit's invalidations are acknowledged; FLUSHI empties the store
buffer and the loop buffer in 3 cycles, and the code behind it is fetched from the tile again. The model's own: log
39. -/
def Obligations.HoldingInstructions : Prop :=
  ∀ (a : Issue) (s : State) (r : Ready),
    let k : Core := r.w.k
    let d : Work := r.w.drainAll
    let ends (w : Work) (n : Nat) : Host.Outcome State Fault Refusal :=
      .next (r.perform (Done.of w (Eff.of [] [] n) none))
    let free : Prop := k.lbox.slots ≠ [] ∨ k.takeable.isSome = true ∨ (pswBit k.bank.psw 10 = false ∧
      ∃ i < 32, k.evpend.getLsbD i = true ∧ k.evmask.getLsbD i = true ∧ spGet (0 : BitVec 6) k.evtask i = k.task)
    let wait : Prop := s.issues a (fun _ _ => aForm a 0x01) = .inr r
    let drain : Prop := s.issues a (fun _ _ => aForm a 0x05) = .inr r
    let sync : Prop := s.issues a (fun _ k => { aForm a 0x06 with r3 := false, priv := !k.sup }) = .inr r
    (wait → free → exec (.wait a) s = ends { r.w with k := { k with hold := none } } 1)
    ∧ (wait → ¬free → exec (.wait a) s = ends { r.w with k := { k with hold := some .wait } } 1)
    ∧ (drain → d.k.posted = [] → exec (.drain a) s
        = ends { d with k := { d.k with hold := none, now := max d.k.now d.k.ackAt } } 1)
    ∧ (drain → d.k.posted ≠ [] → exec (.drain a) s
        = ends { d with k := { d.k with hold := some .drain, now := max d.k.now d.k.ackAt } } 1)
    ∧ (sync → (∀ i ∈ r.w.s.invals, i.from_ ≠ r.w.c) →
        exec (.tlbsync a) s = ends { r.w with k := { k with hold := none } } 2)
    ∧ (sync → (∃ i ∈ r.w.s.invals, i.from_ = r.w.c) →
        exec (.tlbsync a) s = ends { r.w with k := { k with hold := some .sync } } 2)
    ∧ (s.issues a (fun _ _ => { aForm a 0x04 with slotBar := true }) = .inr r →
        exec (.flushi a) s
          = ends { d with k := d.k.flushTo (d.s.code d.c) (k.now + d.pen + 1) (k.bank.pc + 1) } 3)
    ∧ (isCc r.w.c = false → ∀ cyc : Nat, ∀ pc : W32,
        let f : Core := d.k.flushTo (d.s.code d.c) cyc pc
        f.loopBuf = .empty ∧ f.fqAt = pc ∧ f.fetchAt = cyc + 1 ∧ (pc.toNat < tileSize →
          f.fq = (List.range (16 - pc.toNat % 16)).map (fun i =>
            (cyc, d.s.rd (tilePa (engNo d.c) ((pc.toNat + i) % tileSize))))))

/-- R68 to R71, R207: MFS reads a special register into ACC.Q, reserved and write-only numbers as zero; MTS writes a
bank register after 2 cycles, the PSW after 5, another register of the engine after 2, and a reserved number not at
all; XDAT is resolved through XSEL at once; TPRE and TEVICT act on the task banks of an engine; on a control core
their numbers are reserved. The model's own: log 98. -/
def Obligations.SpecialRegisters : Prop :=
  ∀ (a : Issue) (sel : Byte) (s : State) (r : Ready),
    let b : Bank := r.w.k.bank
    let n : Nat := sel.toNat
    let acc : Access := specAccess (isCc a.core) n
    let ends (w : Work) (wr : List (Nat × RegWr)) (c : Nat) : Host.Outcome State Fault Refusal :=
      .next (r.perform (Done.of w (Eff.of wr [] c) none))
    let mts (x : Byte) : Prop :=
      s.issues a (fun _ k => { bForm a 0x21 with
        slotBar := x == 0
        priv := (!k.sup && (specAccess (isCc a.core) x.toNat == .none || specAccess (isCc a.core) x.toNat == .read))
          || (x == 0 && pswRefused k k.bank.q)
        ready := !(x == 0x27 && !isCc a.core && k.taskBusy (k.bank.q.truncate 6)) }) = .inr r
    let mfs : Prop :=
      s.issues a (fun _ k => { bForm a 0x20 with priv := !k.sup && acc == .none }) = .inr r
    (mfs → exec (.mfs a sel) s = ends r.w [(1, wrQ (specRead r.w.s r.w.c r.w.k n))] 1)
    ∧ (mfs → acc = .reserved → exec (.mfs a sel) s = ends r.w [(1, wrQ 0)] 1)
    ∧ (mts sel → n = 0 → exec (.mts a sel) s = ends r.w [(5, .psw (BitVec.allOnes 64) (pswWritten b.psw b.q))] 5)
    ∧ (mts sel → 0 < n → n < 0x20 → ∀ w, bankSpecWr b.psw n b.q = some w → exec (.mts a sel) s = ends r.w [(2, w)] 1)
    ∧ (mts sel → 0 < n → n < 0x20 → bankSpecWr b.psw n b.q = none → exec (.mts a sel) s = ends r.w [] 1)
    ∧ (mts sel → 0x20 ≤ n → acc = .reserved → exec (.mts a sel) s = ends r.w [] 1)
    ∧ (mts sel → 0x20 ≤ n → acc ≠ .reserved → n ≠ 0x26 → n ≠ 0x27 → n ≠ 0x2A →
        exec (.mts a sel) s = ends r.w [(2, .spec sel b.q)] 1)
    ∧ (mts 0x2A → exec (.mts a 0x2A) s = ends r.w ((r.w.k.xdatWr b.q).toList.map (fun w => (2, w))) 1)
    ∧ (isCc a.core = false → mts 0x26 → ∀ c ∈ [Instr.tpre a, .mts a 0x26],
        exec c s = ends { r.w with k := r.w.k.tpre (b.q.truncate 6) } [] 1)
    ∧ (isCc a.core = false → mts 0x27 →
        ∀ c ∈ [Instr.tevict a, .mts a 0x27],
          exec c s = ends (r.w.tevict (b.q.truncate 6)).1 [] (1 + (r.w.tevict (b.q.truncate 6)).2))
    ∧ (isCc a.core = true → (mts 0x26 → exec (.tpre a) s = ends r.w [] 1) ∧ (mts 0x27 → exec (.tevict a) s = ends r.w [] 1))

/-- R216, Table 3-13, R118, R113: TRAP n completes and leaves vector 16 + n pending, SVC in compatibility mode vector
16; an unassigned opcode decides an illegal-instruction fault on the core, with the opcode byte in FINFO. -/
def Obligations.TrapsAndUnassigned : Prop :=
  ∀ (a : Issue) (sel b : Byte) (s : State) (r : Ready),
    let x (v : Nat) : Exn := { vec := BitVec.ofNat 6 v, cls := 1, sub := 0, faddr := 0, finfo := 0, mc := none }
    let trap (v : Nat) : Host.Outcome State Fault Refusal :=
      .next (r.perform (Done.of r.w { exn := none, wr := [], st := [], count := 1, act := .trap (x v) } none))
    (s.issues a (fun _ _ => { bForm a 0x23 with legal := decide (sel.toNat < 16), slotBar := true }) = .inr r →
      exec (.trap a sel) s = trap (16 + sel.toNat))
    ∧ (s.issues a (fun _ k => { bForm a 0x2F with legal := pswBit k.bank.psw 9, slotBar := true }) = .inr r →
      exec (.svc a sel) s = trap 16)
    ∧ (s.canIssue a.core = true →
        let n : Nat := a.pre.length + (if 0xF0 ≤ b.toNat then
          1 + s.slotLen a.core (s.core a.core) ((s.core a.core).bank.pc + BitVec.ofNat 32 (a.pre.length + 1))
          else opLen s b.toNat)
        let f : Nat × Core := (s.core a.core).fetchStart (s.code a.core) n
        let p : State × Core := s.portTo a.core f.2 f.1
        let k2 : Core := { p.2.settle (isCc a.core) f.1 with now := f.1 }
        let first : Byte := firstByte a.pre b
        ∀ (s1 : State) (k3 : Core), p.1.fetchCheck a.core k2 n first a.err = (s1, k3, none) →
          exec (.unassignedOpcode a b) s
            = .next (s1.setCore a.core (k3.fault (mkFault 2 0x01 k3.bank.pc.toNat first.toNat) n)))

/-! ## Contexts and exceptions (08) -/

/-- R209, R210, R235: SWITCH to the running task does nothing in 2 cycles; to a task that is resident, it makes the
task's bank current in the task's own PC; on a control core it raises vector 14. A SWITCH waits for posted stores and,
like a TEVICT, while the bank that it spills awaits a load. R221, R225, R226: RETX with nothing pending and XTASK
resident leaves the shadow bank for XTASK's bank; with PSW.DS = 0 execution goes on at that bank's PC, whose code is
fetched at once. R209, R221, R225 (completion, in any state and with any selector that meets these conditions alone):
SWITCH by an engine in supervisor state to the running task, or to a resident one with no posted store outstanding,
and RETX in the shadow bank with XTASK resident and nothing pending, with access key 0, complete and retire; the PC
goes on, the named task runs, or XTASK runs again at its PC, in its delay slot when DS is 1. The model's own: log 91,
92, 103, 131. -/
def Obligations.TaskSwitches : Prop :=
  (∀ (a : Issue) (sel : Byte) (s : State) (r : Ready),
     let t : BitVec 6 := sel.truncate 6
     let k : Core := r.w.k
     let form (waits : Bool) : State → Core → Form := fun _ k => { bForm a 0x22 with
         legal := decide (sel.toNat < 64), r3 := false, priv := !k.sup, slotBar := true
         ready := !waits || k.task == t || (k.posted.isEmpty && !k.victimBusy t) }
     let sw : Prop := s.issues a (form true) = .inr r
     (sw → k.task = t → exec (.switch a sel) s = .next (r.perform (Done.of r.w (Eff.of [] [] 2) none)))
     ∧ (sw → k.task ≠ t → isCc r.w.c = true → exec (.switch a sel) s
         = .next (r.perform (Done.of r.w (Eff.fail (ctxFault 0 0x03 0 t)) none)))
     ∧ (sw → k.task ≠ t → isCc r.w.c = false → k.inShadow = false →
         ∀ i : Fin 4, (k.seqEnd 2 []).bankOf? t = some i →
         ∃ w1 : Work, exec (.switch a sel) s
             = .next (r.perform (Done.of w1 { exn := none, wr := [], st := [], count := 2, act := .moved } none))
           ∧ w1.k.cur = i ∧ k.now + 2 + r.w.pen ≤ w1.k.now ∧ w1.k.loopBuf = .empty ∧ w1.s.cores = r.w.s.cores
           ∧ w1.k.lru = i :: (k.seqEnd 2 []).lru.filter (fun j => j != i))
     ∧ (s.issues a (form false) = .inr r → r.k0.task ≠ t → (r.k0.posted ≠ [] ∨ r.k0.victimBusy t = true) →
         exec (.switch a sel) s = .next s)
     ∧ (isCc a.core = false → s.issues a (fun _ k => (mtsInsn a 0x27 k).toForm) = .inr r →
         r.k0.taskBusy (r.k0.bank.q.truncate 6) = true → ∀ c ∈ [Instr.tevict a, .mts a 0x27], exec c s = .next s))
  ∧ (∀ (a : Issue) (s : State) (r : Ready) (i : Fin 4),
       let k : Core := { r.w.k with trap := r.w.k.trapHeld, asyncCtx := r.w.k.ctxHeld, trapHeld := none, ctxHeld := none }
       let b : Bank := k.banks.get i
       s.issues a (fun _ k => { aForm a 0x03 with
         legal := k.inShadow, priv := !k.sup, slotBar := true, ready := !k.returnWaits }) = .inr r →
       isCc r.w.c = false → k.bankOf? k.xtask = some i →
       k.asyncMc = none → k.trap = none → k.asyncCtx = none → k.tracePend = false → k.takeableIn i = none →
       pswBit b.psw 8 = false → k.inflight = [] →
         ∃ w1 : Work, exec (.retx a) s
             = .next (r.perform (Done.of w1 { exn := none, wr := [], st := [], count := 0, act := .moved } none))
           ∧ w1.s = r.w.s ∧ w1.k.inShadow = false ∧ w1.k.escalated = false ∧ w1.k.cur = i ∧ w1.k.bank = { b with slot := none }
           ∧ w1.k.lru = i :: k.lru.filter (fun j => j != i) ∧ w1.k.oneStep = false ∧ w1.k.loopBuf = .empty
           ∧ w1.k.now = k.now + 4 ∧ w1.k.tgt = none ∧ w1.k.fqAt = b.pc ∧ w1.k.fq = (r.w.s.code r.w.c).target k.now b.pc
           ∧ (∀ j : Fin 5, j ≠ i.castSucc → w1.k.bankAt j = r.w.k.bankAt j))
  ∧ (∀ (a : Issue) (sel : Byte) (s : State) (n : Fin 128) (i : Fin 4),
       let c : CoreId := .eng n
       let k : Core := s.core c
       a.core = c → a.pre = [] → a.err = none → s.canIssue c = true → k.inflight = [] → k.bg = none → k.key = 0 →
       k.sup = true → k.bank.slot = none → k.bank.pc.toNat + 2 ≤ 0x80000 →
         (sel.toNat < 64 → k.cm = false → k.task = sel.truncate 6 → k.bank.atLoopEnd 2 = false →
           ∃ t : State, exec (.switch a sel) s = .next t ∧ (t.core c).task = k.task ∧ (t.core c).retired = k.retired + 1
             ∧ (t.core c).bank = { k.bank with pc := k.bank.pc + 2 })
         ∧ (sel.toNat < 64 → k.cm = false → k.inShadow = false → k.task ≠ sel.truncate 6 → k.posted = [] → k.bank.atLoopEnd 2 = false →
           k.bankOf? (sel.truncate 6) = some i →
           ∃ t : State, exec (.switch a sel) s = .next t ∧ (t.core c).cur = i ∧ (t.core c).task = sel.truncate 6
             ∧ (t.core c).bank = k.banks.get i ∧ (t.core c).retired = k.retired + 1
             ∧ (t.core c).bankAt k.curIx = { k.bank with pc := k.bank.pc + 2 })
         ∧ (k.inShadow = true → k.posted = [] → k.asyncMc = none → k.trapHeld = none → k.ctxHeld = none → k.tracePend = false →
           k.bankOf? k.xtask = some i → k.takeableIn i = none → k.bank.atLoopEnd 1 = false →
           ∃ t : State, exec (.retx a) s = .next t ∧ (t.core c).inShadow = false ∧ (t.core c).cur = i
             ∧ (t.core c).task = k.xtask ∧ (t.core c).retired = k.retired + 1 ∧ (t.core c).escalated = false
             ∧ (pswBit (k.banks.get i).psw 8 = false → (t.core c).bank = { k.banks.get i with slot := none })
             ∧ (pswBit (k.banks.get i).psw 8 = true → (t.core c).bank.slot = some ((k.banks.get i).pc, some k.xbt)
                 ∧ pswBit (t.core c).bank.psw 8 = false)))

/-- R216 to R220: entry of a fault, or of what ranks above it, from a task bank whose descriptor is valid. The cause,
address and detail are recorded, the handler starts in the shadow bank at its address with its stack, supervisor
state, key and mode from the descriptor, with IE, TE and DS 0; XTASK is the interrupted task; the task bank's
registers but PC and PSW stay. R230, R203: at one boundary a machine check comes before a trap, a trap before trace,
trace before a context-bank fault, that before an event, and an event before a fault that will be raised again, but
not before the fault of a held access. R227 to R229: an exception in the shadow bank escalates to vector 0 with the
state of the handler in the ESC registers; a second one halts the core and reports it. The model's own: log 8, 38, 96,
100, 101, 102. -/
def Obligations.ExceptionEntry : Prop :=
  (∀ (c : CoreId) (s : State) (it : Item),
     let w0 : Work := Work.idle { s := s, c := c, k := s.core c, pen := 0 } (s.core c).now
     let w : Work := { w0 with k := w0.k.settle (isCc c) w0.k.now }
     let asy : Bool := match it with | .mc _ => true | .ctx _ => true | .event _ => true | _ => false
     let k : Core := (w.at asy).k
     let x : Exn := w.k.itemExn it
     let d : Descr := ((w.at asy).descr x.vec).2
     s.canEnter c = true → w.k.inShadow = false → w.k.entryMc = none → w.k.pick = some it → d.v = true →
       ∃ t : State, exec (.exceptionEntry c none) s = .next t
         ∧ (t.core c).fcause.toNat = x.vec.toNat + x.cls.toNat * 64 + x.sub.toNat * 256
         ∧ (t.core c).faddr = x.faddr ∧ (t.core c).finfo = x.finfo
         ∧ (t.core c).inShadow = true ∧ (t.core c).xtask = k.task ∧ (t.core c).escalated = k.escalated
         ∧ (t.core c).shadow.pc = d.handler ∧ (t.core c).shadow.iy = (if d.se then k.esp else d.stack)
         ∧ (let p : W64 := (t.core c).shadow.psw
            p.getLsbD 12 = d.sup ∧ p.getLsbD 9 = d.cm ∧ p.getLsbD 8 = false ∧ p.getLsbD 10 = false
              ∧ p.getLsbD 11 = false ∧ p.extractLsb' 16 4 = d.key)
         ∧ (t.core c).exn = none
         ∧ (∀ y, it = .fault y → ∀ bpc next, k.bank.slot = some (bpc, next) →
             ((t.core c).bankAt k.curIx).pc = bpc ∧ (t.core c).xbt = next.getD k.bank.pc
               ∧ ((t.core c).bankAt k.curIx).psw.getLsbD 8 = true)
         ∧ (k.bank.slot = none → ((t.core c).bankAt k.curIx).pc = k.bank.pc
               ∧ ((t.core c).bankAt k.curIx).psw.getLsbD 8 = false)
         ∧ ((t.core c).bankAt k.curIx).acc = k.bank.acc ∧ ((t.core c).bankAt k.curIx).ix = k.bank.ix
         ∧ ((t.core c).bankAt k.curIx).iy = k.bank.iy)
  ∧ (∀ k : Core, k.bank.slot = none → k.oneStep = false →
       (∀ x, k.asyncMc = some x → k.pick = some (.mc x))
       ∧ (∀ x, k.asyncMc = none → k.trap = some x → k.pick = some (.trap x))
       ∧ (k.asyncMc = none → k.trap = none → k.tracePend = true → k.pick = some .trace)
       ∧ (∀ x, k.asyncMc = none → k.trap = none → k.tracePend = false → k.asyncCtx = some x → k.pick = some (.ctx x))
       ∧ (∀ i, k.asyncMc = none → k.trap = none → k.tracePend = false → k.asyncCtx = none → k.exnFar = false →
           k.takeable = some i →
           k.pick = some (.event i) ∧ k.evpend.getLsbD i = true ∧ k.evmask.getLsbD i = true ∧ pswBit k.bank.psw 10 = true)
       ∧ (∀ x, k.asyncMc = none → k.trap = none → k.tracePend = false → k.asyncCtx = none → k.exn = some x →
           (k.exnFar = true ∨ k.takeable = none) → k.pick = some (.fault x)))
  ∧ (∀ (c : CoreId) (s : State) (x : Exn),
       let w0 : Work := Work.idle { s := s, c := c, k := s.core c, pen := 0 } (s.core c).now
       let w : Work := { w0 with k := w0.k.settle (isCc c) w0.k.now }
       let k : Core := (w.at false).k
       let d : Descr := ((w.at false).descr 0).2
       s.canEnter c = true → w.k.inShadow = true → w.k.exn = some x → w.k.entryMc = none →
         (k.escalated = false → d.v = true → ∃ t : State, exec (.exceptionEntry c none) s = .next t
           ∧ (t.core c).escpc = k.shadow.pc ∧ (t.core c).escpsw = k.shadow.psw
           ∧ (t.core c).esccause = k.fcause &&& 0xFFFF
           ∧ (t.core c).fcause = 0 ∧ (t.core c).faddr = x.faddr ∧ (t.core c).escalated = true
           ∧ (t.core c).shadow.pc = d.handler ∧ (t.core c).shadow.iy = k.esp ∧ (t.core c).halted = k.halted)
         ∧ (k.escalated = false → d.v = false → ∃ t : State, exec (.exceptionEntry c none) s = .next t
           ∧ (t.core c).halted = true ∧ (t.core c).escpc = k.shadow.pc ∧ (t.core c).fcause = 0)
         ∧ (k.escalated = true → ∃ t : State, exec (.exceptionEntry c none) s = .next t
           ∧ (t.core c).halted = true ∧ (t.core c).shadow = k.shadow))

/-- R223, R224, R236, R47: SMM stores the chosen groups from ACC down, LMM loads them; a PSW among them that user
state may not write raises a privilege exception. SAVEH pushes 128 bytes below SAVP and LOADH takes them back, with
vector 14 when they hold the other half. -/
def Obligations.GroupMoves : Prop :=
  ∀ (a : Issue) (b1 : Byte) (d : W16) (s : State) (r : Ready),
    let b : Bank := r.w.k.bank
    let gs : List Nat := [7, 6, 5, 4, 3, 2, 1, 0].filter (fun g => b1.getLsbD g)
    let req (write : Bool) : Core → Req := fun k =>
      { ea := (k.bank.iy + d.signExtend 32).toNat, n := 32 * gs.length, far := isFar a, read := !write, write := write
        align := 16 }
    let mm (op : Nat) (write : Bool) : Prop :=
      s.issues a (fun _ k => { Form.plain (BitVec.ofNat 8 op) 4 with
        legal := b1 != 0 && !isCc a.core, pfx := pfxOk (.ml false) a.pre, reqs := [req write k], ss := true }) = .inr r
    let sv (op : Nat) (write : Bool) : Prop :=
      s.issues a (fun _ k => { Form.plain (BitVec.ofNat 8 op) 4 with
        legal := isCc a.core && decide (b1.toNat < 2) && d == 0, r3 := false, pfx := pfxOk .none a.pre, priv := !k.sup
        reqs := [savReq k write] }) = .inr r
    let ends (wr : List (Nat × RegWr)) (st : List StOp) (n : Nat) : Host.Outcome State Fault Refusal :=
      .next (r.perform (Done.of r.w (Eff.of wr st n) none))
    let slots : List (Nat × List Byte) := gs.zip ((List.range gs.length).map (fun i => slice (op1 r.bs) (32 * i) 32))
    let refused : Prop := ∃ p ∈ slots, p.1 = 3 ∧ pswRefused r.w.k (BitVec.ofNat 64 (beAt p.2 0 8)) = true
    let n : Nat := if b1.getLsbD 3 then max 5 (2 + 2 * gs.length) else 2 + 2 * gs.length
    (mm 0x72 true → exec (.smm a b1 d) s = ends []
        [stTo r.w (req true r.w.k) r.ls ((gs.map (groupSlot b)).flatten)] (2 + 2 * gs.length))
    ∧ (mm 0x73 false → ¬refused → exec (.lmm a b1 d) s
        = ends (((slots.map (fun p => groupLoad b p.1 p.2)).flatten).map (fun w => (n, w))) [] n)
    ∧ (mm 0x73 false → refused → exec (.lmm a b1 d) s
        = .next (r.perform (Done.of r.w (Eff.fail (mkFault 3 0 b.pc.toNat 0)) none)))
    ∧ (sv 0x74 true → exec (.saveh a b1 d) s = ends [(24, .spec 0x24 (r.w.k.savp - 128))]
        [stTo r.w (savReq r.w.k true) r.ls (beBytes 8 r.w.k.savp.toNat ++ beBytes 8 b1.toNat
          ++ (r.w.k.bankAt 0).halfImage r.w.k.xbt (b1 == 1))] 24)
    ∧ (sv 0x75 false → beAt (op1 r.bs) 8 8 = b1.toNat → exec (.loadh a b1 d) s
        = ends [(24, .half (b1 == 1) (beAt (op1 r.bs) 16 112)), (24, .spec 0x24 (BitVec.ofNat 64 (beAt (op1 r.bs) 0 8)))] [] 24)
    ∧ (sv 0x75 false → beAt (op1 r.bs) 8 8 ≠ b1.toNat → exec (.loadh a b1 d) s
        = .next (r.perform (Done.of r.w (Eff.fail (ctxFault 0 0x04 r.w.k.savp.toNat 0)) none)))

/-- R223: what LMM loads from the slot that SMM stored for a group gives the group's registers back. -/
def Obligations.GroupRoundTrip : Prop :=
  ∀ (b c : Bank) (g : Nat), g < 8 → b.psw = c.psw → b.rsp.toNat ≤ 16 →
    let t : Bank := (groupLoad c g (groupSlot b g)).foldl Bank.write c
    (g = 7 → t.acc = b.acc) ∧ (g = 6 → t.ix = b.ix ∧ t.iy = b.iy ∧ t.lc = b.lc ∧ t.ls = b.ls ∧ t.le = b.le ∧ t.fseg = b.fseg)
      ∧ (g = 5 → t.mph = b.mph ∧ t.mpl = b.mpl) ∧ (g = 4 → t.dvq = b.dvq ∧ t.dvm = b.dvm) ∧ (g = 3 → t.rsp = b.rsp)
      ∧ (∀ i : Fin 16, (g = 2 ∧ i.val < 8) ∨ (g = 1 ∧ 8 ≤ i.val) → t.rse.get i = b.rse.get i)
      ∧ (g = 0 → accGet t.acc 16 16 = accGet b.acc 16 16)

/-! ## Translation, storage keys and Arcade (09, 10) -/

/-- R266, R278 to R281, R289: TLBWR loads a TLB slot from its image after 3 cycles and TLBRD stores one; KSET and KGET
write and read the key of a region of the own tile; TLBI and KEYI apply to the issuing unit and, but for the local
scope, are broadcast once posted stores are acknowledged. -/
def Obligations.TranslationInstructions : Prop :=
  ∀ (a : Issue) (m : MOp) (s : State) (r : Ready),
    let b : Bank := r.w.k.bank
    let ea : Nat := (mEa m b).toNat
    let ends (w : Work) (e : Eff) : Host.Outcome State Fault Refusal := .next (r.perform (Done.of w e none))
    let slot (op : Nat) (write : Bool) : Prop :=
      s.issues a (fun _ k => { mForm a op m .any false k false false with
        legal := !isCc a.core && [1, 2, 3].contains m.am.toNat && !m.long && decide (m.d.toNat < 65536)
        r3 := false, pfx := pfxOk .none a.pre, reqs := [slotReq m k write], priv := !k.sup }) = .inr r
    let key (op : Nat) : Prop :=
      s.issues a (fun _ k => { mForm a op m .z true k false false with
        pfx := pfxOk .none a.pre, reqs := [], priv := !k.sup }) = .inr r
    let inval (op : Nat) (scopes : List Nat) : Prop :=
      s.issues a (fun _ k => { mForm a op m .any true k false false with
        legal := decide (m.am.toNat < 6) && scopes.contains m.len.toNat && !m.long && decide (m.d.toNat < 65536)
        r3 := false, pfx := pfxOk .none a.pre, reqs := [], priv := !k.sup }) = .inr r
    let near (n : Fin 128) : Prop := r.w.c = .eng n ∧ ea < 0x180000
    let entry (n : Fin 128) : Nat := n.val * 128 + ea % 0x80000 / 4096
    let kbyte : Byte := if (b.q.truncate 8 : Byte).extractLsb' 4 2 = (3 : BitVec 2) then b.q.truncate 8 &&& 0xDF
      else b.q.truncate 8
    let img : Nat × Nat := tlbImage (spGet TlbEnt.empty r.w.k.tlb m.len.toNat)
    let d : Work := r.w.drainAll
    let ten : BitVec 4 := if m.len = 2 then b.q.truncate 4 else r.w.k.tten
    let va : W64 := BitVec.ofNat 64 (if isCc r.w.c then ccVa r.w.k b.fseg ea else b.fseg.toNat * 2 ^ 32 + ea)
    let seg : W64 := BitVec.ofNat 64 (b.fseg.toNat * 2 ^ 32 + ea)
    (slot 0x6E false → exec (.tlbwr a m) s = ends r.w (Eff.of [(3, .tlb m.len (BitVec.ofNat 64 (beAt (op1 r.bs) 0 8))
        (BitVec.ofNat 64 (beAt (op1 r.bs) 8 8)))] [] 3))
    ∧ (slot 0x6F true → exec (.tlbrd a m) s = ends r.w (Eff.of []
        [stTo r.w (slotReq m r.w.k true) r.ls (beBytes 8 img.1 ++ beBytes 8 img.2)] 3))
    ∧ (key 0x70 → ∀ n, near n → exec (.kset a m) s = ends
        { r.w with s := { r.w.s with tileKeys := spPut r.w.s.tileKeys (entry n) kbyte } } (Eff.of [] [] 2))
    ∧ (key 0x71 → ∀ n, near n → exec (.kget a m) s = ends r.w
        (Eff.of [(2, wrQ ((spGet 0 r.w.s.tileKeys (entry n)).zeroExtend 64))] [] 2))
    ∧ (key 0x70 → (∀ n, ¬near n) → exec (.kset a m) s
        = ends r.w (Eff.fail (mkFault 4 0x04 ea (r.w.k.key.toNat + 256))))
    ∧ (key 0x71 → (∀ n, ¬near n) → exec (.kget a m) s = ends r.w (Eff.fail (mkFault 4 0x04 ea r.w.k.key.toNat)))
    ∧ (inval 0x6C [0, 1, 2, 3, 4] → d.k.posted = [] → exec (.tlbi a m) s
        = ends ({ d with pen := d.pen + (d.k.ackAt - d.k.now) }.invalidate false m.len va ten) (Eff.of [] [] 2))
    ∧ (inval 0x6C [0, 1, 2, 3, 4] → d.k.posted ≠ [] → exec (.tlbi a m) s
        = ends { d with k := { d.k with hold := some (.inval false m.len va ten) } } (Eff.of [] [] 2))
    ∧ (inval 0x6D [0, 1, 4] → d.k.posted = [] → exec (.keyi a m) s
        = ends ({ d with pen := d.pen + (d.k.ackAt - d.k.now) }.invalidate true m.len seg r.w.k.tten) (Eff.of [] [] 2))
    ∧ (inval 0x6D [0, 1, 4] → d.k.posted ≠ [] → exec (.keyi a m) s
        = ends { d with k := { d.k with hold := some (.inval true m.len seg r.w.k.tten) } } (Eff.of [] [] 2))

/-- R280, R281: a unit that receives an invalidation drops every TLB entry that it covers, keeps the others, and owes
its acknowledgement, which it gives once no access of its own made with an invalidated entry is in flight; when no
unit owes one any more the invalidation is over, and a TLBSYNC that waits for the last one ends. The model's own: log
39. -/
def Obligations.InvalidationRound : Prop :=
  ∀ (s : State) (u : UnitId) (c : CoreId) (i : Inval) (l r : List Inval),
    s.invals = l ++ i :: r → i.from_ = c →
      (u ∈ i.unseen → (∀ j ∈ l, ¬(j.from_ = c ∧ u ∈ j.unseen)) → ∃ t : State,
        exec (.invalidationReceive u c) s = .next t
          ∧ t.invals = l ++ { i with unseen := i.unseen.filter (fun v => v != u), unacked := i.unacked ++ [u] } :: r
          ∧ (∀ d, u = .core d → i.key = false → (t.core d).tlb = (s.core d).tlb.filter (fun p =>
              !(p.2.v && tlbiCovers i p.2.ten (p.2.vpn.toNat * 4096) (szLog p.2.sz)))))
      ∧ (u ∈ i.unacked → (∀ j ∈ l, ¬(j.from_ = c ∧ u ∈ j.unacked ∧ s.settled j u = true)) →
          (∀ d, u = .core d → (s.core d).inFlightWith i = false) → ∃ t : State,
        exec (.invalidationAck u c) s = .next t
          ∧ t.invals = (if i.unseen = [] ∧ i.unacked.filter (fun v => v != u) = [] then l ++ r
              else l ++ { i with unacked := i.unacked.filter (fun v => v != u) } :: r)
          ∧ ((s.core c).hold = some .sync → t.syncing c = false → (t.core c).hold = none))

/-- R263, R264, R266: the slot that an engine writes with TLBWR reads back with TLBRD, and translates the addresses of
its page when no lower slot matches. R284, R286, R287: access key 0 passes every granule; a matching key passes but
for a write to a granule whose MODE is 2; any other key passes reads only, where MODE is 0 or 2. An access is refused
at the first granule that does not permit it. A fetch by an engine is checked as a read. -/
def Obligations.TlbSlotsAndKeys : Prop :=
  (∀ (k : Core) (i : Fin 32) (w0 w1 : W64) (va : Nat),
     let e : TlbEnt := tlbOfImage w0 w1
     let k1 : Core := k.land false { bank := 0, due := 0, wr := .tlb (BitVec.ofNat 5 i.val) w0 w1 }
     (k.tlb.map (fun p => p.1)).Pairwise (· < ·) →
       spGet TlbEnt.empty k1.tlb i.val = e
         ∧ (∀ j : Nat, j ≠ i.val → spGet TlbEnt.empty k1.tlb j = spGet TlbEnt.empty k.tlb j)
         ∧ (tlbHits e k.tten va = true → (∀ p ∈ k.tlb, p.1 < i.val → tlbHits p.2 k.tten va = false) →
             tlbFind k1.tlb k.tten va = some e ∧ tlbPa e va % 2 ^ szLog e.sz = va % 2 ^ szLog e.sz))
  ∧ ((∀ (a : BitVec 4) (e : Byte) (write : Bool),
       keyPermits a e write = true ↔
         (a = 0 ∨ (a = e.extractLsb' 0 4 ∧ ¬(write = true ∧ e.extractLsb' 4 2 = 2))
           ∨ (a ≠ e.extractLsb' 0 4 ∧ write = false ∧ (e.extractLsb' 4 2 = 0 ∨ e.extractLsb' 4 2 = 2))))
     ∧ (∀ (s : State) (cache : Sparse Byte) (a : BitVec 4) (write : Bool) (l : List (Nat × Gran)),
         (keyRefusal s cache a write l = none ↔ ∀ p ∈ l, keyPermits a (keyEntry s cache p.2) write = true)
         ∧ (∀ i e, keyRefusal s cache a write l = some (i, e) → keyPermits a e write = false
             ∧ ∃ l1 g l2, l = l1 ++ (i, g) :: l2 ∧ keyEntry s cache g = e
               ∧ ∀ p ∈ l1, keyPermits a (keyEntry s cache p.2) write = true))
     ∧ (∀ (n : Fin 128) (s : State) (k : Core) (len : Nat) (first : Byte), k.bank.pc.toNat + len ≤ tileSize →
         ((s.fetchCheck (.eng n) k len first none).2.2 = none ↔
           ∀ p ∈ granList n.val 0 none (fetchLocs k.bank.pc.toNat len),
             keyPermits k.key (keyEntry s k.keyCache p.2) false = true)))

/-- R246 to R250: an Arcade instruction runs the routine of its entry: the micro-operations from the entry word on, at
most 64; EXIT completes it, POLL repeats it, and its register writes fall due with the count of its entry. An
exception is decided in the cycle of its micro-operation; the loads outside the tile made before it are awaited. The
model's own: log 16, 105, 106. -/
def Obligations.ArcadeRoutine : Prop :=
  ∀ (a : Issue) (x : BitVec 4) (b1 : Byte) (d : W32) (s : State) (r : Ready),
    let e : W64 := spGet 0 s.arcade.entries x.toNat
    let ar : UArgs := { op := BitVec.ofNat 8 (0xE0 + x.toNat), err := a.err, e := e, b1 := b1, d := d }
    let g : Nat := r.w.k.free
    let start : Micro :=
      { w := { r.w with k := { r.w.k with free := g + 1 } }, draw := g, regs := []
        fl := { mc := Config.microFlag g 0, mv := Config.microFlag g 1, mz := Config.microFlag g 2
                mn := Config.microFlag g 3, mdv := Config.microFlag g 4, minv := Config.microFlag g 5 }
        wr := [], st := [], far := [], busy := [] }
    s.issues a (fun s k =>
      let e : W64 := spGet 0 s.arcade.entries x.toNat
      { Form.plain (BitVec.ofNat 8 (0xE0 + x.toNat)) (arcadeLen e) with
        legal := arcadeLegal a.core e b1 d, r3 := false, pfx := pfxOk .none a.pre
        slotBar := entLong e, priv := entPriv e && !k.sup }) = .inr r →
      (∀ m fin, Micro.run ar 64 0 (entEntry e) start = .done m fin →
        exec (.arcadeInstruction a x b1 d) s = .next (r.perform
          { w := m.w
            eff := { exn := none, wr := m.wr.map (fun w => (entCount e, w)), st := m.st, count := entCount e
                     act := if fin then .seq else .again }
            far := m.far, at_ := 0, res := none, busy := m.busy }))
      ∧ (∀ m y depth, Micro.run ar 64 0 (entEntry e) start = .exn m y depth →
        exec (.arcadeInstruction a x b1 d) s = .next (r.perform
          { w := m.w, eff := Eff.fail y, far := m.far, at_ := depth + m.w.pen, res := none, busy := m.busy }))

/-! ## Memory and what happens in a core beside its instructions (01, 02, 07, 08, 11) -/

/-- R36, R74, R75, R285, R297, R299: a byte written at a plain address reads back; a write through the set or the
clear alias of a tile sets or clears the bits given in the plain byte; every other byte reads as before; the memory
keeps its canonical form. A byte written in the Record Directory makes its entry what the 32 bytes then spell. The
model's own: log 1, 10. -/
def Obligations.MemoryBytes : Prop :=
  ∀ (s : State) (pa : Nat) (b : Byte),
    let cell (a : Nat) : Nat := match pKind a with | .tile n o _ => tilePa n o | _ => a
    let slot : Option Nat := if pKind pa = .attached ∧ s.inKeys pa = false then s.dirSlot pa else none
    Memory.wf memDefault s.mem = true → (s.keyArr.map (fun p => p.1)).Pairwise (· < ·) →
      Memory.wf memDefault (s.wr pa b).mem = true
      ∧ ((s.wr pa b).keyArr.map (fun p => p.1)).Pairwise (· < ·)
      ∧ (slot = none →
          (∀ q, cell q ≠ cell pa → (s.wr pa b).rd q = s.rd q)
          ∧ (match pKind pa with
              | .reg | .resv => s.wr pa b = s ∧ s.rd pa = 0
              | .tile n o .set => (s.wr pa b).rd pa = s.rd pa ||| b ∧ (s.wr pa b).rd (tilePa n o) = s.rd (tilePa n o) ||| b
              | .tile n o .clr =>
                (s.wr pa b).rd pa = s.rd pa &&& ~~~ b ∧ (s.wr pa b).rd (tilePa n o) = s.rd (tilePa n o) &&& ~~~ b
              | _ => (s.wr pa b).rd pa = b))
      ∧ (∀ i : Nat, slot = some i → s.layout.dirBase % 32 = 0 → (s.dir.map (fun p => p.1)).Pairwise (· < ·) →
          let old : List Byte :=
            match spGet? s.dir i with
            | some d => d.image
            | none => (List.range 32).map (fun j => memRd s.mem (pa / 32 * 32 + j))
          let e : Option DirEnt := dirOfImage (patch old (pa % 32) [b])
          (∀ q, q / 32 ≠ pa / 32 → (s.wr pa b).rd q = s.rd q)
          ∧ spGet? (s.wr pa b).dir i = e ∧ (e = none → (s.wr pa b).rd pa = b))

/-- R87, R190, R195: a fetch that is granted the port puts its block behind the fetch queue of an engine, or, while
the delay slot of a taken branch waits in the queue, behind the fetched target, in the cycle of the grant; the results
due next are written no earlier than their cycle. R80, R81, R405: the oldest store-buffer entry, once it is granted
the tile port, reaches the tile, its bytes and no others; one that a check discards leaves the tile as it was. R212,
R213: the fall-back switch makes the next ready task, when resident, the running one, once posted stores are
acknowledged; a background fill reads one block in a cycle in which it is granted the port, and with the last block
the task is resident. The model's own: log 5, 36, 112. -/
def Obligations.CoreHousekeeping : Prop :=
  (∀ (c : CoreId) (s : State),
     let k : Core := s.core c
     (∀ cyc : Nat, k.nextGrant (isCc c) = some (.fetch, cyc) → (cyc < k.now ∨ s.canIssue c = false) →
       isCc c = false
       ∧ ((∀ g : TgtFetch, k.tgt = some g → g.slotIn = false) →
           k.fq.length ≤ 16 ∧ k.fromLoop = false ∧ exec (.instructionFetch c) s
             = .next (s.setCore c { k with
                 fq := k.fq ++ (s.code c).block cyc (k.fqAt.toNat + k.fq.length), fetchAt := cyc + 1 }))
       ∧ (∀ g : TgtFetch, k.tgt = some g → g.slotIn = true →
           k.fq.length + g.code.length ≤ 16 ∧ exec (.instructionFetch c) s
             = .next (s.setCore c { k with
                 tgt := some { g with code := g.code ++ (s.code c).block cyc (g.addr.toNat + g.code.length) }
                 fetchAt := cyc + 1 })))
     ∧ (∀ f : InFlight, k.inflight = [f] → f.due ≤ k.now →
       exec (.resultWrite c) s = .next (s.setCore c (({ k with inflight := [] } : Core).land (isCc c) f).loopOff))
     ∧ (∀ f : InFlight, k.inflight = [f] → k.now < f.due → s.canIssue c = false →
       exec (.resultWrite c) s
         = .next (s.setCore c (({ k with inflight := [], now := f.due } : Core).land (isCc c) f).loopOff)))
  ∧ (∀ (n : Fin 128) (s : State) (e : StoreEnt) (r : List StoreEnt) (cyc : Nat),
       let k : Core := s.core (.eng n)
       Memory.wf memDefault s.mem = true → k.sbuf = e :: r → e.off + e.bytes.length ≤ tileSize →
       k.nextGrant false = some (.drain, cyc) → (cyc < k.now ∨ s.canIssue (.eng n) = false) →
         (∃ t : State, exec (.storeBufferDrain ⟨.eng n, none⟩) s = .next t
           ∧ t.core (.eng n) = { k with sbuf := r, fetchAt := cyc + 1 }
           ∧ (∀ i : Nat, i < e.bytes.length → t.rd (tilePa n.val (e.off + i)) =
               (let old : Byte := s.rd (tilePa n.val (e.off + i))
                let v : Byte := byteAt e.bytes i
                match e.kind with | .plain => v | .set => old ||| v | .clr => old &&& ~~~ v))
           ∧ (∀ (m : Fin 128) (o : Nat), o < tileSize → ¬(m = n ∧ e.off ≤ o ∧ o < e.off + e.bytes.length) →
               t.rd (tilePa m.val o) = s.rd (tilePa m.val o))
           ∧ (∀ pa, pa < tileBase → t.rd pa = s.rd pa)
           ∧ (∀ c : CoreId, c ≠ .eng n → t.core c = s.core c))
         ∧ (∀ x ∈ [HwErr.parity, .uncorrectable], ∃ t : State, exec (.storeBufferDrain ⟨.eng n, some x⟩) s = .next t
           ∧ (t.core (.eng n)).sbuf = r ∧ t.mem = s.mem ∧ (x = .parity → (t.core (.eng n)).asyncMc.isSome = true)))
  ∧ (∀ (n : Fin 128) (s : State),
       let c : CoreId := .eng n
       let k : Core := s.core c
       (∀ (u : BitVec 6) (i : Fin 4), s.fallback c = some u → k.posted = [] →
         (let h : Nat := k.now + (if k.awaiting then 1 else 0) + k.swth.toNat
          let w : Work := Work.idle { s := s, c := c, k := k, pen := 0 } h
          (w.k.settle false h).bankOf? u = some i) →
           ∃ t : State, exec (.fallbackSwitch c) s = .next t ∧ (t.core c).cur = i ∧ (t.core c).hold = none
             ∧ (t.core c).loopBuf = .empty)
       ∧ (∀ u : BitVec 6, s.fallback c = some u → k.posted ≠ [] → exec (.fallbackSwitch c) s
           = .next (s.setCore c { k with
               hold := some (.fall u (k.now + (if k.awaiting then 1 else 0) + k.swth.toNat)), oneStep := false }))
       ∧ (∀ (g : BgFill) (cyc : Nat), k.bg = some g → k.nextGrant false = some (.fill, cyc) →
           (cyc < k.now ∨ s.canIssue c = false) →
           (g.blocks ≠ [] → g.blocks.length < 11 → ∃ (t : State) (j : Nat), exec (.tpreFillBlock c) s = .next t
             ∧ fillOrder[g.blocks.length]? = some j
             ∧ (t.core c).bg = some { g with blocks := g.blocks ++ [(j, s.rdN (tilePa n.val (g.area + 16 * j)) 16)] }
             ∧ (t.core c).res = k.res ∧ (t.core c).fetchAt = cyc + 1)
           ∧ (g.blocks.length = 11 → ∃ t : State, exec (.tpreFillBlock c) s = .next t ∧ (t.core c).bg = none
             ∧ (t.core c).res.get g.bank = some g.task
             ∧ ((t.core c).banks.get g.bank) = bankOfImage (areaWith (zeros 0xC0) (g.blocks ++
                 [(11, s.rdN (tilePa n.val (g.area + 176)) 16)])))))

/-- R92, R197, R203, R411, R416: the transfers of an access outside the tile arrive one by one, the last releases its
effect: a load of ACC.Q is written and the instruction retires. A poisoned response or none raises a machine check on
the instruction, with its PC restored and the address of the transfer. R197, R411 (completion, in any state that meets
these conditions alone): FAR_LOAD_RESPONSE with the last transfer of the oldest access of a core completes the access
and retires its instruction; REQUEST_TIMEOUT completes the oldest request of a unit as failed with TIMEOUT: a load
with a machine check on its instruction, a posted store with an asynchronous one, a Tram access with the channel in
ERROR; a unit without a request stays as it is. The model's own: log 6, 33. -/
def Obligations.FarResponses : Prop :=
  (∀ (c : CoreId) (cyc : Nat) (s : State) (wt : FarWait) (rest : List FarWait) (x : Xfer) (xs : List Xfer),
     let k : Core := s.core c
     k.waits = wt :: rest → wt.bank = k.curIx → wt.xfers = x :: xs → x.pa.any s.heldPa = false →
     (∀ u h, k.hold ≠ some (.fall u h)) →
       (s.respAt x.pa .ok = .ok → xs = [] → wt.eff.exn = none → wt.eff.st = [] → k.inflight = [] →
         ∀ v : W64, wt.eff.wr = [(2, wrQ v)] → ∃ t : State, exec (.farLoadResponse c cyc .ok) s = .next t
           ∧ (t.core c).waits = rest ∧ (t.core c).retired = k.retired + 1 ∧ ((t.core c).bankAt wt.bank).q = v
           ∧ (t.core c).inflight = [] ∧ (t.core c).exn = k.exn)
       ∧ (s.respAt x.pa .ok = .ok → xs = [] → ∀ y, wt.eff.exn = some y → ∃ t : State,
         exec (.farLoadResponse c cyc .ok) s = .next t
           ∧ (t.core c).waits = rest ∧ (t.core c).exn = some y ∧ ((t.core c).bankAt wt.bank).pc = wt.pc)
       ∧ (s.respAt x.pa .ok = .ok → xs ≠ [] → x.depth = none → exec (.farLoadResponse c cyc .ok) s
           = .next (s.setCore c { k with waits := { wt with xfers := xs, got := max wt.got (cyc - 1) } :: rest }))
       ∧ (∀ (r : Resp) (cmd : Instr), (r, cmd) ∈ [(Resp.timeout, Instr.farLoadResponse c cyc .timeout),
             (.timeout, .requestTimeout (.core c))] →
           ∃ t : State, exec cmd s = .next t ∧ (t.core c).waits = rest ∧ ((t.core c).bankAt wt.bank).pc = wt.pc
             ∧ (t.core c).retired = k.retired
             ∧ ∃ y, (t.core c).exn = some y ∧ (t.core c).exnFar = true ∧ y.vec = 1 ∧ y.sub = 0x21 ∧ y.cls = 0
               ∧ y.faddr = x.ea))
  ∧ ((∀ (c : CoreId) (cyc : Nat) (s : State) (wt : FarWait) (rest : List FarWait) (x : Xfer),
       (s.core c).waits = wt :: rest → wt.bank = (s.core c).curIx → wt.xfers = [x] → wt.eff.exn = none →
       (∀ pa, x.pa = some pa → s.heldPa pa = false ∧ s.portDown pa = none) →
         ∃ t : State, exec (.farLoadResponse c cyc .ok) s = .next t ∧ (t.core c).waits = rest
           ∧ (t.core c).retired = (s.core c).retired + 1 ∧ (t.core c).exn = (s.core c).exn)
     ∧ (∀ (c : CoreId) (s : State) (wt : FarWait) (rest : List FarWait) (x : Xfer) (xs : List Xfer),
       (s.core c).waits = wt :: rest → wt.bank = (s.core c).curIx → wt.xfers = x :: xs →
       (∀ pa, x.pa = some pa → s.heldPa pa = false) → (∀ u h, (s.core c).hold ≠ some (.fall u h)) →
         ∃ t : State, exec (.requestTimeout (.core c)) s = .next t ∧ (t.core c).waits = rest
           ∧ ∃ y, (t.core c).exn = some y ∧ y.vec = 1 ∧ y.sub = 0x21)
     ∧ (∀ (c : CoreId) (s : State) (p : Posted) (rest : List Posted),
       (s.core c).waits = [] → (s.core c).posted = p :: rest → (∀ q ∈ p.cells, s.heldPa q.1 = false) →
       (s.core c).hold = none → (s.core c).asyncMc = none → (s.core c).entryMc = none →
         ∃ t : State, exec (.requestTimeout (.core c)) s = .next t ∧ (t.core c).posted = rest
           ∧ ∃ y, ((t.core c).asyncMc = some y ∨ (t.core c).entryMc = some y) ∧ y.vec = 1 ∧ y.sub = 0x21)
     ∧ (∀ (q : Fin 4) (s : State) (k : Nat), s.tramWaiting q.val = some k →
         ∃ t : State, exec (.requestTimeout (.tram q)) s = .next t ∧ (t.channel k).st = .error ∧ (t.channel k).code = 0x30
           ∧ (t.channel k).fn = .faulted)
     ∧ (∀ (c : CoreId) (s : State), (s.core c).waits = [] → (s.core c).posted = [] →
         exec (.requestTimeout (.core c)) s = .next s)
     ∧ (∀ (q : Fin 4) (s : State), s.tramWaiting q.val = none → exec (.requestTimeout (.tram q)) s = .next s))

/-- R198, R218, R411, R416: the oldest posted store of an engine is performed at its acknowledgement; a DRAIN that
waited for the last one ends. A failed one raises an asynchronous machine check, or fails the entry that waits for it.
The model's own: log 7, 131. -/
def Obligations.PostedStores : Prop :=
  ∀ (n : Fin 128) (s : State) (p : Posted) (rest : List Posted),
    let c : CoreId := .eng n
    let k : Core := s.core c
    let pa : Option Nat := (p.cells.head?).map (fun x => x.1)
    k.posted = p :: rest → (∀ key scope addr ten, k.hold ≠ some (.inval key scope addr ten)) →
    (∀ u h, k.hold ≠ some (.fall u h)) → p.cells.any (fun x => s.heldPa x.1) = false →
      (s.respAt pa .ok = .ok → ∃ t : State, exec (.postedStoreAck c .ok) s = .next t ∧ (t.core c).posted = rest
        ∧ (∀ q, t.rd q = (p.cells.foldl (fun (u : State) x => u.wr x.1 x.2) s).rd q)
        ∧ (rest = [] → k.hold = some .drain → (t.core c).hold = none)
        ∧ (rest ≠ [] → p.events = [] → (t.core c).hold = k.hold) ∧ (t.core c).asyncMc = k.asyncMc)
      ∧ (∃ t : State, exec (.postedStoreAck c .timeout) s = .next t ∧ (t.core c).posted = rest ∧ t.mem = s.mem
        ∧ (k.asyncMc = none → k.entryMc = none →
            ∃ x, (if s.entryWaits c then (t.core c).entryMc else (t.core c).asyncMc) = some x
              ∧ x.vec = 1 ∧ x.cls = 3 ∧ x.sub = 0x21 ∧ x.faddr = p.ea))

/-- R231 to R234, R523: a record that reaches an engine sets the pending bit of every slot that its source is routed
to; a timer of a running group raises its source and starts again from 0; SIGOUT raises the source of its core, the
store buffer drained (R85). R301, R405: a waiting write fills the Letterbox slot at TAIL while one is free; one that a
check discards on the way waits on; a read frees the slot at HEAD. The model's own: log 41, 112, 121. -/
def Obligations.EventsTimersLetterbox : Prop :=
  ((∀ (c : CoreId) (src : Fin 384) (s : State), outsideSrc src.val = false → s.waiting (coreIx c) src.val true ≠ 0 →
     (s.core c).hold ≠ some .wait → (isCc c = true ∨ (s.square (coreSquare c)).relock = none) →
     ∃ t : State, exec (.eventRecordArrival c src) s = .next t
       ∧ (∀ i : Nat, i < 32 → ((t.core c).evpend.getLsbD i = true ↔ (s.core c).evpend.getLsbD i = true
           ∨ ((spGet (⟨0, false⟩ : Route) (s.core c).evroute i).v = true
               ∧ (spGet (⟨0, false⟩ : Route) (s.core c).evroute i).src.toNat = src.val)))
       ∧ t.waiting (coreIx c) src.val true + 1 = s.waiting (coreIx c) src.val true)
   ∧ (∀ (m : Fin 32) (s : State),
       let q : Square := s.square (m.val / 8)
       let y : Timer := spGet Timer.reset q.timers (m.val % 8)
       q.group = .running → y.period ≠ 0 → ∃ t : State, exec (.timerExpiry m) s = .next t
         ∧ spGet 0 t.raised m.val = spGet 0 s.raised m.val + 1
         ∧ spGet Timer.reset (t.square (m.val / 8)).timers (m.val % 8) = { count := 0, period := y.period })
   ∧ (∀ (c : CoreId) (s : State), s.runs c = true → ∃ t : State, exec (.sigout c) s = .next t
       ∧ spGet 0 t.raised (match c with | .eng n => 160 + n.val | .cc i => 288 + i.val)
           = spGet 0 s.raised (match c with | .eng n => 160 + n.val | .cc i => 288 + i.val) + 1
       ∧ t = { s.drained c with raised := t.raised }))
  ∧ (∀ (n : Fin 128) (s : State),
       let k : Core := s.core (.eng n)
       (∀ x r, k.lbox.waiting = x :: r → k.lbox.slots.length < 16 → s.heldPa (tilePa n.val 0) = false → k.hold ≠ some .wait →
         (∃ t : State, exec (.letterboxWrite ⟨n, none⟩) s = .next t
           ∧ (t.core (.eng n)).lbox = { k.lbox with slots := k.lbox.slots ++ [fit 64 x], waiting := r }
           ∧ (t.core (.eng n)).lbox.slot ((k.lbox.head.val + k.lbox.slots.length) % 16) = fit 64 x)
         ∧ (∀ e ∈ [HwErr.uncorrectable, .parity], ∃ t : State, exec (.letterboxWrite ⟨n, some e⟩) s = .next t
           ∧ t.core (.eng n) = k))
       ∧ (∀ e, k.lbox.waiting ≠ [] → k.lbox.slots.length = 16 → exec (.letterboxWrite ⟨n, e⟩) s = .next s)
       ∧ (∀ y r, s.runs (.eng n) = true → s.fatal = false → k.lbox.slots = y :: r →
         exec (.letterboxSlotRead n) s
           = .next ((s.drained (.eng n)).setCore (.eng n) { (s.drained (.eng n)).core (.eng n) with
               lbox := { k.lbox with head := k.lbox.head + 1, slots := r } })))

/-! ## The block: its queue, its reset, what no command does (12, 15, 16) -/

/-- A step takes the command at the front of the queue and has its effect on the state with the queue's rest; with an
empty queue the block idles (the model's choice, log 19). -/
def Obligations.StepRunsFrontCommand : Prop :=
  (∀ (c : Instr) (rest : List Instr) (s : State), s.pending = c :: rest → step s = exec c { s with pending := rest })
    ∧ (∀ s : State, s.pending = [] → step s = .next s)

/-- Reset values that the spec gives: Tables 2-1, 2-3, 8-2, 10-3 (a control core), 11-10, 13-9, 14-2, 16-3, 16-15;
every function is STOPPED; and the invariant of the life cycle holds. -/
def Obligations.ResetValues : Prop :=
  let s : State := State.reset
  (∀ c : CoreId, (s.core c).bank.psw.toNat = 0x0B001000 ∧ (s.core c).bank.pc = 0 ∧ (s.core c).bank.acc = 0
      ∧ (s.core c).bank.ix = 0 ∧ (s.core c).bank.rsp = 0 ∧ (s.core c).bank.lc = 0 ∧ (s.core c).res.get 0 = some 0
      ∧ (s.core c).res.get 1 = none ∧ (s.core c).sbuf = [] ∧ (s.core c).tlb = [] ∧ (s.core c).lbox.slots = []
      ∧ (s.core c).tctl.toNat = if isCc c then 0x10 else 0)
    ∧ (∀ g, (s.street g).st = .stopped ∧ (s.street g).pwe = false)
    ∧ (∀ q, (s.square q).st = .stopped ∧ (s.square q).group = .stopped ∧ (s.square q).timers = [])
    ∧ (∀ k, (s.channel k).fn = .stopped ∧ (s.channel k).ckey = 0xF ∧ (s.channel k).st = .idle ∧ (s.channel k).tpend = 0)
    ∧ (∀ p, (s.memPort p).st = .stopped ∧ (s.memPort p).rateSet.toNat = 6400 ∧ (s.memPort p).calPeriod = 60)
    ∧ (∀ h, (s.hostPort h).st = .stopped ∧ (s.hostPort h).maxrate.toNat = 5 ∧ (s.hostPort h).widthSet = 0)
    ∧ s.placeCfg = { heatEpoch := 16, heatTile := 64, heatSq := 8, releaseLimit := 10 }
    ∧ s.bootstat % 16 = 0 ∧ s.kstat % 4 = 3 ∧ s.tap.ir = 0x02 ∧ s.fusesOk

/-- R439, R448 (Tables 16-12 and 16-13): no step breaks the invariant of the life-cycle fuses, whatever command is in
front: at most eight owner keys, each with its transition counted, none before the first transition, one at least in
PROVISIONED and SERVICE. -/
def Obligations.LifeCycleInvariant : Prop := ∀ s t : State, s.fusesOk → step s = .next t → t.fusesOk

/-- R440, R448: the fuses change only at LC_CHANGE and at start-up; the fuse floor and the count of transitions never
fall; RETIRED stays RETIRED; a device that has left BLANK never returns to it. -/
def Obligations.FusesOnlyForward : Prop :=
  ∀ (c : Instr) (s t : State), exec c s = .next t →
    s.fuses.floor.toNat ≤ t.fuses.floor.toNat ∧ s.fuses.lccount.toNat ≤ t.fuses.lccount.toNat
      ∧ (s.fuses.lc = 3 → t.fuses.lc = 3) ∧ (s.fuses.lc ≠ 0 → t.fuses.lc ≠ 0)
      ∧ ((∀ r ok, c ≠ .lcChange r ok) → (∀ b, c ≠ .resetRelease b) → t.fuses = s.fuses)

/-- Frame of R115 and Table 3-14, for every instruction: what its checks and loads change, while no background fill is
running. Every register of every bank and every other core stays; in the device only key bytes (USE and MOD), the
error record and lane of a corrected error and the MODEL's counter change; and every byte outside the key bytes at
KABASE, once the own store buffer has drained, has the value it was to have. The model's own: log 3, 5, 95. -/
def Obligations.IssueFrame : Prop :=
  ∀ (a : Issue) (form : State → Core → Form) (s : State) (r : Ready), s.issues a form = .inr r →
    let k : Core := s.core a.core
    let j : Core := r.w.k
    let n : Nat := engNo a.core
    k.bg = none →
    r.w.c = a.core
      ∧ (k.inflight = [] → j = { k with
          fqAt := j.fqAt, fq := j.fq, fetchAt := j.fetchAt, portBusy := j.portBusy, tgt := j.tgt, loopBuf := j.loopBuf
          now := j.now, keyCache := j.keyCache, free := j.free, sbuf := j.sbuf, lbox := j.lbox, ccTlb := j.ccTlb, psc := j.psc })
      ∧ r.w.s = { s with
          mem := r.w.s.mem, keyArr := r.w.s.keyArr, dir := r.w.s.dir, kerb := r.w.s.kerb, tileKeys := r.w.s.tileKeys
          sqKeys := r.w.s.sqKeys, banks := r.w.s.banks, newest := r.w.s.newest, memPorts := r.w.s.memPorts
          free := r.w.s.free }
      ∧ ((∀ p ∈ k.keyCache, p.1 < 2 ^ 28) → s.kabase.toNat + 2 ^ 28 ≤ sqBase →
          (∀ f < 2 ^ 28, s.dirSlot (s.kabase.toNat + f) = none) →
          ∀ q : Nat, ¬(s.kabase.toNat ≤ q ∧ q < s.kabase.toNat + 2 ^ 28) →
            (j.sbuf.foldl (fun u e => u.drainEnt n e) r.w.s).rd q = (k.sbuf.foldl (fun u e => u.drainEnt n e) s).rd q)
      ∧ (a.err ≠ some .corrected → r.w.s.banks = s.banks ∧ r.w.s.memPorts = s.memPorts)
      ∧ ((∀ l ∈ r.ls, ∀ x ∈ l, ∀ o, x ≠ .lbox o) → j.lbox = k.lbox)

/-- Table 3-14, R51, R43, R103: an engine instruction whose bytes lie in the tile, with access key 0, in a legal form
that its state may run and that waits for nothing of its own, and whose operands lie in the plain window of the own
tile, reaches its body with the operands as they stand in the tile. The model's own: log 3, 5. -/
def Obligations.IssueCompletes : Prop :=
  ∀ (a : Issue) (form : State → Core → Form) (s : State) (n : Fin 128) (i : Form),
    a.core = .eng n → a.err = none → s.canIssue a.core = true →
    let k : Core := s.core a.core
    (∀ (u : State) (j : Core), u.arcade = s.arcade → j = { k with
        fqAt := j.fqAt, fq := j.fq, fetchAt := j.fetchAt, portBusy := j.portBusy, tgt := j.tgt, loopBuf := j.loopBuf
        now := j.now, sbuf := j.sbuf } → form u j = i) →
    k.inflight = [] → k.bg = none → k.key = 0 →
    k.bank.pc.toNat + (a.pre.length + i.len) ≤ 0x80000 → decodeOk k a.pre i = true → i.priv = false → i.ready = true →
    (∀ q ∈ i.reqs, q.far = false ∧ q.align = 0 ∧ q.ea + q.n ≤ 0x80000) →
      ∃ r : Ready, s.issues a form = .inr r ∧ r.far = [] ∧ r.formed = none ∧ r.form = i ∧ r.len = a.pre.length + i.len
        ∧ r.w.k.bank = k.bank ∧ r.ls = i.reqs.map (fun q => (List.range q.n).map (fun j => Loc.tile (q.ea + j) .plain))
        ∧ (k.sbuf = [] → r.bs = i.reqs.map (fun q => if q.read then s.rdN (tilePa n.val q.ea) q.n else []))

/-- Frame of the end of an instruction of an engine that completes in its tile, while no background fill is running: a
register that its results do not name has its value once every result has landed; the other banks, the other cores and
every part of the device beside the tile stay; and a byte of memory outside the bytes that it stores to reads as
before, the store buffer drained. The model's own: log 5, 97, 104. -/
def Obligations.PerformFrame : Prop :=
  ∀ (a : Issue) (form : State → Core → Form) (s : State) (r : Ready) (e : Eff) (res : Option Int) (n : Fin 128),
    s.issues a form = .inr r → a.core = .eng n → (s.core a.core).inflight = [] → (s.core a.core).bg = none →
    r.far = [] → r.formed = none → e.exn = none →
    (∀ p ∈ e.wr, ∀ i v u x y z q b g, p.2 ≠ .spec i v ∧ p.2 ≠ .half u x ∧ p.2 ≠ .tlb y v z ∧ p.2 ≠ .pc q ∧ p.2 ≠ .to b g) →
      let k : Core := r.w.k
      let t : State := r.perform (Done.of r.w e res)
      let drained (u : State) : State := (u.core (.eng n)).sbuf.foldl (fun v x => v.drainEnt n.val x) u
      (∀ T : Nat, let j : Core := (t.core (.eng n)).settle false T
        (∀ (α : Type) (f : Bank → α), (∀ p ∈ e.wr, ∀ b : Bank, f (b.write p.2) = f b) →
            (∀ (b : Bank) (pc lc : W32) (d : Option (W32 × Option W32)), f { b with pc := pc, lc := lc, slot := d } = f b) →
            f j.bank = f k.bank)
          ∧ (∀ i : Fin 5, i ≠ k.curIx → j.bankAt i = k.bankAt i)
          ∧ j = { k with
              banks := j.banks, shadow := j.shadow, inflight := j.inflight, now := j.now, fqAt := j.fqAt, fq := j.fq
              fetchAt := j.fetchAt, portBusy := j.portBusy, tgt := j.tgt, loopBuf := j.loopBuf, divFree := j.divFree
              oneStep := j.oneStep, retired := k.retired + 1, tracePend := j.tracePend, trap := j.trap
              trapHeld := j.trapHeld, sbuf := j.sbuf, posted := j.posted, free := j.free })
        ∧ (e.act = .seq → k.bank.slot = none → k.bank.atLoopEnd r.len = false →
            (t.core (.eng n)).bank.pc = k.bank.pc + BitVec.ofNat 32 r.len)
        ∧ (∀ c : CoreId, c ≠ .eng n → t.core c = s.core c)
        ∧ t = { r.w.s with cores := t.cores, mem := t.mem }
        ∧ ((∀ o ∈ e.st, ∀ l ∈ o.locs, ∃ x kd, l = .tile x kd) → (t.core (.eng n)).posted = k.posted)
        ∧ (∀ q : Nat, pKind q ≠ .reg → pKind q ≠ .resv → (∀ o ∈ e.st, ∀ x kd l, o.locs = .tile x kd :: l →
              x + o.bytes.length ≤ tileSize ∧ ∀ m y z, pKind q = .tile m y z →
                m ≠ n.val ∨ y < x ∨ x + o.bytes.length ≤ y) →
            (drained t).rd q = (drained (r.w.s.setCore (.eng n) k)).rd q)

/-! ## Queue pairs (12) -/

/-- R332 to R334, R343, R525: doorbells, the page's registers, QCTL, CQINT.TIME; without room for a new retention ring
QCTL.START leaves the old one in force. A doorbell value at or past the depth sets DBERR and is not stored; while the
port does not serve BAR0 nothing changes. R344: after a failed host write the queue pair is FAULTED with CQERR and
raises its vector once; a function level reset leaves the function's tenancy with queue pair 0 alone, its page zero
and STOPPED, and DEVNO 0; its fetched commands but batches complete internally. The model's own: log 44, 45, 87, 115. -/
def Obligations.QueuePairPages : Prop :=
  (∀ (f : FnId) (q : Byte) (v : W32) (hw : List HostStore) (s0 : State),
     let s : State := s0.hostStores hw
     (∀ (tn : Nat) (x : QPair), s.bar0 f = true → s.qpOf f q.toNat = some (tn, x) →
         (v.toNat < x.sqDepth → exec (.sqtail f q v hw) s0 = .next (s.setQp tn q.toNat { x with sqtail := v }))
         ∧ (x.sqDepth ≤ v.toNat → exec (.sqtail f q v hw) s0 = .next (s.setQp tn q.toNat { x with dberr := true }))
         ∧ (v.toNat < x.cqDepth → exec (.cqhead f q v hw) s0 = .next (s.setQp tn q.toNat { x with cqhead := v }))
         ∧ (x.cqDepth ≤ v.toNat → exec (.cqhead f q v hw) s0 = .next (s.setQp tn q.toNat { x with dberr := true }))
         ∧ (∀ w : W64, exec (.registerWrite (.page f (BitVec.ofNat 16 (q.toNat * 256 + 0x20)) false w)) s
             = .next (s.setQp tn q.toNat { x with cqint := (w.truncate 32 : W32) &&& 0xFFFF }))
         ∧ (q = 0 → x.st = .stopped → (s.tenancy tn).st = .running → ∀ memOk, ∃ t y, exec (.qctlStart ⟨f, memOk⟩) s = .next t
             ∧ t.qp? tn 0 = some y ∧ y.st = .running ∧ y.phase = true ∧ y.pend = [] ∧ y.sqtail = x.sqtail
             ∧ y.sqhead = x.sqhead
             ∧ (tn = 0 → memOk = false → (s.tenancy 0).pend.any (fun p => p.pid == 0x105 && p.value != 0) = true →
                 (t.tenancy 0).jret = (s.tenancy 0).jret ∧ (t.tenancy 0).ring = (s.tenancy 0).ring))
         ∧ (q = 0 → x.st ≠ .stopped → ∀ memOk, exec (.qctlStart ⟨f, memOk⟩) s = .next s)
         ∧ (q = 0 → x.st = .running → exec (.qctlStop f) s
             = .next (s.setQp tn 0 { x with st := if x.fetched = [] then .stopped else .draining })))
     ∧ (s.bar0 f = false → exec (.sqtail f q v hw) s0 = .next s ∧ exec (.cqhead f q v hw) s0 = .next s
         ∧ (∀ memOk, exec (.qctlStart ⟨f, memOk⟩) s = .next s) ∧ exec (.qctlStop f) s = .next s)
     ∧ (∀ (tn : Nat) (x : QPair) (g : FnId), s.qpOf f q.toNat = some (tn, x) → (s.tenancy tn).bound = some g →
         x.counted ≠ 0 → x.time ≠ 0 → x.st ≠ .faulted → ∃ t, exec (.cqintTimeExpiry f q) s = .next t
           ∧ t.qp? tn q.toNat = some { x with counted := 0 }
           ∧ spGet 0 t.msix (fnIx g * 2048 + x.vec) = spGet 0 s.msix (fnIx g * 2048 + x.vec) + 1))
  ∧ (∀ (f : FnId) (q : Byte) (s : State) (tn : Nat) (x : QPair), s.qpOf f q.toNat = some (tn, x) → (s.tenancy tn).bound = some f →
       (x.st = .running ∨ x.st = .draining → ∃ t y, exec (.hostWriteFailure f q) s = .next t ∧ t.qp? tn q.toNat = some y
         ∧ y.st = .faulted ∧ y.cqerr = true ∧ y.counted = 0 ∧ y.sqhead = x.sqhead ∧ y.cqtail = x.cqtail
         ∧ spGet 0 t.msix (fnIx f * 2048 + x.vec) = spGet 0 s.msix (fnIx f * 2048 + x.vec) + 1
         ∧ t.dir = s.dir ∧ t.hostMem = s.hostMem ∧ t.mem = s.mem
         ∧ (∀ p ∈ t.fwdq, p.ref.ten.toNat = tn → p.ref.q.toNat = q.toNat → p.ref.live = false))
       ∧ (x.st = .faulted ∨ x.st = .stopped → exec (.hostWriteFailure f q) s = .next s)
       ∧ (∃ t, exec (.functionLevelReset f) s = .next t ∧ (t.tenancy tn).devno = 0
         ∧ (t.tenancy tn).qps.map (fun p => p.1) = [0] ∧ (t.tenancy tn).st = (s.tenancy tn).st
         ∧ (t.tenancy tn).ring = (s.tenancy tn).ring ∧ t.dir = s.dir
         ∧ (∀ (j : Nat) (z : QPair) (e : Fetched), (j, z) ∈ (s.tenancy tn).qps → e ∈ z.fetched → e.opcode ≠ 0x30 →
             (j, e) ∈ (t.tenancy tn).ghosts)
         ∧ (∃ y, t.qp? tn 0 = some y ∧ y.st = .stopped ∧ y.sqtail = 0 ∧ y.cqhead = 0 ∧ y.qcfg = 0 ∧ y.sqbase = 0 ∧ y.cqbase = 0
             ∧ y.cqint = 0 ∧ y.fetched = [] ∧ y.dberr = false ∧ y.cqerr = false)
         ∧ (∀ u, u ≠ tn → t.tenancy u = s.tenancy u)))

/-- R335 to R338, Table 12-7: the device fetches the submission at SQHEAD, advances SQHEAD, and applies its checks in
their order. A submission that passes is held to start; one that fails is completed with the status of the first check
that fails; one that cannot be read, or that a check on its way discards (R405), with 0x1009. R356, Table 12-7: the
refusals of checks 7.1 to 7.3 and 7.7, for a command `c`: a PARAM bit outside the named ones, the issuer, a pointer
that is used and zero or misaligned, or not used and not zero; the first of a list of checks that fails answers. The
model's own: log 42, 112. -/
def Obligations.SubmissionChecks : Prop :=
  ((∀ (s : State) (t q : Nat) (b : List Byte),
     let op : Nat := (byteAt b 0).toNat
     let ok : List (Prop × Nat) :=
       [(leAt b 60 4 = crc32c (b.take 60), 0x4001), ((byteAt b 3).toNat % 64 = (s.tenancy t).devno.toNat, 0x1004),
        ((byteAt b 2).toNat % 16 = t, 0x1003), (op ∈ opcodes ∨ ∃ x, s.claims op = some x, 0x1001),
        ((byteAt b 1).toNat < 4 ∧ (byteAt b 2).toNat < 16 ∧ (byteAt b 3).toNat < 64 ∧ allZero (slice b 6 2) = true
           ∧ allZero (slice b 56 4) = true, 0x1002),
        (q = 0 ∨ op = 0x30 ∨ op = 0x40 ∨ op = 0x41, 0x1008)]
     ((∀ c ∈ ok, c.1) → s.submissionFails t q b = none)
       ∧ (∀ i : Fin 6, (∀ j : Fin 6, j < i → (ok[j.val]?.map (fun c => c.1)).getD True) →
           ¬ (ok[i.val]?.map (fun c => c.1)).getD True → s.submissionFails t q b = ok[i.val]?.map (fun c => c.2)))
   ∧ (∀ (f : FnId) (q : Byte) (s : State) (tn : Nat) (x : QPair), s.qpOf f q.toNat = some (tn, x) →
       let b : List Byte := s.hostRd (x.sqbase.toNat + 64 * x.sqhead.toNat) 64
       let head : Nat := (x.sqhead.toNat + 1) % x.sqDepth
       let e : Fetched := { seq := x.nextSeq, sqix := x.sqhead.truncate 16, sqhd := BitVec.ofNat 16 head, bytes := b, prog := .none }
       let taken (e : Fetched) : State := s.setQp tn q.toNat
         { x with sqhead := BitVec.ofNat 32 head, nextSeq := x.nextSeq + 1, fetched := x.fetched ++ [e] }
       (s.fetches f x = false → exec (.submissionFetch f q ⟨false, none⟩) s = .next s)
       ∧ (s.fetches f x = true → s.submissionFails tn q.toNat b = none →
           exec (.submissionFetch f q ⟨false, none⟩) s = .next (taken e))
       ∧ (∀ st : Nat, s.fetches f x = true → s.submissionFails tn q.toNat b = some st → st ≠ 0x4001 →
           (e.opcode ≠ 0x30 ∨ ∀ y ∈ x.fetched, y.opcode ≠ 0x30) →
           let e1 : Fetched := { e with prog := .ended 0 (BitVec.ofNat 16 st) 0 0 }
           exec (.submissionFetch f q ⟨false, none⟩) s = .next ((taken e1).complete tn q.toNat e1 (Ans.of st))
           ∧ (st = 0x1001 → exec (.unknownOpcode f q) s = .next ((taken e1).complete tn q.toNat e1 (Ans.of 0x1001))))
       ∧ (s.fetches f x = true → (∀ y ∈ x.fetched, y.opcode ≠ 0x30) → ∀ (fails : Bool) (err : Option HwErr),
           (fails = true ∨ ∃ h ∈ [HwErr.seal, .uncorrectable, .parity], err = some h) →
           ∃ (t u : State) (e1 : Fetched), exec (.submissionFetch f q ⟨fails, err⟩) s = .next t
             ∧ t = u.complete tn q.toNat e1 (Ans.of 0x1009) ∧ e1.sqix = e.sqix ∧ e1.sqhd = e.sqhd
             ∧ (fails = true → u.banks = s.banks))
       ∧ (s.fetches f x = true ↔ (x.st = .running ∧ x.sqhead ≠ x.sqtail ∧ x.fetched.length < x.cqFree
           ∧ x.fetched.length < 1024 ∧ s.heldBack x = false ∧ s.fatal = false
           ∧ (s.hostPort f.port.val).d3.getLsbD f.fn.val = false))))
  ∧ (∀ (s : State) (c : Cmd) (named : Nat → Nat) (u0 u1 al : Nat),
       (reserved71 c named = none ↔ ∀ i < 32, (byteAt c.e.bytes (8 + i)).toNat &&& (255 - named (8 + i)) = 0)
       ∧ (∀ i < 32, (∀ j < i, (byteAt c.e.bytes (8 + j)).toNat &&& (255 - named (8 + j)) = 0) →
           (byteAt c.e.bytes (8 + i)).toNat &&& (255 - named (8 + i)) ≠ 0 →
             reserved71 c named = some { status := 0x1002, res0 := 0, res1 := 0, detail := 8 + i })
       ∧ (issuer72 s c = none ↔ c.fn = ⟨s.boot.mgmt, 0⟩)
       ∧ (u0 ≤ 2 → u1 ≤ 2 → (ptrs73 c u0 u1 al = none ↔ ∀ p ∈ [(u0, c.ptr0), (u1, c.ptr1)],
           (p.1 = 0 → p.2 = 0) ∧ (p.1 = 1 → p.2 ≠ 0 ∧ p.2 % al = 0) ∧ (p.1 = 2 → p.2 ≠ 0 → p.2 % al = 0)))
       ∧ (read77 c = none ↔ c.readFails = false)
       ∧ (∀ l : List (Option Ans), (firstOf l = none ↔ ∀ x ∈ l, x = none))
       ∧ (∀ (l : List (Option Ans)) (a : Ans) (m : List (Option Ans)), (∀ x ∈ l, x = none) → firstOf (l ++ some a :: m) = some a))

/-- R340 to R343, Table 12-8: a completion is 32 bytes at the CQ tail, sealed by its CRC-32C; the tail advances and P
turns over at its wrap; the command leaves the device; the vector is raised once CNT completions count. A FAULTED
queue pair writes nothing. The model's own: log 44, 87. -/
def Obligations.Completions : Prop :=
  ∀ (s : State) (tn q : Nat) (e : Fetched) (a : Ans) (x : QPair), s.qp? tn q = some x →
    (∃ z ∈ x.fetched, z.seq = e.seq) → Memory.wf memDefault s.hostMem = true → 64 ≤ e.bytes.length →
      let t : State := s.complete tn q e a
      let b : List Byte := cplBytes (s.tenancy tn).devno.toNat x.phase e a
      let tail : Nat := (x.cqtail.toNat + 1) % x.cqDepth
      b.length = 32 ∧ leAt b 28 4 = crc32c (b.take 28) ∧ slice b 0 2 = slice e.bytes 4 2 ∧ byteAt b 4 = byteAt e.bytes 0
        ∧ leAt b 2 2 = a.status % 65536 ∧ leAt b 6 2 = e.sqhd.toNat ∧ leAt b 8 2 = e.sqix.toNat ∧ leAt b 12 4 = a.res0 % 2 ^ 32
        ∧ leAt b 16 8 = a.res1 % 2 ^ 64 ∧ leAt b 24 4 = a.detail % 2 ^ 32
        ∧ (x.st ≠ .faulted →
            t.hostRd (x.cqbase.toNat + 32 * x.cqtail.toNat) 32 = b
            ∧ (∀ i : Nat, i < 2 ^ 64 → (∀ j : Nat, j < 32 → i ≠ (x.cqbase.toNat + 32 * x.cqtail.toNat + j) % 2 ^ 64) →
                memRd t.hostMem i = memRd s.hostMem i)
            ∧ ∃ y, t.qp? tn q = some y ∧ y.cqtail = BitVec.ofNat 32 tail
              ∧ y.phase = (if tail = 0 then !x.phase else x.phase)
              ∧ y.fetched = x.fetched.filter (fun z => z.seq != e.seq) ∧ y.sqhead = x.sqhead
              ∧ (y.st = if x.st = .draining ∧ y.fetched = [] then .stopped else x.st)
              ∧ (∀ g, (s.tenancy tn).bound = some g →
                  let n : Nat := x.counted + 1
                  let v : Nat := fnIx g * 2048 + x.vec
                  (e.noint = false → max 1 x.cnt ≤ n → y.counted = 0 ∧ spGet 0 t.msix v = spGet 0 s.msix v + 1)
                  ∧ (e.noint = false → n < max 1 x.cnt → y.counted = n ∧ t.msix = s.msix)
                  ∧ (e.noint = true → y.counted = x.counted ∧ t.msix = s.msix)))
        ∧ (x.st = .faulted → t.hostMem = s.hostMem
            ∧ t.qp? tn q = some { x with fetched := x.fetched.filter (fun z => z.seq != e.seq) })

/-! ## Gloes commands (13) -/

/-- R361, R371, R376, R379: what the commands that report write to their buffer and answer. R362: tenancies are bound
and unbound, queue pairs created and deleted. The model's own: log 28, 46, 66. -/
def Obligations.ReportingAndTenancies : Prop :=
  (∀ (r : CmdRef) (s0 s : State) (c : Cmd),
     let is (op : Nat) : Prop := s0.cmd? r (fun o => o == op) = some c ∧ s0.begin? c = some s
     let fits (named : Nat → Nat) (u0 u1 : Nat) : Prop := reserved71 c named = none ∧ ptrs73 c u0 u1 = none
     let n : Nat := c.le 16 4
     let start : Nat := c.le 8 8
     let damaged (i : Nat) : List Byte :=
       let b : List Byte := leBytes 8 i ++ zeros 8 ++ [0x02] ++ zeros 43
       b ++ leBytes 4 (crc32c b)
     (is 0x01 → fits (fun _ => 0) 1 0 → exec (.identify r) s0
         = .next ((s.replies c c.ptr0 (s.identity c)).ends c { status := 0, res0 := 256, res1 := s.part.serial.toNat, detail := 0 }))
     ∧ (s.identity c).length = 256
     ∧ (c.t < 16 → slice (s.identity c) 0 8 = [0x4C, 0x58, 0x37, 0x2D, 0x31, 0x32, 0x38, 0x2D]
         ∧ byteAt (s.identity c) 18 = BitVec.ofNat 8 s.fuses.lc.toNat ∧ byteAt (s.identity c) 28 = BitVec.ofNat 8 c.t
         ∧ byteAt (s.identity c) 29 = BitVec.ofNat 8 (s.tenancy c.t).devno.toNat)
     ∧ (is 0x53 → reserved71 c (namedBytes [(8, 1), (10, 2)]) = none → fn72 s c = none → ptrs73 c 1 0 = none →
         s.noFn c.fid = false → exec (.getConfig r) s0
         = .next ((s.replies c c.ptr0 ((paramsOf c.fid.1).flatMap (fun p =>
             leBytes 2 p.1 ++ zeros 6 ++ leBytes 8 (s.param c.fid p.1)))).ends c
           { status := 0, res0 := (paramsOf c.fid.1).length, res1 := 0, detail := if c.fid.1 = 0 then 0 else fcode (s.fst c.fid) }))
     ∧ (is 0x70 → s.heldPa logBase = false → fits (namedBytes [(8, 12)]) 1 0 → issuer72 s c = none → 1 ≤ n → n ≤ 65536 →
         let oldest : Nat := s.lseq - 16384
         let i0 : Nat := max start oldest
         let m : Nat := min n (s.lseq - i0)
         let a : Ans := { status := if start < oldest then 5 else 0, res0 := m, res1 := if m = 0 then s.lseq else i0 + m, detail := oldest - start }
         (m = 0 → exec (.readLog r) s0 = .next (s.ends c a))
         ∧ (m ≠ 0 → exec (.readLog r) s0 = .next ((s.replies c c.ptr0 ((List.range m).flatMap (fun i =>
             if BitVec.ofNat 64 (i0 + i) ∈ r.logBad then damaged (i0 + i) else s.rdN (sqPa 0 0x100000 + (i0 + i) % 16384 * 64) 64))).ends c a)))
     ∧ (is 0x41 → fits (namedBytes [(8, 12)]) 1 0 → mem76 s c = none → 1 ≤ n → n ≤ 65536 → (s.tenancy c.t).jret ≠ 0 →
         let l : List Retained := (((s.tenancy c.t).ring.filter (fun e => decide (start ≤ e.jseq.toNat))).takeWhile (fun e => e.jent.isSome)).take n
         ((s.tenancy c.t).oldest ≤ start → l = [] → exec (.readJournal r) s0
             = .next (s.ends c { status := 0, res0 := 0, res1 := start, detail := 0 }))
         ∧ ((s.tenancy c.t).oldest ≤ start → l ≠ [] → exec (.readJournal r) s0
             = .next ((s.replies c c.ptr0 (l.flatMap retainedBytes)).ends c { status := 0, res0 := l.length, res1 := start + l.length, detail := 0 }))
         ∧ (start < (s.tenancy c.t).oldest → exec (.readJournal r) s0
             = .next (s.ends c { status := 0x3006, res0 := 0, res1 := (s.tenancy c.t).oldest, detail := 0 }))))
  ∧ (∀ (r : CmdRef) (s0 s : State) (c : Cmd),
       let is (op : Nat) : Prop := s0.cmd? r (fun o => o == op) = some c ∧ s0.begin? c = some s
       let b8 : Nat := c.le 8 1
       let x : Tenancy := s.tenancy c.t
       let f : FnId := ⟨Fin.ofNat 2 (c.le 9 1), Fin.ofNat 16 (c.le 10 1)⟩
       (is 0x02 → reserved71 c (namedBytes [(8, 3)]) = none → issuer72 s c = none → ptrs73 c 0 0 = none → b8 ≤ 15 → c.le 9 1 ≤ 1 →
           c.le 10 1 ≤ 15 → (s.tenancy b8).bound = none → s.tenOf f = none → s.heldFn c (1, b8) = false → (s.fuses.lc ≠ 3 ∨ b8 = 0) → s.qpTotal < 256 →
           exec (.tenancyBind r) s0 = .next ((s.setTenancy b8
             { bound := some f, st := .stopped, devno := 0, dirQuota := 0, pinQuota := 0, qpQuota := 1, vecCount := 1
               jret := (s.tenancy b8).jret, jseq := (s.tenancy b8).jseq, ring := (s.tenancy b8).ring, qps := [(0, QPair.reset)]
               pend := [], restart := false, ghosts := (s.tenancy b8).ghosts }).ends c (Ans.of 0)))
       ∧ (is 0x03 → (c.e.prog = .none ∨ ∃ n, c.e.prog = .queued n) → reserved71 c (fun i => if i = 8 then 255 else if i = 9 then 1 else 0) = none →
           issuer72 s c = none → ptrs73 c 0 0 = none → b8 ≤ 15 → (s.tenancy b8).bound ≠ none → b8 ≠ c.t → s.heldFn c (1, b8) = false →
           ((s.tenancy b8).st ≠ .stopped → exec (.tenancyUnbind r) s0 = .next (s.ends c (Ans.of 0x2001)))
           ∧ ((s.tenancy b8).st = .stopped → bit (c.le 9 1) 0 = false → exec (.tenancyUnbind r) s0 = .next ((s.setTenancy b8
               { Tenancy.reset with jret := (s.tenancy b8).jret, jseq := (s.tenancy b8).jseq, ring := (s.tenancy b8).ring
                                    ghosts := (s.tenancy b8).ghosts }).ends c (Ans.of 0)))
           ∧ ((s.tenancy b8).st = .stopped → bit (c.le 9 1) 0 = true → s.dirUsed b8 = 0 →
               exec (.tenancyUnbind r) s0 = .next ((s.setTenancy b8 { Tenancy.reset with ghosts := (s.tenancy b8).ghosts }).ends c (Ans.of 0))))
       ∧ (is 0x04 → reserved71 c (namedBytes [(8, 3), (12, 2)]) = none → ptrs73 c 1 1 4096 = none → b8 ≠ 0 → c.le 9 1 ≤ 12 → c.le 10 1 ≤ 12 →
           c.le 12 2 < x.vecCount → s.qp? c.t b8 = none → x.qps.length < x.qpQuota → s.qpTotal < 256 → ∃ (t : State) (y : QPair), exec (.qpCreate r) s0 = .next (t.ends c (Ans.of 0))
             ∧ t = s.setQp c.t b8 y ∧ y.st = .stopped ∧ y.sqDepth = 2 ^ (c.le 9 1 + 4) ∧ y.cqDepth = 2 ^ (c.le 10 1 + 4)
             ∧ y.vec = c.le 12 2 % 2048 ∧ y.sqbase.toNat = c.ptr0 ∧ y.cqbase.toNat = c.ptr1 ∧ y.sqtail = 0 ∧ y.sqhead = 0 ∧ y.cqint = 0
             ∧ y.qwt = 16)
       ∧ (is 0x05 → reserved71 c (namedBytes [(8, 1)]) = none → ptrs73 c 0 0 = none → b8 ≠ 0 → s.qp? c.t b8 ≠ none →
           s.heldFn c (2, c.t * 256 + b8) = false →
           (s.fst (2, c.t * 256 + b8) = .stopped → exec (.qpDelete r) s0 = .next ((s.setTenancy c.t { x with qps := spDel x.qps b8 }).ends c (Ans.of 0)))
           ∧ (s.fst (2, c.t * 256 + b8) ≠ .stopped → exec (.qpDelete r) s0 = .next (s.ends c (Ans.of 0x2001)))))

/-- R363 to R365, R253, R254, R355, R442, R380, R448 to R450: programs, Arcade images, extensions, the life cycle. The
model's own: log 11, 13, 59, 63, 107. -/
def Obligations.LoadingCommands : Prop :=
  ∀ (r : CmdRef) (s0 s : State) (c : Cmd),
    let is (op : Nat) : Prop := s0.cmd? r (fun o => o == op) = some c ∧ s0.begin? c = some s
    let len : Nat := c.le 12 4
    (is 0x10 → reserved71 c (fun i => if i = 10 then 1 else namedBytes [(8, 2), (12, 8)] i) = none → issuer72 s c = none → ptrs73 c 1 0 = none →
        c.le 8 2 ≠ 0 → 16 ≤ len → len ≤ 262144 → len % 16 = 0 → s.fuses.lc ≠ 3 → c.readFails = false →
        (∀ g < 16, bit (c.le 8 2) g = true → s.heldFn c (3, g) = false ∧ (s.street g).st = .stopped) →
        (c.le 16 4 ≠ crc32c (s.hostRd c.ptr0 len) → exec (.loadProgram r) s0 = .next (s.ends c (Ans.of 0x4001)))
        ∧ (c.le 16 4 = crc32c (s.hostRd c.ptr0 len) → exec (.loadProgram r) s0
            = .next ((((List.range 16).filter (fun g => bit (c.le 8 2) g)).foldl (State.loadStreet (s.hostRd c.ptr0 len) (bit (c.le 10 1) 0)) s).ends c
                { Ans.of 0 with res0 := ((List.range 16).filter (fun g => bit (c.le 8 2) g)).length })))
    ∧ (is 0x11 → reserved71 c (namedBytes [(8, 2), (12, 4)]) = none → issuer72 s c = none → ptrs73 c 1 1 = none → 1 ≤ c.le 8 2 → c.le 8 2 ≤ 1024 →
        c.readFails = false → c.le 12 4 = crc32c (s.hostRd c.ptr0 (4 * c.le 8 2) ++ s.hostRd c.ptr1 128) →
        let img : List W32 := (List.range (c.le 8 2)).map (fun i => BitVec.ofNat 32 (leAt (s.hostRd c.ptr0 (4 * c.le 8 2)) (4 * i) 4))
        let es : List W64 := (List.range 16).map (fun i => BitVec.ofNat 64 (leAt (s.hostRd c.ptr1 128) (8 * i) 8))
        (loaderFails img es = none → exec (.stageArcade r) s0 = .next ({ s with staged := some (stagedOf img es) }.ends c (Ans.of 0)))
        ∧ (∀ x, loaderFails img es = some x → exec (.stageArcade r) s0
            = .next (s.ends c { Ans.of 0x100F with detail := x.1 + x.2.1 * 256 + x.2.2 * 65536 })))
    ∧ (is 0x12 → reserved71 c (fun _ => 0) = none → issuer72 s c = none → ptrs73 c 0 0 = none → (∀ g < 16, s.heldFn c (3, g) = false) →
        (s.staged = none → exec (.installArcade r) s0 = .next (s.ends c (Ans.of 0x2005)))
        ∧ (∀ a, s.staged = some a → (∀ g < 16, (s.street g).st = .stopped) → exec (.installArcade r) s0
            = .next ({ s with arcade := s.arcade.install a, arcgen := s.arcgen + 1 }.ends c { Ans.of 0 with res0 := (s.arcgen + 1).toNat }))
        ∧ (∀ (a : Arcade) (i : Nat), (s.arcade.install a).entries = a.entries ∧ (i ∉ a.words.map (fun w => w.1) →
            spGet? (s.arcade.install a).words i = spGet? s.arcade.words i))
        ∧ (∀ a, s.staged = some a → (∃ g < 16, (s.street g).st ≠ .stopped) → exec (.installArcade r) s0 = .next (s.ends c (Ans.of 0x2001))))
    ∧ (∀ chash sig : Bool, is 0x13 → reserved71 c (namedBytes [(12, 4)]) = none → issuer72 s c = none → ptrs73 c 1 0 = none → 64 ≤ len → len ≤ 1048576 →
        (s.fuses.lc = 1 ∨ s.fuses.lc = 2) → c.readFails = false →
        ((extForm (s.hostRd c.ptr0 512) len && chash && sig) = false → exec (.loadExtension r chash sig) s0 = .next (s.ends c (Ans.of 0x4005)))
        ∧ ((extForm (s.hostRd c.ptr0 512) len && chash && sig) = true → ∀ m, extAccept s.extensions (extOf (s.hostRd c.ptr0 512)) = .ok m →
            exec (.loadExtension r chash sig) s0 = .next ({ s with extensions := m }.ends c (Ans.of 0))))
    ∧ (∀ ans : ExtAnswer, s0.cmd? r (fun o => decide (0xC0 ≤ o) && decide (o < 0xE0)) = some c → s0.begin? c = some s →
        (s.claims c.e.opcode = none → exec (.extensionOpcode r ans) s0 = .next (s.ends c (Ans.of 0x1001)))
        ∧ (s.claims c.e.opcode ≠ none → ans.status.toNat ∈ statusCodes → exec (.extensionOpcode r ans) s0
          = .next (s.ends c { status := ans.status.toNat, res0 := ans.res0.toNat, res1 := ans.res1.toNat, detail := ans.detail.toNat })))
    ∧ (∀ sig : Bool, let tg : Nat := c.le 8 1
        is 0x80 → reserved71 c (namedBytes [(8, 1), (12, 4)]) = none → issuer72 s c = none → ptrs73 c 1 0 = none → 1 ≤ tg → tg ≤ 3 → len = 512 →
        (∀ i < 16, s.heldFn c (3, i) = false ∧ s.heldFn c (1, i) = false) →
        (lcPermits s.fuses tg = false → exec (.lcChange r sig) s0 = .next (s.ends c (Ans.of 0x2004)))
        ∧ (lcPermits s.fuses tg = true → (∀ g < 16, (s.street g).st = .stopped) →
            (∀ p ∈ s.tenancies, p.1 = c.t ∨ p.2.bound = none ∨ p.2.st = .stopped) → c.readFails = false →
            lcForm s (s.hostRd c.ptr0 512) tg = true → sig = true → ∃ t : State, exec (.lcChange r sig) s0 = .next (t.ends c { Ans.of 0 with res0 := tg })
              ∧ t.fuses.lc.toNat = tg ∧ t.fuses.floor = s.fuses.floor ∧ t.kerb.empty = true ∧ t.kerb.keyok = false ∧ t.kerb.image = none
              ∧ t.fuses.lccount.toNat = min 31 (s.fuses.lccount.toNat + 1)
              ∧ t.fuses.ownerBanks = s.fuses.ownerBanks + (if tg = 1 ∧ s.fuses.lc.toNat < 2 then 1 else 0)
              ∧ (∀ i < 0x200000, memRd t.mem (sqPa 0 0x600000 + i) = 0)))
    ∧ (∀ (f : Fuses) (tg : Nat), lcPermits f tg = true ↔
        ((f.lc = 0 ∧ (tg = 1 ∨ tg = 3)) ∨ f.lc = 1 ∨ (f.lc = 2 ∧ (tg = 1 ∨ tg = 3))) ∧ (f.lccount = 31 → tg = 3)
          ∧ (tg = 1 → f.lc = 0 ∨ f.lc = 1 → f.ownerBanks < 8))

/-- R330, R372 to R377, R402, R446, R523: STOP and START of functions, with their answers; settings, which take effect
at once or wait for START. The model's own: log 61, 62, 74. -/
def Obligations.FunctionCommands : Prop :=
  ∀ (r : CmdRef) (k : StartFacts) (s0 s : State) (c : Cmd),
    let is (op : Nat) : Prop := s0.cmd? r (fun o => o == op) = some c ∧ s0.begin? c = some s
      ∧ (c.e.prog = .none ∨ ∃ n, c.e.prog = .queued n)
    let f : Fid := c.fid
    let named : Prop := reserved71 c (namedBytes [(8, 1), (10, 2)]) = none ∧ fn72 s c = none ∧ ptrs73 c 0 0 = none ∧ f.1 ≠ 0 ∧ s.noFn f = false
    (is 0x50 → named → stop75 s c = none → s.heldFn c f = false →
        (s.fst f = .stopped → exec (.stopFn r) s0 = .next (s.ends c (Ans.of 1)))
        ∧ (s.fst f = .running → (f.1 = 5 → s.portInUse = false) → (f.1 = 8 → s.linkInUse f.2 = false) → (s.stopFunction f).fst f = .stopped →
            exec (.stopFn r) s0 = .next ((s.stopFunction f).ends c { Ans.of 0 with res0 := 1 }))
        ∧ (s.fst f = .running → f.1 ≠ 5 → f.1 ≠ 8 → (s.stopFunction f).fst f ≠ .stopped →
            exec (.stopFn r) s0 = .next ((s.stopFunction f).progress c (.wait 1)))
        ∧ (s.fst f = .faulted → (s.stopFunction f).fst f = .stopped →
            exec (.stopFn r) s0 = .next ((s.stopFunction f).ends c { Ans.of 0 with res0 := 3 }))
        ∧ (s.fst f = .running → (f.1 = 5 ∧ s.portInUse = true ∨ f.1 = 8 ∧ s.linkInUse f.2 = true) →
            exec (.stopFn r) s0 = .next (s.ends c (Ans.of 0x2003))))
    ∧ (∀ w : W32, s0.cmd? r (fun o => o == 0x50) = some c → s0.begin? c = some s → c.e.prog = .wait w → w ≠ 2 → (s.stopFunction f).fst f = .stopped →
        exec (.stopFn r) s0 = .next ((s.stopFunction f).ends c { Ans.of 0 with res0 := w.toNat }))
    ∧ (is 0x52 → named → s.absent f = false →
        (s.heldFn c f = true → c.e.prog = .none → exec (.startFn r k) s0
            = .next ({ s.progress c (.queued s.nextTurn) with nextTurn := s.nextTurn + 1 }))
        ∧ (s.heldFn c f = false → s.fuses.lc ≠ 3 → (f.1 = 1 ∨ f.1 = 2 ∨ f.1 = 3) → s.memStopped = true →
            exec (.startFn r k) s0 = .next (s.ends c (Ans.of 0x2007)))
        ∧ (s.fst f = .running → s.heldFn c f = false → s.fuses.lc ≠ 3 → (f.1 ≤ 3 → s.memStopped = false) →
            exec (.startFn r k) s0 = .next (s.ends c { Ans.of 1 with res0 := 1 }))
        ∧ (s.fst f = .faulted → s.heldFn c f = false → s.fuses.lc ≠ 3 → (f.1 ≤ 3 → s.memStopped = false) → exec (.startFn r k) s0 = .next (s.ends c (Ans.of 0x2001)))
        ∧ (s.fst f = .stopped → s.heldFn c f = false → s.fuses.lc ≠ 3 → (f.1 ≤ 3 → s.memStopped = false) → s.parentSt f = .running → f.1 ≠ 4 →
            exec (.startFn r k) s0 = .next ((s.startFunction f k).1.ends c { Ans.of (s.startFunction f k).2.1 with detail := (s.startFunction f k).2.2 }))
        ∧ (s.fst f = .stopped → s.heldFn c f = false → s.fuses.lc ≠ 3 → (f.1 ≤ 3 → s.memStopped = false) → s.parentSt f = .stopped →
            exec (.startFn r k) s0 = .next ((s.markRestart f).ends c { Ans.of 1 with res0 := 0 })))
    ∧ (is 0x52 → named → f.1 = 4 → s.fst f = .stopped → s.heldFn c f = false → s.fuses.lc ≠ 3 →
        let x : Square := s.square f.2
        (x.newClock ≠ x.eclk → s.squareQuiet f.2 = false → exec (.startFn r k) s0 = .next (s.progress c (.wait 1)))
        ∧ (x.newClock ≠ x.eclk → s.squareQuiet f.2 = true → exec (.startFn r k) s0
            = .next ((s.setSquare f.2 { x with eclk := x.newClock, relock := some x.eclk, pend := [] }).progress c (.wait 0)))
        ∧ (x.newClock = x.eclk → x.bringUp = true → k.ok = false → exec (.startFn r k) s0
            = .next ((s.setSquare f.2 { x with st := .faulted, pend := [] }).ends c (Ans.of 0x8001)))
        ∧ (x.newClock = x.eclk → x.bringUp = false → exec (.startFn r k) s0
            = .next (((s.setSquare f.2 { x with pend := [], bringUp := false }).squareUp f.2 k).ends c (Ans.of 0))))
    ∧ (is 0x51 →
        let n : Nat := c.le 12 2
        let one : Bool := n == 1 && c.ptr0 == 0
        let l : List Byte := if one then slice c.e.bytes 16 16 else s.hostRd c.ptr0 (16 * n)
        let ps : List PendSet := settingsOf l n
        reserved71 c (namedBytes (if one then [(8, 1), (10, 4), (16, 16)] else [(8, 1), (10, 4)])) = none → fn72 s c = none →
        ptrs73 c (if one then 0 else 1) 0 = none → s.noFn f = false → 1 ≤ n → n ≤ 64 → (one = true ∨ c.readFails = false) →
        (c.fn = s.mgmtFn ∨ ∀ p ∈ ps, p.pid ≠ 0x201) → f ≠ (2, c.t * 256) → s.heldFn c f = false →
        s.judge f l (if one then 16 else 0) n n (s.placeCfg.heatTile, s.placeCfg.heatSq) = none →
          (set76 s f ps = none → exec (.setConfig r) s0 = .next ((s.settings f ps).ends c (Ans.of 0)))
          ∧ (∀ a, set76 s f ps = some a → exec (.setConfig r) s0 = .next (s.ends c a)))
    ∧ (∀ (g : Nat) (p : PendSet) (v : W64), p = { pid := 0x301, value := v } → (s.street g).pend = [] →
        s.settings (3, g) [p] = s.setStreet g { s.street g with pend := [p] }
          ∧ (v = 1 → (s.street g).evacDue = false → (s.street g).testFirst = false → (s.street g).loaded = false →
              ((s.settings (3, g) [p]).startStreet g k).1.street g = { s.street g with st := .running, loaded := false, testFirst := false, pwe := true, pend := [] }))
    ∧ (∀ g : Nat, g < 16 → (s.street g).st = .running → ∃ t : State, t = s.stopStreet g
        ∧ ((t.street g).st = .stopped ↔ s.streetEmpty g = true) ∧ ((t.street g).st = .draining ↔ s.streetEmpty g = false)
        ∧ spGet 0 t.raised (300 + g) = spGet 0 s.raised (300 + g) + 1)
    ∧ (∀ q : Nat, (s.stopGroup q).square q = { s.square q with group := .stopped, timers := (s.square q).timers.map (fun t => (t.1, { count := 0, period := t.2.period })) })

/-- R31, R444: a square whose clock was set serves its Crossings again once its PLL locks; a PLL that does not lock
leaves the earlier frequency and a FAULTED square, and a loss of lock a FAULTED square. R378, R474, R475, R491, R467,
R320: SELFTEST of a STOPPED street or of a port, CALIBRATE and LINK_TEST. The model's own: log 12, 57, 58, 108, 118,
119. -/
def Obligations.ClocksAndTests : Prop :=
  (∀ (sq : Fin 4) (s : State),
     let x : Square := s.square sq.val
     (∀ old, x.relock = some old →
       exec (.squarePllLock sq) s = .next (s.setSquare sq.val { x with relock := none })
       ∧ exec (.pllLockTimeout sq true) s = .next (s.setSquare sq.val { x with relock := none, eclk := old, st := .faulted })
       ∧ (s.fatal = false → ∃ t : State, exec (.pllLockTimeout sq false) s = .next t ∧ t.fatal = true ∧ (t.square sq.val).eclk = old
           ∧ (t.square sq.val).st = .faulted))
     ∧ (x.relock = none → exec (.squarePllLock sq) s = .next s ∧ exec (.pllLockTimeout sq true) s = .next s)
     ∧ (x.st = .running ∨ x.st = .draining → exec (.pllLockLoss sq) s = .next (s.setSquare sq.val { x with st := .faulted }))
     ∧ (x.st = .stopped ∨ x.st = .faulted → exec (.pllLockLoss sq) s = .next s)
     ∧ (∀ (n : Fin 128) (old : Nat), n.val / 32 = sq.val → x.relock = some old → s.runs (.eng n) = false))
  ∧ (∀ (r : CmdRef) (k : TestFacts) (lanes : List LaneResult) (s0 s : State) (c : Cmd),
       let is (op : Nat) : Prop := s0.cmd? r (fun o => o == op) = some c ∧ s0.begin? c = some s
         ∧ (c.e.prog = .none ∨ ∃ n, c.e.prog = .queued n)
       let f : Fid := c.fid
       let a : Ans := { status := if k.ok then 0 else 0x8002, res0 := k.units.toNat, res1 := k.micros.toNat, detail := if k.ok then 0 else k.detail.toNat }
       (is 0x60 → reserved71 c (namedBytes [(8, 1), (10, 3)]) = none → issuer72 s c = none → ptrs73 c 0 0 = none → s.noFn f = false → c.le 12 1 ≤ 1 →
           s.heldFn c f = false →
           (f.1 = 3 → s.fst f = .stopped → k.ok = true → exec (.selftest r k) s0 = .next (s.ends c a))
           ∧ (f.1 = 3 → s.fst f = .stopped → k.ok = false → exec (.selftest r k) s0
               = .next ((s.setStreet f.2 { s.street f.2 with st := .faulted, evac := false }).nextEvac.ends c a))
           ∧ (f.1 = 3 → s.fst f = .running → (∀ g < 16, (s.street g).evac = false) → exec (.selftest r k) s0 = .next
               (((s.setStreet f.2 { s.street f.2 with st := .draining, evac := true, evacDue := false }).raise (300 + f.2)).progress c (.wait 0)))
           ∧ (f.1 = 3 → s.fst f = .running → (s.street f.2).evac = false → (∃ g < 16, (s.street g).evac = true) → exec (.selftest r k) s0 = .next
               ((s.setStreet f.2 { s.street f.2 with evacDue := true }).progress c (.wait 0)))
           ∧ (f.1 = 3 ∨ f.1 = 4 → s.fst f = .faulted → exec (.selftest r k) s0 = .next (s.ends c (Ans.of 0x2006)))
           ∧ (f.1 = 5 → c.le 12 1 = 0 → k.ok = true → exec (.selftest r k) s0 = .next ((s.calibrated true f.2).ends c a))
           ∧ (f.1 = 5 → c.le 12 1 = 1 → s.fst f ≠ .stopped → exec (.selftest r k) s0 = .next (s.ends c (Ans.of 0x2001))))
       ∧ (is 0x61 → reserved71 c (namedBytes [(8, 1), (10, 2)]) = none → issuer72 s c = none → ptrs73 c 0 0 = none → s.noFn f = false →
           s.heldFn c f = false → f.1 = 5 → s.fst f ≠ .faulted →
           (k.ok = true → exec (.calibrate r k) s0 = .next ((s.calibrated false f.2).ends c { Ans.of 0 with res0 := s.calLanes [f.2] }))
           ∧ (k.ok = false → exec (.calibrate r k) s0 = .next ((s.portFails f.2 5).ends c { a with res1 := 0 })))
       ∧ (is 0x62 → f.1 = 5 → reserved71 c (linkNamed false) = none → issuer72 s c = none → ptrs73 c 1 0 = none → s.noFn f = false →
           (c.le 12 1 = 8 ∨ c.le 12 1 = 9) → 1 ≤ c.le 24 4 → c.le 24 4 ≤ 10000000 → s.heldFn c f = false → s.fst f = .stopped →
           ((s.memPort f.2).pg.pgctl.getLsbD 4 && (s.memPort f.2).pg.byMgmt) = false →
           let ls : List LaneResult := (testLanes false (c.le 16 8)).map (laneOf lanes)
           exec (.linkTest r lanes) s0 = .next
             (((s.setMemPort f.2 { s.memPort f.2 with pg := pgTested false (s.memPort f.2).pg (c.le 12 1) (c.le 28 5) ls }).replies c c.ptr0
               (ls.flatMap (fun x => leBytes 2 x.lane.toNat ++ leBytes 1 x.lock.toNat ++ zeros 1 ++ leBytes 4 x.errors.toNat))).ends c
               { Ans.of 0 with res0 := (ls.filter (fun x => !x.lock || x.errors != 0)).length }))
       ∧ (∀ (p : Nat) (u : Fin 2) (live : Bool), let y : Calib := ((s.calibrated live p).memPort p).cal.get u
           let x : Calib := (s.memPort p).cal.get u
           x.dfail = false → x.spared = 0x7F → x.again = false → (live = false ∨ x.passing = false) →
             y.passes = min (x.passes + 1) 0xFFFF ∧ y.lane = 0x7F ∧ y.detour = false
             ∧ (y.tlast = (s.memPort p).temp0 ∨ y.tlast = (s.memPort p).temp1)))

/-- R366 to R368, R318, R319, R323, Table 11-12: records are defined, hinted, removed and queried, and their flags
cleared. The model's own: log 9, 109, 110, 111. -/
def Obligations.RecordCommands : Prop :=
  ∀ (r : CmdRef) (s0 s : State) (c : Cmd),
    let is (op : Nat) : Prop := s0.cmd? r (fun o => o == op) = some c ∧ s0.begin? c = some s ∧ c.e.prog = .none
      ∧ c.dirBad = [] ∧ s.sliceHeld c.key = false
    let key : RecKey := c.key
    let up : Prop := mem76 s c = none
    (∀ (p : Place) (i : Nat), is 0x20 → reserved71 c (fun i => if i = 17 then 3 else namedBytes [(8, 9), (18, 6)] i) = none → ptrs73 c 2 0 = none →
        up → s.fuses.lc ≠ 3 → s.dirFind key = none → s.dirUsed c.t < (s.tenancy c.t).dirQuota → s.dirFree key = some i →
        let len : Nat := (c.le 16 1 + 1) * 16
        let pin : Bool := bit (c.le 17 1) 0
        let cold : Bool := bit (c.le 17 1) 1
        let group : W16 := BitVec.ofNat 16 (c.le 18 2)
        (if c.ptr0 = 0 then c.le 20 4 = 0 else c.readFails = false ∧ c.le 20 4 = crc32c (s.hostRd c.ptr0 len)) →
        hints78 s c.t none len pin cold group = none →
        (s.defineOk c p = true → (p.cls = 2 → s.laidOut) → ∃ (t : State) (d : DirEnt),
          exec (.defineRecord r p) s0 = .next (t.ends c (Ans.of 0)) ∧ spGet? t.dir i = some d ∧ d.key = key ∧ d.st = .settled ∧ d.pin = pin
            ∧ d.cold = cold ∧ d.group = group ∧ d.rseq = 0 ∧ d.heat = 0 ∧ d.home = p.home ∧ d.cls = p.cls ∧ d.loc = p.loc ∧ d.len = len
            ∧ d.doubt = false ∧ d.lost = false ∧ (d.pinwait = true ↔ pin = true ∧ p.cls = 1) ∧ (∀ j, j ≠ i → spGet? t.dir j = spGet? s.dir j))
        ∧ (s.anyPlace key len pin cold (s.groupHomes c.t group) = false →
            s.defineOk c p = false → exec (.defineRecord r p) s0 = .next (s.ends c (Ans.of 0x3007)))
        ∧ (s.anyPlace key len pin cold (s.groupHomes c.t group) = true → s.defineOk c p = false → exec (.defineRecord r p) s0 = .next s0))
    ∧ (is 0x22 → reserved71 c (fun i => if i = 16 then 3 else namedBytes [(8, 8), (18, 2)] i) = none → ptrs73 c 0 0 = none → up →
        ∀ d : DirEnt, s.target c = some d →
        let pin : Bool := bit (c.le 16 1) 0
        let cold : Bool := bit (c.le 16 1) 1
        let group : W16 := BitVec.ofNat 16 (c.le 18 2)
        (hints78 s c.t (some d) d.len pin cold group = none → exec (.setHints r) s0 = .next ((s.dirSet key (fun d =>
            { d with pin := pin, cold := cold, group := group, pinwait := d.pinwait && pin })).ends c (Ans.of 0)))
        ∧ (∀ a, hints78 s c.t (some d) d.len pin cold group = some a → exec (.setHints r) s0 = .next (s.ends c a)))
    ∧ (is 0x23 → reserved71 c (fun i => if i = 16 then 1 else namedBytes [(8, 8), (20, 4)] i) = none → up → ∀ d : DirEnt, s.target c = some d →
        (bit (c.le 16 1) 0 = false → ptrs73 c 0 0 = none → d.lost = false →
            exec (.clearFlags r) s0 = .next ((s.dirSet key (fun d => { d with doubt := false })).ends c (Ans.of 0)))
        ∧ (bit (c.le 16 1) 0 = false → ptrs73 c 0 0 = none → d.lost = true → exec (.clearFlags r) s0 = .next (s.ends c (Ans.of 0x4004)))
        ∧ (bit (c.le 16 1) 0 = true → ptrs73 c 1 0 = none → c.readFails = false → c.le 20 4 = crc32c (s.hostRd c.ptr0 d.len) →
            exec (.clearFlags r) s0 = .next ((s.progress c (.ordered d.rseq)).replace c d.rseq)))
    ∧ (is 0x21 → reserved71 c (namedBytes [(8, 8)]) = none → ptrs73 c 2 0 = none → up → ∀ d : DirEnt, s.target c = some d →
        (d.st ≠ .settled → exec (.removeRecord r) s0 = .next (s.progress c (.wait 0)))
        ∧ (d.st = .settled → exec (.removeRecord r) s0
            = .next (((s.dirSet key (fun d => { d with st := .removing, moveix := 0 })).progress c .removing).removeGo c)))
    ∧ (∀ (i : Nat) (d : DirEnt), s.dirFind key = some (i, d) → d.st = .removing → s.fwdOf key = [] → (∀ v ∈ s.deliveries, v.key ≠ key) →
        s.orders key = [] → s.heldPa d.loc.toNat = false → c.recBad = false →
        (s.removeGo c = ({ (if c.ptr0 = 0 ∨ d.lost = true then s else s.replies c c.ptr0 (s.rdN d.loc.toNat d.len)) with dir := spDel s.dir i }.release d.key d.place).ends c
          { Ans.of (if d.lost then 0x4004 else 0) with res0 := d.rseq.toNat }))
    ∧ (is 0x40 → reserved71 c (namedBytes [(8, 12)]) = none → ptrs73 c 1 0 = none → 16 ≤ c.le 16 4 → c.le 16 4 ≤ 4096 → up →
        ∀ d : DirEnt, s.target c = some d →
        (d.lost = true → exec (.queryRecord r) s0 = .next (s.ends c { Ans.of 0x4004 with res1 := queryRes1 d d.rseq }))
        ∧ (d.lost = false → c.le 16 4 < d.len → exec (.queryRecord r) s0 = .next (s.ends c { Ans.of 0x3008 with res0 := d.len }))
        ∧ (d.lost = false → d.len ≤ c.le 16 4 → exec (.queryRecord r) s0 = .next ((s.progress c (.ordered d.rseq)).queryGo c d.rseq)))
    ∧ (∀ (i : Nat) (d : DirEnt) (o : W16), s.dirFind key = some (i, d) → d.lost = false → c.recBad = false → s.heldPa d.loc.toNat = false → s.applied key o = true →
        s.queryGo c o = ((s.replies c c.ptr0 (s.rdN d.loc.toNat d.len)).ends c
          { status := 0, res0 := d.len, res1 := queryRes1 d o, detail := crc32c (s.rdN d.loc.toNat d.len) }).flow key)

/-- R345 to R350, R300, R311, R315, R316, R369: a posting batch that starts, a segment, the LINK, and the acceptance
of one posting: RSEQ and JSEQ advance, HEAT counts, the posting is delivered or held; a refused one is answered in the
journal at once. R485: a host read that times out ends a batch with HOST_BUFFER_FAULT. The model's own: log 43, 65,
123. -/
def Obligations.Postings : Prop :=
  ∀ (r : CmdRef) (hw : List HostStore) (s0 : State) (c : Cmd),
    let s : State := s0.hostStores hw
    let is : Prop := s.cmd? r (fun o => o == 0x30) = some c
    (is → c.e.prog = .none → s.batchTurn c = false → exec (.postBatch r hw) s0 = .next s)
    ∧ (is → c.e.prog = .none → s.batchTurn c = true → reserved71 c (fun i => if i = 8 then 1 else 0) = none →
        ptrs73 c 1 0 = none → s.fuses.lc ≠ 3 → mem76 s c = none →
        (bit (c.le 8 1) 0 = false → exec (.postBatch r hw) s0 = .next (s.segment c c.ptr0 0 0 0 none))
        ∧ (bit (c.le 8 1) 0 = true → (s.qp? c.t c.q).bind (fun x => x.parked) = some (BitVec.ofNat 64 c.ptr0) → c.readFails = false →
            exec (.postBatch r hw) s0 = .next (s.link c c.ptr0 0 0 0))
        ∧ (bit (c.le 8 1) 0 = true → (s.qp? c.t c.q).bind (fun x => x.parked) ≠ some (BitVec.ofNat 64 c.ptr0) →
            exec (.postBatch r hw) s0 = .next ((s.progress c (.ended 0 0x1007 0 0)).finish c.t c.q)))
    ∧ (∀ (seg : W64) (m i n : Nat) (hdr : Option (Nat × Nat)), is → c.e.prog = .batch seg m i n hdr →
        exec (.postBatch r hw) s0 = .next (s.segment c seg.toNat m i n hdr))
    ∧ (∀ seg m i n : Nat, c.readFails = false → let h : List Byte := s.hostRd seg 64
        (leAt h 60 4 ≠ crc32c (leBytes 8 seg ++ slice h 8 52) →
          s.segment c seg m i n none = (s.sealFailed c.t).chainEnds c n 0x4001 seg m none)
        ∧ (headerBad seg h = none → s.segment c seg m i n none = s.segmentGo c seg m i n 1 (leAt h 8 2, leAt h 16 8)))
    ∧ (∀ (ja : Nat) (b : List Byte) (x : QPair), s.qp? c.t c.q = some x → x.qwt * 16 ≤ x.share → s.othersWork c.t c.q = true →
        State.posting c ja b s = .error .wait)
    ∧ (∀ (ja : Nat) (b : List Byte) (x : QPair), s.qp? c.t c.q = some x → x.share < x.qwt * 16 → s.sliceHeld (postingKey c.t b) = false →
        c.dirBad = [] → s.overfills c.t b = none →
        State.posting c ja b s = .ok ((s.shared c.t c.q (s.accepts c.t b).toNat).post c.t c.q c.e.seq (c.le 4 2) ja b))
    ∧ (∀ (seg : W64) (m i n : Nat) (e : Fetched), r.readsOk = 0 → s.cmd? { r with readFails := true } (fun o => o == 0x30) = some c → s.opOf r = some e → e.opcode = 0x30 →
        c.e.prog = .batch seg m i n none → exec (.hostReadTimeout r) s = .next (s.chainEnds c n 0x1009 seg.toNat m none))
    ∧ (∀ (seg m n k : Nat), c.readFails = false → let v : Nat := leNat (s.hostRd seg 8)
        (bits v 2 4 = 0 → bits v 0 2 = 3 → s.link c seg m n k = s.chainEnds c n 0 seg 0 none)
        ∧ (bits v 2 4 = 0 → bits v 0 2 = 1 → s.link c seg m n k = s.chainEnds c n 2 seg 0 (some (BitVec.ofNat 64 seg)))
        ∧ (bits v 2 4 = 0 → bits v 0 2 = 0 → s.link c seg m n k = s.progress c (.batch (BitVec.ofNat 64 (v / 64 * 64)) (m + 1) 0 n none))
        ∧ (bits v 2 4 ≠ 0 ∨ bits v 0 2 = 2 → s.link c seg m n k = s.chainEnds c n 0x1006 seg m none))
    ∧ (∀ (t q seq tag ja : Nat) (b : List Byte) (d : DirEnt), t < 16 → leAt b 12 4 = crc32c (b.take 12 ++ b.drop 16) →
        allZero (slice b 8 4) = true → s.lookup (postingKey t b) = .ok d →
        d.st = .settled → s.fwdOf d.key = [] → s.passes d.key d.rseq = true →
        let u : State := s.post t q seq tag ja b
        u.nextHandle = s.nextHandle + 1 ∧ (u.tenancy t).jseq = (s.tenancy t).jseq + 1 ∧ u.fwdq = s.fwdq
          ∧ (∃ v, u.deliveries = s.deliveries ++ [v] ∧ v.home = d.home ∧ v.key = postingKey t b
              ∧ ∃ p, v.post = some p ∧ p.rseq = d.rseq ∧ p.body = b.drop 16)
          ∧ (u.core (.eng d.home)).lbox.waiting = (s.core (.eng d.home)).lbox.waiting ++
              [slotBytes 1 d false false (s.nextHandle % 2 ^ 32) d.rseq.toNat (b.drop 16)]
          ∧ (∃ i e, s.dirFind (postingKey t b) = some (i, d) ∧ spGet? u.dir i = some e ∧ e.rseq = d.rseq + 1 ∧ e.epoch = s.heatNow
              ∧ e.heat.toNat = min 0xFFFF (d.heat.toNat / 2 ^ (s.heatNow - d.epoch).toNat + 1)))
    ∧ (∀ (t q seq tag ja : Nat) (b : List Byte) (st : Nat), leAt b 12 4 = crc32c (b.take 12 ++ b.drop 16) → allZero (slice b 8 4) = true →
        s.lookup (postingKey t b) = .error st → ∀ x : QPair, s.qp? t q = some x → x.st ≠ .faulted →
        s.post t q seq tag ja b = (s.hostWr ja (journalBytes st 0 [])).setBatch { s.batch t q seq with bad := (s.batch t q seq).bad + 1 })

/-! ## Placement (11) -/

/-- R303, R304, R524: the firmware consumes the next return entry of an engine: zeros there free it; it answers the
posting with its HANDLE, ends a RELEASE, or is a protocol error. The model's own: log 48, 50, 112. -/
def Obligations.ReturnEntries : Prop :=
  ∀ (n : Fin 128) (s : State),
    let pa : Nat := sqPa (n.val / 32) (n.val % 32 * 0x800 + (s.core (.eng n)).retIx.val * 32)
    let l : List Byte := s.rdN pa 32
    let u : State := (s.wr pa 0).setCore (.eng n) { s.core (.eng n) with retIx := (s.core (.eng n)).retIx + 1 }
    let h : W32 := BitVec.ofNat 32 (beAt l 4 4)
    (s.rd pa = 0 → exec (.returnEntryConsume ⟨n, none⟩) s = .next s)
    ∧ (s.heldPa pa = true → ∀ e, exec (.returnEntryConsume ⟨n, e⟩) s = .next s)
    ∧ (s.rd pa ≠ 0 → s.heldPa pa = false → exec (.returnEntryConsume ⟨n, none⟩) s = .next (u.returned n l))
    ∧ (s.rd pa ≠ 0 → s.heldPa pa = false → ∃ t : State, exec (.returnEntryConsume ⟨n, some .seal⟩) s = .next t
        ∧ t.deliveries = s.deliveries ∧ t.dir = s.dir ∧ t.fwdq = s.fwdq ∧ t.mem = (s.wr pa 0).mem
        ∧ (t.core (.eng n)).retIx = (s.core (.eng n)).retIx + 1)
    ∧ (u.deliveries.find? (fun d => d.handle == h && d.home == n) = none →
        u.returned n l = u.report { sev := 1, hop := 0xF, code := 0x42, utype := 0, uidx := BitVec.ofNat 8 n.val, asp := 3, addr := 0
                                    synd := 0, ten := 0, task := 0, pc := 0 })
    ∧ (∀ (d : Delivery) (p : Posting), u.deliveries.find? (fun d => d.handle == h && d.home == n) = some d → d.post = some p →
        (∀ e : DirEnt, ∀ i, s.dirFind d.key = some (i, e) → e.lost = false) →
        (byteAt l 0 = 0x81 → u.returned n l = (u.answered h).answer p.ref 0 (beAt l 2 2) (slice l 8 24))
        ∧ (byteAt l 0 = 0x82 → u.returned n l = (u.answered h).answer p.ref 4 (beAt l 2 2) (slice l 8 24)))
    ∧ (∀ d : Delivery, u.deliveries.find? (fun d => d.handle == h && d.home == n) = some d → d.post = none → byteAt l 0 = 0x83 →
        ∀ m ∈ (u.returned n l).moves, m.key = d.key → m.released = true)

/-- R307, R472: the heat epoch counts modulo 2^16; a sweep halves the HEAT of every entry once for each epoch gone by,
and does nothing while a port of the interleave is STOPPED. R327: an entry that cannot be read puts every record of
its bucket in doubt and raises source 316 + s. R320, R322: an evacuation raises the street's source and drains it; the
street serves again, or is FAULTED, only once no record is homed on it and its Letterboxes and return entries are
empty. A withdrawn engine stays withdrawn and issues nothing. The model's own: log 9, 51, 126. -/
def Obligations.SweepsAndEvacuation : Prop :=
  (∀ s : State,
     exec .heatEpochExpiry s = .next { s with heatNow := s.heatNow + 1 }
     ∧ (s.memStopped = true → exec .directorySweep s = .next s)
     ∧ (s.memStopped = false → ∃ t : State, t = { s with dir := t.dir, free := s.free + 1 }
         ∧ exec .directorySweep s = .next ((Config.sweepMeets s.free).foldl (fun s b => s.badBucket b.toNat) t)
         ∧ ∀ i : Nat, (spGet? t.dir i).isSome = (spGet? s.dir i).isSome ∧ ∀ d e, spGet? s.dir i = some d → spGet? t.dir i = some e →
           e.heat.toNat = d.heat.toNat / 2 ^ (s.heatNow - d.epoch).toNat ∧ e.epoch = s.heatNow
             ∧ e = { d with heat := e.heat, epoch := e.epoch })
     ∧ (∀ b : Nat, let t : State := s.badBucket b
         Sparse.wf s.dir → spGet 0 t.raised (316 + b % 4) = spGet 0 s.raised (316 + b % 4) + 1
           ∧ ∀ (i : Nat) (d : DirEnt), spGet? s.dir i = some d → s.dirFind d.key = some (i, d) → i / 8 = b →
             spGet? t.dir i = some { d with doubt := true }))
  ∧ (∀ (g : Fin 16) (s : State),
       let x : Street := s.street g.val
       (x.st = .running → (∀ i < 16, (s.street i).evac = false) → ∃ t : State, exec (.streetEvacuation g .start) s = .next t ∧ (t.street g.val).st = .draining
           ∧ spGet 0 t.raised (300 + g.val) = spGet 0 s.raised (300 + g.val) + 1 ∧ t.dir = s.dir)
       ∧ (x.st = .running → x.evac = false → (∃ i < 16, (s.street i).evac = true) → exec (.streetEvacuation g .start) s
           = .next (s.setStreet g.val { x with evacDue := true }))
       ∧ (x.st ≠ .running → exec (.streetEvacuation g .start) s = .next s)
       ∧ (∀ ok : Bool, x.st = .draining → x.evac = true → s.streetEmpty g.val = true → ∃ t : State, exec (.streetEvacuation g (.finish ok)) s = .next t
           ∧ (x.evacDue = false → (t.street g.val).st = (if ok then .running else .faulted)) ∧ t.dir = s.dir)
       ∧ (∀ ok : Bool, s.streetEmpty g.val = false → exec (.streetEvacuation g (.finish ok)) s = .next s)
       ∧ (s.streetEmpty g.val = true ↔ ∀ n : Fin 128, n.val / 8 = g.val → (∀ p ∈ s.dir, p.2.home ≠ n)
           ∧ (∀ m ∈ s.moves, ∀ p, m.dst = some p → p.home ≠ n)
           ∧ ((s.core (.eng n)).withdrawn = true ∨ ((s.core (.eng n)).lbox.slots = [] ∧ (s.core (.eng n)).lbox.waiting = []))
           ∧ s.returnWaits n = false ∧ (s.core (.eng n)).posted = [] ∧ (s.core (.eng n)).waits = [])
       ∧ (∀ (n : Fin 128) (homes : List (RecKey × Place)), ((s.withdraw n homes).core (.eng n)).withdrawn = true
           ∧ (s.withdraw n homes).runs (.eng n) = false))

/-- R310 to R314, R312: a move that placement may choose starts: the entry is MOVING and RELEASE goes to the old home;
once RELEASED has arrived the record has its bytes at the new place, and the entry names it; a move that is not
released is not copied. R313: at the limit the engine is withdrawn. The model's own: log 9, 49, 110, 125. -/
def Obligations.Moves : Prop :=
  ∀ (k : RecKey) (p : Place) (s : State) (i : Nat) (d : DirEnt), s.dirFind k = some (i, d) → Sparse.wf s.dir →
    (d.st = .settled → s.memStopped = false → s.sliceHeld k = false → s.moveOk d p [(k, p)] = true → (p.cls = 2 → s.laidOut) → ∃ t : State, exec (.recordMove k ⟨p, []⟩) s = .next t
        ∧ (∃ e, spGet? t.dir i = some e ∧ e.st = .moving ∧ e.loc = d.loc ∧ e.home = d.home ∧ e.rseq = d.rseq)
        ∧ (∃ m, t.moves = s.moves ++ [m] ∧ m.key = k ∧ m.dst = some p ∧ m.released = false)
        ∧ (∃ v, t.deliveries = s.deliveries ++ [v] ∧ v.home = d.home ∧ v.post = none ∧ v.key = d.key)
        ∧ (∃ b, (t.core (.eng d.home)).lbox.waiting = (s.core (.eng d.home)).lbox.waiting ++ [b] ∧ byteAt b 0 = 2)
        ∧ (p.cls ≠ 2 → t.mem = s.mem))
    ∧ (d.st = .settled → (s.memStopped = true ∨ s.sliceHeld k = true ∨ s.moveOk d p [(k, p)] = false) → exec (.recordMove k ⟨p, []⟩) s = .next s)
    ∧ (∀ mates : List (RecKey × Place), s.moveOk d p mates = true → (p.home ≠ d.home ∨ p.cls ≠ d.cls) ∧ s.homeable p.home.val = true
        ∧ (d.cold = true → p.cls = 2) ∧ (d.pin = true → d.cls = 0 → s.homeable d.home.val = false)
        ∧ (∀ m ∈ s.mates d, s.homeOf m = some p.home ∨ ∃ x ∈ mates, x.1 = m.key ∧ x.2.home = p.home))
    ∧ (∀ (m : Move) (q : Place), s.moves.find? (fun m => m.key == k) = some m → m.dst = some q →
        (m.released = false → ∀ ch, exec (.moveCopyComplete k ⟨false, ch⟩) s = .next s)
        ∧ (∀ ch : Fin 4, m.released = true → s.copyFree q ch = true → s.sliceHeld k = false → s.heldPa d.loc.toNat = false → s.heldPa q.loc.toNat = false →
          s.fwdOf k = [] → d.group = 0 → s.laidOut → (d.cls = 2 → d.loc.toNat < s.installed) →
          ∃ (t : State) (e : DirEnt), exec (.moveCopyComplete k ⟨false, ch⟩) s = .next t
            ∧ spGet? t.dir i = some e ∧ e.st = .settled ∧ e.home = q.home ∧ e.cls = q.cls ∧ e.loc = q.loc ∧ e.rseq = d.rseq
            ∧ (d.cls ≠ 2 → t.mem = (s.wrN q.loc.toNat (s.rdN d.loc.toNat d.len)).mem) ∧ (∀ x ∈ t.moves, x.key ≠ k)))
    ∧ (∀ (m : Move) (homes : List (RecKey × Place)), s.moves.find? (fun m => m.key == k) = some m →
        (m.released = true → exec (.releaseLimitExpiry k homes) s = .next s)
        ∧ (m.released = false → exec (.releaseLimitExpiry k homes) s
            = .next ((s.report { sev := 2, hop := 0xF, code := 0x41, utype := 0, uidx := BitVec.ofNat 8 d.home.val, asp := 3, addr := 0
                                 synd := 0, ten := 0, task := 0, pc := 0 }).withdraw d.home homes)))

/-! ## Tram (14) -/

/-- R387, R395, R396, R400, R402, R403: starts of a channel, by SWST, a trigger record or its partner: an IDLE one
begins its chain, an ACTIVE or HALTED one counts the start, up to 255 and then sets TOVF; while the function does not
run, starts are discarded. Pacing records are credits of which a burst takes one; RESUME ends a TLB miss; DIS stops
the channel at once. The model's own: log 18, 67, 128. -/
def Obligations.TramStarts : Prop :=
  ∀ (k : Fin 128) (s : State),
    let c : Channel := s.channel k.val
    let begun : Channel := { c with st := .active, phase := .fetch, part := false, ccur := c.cda, desc := none, rpos := 0, buf := []
                                    burst := 0, code := 0, sub := 0, side := 0, tlbHalt := false }
    let starts (cmd : Instr) (u : State) : Prop :=
      (c.fn = .running → c.st = .idle → exec cmd s = .next (u.setChannel k.val begun))
      ∧ (c.fn = .running → c.st = .active ∨ c.st = .halted → c.tpend ≠ 255 → exec cmd s = .next (u.setChannel k.val { c with tpend := c.tpend + 1 }))
      ∧ (c.fn = .running → c.st = .active ∨ c.st = .halted → c.tpend = 255 → exec cmd s = .next (u.setChannel k.val { c with tovf := true }))
    (c.settling = false → starts (.swst k) s)
    ∧ (c.settling = true → exec (.swst k) s = .next s)
    ∧ (c.settling = true ↔ c.st = .idle ∧ c.unacked = true)
    ∧ (c.fn ≠ .running → exec (.swst k) s = .next s)
    ∧ (∀ src : Fin 384, c.tv = true → c.tsrc = src.val → outsideSrc src.val = false → s.waiting (136 + k.val) src.val false ≠ 0 →
        starts (.tramTrigger k src) (s.see (136 + k.val) src.val)
          ∧ (c.fn ≠ .running → exec (.tramTrigger k src) s = .next ((s.see (136 + k.val) src.val).setChannel k.val c)))
    ∧ (let src : Nat := 160 + k.val / 32 * 32 + (c.ceng + 4) % 32
       c.tpair = true → s.waiting (264 + k.val) src true ≠ 0 → c.fn = .running →
        (c.st = .idle → exec (.partnerStart k) s
            = .next ((s.see (264 + k.val) src).setChannel k.val { begun with part := true, ccur := 0x3FFE0 }))
        ∧ (c.st = .active ∨ c.st = .halted → c.tpend2 < 255 → exec (.partnerStart k) s
            = .next ((s.see (264 + k.val) src).setChannel k.val { c with tpend2 := c.tpend2 + 1 })))
    ∧ (∀ src : Fin 384, outsideSrc src.val = false → s.waiting (392 + k.val) src.val true ≠ 0 → c.pmode = 2 → c.psrc = src.val →
        (c.pcred ≠ 255 → exec (.pacingRecord k src) s = .next ((s.see (392 + k.val) src.val).setChannel k.val { c with pcred := c.pcred + 1 }))
        ∧ (c.pcred = 255 → exec (.pacingRecord k src) s = .next ((s.see (392 + k.val) src.val).setChannel k.val { c with povf := true })))
    ∧ (∀ d : Desc, c.desc = some d → c.st = .active → c.phase = .move → c.fn = .running → tramOver s k.val c d = true → c.burst < d.len →
        (c.pmode = 2 → 0 < c.pcred → exec (.pacedBurstStart k) s
            = .next (s.setChannel k.val { c with burst := min d.len (c.burst + 2 ^ c.bsz), pcred := c.pcred - 1 }))
        ∧ (c.pmode = 1 → c.req = true → exec (.pacedBurstStart k) s
            = .next (s.setChannel k.val { c with burst := min d.len (c.burst + 2 ^ c.bsz) }))
        ∧ ((c.pmode = 2 → c.pcred = 0) → (c.pmode = 1 → c.req = false) → exec (.pacedBurstStart k) s = .next s))
    ∧ (c.st = .halted → c.tlbHalt = true → c.fn = .running → exec (.resume k) s
        = .next (s.setChannel k.val { c with st := .active, tlbHalt := false, code := 0, sub := 0, side := 0 }))
    ∧ (c.st ≠ .halted ∨ c.tlbHalt = false ∨ c.fn ≠ .running → exec (.resume k) s = .next s)
    ∧ (∃ t : State, exec (.dis k) s = .next t ∧ (t.channel k.val).fn = .stopped ∧ (t.channel k.val).st = .idle ∧ (t.channel k.val).tpend = 0
        ∧ (t.channel k.val).tpend2 = 0 ∧ (t.channel k.val).pcred = 0 ∧ (t.channel k.val).cctl = c.cctl ∧ (t.channel k.val).cda = c.cda ∧ (t.channel k.val).unacked = c.unacked
        ∧ t.raised = s.raised ∧ t.mem = s.mem ∧ ∀ j : Nat, j ≠ k.val → t.channel j = s.channel j)

/-- R383, R388, R389, R391, R393, R394, R398 to R401, R268: a descriptor fetch, a read, a write, the end of a
descriptor and the service of a TLB miss, of an access that its checks pass; a TLB miss halts the channel, another
refusal puts it in ERROR and its function FAULTED. The model's own: log 23, 124. -/
def Obligations.TramTransfers : Prop :=
  ∀ (k : Fin 128) (s : State),
    let c : Channel := s.channel k.val
    let up (l : List Nat) : Prop := ∀ pa ∈ l, s.portDown pa = none
    (c.st = .active → c.phase = .fetch → c.fn = .running → adAs c.ccur ≠ 3 → (adAs c.ccur = 2 → c.phys = true) → adAddr c.ccur % 32 = 0 →
      (∀ l, tramCheck s k.val c (adAs c.ccur) (adAddr c.ccur) 32 false = .ok l → up l →
        let b : List Byte := l.map s.rd
        (descBad c.phys b = false → ∃ t : State, exec (.descriptorFetch k none) s = .next t ∧ (s.laidOut → t.mem = s.mem)
            ∧ (t.channel k.val).desc = some (descOf b) ∧ (t.channel k.val).phase = .move ∧ (t.channel k.val).st = .active
            ∧ (t.channel k.val).crem = BitVec.ofNat 32 (beAt b 24 4) ∧ (t.channel k.val).rpos = 0 ∧ (t.channel k.val).buf = [])
        ∧ (descBad c.phys b = true → ∃ t : State, exec (.descriptorFetch k none) s = .next t ∧ (t.channel k.val).st = .error
            ∧ (t.channel k.val).fn = .faulted ∧ (t.channel k.val).code = 0x10 ∧ spGet 0 t.raised (296 + k.val / 32) = spGet 0 s.raised (296 + k.val / 32) + 1))
      ∧ (tramCheck s k.val c (adAs c.ccur) (adAddr c.ccur) 32 false = .error (0x02, 0) → ∃ t : State, exec (.descriptorFetch k none) s = .next t
          ∧ (t.channel k.val).st = .halted ∧ (t.channel k.val).tustat = true ∧ (t.channel k.val).cfault = c.ccur ∧ (t.channel k.val).fn = c.fn
          ∧ t.raised = spPut s.raised (296 + k.val / 32) (spGet 0 s.raised (296 + k.val / 32) + 1) ∧ t.mem = s.mem))
    ∧ (∀ (d : Desc) (stop : Nat), c.desc = some d → tramSpan s k.val = some stop → tramNext s (k.val / 32) false = some k.val →
        let e : Nat := 2 ^ d.sw.toNat
        let a : Nat := srcElem d c.rpos
        let n : Nat := ((stop + e - 1) / e - c.rpos / e) * e
        ∀ l, tramCheck s k.val c (adAs d.src) a n false = .ok l → up l →
          ∃ t : State, exec (.tramRead k none) s = .next t ∧ (s.laidOut → t.mem = s.mem) ∧ (t.channel k.val).rpos = stop
            ∧ (t.channel k.val).buf = c.buf ++ (List.range (stop - c.rpos)).map (fun j =>
                byteAt (l.map s.rd) (((c.rpos + j) / e - c.rpos / e) * e + srcByte d (c.rpos + j)))
            ∧ (∀ m, m ≠ k.val → t.channel m = s.channel m))
    ∧ (∀ d : Desc, c.desc = some d → c.pmode = 0 → c.moves = true → tramBlocks s k.val c d = false → c.rpos < d.len → adFix d.src = false →
        let e : Nat := 2 ^ d.sw.toNat
        let stop : Nat := min ((c.rpos / e + max 1 ((64 - srcElem d c.rpos % 64) / e)) * e) d.len
        c.rpos < stop → (tramSpan s k.val = some stop ↔ c.buf.length + (stop - c.rpos) ≤ 2048))
    ∧ (∀ (q m : Nat) (wr : Bool), tramNext s q wr = some m → m / 32 = q →
        (wr = true → tramHas s m = true) ∧ (wr = false → tramSpan s m ≠ none)
        ∧ ((s.channel m).pri = false → ∀ i < 32, (s.channel (q * 32 + i)).pri = true →
            (wr = true → tramHas s (q * 32 + i) = false) ∧ (wr = false → tramSpan s (q * 32 + i) = none)))
    ∧ (∀ d : Desc, c.desc = some d → tramNext s (k.val / 32) true = some k.val →
        let e : Nat := 2 ^ d.dw.toNat
        let a : Nat := dstAddr d c.wpos
        let lim : Nat := if c.pmode = 0 then c.rpos else min c.rpos c.burst
        let n : Nat := min ((if adFix d.dst then 1 else max 1 ((64 - a % 64) / e)) * e) ((lim - c.wpos) / e * e)
        n ≠ 0 ∧ (∀ l, tramCheck s k.val c (adAs d.dst) a n true = .ok l → up l → ∃ t : State, exec (.tramWrite k none) s = .next t
          ∧ (s.laidOut → t.mem = (s.wrAll l (c.buf.take n)).mem) ∧ (t.channel k.val).buf = c.buf.drop n ∧ (t.channel k.val).rpos = c.rpos
          ∧ (t.channel k.val).unacked = true
          ∧ ((t.channel k.val).phase = if c.rpos - (c.buf.length - n) = d.len then .done else .move)
          ∧ (∀ m, m ≠ k.val → t.channel m = s.channel m)))
    ∧ (∀ d : Desc, c.desc = some d → c.st = .active → c.phase = .done → ∀ u, tramDstat s k.val { c with unacked := false } 0 = .ok u → ∃ t : State,
        exec (.descriptorComplete k none) s = .next t ∧ t.mem = u.mem ∧ (t.channel k.val).unacked = false
          ∧ (spGet 0 t.raised (32 + k.val) = spGet 0 s.raised (32 + k.val) + d.iev.toNat)
          ∧ (d.end_ = true → c.tpend = 0 → c.tpend2 = 0 → (t.channel k.val).st = .idle)
          ∧ (d.end_ = true → c.tpend ≠ 0 → c.tpend2 = 0 → (t.channel k.val).st = .active ∧ (t.channel k.val).tpend = c.tpend - 1
              ∧ (t.channel k.val).phase = .fetch ∧ (t.channel k.val).ccur = c.cda)
          ∧ (d.end_ = false → (t.channel k.val).st = .active ∧ (t.channel k.val).phase = .fetch ∧ adAddr (t.channel k.val).ccur = adAddr d.next
              ∧ adAs (t.channel k.val).ccur = adAs c.ccur))
    ∧ (c.settling = true → c.desc = none → exec (.descriptorComplete k none) s = .next (s.setChannel k.val { c with unacked := false }))
    ∧ (c.st = .halted → c.tlbHalt = true → c.fn = .running →
        let w : WalkRes := walkFrom s.rd8 s false false c.cten (adAddr c.cfault) 4 (s.rd8 (sqPa (k.val / 32) (0x10000 + 8 * c.cten.toNat))) []
        (∀ x l, w = .leaf x l → ∃ (t : State) (i : Nat) (e : TlbEnt), i < 64
          ∧ exec (.tramMissService k false) s = .next t ∧ (t.channel k.val).st = .active ∧ (t.channel k.val).tlbHalt = false
          ∧ spGet? (t.tram (k.val / 32)).tlb i = some e ∧ e.v = true ∧ e.ten = x.ten ∧ e.vpn = BitVec.ofNat 36 (x.va / 4096)
          ∧ e.pfn = BitVec.ofNat 36 (x.pa / 4096) ∧ e.w = x.w ∧ e.u = x.u ∧ e.x = x.x)
        ∧ (∀ x, w = .fail x → ∃ t : State, exec (.tramMissService k false) s = .next t
          ∧ (t.channel k.val).st = .error ∧ (t.channel k.val).fn = .faulted ∧ (t.channel k.val).code = 0x22))
    ∧ (c.st ≠ .halted ∨ c.tlbHalt = false → ∀ w : Bool, exec (.tramMissService k w) s = .next s)
    ∧ (∀ (d : Desc) (i : Nat), adFix d.src = false → adWrap d.src = 0 → (d.swap = false → srcElem d i + srcByte d i = adAddr d.src + i)
        ∧ (d.swap = true → srcElem d i + srcByte d i + i % 2 ^ d.sw.toNat + 1 = adAddr d.src + i / 2 ^ d.sw.toNat * 2 ^ d.sw.toNat + 2 ^ d.sw.toNat))
    ∧ (∀ (d : Desc) (i : Nat), adFix d.dst = false → adWrap d.dst = 0 → dstAddr d i = adAddr d.dst + i)

/-! ## Errors, memory ports, host ports (15, 17, 18) -/

/-- R410, R411, R418 to R423, R425, R495: a record fills the lowest free slot of its unit's bank, or counts in the
slot written last; the firmware clears a slot, writes the entry with its LSEQ and seal, and asserts the alert at
severity 3; corrected errors coalesce; a flit whose seal fails is discarded whole with one record. The model's own:
log 53, 54, 55, 68, 113, 132. -/
def Obligations.ErrorRecords : Prop :=
  (∀ (s : State) (e : ErrRec),
    let b : BankId := bankOf e.utype.toNat e.uidx.toNat
    let free (i : Nat) : Prop := spGet? s.banks (bankIx b * 16 + i) = none
    (∀ i, i < bankSlots b → free i → (∀ j, j < i → ¬ free j) →
        spGet? (s.report e).banks (bankIx b * 16 + i) = some { r := e, ovf := false, count := 1 }
          ∧ (∀ j, j ≠ bankIx b * 16 + i → spGet? (s.report e).banks j = spGet? s.banks j))
      ∧ ((∀ i, i < bankSlots b → ¬ free i) → ∀ x, spGet? s.banks (bankIx b * 16 + spGet 0 s.newest (bankIx b)) = some x →
        spGet? (s.report e).banks (bankIx b * 16 + spGet 0 s.newest (bankIx b))
          = some { x with ovf := true, count := BitVec.ofNat 16 (min 0xFFFF (x.count.toNat + 1)) }))
  ∧ (∀ (b : BankId) (i : Fin 16) (time : W64) (homes : List (RecKey × Place)) (s : State) (x : BankRec),
      Sparse.wf s.banks → Memory.wf memDefault s.mem = true → s.heldPa logBase = false → spGet? s.banks (bankIx b * 16 + i.val) = some x →
      (x.r.sev = 0 → ∃ t : State, exec (.errorLogWrite b i ⟨time, false⟩ homes) s = .next t ∧ t.lseq = s.lseq ∧ t.mem = s.mem
          ∧ spGet? t.banks (bankIx b * 16 + i.val) = none
          ∧ (s.coalesce = [] → t.coalesce = [{ r := x.r, count := x.count.toNat }]))
      ∧ (x.r.sev = 1 → (x.r.code ≠ 0x11 ∧ x.r.code ≠ 0x02 ∧ x.r.code ≠ 0x42) → ∃ t : State, exec (.errorLogWrite b i ⟨time, false⟩ homes) s = .next t
          ∧ t.lseq = s.lseq + 1 ∧ spGet? t.banks (bankIx b * 16 + i.val) = none
          ∧ t.rdN (logBase + s.lseq % 16384 * 64) 64 = logBytes s.lseq time.toNat 0 1 x.r.ten.toNat (recWords x.r x.ovf x.count.toNat)
          ∧ t.mgmt.alert = s.mgmt.alert ∧ t.flash = s.flash)
      ∧ (s.fatal = false → ∃ t : State, exec (.errorLogWrite b i ⟨time, true⟩ homes) s = .next t ∧ t.fatal = true ∧ t.mgmt.alert = true)
      ∧ (x.r.sev = 3 → ∃ t : State, exec (.errorLogWrite b i ⟨time, false⟩ homes) s = .next t ∧ t.fatal = true ∧ t.mgmt.alert = true ∧ t.lseq = s.lseq + 1))
  ∧ (∀ (lseq time fl ac at_ : Nat) (w : List Nat), w.length = 4 → lseq < 2 ^ 64 →
      let l : List Byte := logBytes lseq time fl ac at_ w
      l.length = 64 ∧ leAt l 0 8 = lseq ∧ leAt l 60 4 = crc32c (l.take 60) ∧ leAt l 24 8 = (w.getD 0 0) % 2 ^ 64)
  ∧ (∀ (c : Coalesce) (s : State), s.coalesce = [c] → ∃ t : State, exec .correctedCoalesceExpiry s = .next t ∧ t.coalesce = [] ∧ t.lseq = s.lseq + 1)
  ∧ (∀ (st : Fin 16) (f : Flit) (act : FlitAct) (s : State),
      (flitSeal f ≠ flitCrc f → act = .none → ∃ e : ErrRec, exec (.ringFlitReceive st f act) s = .next (s.report e) ∧ e.code = 0x20 ∧ e.hop = 2
          ∧ e.synd.toNat = flitSeal f * 2 ^ 32 + flitCrc f)
      ∧ (flitSeal f = flitCrc f → act = .none → exec (.ringFlitReceive st f act) s = .next s)
      ∧ (∀ c src, flitSeal f ≠ flitCrc f → act = .event c src → exec (.ringFlitReceive st f act) s
          = .next (((s.arrive (coreIx c) src.val true).getD s).report (flitBadRec f st.val)))
      ∧ (∀ (c : CoreId) (src : Fin 384), flitSeal f = flitCrc f → act = .event c src → flitClass f = 2 → flitPoison f = false →
          exec (.ringFlitReceive st f act) s = exec (.eventRecordArrival c src) s))

/-- R465 to R471, Tables 17-4 and 17-5: readings, calibration passes and their phases, scrubbing, refresh and strobe
correction. R476, R477, R489, R490: RUN seeds the enabled lanes of a STOPPED unit and is not set while it runs;
clearing RUN clears every LOCK and leaves ERRCNT; CLR clears both; the checker of an enabled lane locks. The model's
own: log 12, 76, 77, 78, 117, 120. -/
def Obligations.MemoryPorts : Prop :=
  (∀ (p : Fin 8) (u : Fin 2) (s : State),
     let x : MemPort := s.memPort p.val
     let c : Calib := x.cal.get u
     let put (d : Calib) : State := s.setMemPort p.val { x with cal := x.cal.set u.val d }
     (∀ t0 t1 : Byte, x.dimms = 1 → t0.toInt < 95 → (∀ v : Fin 2, ((t0.toInt - (x.cal.get v).tlast.toInt).natAbs < 4)) →
       exec (.temperatureRead p t0 t1) s = .next (s.setMemPort p.val { x with temp0 := t0, hot := 0 }))
     ∧ (∀ t0 t1 : Byte, x.dimms = 0 → exec (.temperatureRead p t0 t1) s = .next s)
     ∧ (∀ t0 t1 : Byte, x.dimms = 1 → x.hot = 0 → 95 ≤ t0.toInt → ∃ t : State, exec (.temperatureRead p t0 t1) s = .next t ∧ t.lseq = s.lseq + 1
         ∧ (t.memPort p.val).temp0 = t0 ∧ (t.memPort p.val).hot = 479)
     ∧ (x.st = .running → c.dfail = false → c.spared = 0x7F → c.phase = 0 → c.todo = [] →
         exec (.calPeriodExpiry p u) s = .next (put { c with errs := [], lane := BitVec.ofNat 7 (u.val * 64), detour := false, phase := 1, fails := 0, todo := (List.range 39).map (fun i => BitVec.ofNat 7 (u.val * 64 + 1 + i)) }))
     ∧ (x.st ≠ .running → exec (.calPeriodExpiry p u) s = .next s ∧ exec (.dqsDriftCorrection p) s = .next s)
     ∧ (∀ ok : Bool, x.st = .running → ∃ t : State, exec (.calibrationPhase p u ok) s = .next t ∧
         let d : Calib := (t.memPort p.val).cal.get u
         (c.phase = 1 → ok = true → d = { c with phase := 2 })
         ∧ (c.phase = 1 → ok = false → d.dfail = true ∧ d.phase = 0 ∧ d.lane = 0x7F)
         ∧ (c.phase = 2 → d = { c with phase := 3, detour := true }) ∧ (c.phase = 3 → d = { c with phase := 4 })
         ∧ (c.phase = 4 → ok = true → d = { c with phase := 5, fails := 0 })
         ∧ (c.phase = 4 → ok = false → c.fails < 2 → d = { c with phase := 3, fails := c.fails + 1 })
         ∧ (c.phase = 4 → ok = false → c.fails = 2 → c.dfail = false → c.spared = 0x7F → d.spared = c.lane ∧ d.detour = false ∧ t.lseq = s.lseq + 1)
         ∧ (c.phase = 4 → ok = false → c.fails = 2 → (c.dfail = true ∨ c.spared ≠ 0x7F) → (t.memPort p.val).st = .faulted ∧ (t.memPort p.val).fail = 5)
         ∧ (c.phase = 5 → ∀ l rest, c.todo = l :: rest → d = { c with lane := l, detour := false, phase := 1, fails := 0, todo := rest })
         ∧ (c.phase = 5 → c.todo = [] → d.passes = min (c.passes + 1) 0xFFFF ∧ (x.dimms = 1 → d.tlast = x.temp0)
             ∧ (c.again = false → d.lane = 0x7F ∧ d.phase = 0) ∧ (c.again = true → d.lane = BitVec.ofNat 7 (u.val * 64) ∧ d.phase = 1)))
     ∧ (∀ lane : Fin 128, x.st = .running → x.size ≠ 0 →
         exec (.patrolScrub p none lane) s = .next (s.setMemPort p.val { x with scrub := (x.scrub + 1) % (x.size / 64) })
         ∧ ∃ (t : State) (e : ErrRec), exec (.patrolScrub p (some .uncorrectable) lane) s = .next t ∧ e.sev = 1 ∧ e.code = 0x11 ∧ e.utype = 4
             ∧ e.uidx.toNat = p.val ∧ e.hop = 0xA ∧ t = { (s.setMemPort p.val { x with scrub := (x.scrub + 1) % (x.size / 64) }).report e with free := t.free })
     ∧ (x.st ≠ .stopped → x.dimms ≠ 0 → ∃ (t : State) (n : Vector Nat 2), exec (.refresh p) s = .next t
         ∧ t = s.setMemPort p.val { x with refreshes := n }
         ∧ n.get 0 = x.refreshes.get 0 + (if 85 ≤ x.temp0.toInt then 2 else 1)
         ∧ n.get 1 = x.refreshes.get 1 + (if x.dimms = 2 then (if 85 ≤ x.temp1.toInt then 2 else 1) else 0))
     ∧ (x.st = .stopped ∨ x.dimms = 0 → exec (.refresh p) s = .next s)
     ∧ (x.st = .running → exec (.dqsDriftCorrection p) s = .next (s.setMemPort p.val { x with dqs := x.dqs + 1 })))
  ∧ (∀ (u : PgUnit) (lane : Fin 128) (at_ : W16) (rx : W64) (errors : W32) (s : State),
       let p : Patgen := s.pgOf u
       let host : Bool := match u with | .mp _ => false | .hp _ => true
       let on (i : Nat) : Bool := if host then decide (i < 16) && p.mask0.getLsbD i else if i < 64 then p.mask0.getLsbD i else p.mask1.getLsbD (i - 64)
       (s.pgStopped u = true → p.pgctl.getLsbD 4 = false → ∃ (t : State) (q : Patgen), exec (.pgctlRun u true) s = .next t ∧ t = s.setPg u q
           ∧ q.pgctl = p.pgctl ||| 0x10 ∧ q.mask0 = p.mask0 ∧ q.mask1 = p.mask1 ∧ q.lpstat = p.lpstat
           ∧ ∀ i < 128, on i = true → host = false → (i, BitVec.ofNat 32 (i + 1)) ∈ q.lfsr)
       ∧ (s.pgStopped u = false → exec (.pgctlRun u true) s = .next s)
       ∧ (∃ (t : State) (q : Patgen), exec (.pgctlRun u false) s = .next t ∧ t = s.setPg u q ∧ q.pgctl = p.pgctl &&& ~~~ 0x10
           ∧ ∀ i, spGet 0 q.lpstat i = spGet 0 p.lpstat i &&& 0xFFFFFFFF)
       ∧ exec (.pgctlClr u) s = .next (s.setPg u { p with lpstat := [] })
       ∧ (p.pgctl.getLsbD 4 = true → on lane.val = true → pgSent host p lane.val at_.toNat = some rx →
           ∃ t : State, exec (.patternCheckerLock u ⟨lane, at_, rx, errors⟩) s = .next t
             ∧ (spGet 0 (t.pgOf u).lpstat lane.val).getLsbD 32 = true
             ∧ bits (spGet 0 (t.pgOf u).lpstat lane.val).toNat 0 32 = min (bits (spGet 0 p.lpstat lane.val).toNat 0 32 + errors.toNat) 0xFFFFFFFF
             ∧ (∀ i, i ≠ lane.val → spGet 0 (t.pgOf u).lpstat i = spGet 0 p.lpstat i) ∧ (t.pgOf u).pgctl = p.pgctl)
       ∧ (∀ w, pgSent host p lane.val at_.toNat = some w → w ≠ rx → pgLocked p lane.val = false →
           exec (.patternCheckerLock u ⟨lane, at_, rx, errors⟩) s = .next { s with free := s.free + 1 })
       ∧ (p.pgctl.getLsbD 4 = false ∨ on lane.val = false → ∃ t : State,
           exec (.patternCheckerLock u ⟨lane, at_, rx, errors⟩) s = .next t ∧ t.pgOf u = p)
       ∧ (bits p.pgctl.toNat 0 4 = (if host then 5 else 9) → ∃ w : W64, pgSent host p lane.val at_.toNat = some w
           ∧ ∀ i < 64, w.getLsbD i = p.user.getLsbD ((at_.toNat + i) % 40)))

/-- R431, R432, R480, R482, R485, R486, R344: a host link trains, goes down and resets its port's functions, times
out, and answers configuration and unsupported requests, with the identity of its functions; a function in D3hot
fetches nothing and is reset on its return. The model's own: log 73, 74, 114, 118. -/
def Obligations.HostLinks : Prop :=
  ∀ (h : Fin 2) (n : Fin 16) (s : State),
    let x : HostPort := s.hostPort h.val
    let f : FnId := ⟨h, n⟩
    let put (y : HostPort) : State := s.setHostPort h.val y
    (s.pins.pwrgood = false → ∀ l, exec (.perst h l) s = .next s)
    ∧ (s.pins.pwrgood = true → exec (.perst h true) s = .next (put { x with perst := true }))
    ∧ (s.pins.pwrgood = true → ∃ t : State, exec (.perst h false) s = .next t ∧ (t.hostPort h.val).perst = false ∧ (t.hostPort h.val).nwidth = 0
        ∧ (t.hostPort h.val).st = x.st ∧ (Sparse.wf s.tenancies → ∀ (m : Fin 16) (tn : Nat), s.tenOf ⟨h, m⟩ = some tn →
          (t.tenancy tn).devno = 0 ∧ (t.tenancy tn).qps.map (fun p => p.1) = [0]))
    ∧ (s.linkIsUp h.val = true → ∃ t : State, exec (.linkDown h) s = .next t ∧ (t.hostPort h.val).nwidth = 0 ∧ (t.hostPort h.val).nrate = 0
        ∧ (t.hostPort h.val).st = x.st ∧ t.dir = s.dir ∧ t.mem = s.mem)
    ∧ (s.linkIsUp h.val = false → exec (.linkDown h) s = .next s)
    ∧ (x.st = .running ∨ x.st = .draining → x.perst = true → x.nwidth = 0 → exec (.linkRetrainTimeout h) s
        = .next ((put { x with st := .faulted, fail := 2 }).report { sev := 2, hop := 0xF, code := 0x50, utype := 5, uidx := BitVec.ofNat 8 h.val, asp := 3, addr := 0, synd := 0, ten := 0, task := 0, pc := 0 }))
    ∧ (∀ k : LinkFacts, s.held = false → s.boot.stage ≠ 0 → x.perst = true → x.nwidth = 0 → x.tested = false → x.st ≠ .faulted →
        k.width.toNat ∈ [1, 2, 4, 8, 16] → k.width.toNat ≤ (if x.widthSet = 0 then 16 else if x.widthSet = 1 then 8 else 4) → 1 ≤ k.rate.toNat →
        k.rate.toNat ≤ x.maxrate.toNat →
        exec (.linkUp h k) s = .next (put { x with nwidth := k.width, nrate := k.rate, rev := k.reversed, pol := k.polarity }))
    ∧ (x.nwidth ≠ 0 ∨ x.tested = true ∨ x.st = .faulted → ∀ k, exec (.linkUp h k) s = .next s)
    ∧ (s.linkIsUp h.val = true →
        (s.boot.cfgRead = false → ∀ off, exec (.configurationRequest ⟨f, off⟩) s = .next (put { x with last := .retry }))
        ∧ (s.boot.cfgRead = true → ∀ off : BitVec 12, ∃ t : State, exec (.configurationRequest ⟨f, off⟩) s = .next t
            ∧ (t.hostPort h.val).last = .success ∧ (t.hostPort h.val).data = s.configSpace f off.toNat
            ∧ (t.hostPort h.val).st = x.st ∧ t.tenancies = s.tenancies)
        ∧ s.configSpace f 0x00 = BitVec.ofNat 32 (0x1E9C + (if n = 0 then 0x7C70 else 0x7C71) * 0x10000)
        ∧ s.configSpace f 0x08 = BitVec.ofNat 32 (s.part.step.toNat + 0x12000000)
        ∧ s.configSpace f 0x2C = 0x7C701E9C ∧ (s.configSpace f 0x3C).toNat / 256 % 256 = 0
        ∧ exec (.unsupportedRequest h) s = .next (put { x with last := .unsupported })
        ∧ ∃ t : State, exec (.d3hotEntry f) s = .next t ∧ (t.hostPort h.val).d3.getLsbD n.val = true
          ∧ ∀ y, t.fetches f y = false)
    ∧ (x.d3.getLsbD n.val = true → ∃ t : State, exec (.d0Return f) s = .next t ∧ (t.hostPort h.val).d3.getLsbD n.val = false
        ∧ ∀ tn, s.tenOf f = some tn → (t.tenancy tn).devno = 0 ∧ (t.tenancy tn).qps.map (fun p => p.1) = [0])
    ∧ (x.d3.getLsbD n.val = false → exec (.d0Return f) s = .next s)

/-- R441, R487, R488, Tables 18-5 and 18-6: the flash window of the managing function: READ, ERASE and PROGRAM of a
sector, in the bytes that they leave; a protected sector, RETIRED and another function are refused with their ERR.
R13, R285: register writes of the control cores and of the firmware. The model's own: log 69, 70, 71, 72, 99, 115. -/
def Obligations.FlashAndRegisters : Prop :=
  ∀ (s : State) (a : Nat) (w : W64),
    let f : FnId := s.mgmtFn
    let op : List (Instr × BitVec 2) := [(.fwctlRead f, 1), (.fwctlErase f, 2), (.fwctlProgram f, 3)]
    (s.bar2 f = true → s.flashOp = none → s.fwaddr.toNat = a →
      (∀ c ∈ op, (c.2 = 1 ∨ (s.flashProtected a = false ∧ s.fuses.lc ≠ 3)) → exec c.1 s = .next { s with flashOp := some { op := c.2, sector := a } })
      ∧ (∀ c ∈ op, c.2 ≠ 1 → s.flashProtected a = true → s.fuses.lc ≠ 3 → exec c.1 s = .next { s with fwerr := 1, free := s.free + 1 })
      ∧ (∀ c ∈ op, c.2 ≠ 1 → s.flashProtected a = false → s.fuses.lc = 3 → exec c.1 s = .next { s with fwerr := 2, free := s.free + 1 }))
    ∧ (s.flashOp.isSome = true → ∀ c ∈ op, exec c.1 s = .next s)
    ∧ (∀ g : FnId, g ≠ f → s.bar2 g = true → s.flashOp = none →
        exec (.fwctlRead g) s = .next { s with fwerr := 3 } ∧ exec (.fwctlErase g) s = .next { s with fwerr := 3 })
    ∧ (∀ x : FlashOp, s.flashOp = some x → Memory.wf 0xFF s.flash = true → ∃ t : State, exec (.flashOperationComplete false) s = .next t
        ∧ t.flashOp = none ∧ t.fwerr = 0
        ∧ (x.op = 1 → t.flash = s.flash ∧ ∀ i : Nat, i < 4096 → memRd t.fwbuf i = s.flashSees (x.sector + i))
        ∧ (x.op = 2 → t.fwbuf = s.fwbuf ∧ ∀ b : Nat, flashRd t.flash b = if x.sector ≤ b ∧ b < x.sector + 4096 then 0xFF else flashRd s.flash b)
        ∧ (x.op = 3 → t.fwbuf = s.fwbuf ∧ ∀ b : Nat, flashRd t.flash b =
            if x.sector ≤ b ∧ b < x.sector + 4096 then memRd s.fwbuf (b - x.sector) &&& flashRd s.flash b else flashRd s.flash b))
    ∧ (∀ x : FlashOp, s.flashOp = some x → ∃ t : State, exec (.flashOperationComplete true) s = .next t ∧ t.flashOp = none ∧ t.fwerr = 4)
    ∧ (s.bar2 f = true → s.flashOp = none →
        exec (.registerWrite (.bar2 f 0x108 true w)) s = .next { s with fwaddr := w &&& 0xFFFFF000 })
    ∧ (s.bar2 f = true → s.hostRead f 2 0 false = s.bootstat ∧ s.hostRead f 2 0x100 false = 0 ∧ s.hostRead f 2 0x108 false = s.fwaddr.toNat
        ∧ s.hostRead f 2 0x110 false = s.flashOp.isSome.toNat + s.fwerr.toNat * 16)
    ∧ (∀ (g : FnId) (t : Nat) (q : Byte) (x : QPair), s.bar0 g = true → s.qpOf g q.toNat = some (t, x) →
        s.hostRead g 0 (q.toNat * 256) false = x.sqtail.toNat ∧ s.hostRead g 0 (q.toNat * 256 + 4) false = x.cqhead.toNat
        ∧ s.hostRead g 0 (q.toNat * 256 + 8) false = x.qstat ∧ s.hostRead g 0 (q.toNat * 256 + 0x20) false = x.cqint.toNat
        ∧ s.hostRead g 0 (q.toNat * 256 + 0x28) false = 0)
    ∧ (∀ (g : FnId) (q : Byte) (o : Nat), s.qpOf g q.toNat = none → o < 256 → s.hostRead g 0 (q.toNat * 256 + o) false = 0)
    ∧ (s.awake = true →
        exec (.registerWrite (.phys 0x10304000100 w)) s = .next { s with kabase := (s.kabase &&& 0xFFFF0000000FFFFF) ||| (w &&& 0x0000FFFFFFF00000) }
        ∧ (let v : W64 := (s.dirbase &&& 0xFFFF00007FFFFFFF) ||| (w &&& 0x0000FFFF80000000)
           (s.layout.live = false ∨ v.toNat = s.layout.dirBase → exec (.registerWrite (.phys 0x10304000108 w)) s = .next { s with dirbase := v })
           ∧ (s.layout.live = true → ∃ t : State, exec (.registerWrite (.phys 0x10304000108 w)) s = .next t ∧ t.dirbase = v
              ∧ t.layout.dirBase = v.toNat))
        ∧ ∀ (n : Fin 128) (i : Fin 32) (src : Fin 384) (v : Bool) (task : BitVec 6), (src.val < 300 ∨ 320 ≤ src.val) → ∃ t : State,
            exec (.registerWrite (.route (.eng n) i src v task)) s = .next t
              ∧ spGet? (t.core (.eng n)).evroute i.val = some { src := BitVec.ofNat 9 src.val, v := v }
              ∧ spGet? (t.core (.eng n)).evtask i.val = some task)

/-- R492 to R495, Table 18-10: the management port: hardware answers at once, the firmware answers from its stage on,
and LASTERR tells why it did not; the alert. R496 to R500, Tables 18-11 and 18-12: the test access port; boundary
instructions hold the device in reset. The model's own: log 83, 84, 85, 86, 129. -/
def Obligations.ManagementPorts : Prop :=
  ∀ (s : State) (n : Nat) (u : Byte) (off : BitVec 24) (v : W64),
    let smb (out : List Byte) (err : Byte) : State := { s with mgmt := { s.mgmt with out := out, lasterr := err } }
    let hw (out : List Byte) : State := { s with mgmt := { s.mgmt with out := out } }
    (s.pins.pwrgood = false → ∀ c ∈ [Instr.getStatus, .getIdent, .readReg n u off, .writeReg n u off v, .smbReadLog n ⟨v, false⟩, .clearAlert,
        .alertResponseAddress, .alertReassert, .deviceReset 0xA5], exec c s = .next s)
    ∧ (s.pins.pwrgood = true →
        exec .getStatus s = .next (hw (leBytes 4 s.bootstat ++ leBytes 2 s.mgmt.hottest.toNat ++ [s.kerb.tampstat, s.mgmt.lasterr]))
        ∧ (∃ l : List Byte, exec .getIdent s = .next (hw l) ∧ l.length = 32 ∧ leAt l 20 8 = s.part.serial.toNat
            ∧ byteAt l 18 = BitVec.ofNat 8 s.fuses.lc.toNat)
        ∧ (s.reached 2 = false → exec (.readReg n u off) s = .next (smb [] 1) ∧ exec (.writeReg n u off v) s = .next (smb [] 1))
        ∧ (s.reached 2 = true → n ≠ 4 → exec (.readReg n u off) s = .next (smb [] 3))
        ∧ (s.reached 2 = true → n ≠ 12 → exec (.writeReg n u off v) s = .next (smb [] 3))
        ∧ (s.reached 2 = true → reachable u.toNat off.toNat = false → exec (.readReg 4 u off) s = .next (smb [] 2)
            ∧ exec (.writeReg 12 u off v) s = .next (smb [] 2))
        ∧ (s.reached 2 = true → reachable u.toNat off.toNat = true →
            exec (.readReg 4 u off) s = .next (smb (leBytes 8 (s.mgRead u.toNat off.toNat)) 0)
            ∧ exec (.writeReg 12 u off v) s = .next ((s.mgWrite u.toNat off.toNat v).smb [] 0))
        ∧ (s.reached 6 = true → s.logOldest ≤ v.toNat → v.toNat < s.lseq → exec (.smbReadLog 8 ⟨v, true⟩) s = .next (smb (logDamaged v.toNat) 0))
        ∧ (let l : List Byte := logDamaged v.toNat
           l.length = 64 ∧ leAt l 0 8 = v.toNat ∧ leAt l 8 8 = 0 ∧ byteAt l 16 = 2 ∧ leAt l 60 4 = crc32c (l.take 60))
        ∧ (s.reached 6 = true → exec (.smbReadLog 8 ⟨v, false⟩) s
            = .next (smb (if s.logOldest ≤ v.toNat ∧ v.toNat < s.lseq then s.rdN (logBase + v.toNat % 16384 * 64) 64 else zeros 64) 0))
        ∧ (∀ c ∈ [Instr.clearAlert, .alertResponseAddress], exec c s = .next { s with mgmt := { s.mgmt with alert := false } })
        ∧ (s.alertCause = true → exec .alertReassert s = .next { s with mgmt := { s.mgmt with alert := true } })
        ∧ (s.alertCause = false → exec .alertReassert s = .next s)
        ∧ exec (.deviceReset 0xA5) s = .next s.deviceReset
        ∧ (∀ b : Byte, b ≠ 0xA5 → exec (.deviceReset b) s = .next s))
    ∧ (∀ c ∈ [(Instr.samplePreload, (0x01 : Byte)), (.idcode, 0x02), (.bypass 0xFF, 0xFF)], exec c.1 s = .next { s with tap := { s.tap with ir := c.2 } })
    ∧ (∀ c ∈ [(Instr.extest, (0x00 : Byte)), (.clamp, 0x03), (.highz, 0x04), (.extestPulse, 0x05), (.extestTrain, 0x06)],
        ∃ t : State, exec c.1 s = .next t ∧ t.tap.ir = c.2 ∧ t.held = true ∧ (∀ g, s.held = false → (t.street g).st = .stopped) ∧ t.fuses = s.fuses)
    ∧ (exec .trstN s = .next { s with tap := { ir := 0x02, data := 0, off := 0, u := 0, err := false, done := true, op := 0 } })
    ∧ (u.toNat < 16 → (s.fuses.lc = 0 ∨ s.fuses.lc = 1) →
        (s.reached 2 = true → reachable u.toNat off.toNat = true →
          exec (.pgaccRead u off) s = .next { s with tap := { ir := 0x10, data := BitVec.ofNat 64 (s.mgRead u.toNat off.toNat), off := off, u := u.truncate 4, err := false, done := true, op := 1 } }
          ∧ ∃ t : State, exec (.pgaccWrite u off v) s = .next t ∧ t = { s.mgWrite u.toNat off.toNat v with tap := t.tap } ∧ t.tap.err = false)
        ∧ ((s.reached 2 = false ∨ reachable u.toNat off.toNat = false) →
          exec (.pgaccRead u off) s = .next { s with tap := { ir := 0x10, data := 0, off := off, u := u.truncate 4, err := true, done := true, op := 1 } }))

/-- R429 to R435, R452 to R456, R495, R509, R512 to R514, R520, R521: power, reset and test pins, start-up, the tamper
monitor, the Kerb and the junction temperature. The model's own: log 1, 80, 81. -/
def Obligations.PinsAndKerb : Prop :=
  ∀ (s : State) (i : Fin 23) (t : BitVec 16) (strap : BitVec 2) (b : BootFacts),
    let same (x : State) : Prop := x.fuses = s.fuses ∧ x.part = s.part ∧ x.hostMem = s.hostMem ∧ x.extensions = s.extensions ∧ x.kerb.image = s.kerb.image
      ∧ x.kerb.keyok = s.kerb.keyok ∧ x.kerb.tampen = s.kerb.tampen ∧ x.kerb.lock = true ∧ x.boot.stage = 0 ∧ x.cores = []
      ∧ x.dir = [] ∧ x.streets = [] ∧ (∀ q < 4, (x.square q).st = .stopped ∧ (x.square q).eclk = if s.part.t20 then 2000 else 1600) ∧ x.channels = [] ∧ x.memPorts = [] ∧ x.banks = [] ∧ x.pending = s.pending
    (s.pins.pwrgood = true → exec (.pwrgoodRise strap) s = .next s ∧ ∃ x : State, exec .pwrgoodFall s = .next x ∧ same x ∧ x.mem = [] ∧ x.keyArr = [] ∧ x.kerb.wipes = 0
        ∧ x.pins.pwrgood = false ∧ x.mgmt.thermtrip = false ∧ x.tap.ir = 0x02)
    ∧ (s.pins.pwrgood = false → exec .pwrgoodFall s = .next s
        ∧ exec (.pwrgoodRise strap) s = .next { s with pins := { s.pins with pwrgood := true, smbAddr := strap } })
    ∧ (s.pins.pwrgood = true → ∃ x : State, exec .resetNLow s = .next x ∧ same x ∧ x.mem = s.mem.filter (fun c => decide (c.1 < sqBase))
        ∧ x.keyArr = s.keyArr ∧ x.kerb.wipes = s.kerb.wipes ∧ x.pins.resetN = false ∧ x.tap = s.tap)
    ∧ (s.held = false → ∃ x : State, exec (.testmode true) s = .next x ∧ same x ∧ x.held = true)
    ∧ (exec (.testmode false) s = .next { s with pins := { s.pins with testmode := false } })
    ∧ (let u : State := { s with pins := { s.pins with resetN := true } }
       (u.held = true ∨ s.boot.stage ≠ 0 → exec (.resetRelease b) s = .next u)
       ∧ (u.held = false → s.boot.stage = 0 → b.fuses = false → ∃ x : State, exec (.resetRelease b) s = .next x ∧ x.boot.stage = 0xF ∧ x.boot.fail = 3 ∧ x.mgmt.alert = true)
       ∧ (u.held = false → s.boot.stage = 0 → b.fuses = true → b.flash = false → ∃ x : State, exec (.resetRelease b) s = .next x ∧ x.boot.stage = 0xF ∧ x.boot.fail = 1)
       ∧ (u.held = false → s.boot.stage = 0 → ∃ x : State, exec (.resetRelease b) s = .next x
          ∧ (x.boot.stage = 6 ∨ (x.boot.stage = 0xF ∧ x.boot.fail ∈ [(1 : Byte), 2, 3, 4, 5, 6]))))
    ∧ (s.awake = true →
        (∃ x : State, exec .kctlWipe s = .next x ∧ x.kerb.empty = true ∧ x.kerb.keyok = false ∧ x.kerb.image = none
            ∧ x.kerb.wipes.toNat = min 0xFFFF (s.kerb.wipes.toNat + 1) ∧ (∀ i < 0x200000, memRd x.mem (sqPa 0 0x600000 + i) = 0)
            ∧ (∀ a, a < sqPa 0 0x600000 → memRd x.mem a = memRd s.mem a))
        ∧ (s.fuses.lc = 1 ∨ s.fuses.lc = 2 → exec .kctlSeal s = .next { s with kerb := { s.kerb with keyok := true, image := some (kerbStore s) } })
        ∧ (s.fuses.lc = 0 ∨ s.fuses.lc = 3 → exec .kctlSeal s = .next s)
        ∧ exec .kctlLock s = .next { s with kerb := { s.kerb with lock := true, forced := true } })
    ∧ (s.awake = false → ∀ c ∈ [Instr.kctlWipe, .kctlSeal, .kctlLock], exec c s = .next s)
    ∧ (∀ src : Fin 6, src.val ≠ 2 → s.pins.pwrgood = true → ∃ x : State, exec (.tamperDetect src) s = .next x ∧ x.kerb.tampstat.getLsbD src.val = true
        ∧ x.mgmt.alert = true ∧ (s.tamperWipes src.val = true → x.kerb.keyok = false ∧ x.kerb.image = none ∧ x.kerb.empty = true)
        ∧ (s.tamperWipes src.val = false → x.kerb.keyok = s.kerb.keyok ∧ x.kerb.image = s.kerb.image)
        ∧ ((src.val = 3 ∨ src.val = 5) → s.awake = true → x.fatal = true))
    ∧ (∀ src : Fin 6, src.val < 2 → s.pins.pwrgood = false → ∃ x : State, exec (.tamperDetect src) s = .next x ∧ x.kerb.keyok = false
        ∧ x.kerb.vbatRec.getLsbD src.val = true ∧ x.kerb.image = s.kerb.image)
    ∧ (s.pins.pwrgood = true →
        exec (.junctionTemperatureAlert ⟨i, t⟩) s = .next { s with mgmt := { s.mgmt with sensors := s.mgmt.sensors.set i.val t, alert := s.mgmt.alert || decide (460 ≤ t.toInt) } }
        ∧ exec (.thermtrip ⟨i, t⟩) s = .next { s with mgmt := { s.mgmt with sensors := s.mgmt.sensors.set i.val t, alert := s.mgmt.alert || decide (460 ≤ t.toInt), thermtrip := s.mgmt.thermtrip || decide (540 ≤ t.toInt) } })
end

