-- ==== Sys2Proof/Laws/Dispatch.lean ====
section
/-! SUPPORT. What `exec` calls for each command, and what `step` does with the command at the front. -/

namespace Sys2Proof.Machine

@[simp] theorem exec_nop (a) (s) : exec (.nop a) s = execNop a s := rfl
@[simp] theorem exec_wait (a) (s) : exec (.wait a) s = execWait a s := rfl
@[simp] theorem exec_ret (a) (s) : exec (.ret a) s = execRet a s := rfl
@[simp] theorem exec_retx (a) (s) : exec (.retx a) s = execRetx a s := rfl
@[simp] theorem exec_flushi (a) (s) : exec (.flushi a) s = execFlushi a s := rfl
@[simp] theorem exec_drain (a) (s) : exec (.drain a) s = execDrain a s := rfl
@[simp] theorem exec_tlbsync (a) (s) : exec (.tlbsync a) s = execTlbsync a s := rfl
@[simp] theorem exec_clra (a) (s) : exec (.clra a) s = execClra a s := rfl
@[simp] theorem exec_negq (a) (s) : exec (.negq a) s = execNegq a s := rfl
@[simp] theorem exec_notq (a) (s) : exec (.notq a) s = execNotq a s := rfl
@[simp] theorem exec_dneg (a) (s) : exec (.dneg a) s = execDneg a s := rfl
@[simp] theorem exec_dpref (a) (s) : exec (.dpref a) s = execDpref a s := rfl
@[simp] theorem exec_cvdq (a) (s) : exec (.cvdq a) s = execCvdq a s := rfl
@[simp] theorem exec_cvqd (a) (s) : exec (.cvqd a) s = execCvqd a s := rfl
@[simp] theorem exec_tstd (a) (s) : exec (.tstd a) s = execTstd a s := rfl
@[simp] theorem exec_cvdx (a) (s) : exec (.cvdx a) s = execCvdx a s := rfl
@[simp] theorem exec_cvxd (a) (s) : exec (.cvxd a) s = execCvxd a s := rfl
@[simp] theorem exec_cvbq (a) (s) : exec (.cvbq a) s = execCvbq a s := rfl
@[simp] theorem exec_cvqb (a) (s) : exec (.cvqb a) s = execCvqb a s := rfl
@[simp] theorem exec_bsqrt (a) (s) : exec (.bsqrt a) s = execBsqrt a s := rfl
@[simp] theorem exec_incx (a) (s) : exec (.incx a) s = execIncx a s := rfl
@[simp] theorem exec_decx (a) (s) : exec (.decx a) s = execDecx a s := rfl
@[simp] theorem exec_incy (a) (s) : exec (.incy a) s = execIncy a s := rfl
@[simp] theorem exec_decy (a) (s) : exec (.decy a) s = execDecy a s := rfl
@[simp] theorem exec_txy (a) (s) : exec (.txy a) s = execTxy a s := rfl
@[simp] theorem exec_tyx (a) (s) : exec (.tyx a) s = execTyx a s := rfl
@[simp] theorem exec_lmov (a) (s) : exec (.lmov a) s = execLmov a s := rfl
@[simp] theorem exec_lcmp (a) (s) : exec (.lcmp a) s = execLcmp a s := rfl
@[simp] theorem exec_scan (a) (s) : exec (.scan a) s = execScan a s := rfl
@[simp] theorem exec_lxlt (a) (s) : exec (.lxlt a) s = execLxlt a s := rfl
@[simp] theorem exec_mfs (a) (sel) (s) : exec (.mfs a sel) s = execMfs a sel s := rfl
@[simp] theorem exec_mts (a) (sel) (s) : exec (.mts a sel) s = execMts a sel s := rfl
@[simp] theorem exec_tpre (a) (s) : exec (.tpre a) s = execTpre a s := rfl
@[simp] theorem exec_tevict (a) (s) : exec (.tevict a) s = execTevict a s := rfl
@[simp] theorem exec_switch (a) (sel) (s) : exec (.switch a sel) s = execSwitch a sel s := rfl
@[simp] theorem exec_trap (a) (sel) (s) : exec (.trap a sel) s = execTrap a sel s := rfl
@[simp] theorem exec_svc (a) (sel) (s) : exec (.svc a sel) s = execSvc a sel s := rfl
@[simp] theorem exec_addix (a) (sel) (s) : exec (.addix a sel) s = execAddix a sel s := rfl
@[simp] theorem exec_addiy (a) (sel) (s) : exec (.addiy a sel) s = execAddiy a sel s := rfl
@[simp] theorem exec_shlq (a) (sel) (s) : exec (.shlq a sel) s = execShlq a sel s := rfl
@[simp] theorem exec_shrq (a) (sel) (s) : exec (.shrq a sel) s = execShrq a sel s := rfl
@[simp] theorem exec_sarq (a) (sel) (s) : exec (.sarq a sel) s = execSarq a sel s := rfl
@[simp] theorem exec_dshl (a) (sel) (s) : exec (.dshl a sel) s = execDshl a sel s := rfl
@[simp] theorem exec_dshr (a) (sel) (s) : exec (.dshr a sel) s = execDshr a sel s := rfl
@[simp] theorem exec_dsrr (a) (sel) (s) : exec (.dsrr a sel) s = execDsrr a sel s := rfl
@[simp] theorem exec_ldiq (a) (sel) (s) : exec (.ldiq a sel) s = execLdiq a sel s := rfl
@[simp] theorem exec_ldq (a) (m) (s) : exec (.ldq a m) s = execLdq a m s := rfl
@[simp] theorem exec_ldqs (a) (m) (s) : exec (.ldqs a m) s = execLdqs a m s := rfl
@[simp] theorem exec_stq (a) (m) (s) : exec (.stq a m) s = execStq a m s := rfl
@[simp] theorem exec_addq (a) (m) (s) : exec (.addq a m) s = execAddq a m s := rfl
@[simp] theorem exec_adcq (a) (m) (s) : exec (.adcq a m) s = execAdcq a m s := rfl
@[simp] theorem exec_subq (a) (m) (s) : exec (.subq a m) s = execSubq a m s := rfl
@[simp] theorem exec_sbcq (a) (m) (s) : exec (.sbcq a m) s = execSbcq a m s := rfl
@[simp] theorem exec_cmpq (a) (m) (s) : exec (.cmpq a m) s = execCmpq a m s := rfl
@[simp] theorem exec_andq (a) (m) (s) : exec (.andq a m) s = execAndq a m s := rfl
@[simp] theorem exec_orq (a) (m) (s) : exec (.orq a m) s = execOrq a m s := rfl
@[simp] theorem exec_xorq (a) (m) (s) : exec (.xorq a m) s = execXorq a m s := rfl
@[simp] theorem exec_mul (a) (m) (s) : exec (.mul a m) s = execMul a m s := rfl
@[simp] theorem exec_mulu (a) (m) (s) : exec (.mulu a m) s = execMulu a m s := rfl
@[simp] theorem exec_div (a) (m) (s) : exec (.div a m) s = execDiv a m s := rfl
@[simp] theorem exec_divu (a) (m) (s) : exec (.divu a m) s = execDivu a m s := rfl
@[simp] theorem exec_ldd (a) (m) (s) : exec (.ldd a m) s = execLdd a m s := rfl
@[simp] theorem exec_std (a) (m) (s) : exec (.std a m) s = execStd a m s := rfl
@[simp] theorem exec_addd (a) (m) (s) : exec (.addd a m) s = execAddd a m s := rfl
@[simp] theorem exec_subd (a) (m) (s) : exec (.subd a m) s = execSubd a m s := rfl
@[simp] theorem exec_cmpd (a) (m) (s) : exec (.cmpd a m) s = execCmpd a m s := rfl
@[simp] theorem exec_dmul (a) (m) (s) : exec (.dmul a m) s = execDmul a m s := rfl
@[simp] theorem exec_ddiv (a) (m) (s) : exec (.ddiv a m) s = execDdiv a m s := rfl
@[simp] theorem exec_ldix (a) (m) (s) : exec (.ldix a m) s = execLdix a m s := rfl
@[simp] theorem exec_ldiy (a) (m) (s) : exec (.ldiy a m) s = execLdiy a m s := rfl
@[simp] theorem exec_stix (a) (m) (s) : exec (.stix a m) s = execStix a m s := rfl
@[simp] theorem exec_stiy (a) (m) (s) : exec (.stiy a m) s = execStiy a m s := rfl
@[simp] theorem exec_leax (a) (m) (s) : exec (.leax a m) s = execLeax a m s := rfl
@[simp] theorem exec_leay (a) (m) (s) : exec (.leay a m) s = execLeay a m s := rfl
@[simp] theorem exec_bcc (a) (m) (s) : exec (.bcc a m) s = execBcc a m s := rfl
@[simp] theorem exec_call (a) (m) (s) : exec (.call a m) s = execCall a m s := rfl
@[simp] theorem exec_ldx (a) (m) (s) : exec (.ldx a m) s = execLdx a m s := rfl
@[simp] theorem exec_stx (a) (m) (s) : exec (.stx a m) s = execStx a m s := rfl
@[simp] theorem exec_faddb (a) (m) (s) : exec (.faddb a m) s = execFaddb a m s := rfl
@[simp] theorem exec_fsubb (a) (m) (s) : exec (.fsubb a m) s = execFsubb a m s := rfl
@[simp] theorem exec_fmulb (a) (m) (s) : exec (.fmulb a m) s = execFmulb a m s := rfl
@[simp] theorem exec_fdivb (a) (m) (s) : exec (.fdivb a m) s = execFdivb a m s := rfl
@[simp] theorem exec_fcmpb (a) (m) (s) : exec (.fcmpb a m) s = execFcmpb a m s := rfl
@[simp] theorem exec_faddx (a) (m) (s) : exec (.faddx a m) s = execFaddx a m s := rfl
@[simp] theorem exec_fsubx (a) (m) (s) : exec (.fsubx a m) s = execFsubx a m s := rfl
@[simp] theorem exec_fmulx (a) (m) (s) : exec (.fmulx a m) s = execFmulx a m s := rfl
@[simp] theorem exec_fdivx (a) (m) (s) : exec (.fdivx a m) s = execFdivx a m s := rfl
@[simp] theorem exec_fcmpx (a) (m) (s) : exec (.fcmpx a m) s = execFcmpx a m s := rfl
@[simp] theorem exec_loopi (a) (b1) (d) (s) : exec (.loopi a b1 d) s = execLoopi a b1 d s := rfl
@[simp] theorem exec_loopx (a) (b1) (d) (s) : exec (.loopx a b1 d) s = execLoopx a b1 d s := rfl
@[simp] theorem exec_tlbi (a) (m) (s) : exec (.tlbi a m) s = execTlbi a m s := rfl
@[simp] theorem exec_keyi (a) (m) (s) : exec (.keyi a m) s = execKeyi a m s := rfl
@[simp] theorem exec_tlbwr (a) (m) (s) : exec (.tlbwr a m) s = execTlbwr a m s := rfl
@[simp] theorem exec_tlbrd (a) (m) (s) : exec (.tlbrd a m) s = execTlbrd a m s := rfl
@[simp] theorem exec_kset (a) (m) (s) : exec (.kset a m) s = execKset a m s := rfl
@[simp] theorem exec_kget (a) (m) (s) : exec (.kget a m) s = execKget a m s := rfl
@[simp] theorem exec_smm (a) (b1) (d) (s) : exec (.smm a b1 d) s = execSmm a b1 d s := rfl
@[simp] theorem exec_lmm (a) (b1) (d) (s) : exec (.lmm a b1 d) s = execLmm a b1 d s := rfl
@[simp] theorem exec_saveh (a) (b1) (d) (s) : exec (.saveh a b1 d) s = execSaveh a b1 d s := rfl
@[simp] theorem exec_loadh (a) (b1) (d) (s) : exec (.loadh a b1 d) s = execLoadh a b1 d s := rfl
@[simp] theorem exec_bmov (a) (o) (s) : exec (.bmov a o) s = execBmov a o s := rfl
@[simp] theorem exec_bcmp (a) (o) (s) : exec (.bcmp a o) s = execBcmp a o s := rfl
@[simp] theorem exec_band (a) (o) (s) : exec (.band a o) s = execBand a o s := rfl
@[simp] theorem exec_bor (a) (o) (s) : exec (.bor a o) s = execBor a o s := rfl
@[simp] theorem exec_bxor (a) (o) (s) : exec (.bxor a o) s = execBxor a o s := rfl
@[simp] theorem exec_bxlt (a) (o) (s) : exec (.bxlt a o) s = execBxlt a o s := rfl
@[simp] theorem exec_bxsr (a) (o) (s) : exec (.bxsr a o) s = execBxsr a o s := rfl
@[simp] theorem exec_ztop (a) (o) (s) : exec (.ztop a o) s = execZtop a o s := rfl
@[simp] theorem exec_ptoz (a) (o) (s) : exec (.ptoz a o) s = execPtoz a o s := rfl
@[simp] theorem exec_fmt (a) (o) (s) : exec (.fmt a o) s = execFmt a o s := rfl
@[simp] theorem exec_fmtm (a) (o) (s) : exec (.fmtm a o) s = execFmtm a o s := rfl
@[simp] theorem exec_padd (a) (o) (s) : exec (.padd a o) s = execPadd a o s := rfl
@[simp] theorem exec_psub (a) (o) (s) : exec (.psub a o) s = execPsub a o s := rfl
@[simp] theorem exec_pset (a) (o) (s) : exec (.pset a o) s = execPset a o s := rfl
@[simp] theorem exec_pcmp (a) (o) (s) : exec (.pcmp a o) s = execPcmp a o s := rfl
@[simp] theorem exec_nmov (a) (o) (s) : exec (.nmov a o) s = execNmov a o s := rfl
@[simp] theorem exec_arcadeInstruction (a) (x) (b1) (d) (s) : exec (.arcadeInstruction a x b1 d) s = execArcadeInstruction a x b1 d s := rfl
@[simp] theorem exec_unassignedOpcode (a) (b) (s) : exec (.unassignedOpcode a b) s = execUnassignedOpcode a b s := rfl
@[simp] theorem exec_instructionFetch (c) (s) : exec (.instructionFetch c) s = execInstructionFetch c s := rfl
@[simp] theorem exec_storeBufferDrain (x) (s) : exec (.storeBufferDrain x) s = execStoreBufferDrain x s := rfl
@[simp] theorem exec_resultWrite (c) (s) : exec (.resultWrite c) s = execResultWrite c s := rfl
@[simp] theorem exec_farLoadResponse (c) (w) (r) (s) : exec (.farLoadResponse c w r) s = execFarLoadResponse c w r s := rfl
@[simp] theorem exec_postedStoreAck (c) (r) (s) : exec (.postedStoreAck c r) s = execPostedStoreAck c r s := rfl
@[simp] theorem exec_exceptionEntry (c) (err) (s) : exec (.exceptionEntry c err) s = execExceptionEntry c err s := rfl
@[simp] theorem exec_fallbackSwitch (c) (s) : exec (.fallbackSwitch c) s = execFallbackSwitch c s := rfl
@[simp] theorem exec_tpreFillBlock (c) (s) : exec (.tpreFillBlock c) s = execTpreFillBlock c s := rfl
@[simp] theorem exec_eventRecordArrival (c) (src) (s) : exec (.eventRecordArrival c src) s = execEventRecordArrival c src s := rfl
@[simp] theorem exec_timerExpiry (m) (s) : exec (.timerExpiry m) s = execTimerExpiry m s := rfl
@[simp] theorem exec_sigout (c) (s) : exec (.sigout c) s = execSigout c s := rfl
@[simp] theorem exec_registerWrite (w) (s) : exec (.registerWrite w) s = execRegisterWrite w s := rfl
@[simp] theorem exec_letterboxWrite (x) (s) : exec (.letterboxWrite x) s = execLetterboxWrite x s := rfl
@[simp] theorem exec_letterboxSlotRead (n) (s) : exec (.letterboxSlotRead n) s = execLetterboxSlotRead n s := rfl
@[simp] theorem exec_ringFlitReceive (st) (f) (act) (s) : exec (.ringFlitReceive st f act) s = execRingFlitReceive st f act s := rfl
@[simp] theorem exec_requestTimeout (u) (s) : exec (.requestTimeout u) s = execRequestTimeout u s := rfl
@[simp] theorem exec_squarePllLock (sq) (s) : exec (.squarePllLock sq) s = execSquarePllLock sq s := rfl
@[simp] theorem exec_pllLockTimeout (sq) (oldLocks) (s) : exec (.pllLockTimeout sq oldLocks) s = execPllLockTimeout sq oldLocks s := rfl
@[simp] theorem exec_invalidationReceive (u) (from_) (s) : exec (.invalidationReceive u from_) s = execInvalidationReceive u from_ s := rfl
@[simp] theorem exec_invalidationAck (u) (from_) (s) : exec (.invalidationAck u from_) s = execInvalidationAck u from_ s := rfl
@[simp] theorem exec_sqtail (f) (q) (v) (hw) (s) : exec (.sqtail f q v hw) s = execSqtail f q v hw s := rfl
@[simp] theorem exec_cqhead (f) (q) (v) (hw) (s) : exec (.cqhead f q v hw) s = execCqhead f q v hw s := rfl
@[simp] theorem exec_qctlStart (x) (s) : exec (.qctlStart x) s = execQctlStart x s := rfl
@[simp] theorem exec_qctlStop (f) (s) : exec (.qctlStop f) s = execQctlStop f s := rfl
@[simp] theorem exec_submissionFetch (f) (q) (x) (s) : exec (.submissionFetch f q x) s = execSubmissionFetch f q x s := rfl
@[simp] theorem exec_cqintTimeExpiry (f) (q) (s) : exec (.cqintTimeExpiry f q) s = execCqintTimeExpiry f q s := rfl
@[simp] theorem exec_hostWriteFailure (f) (q) (s) : exec (.hostWriteFailure f q) s = execHostWriteFailure f q s := rfl
@[simp] theorem exec_functionLevelReset (f) (s) : exec (.functionLevelReset f) s = execFunctionLevelReset f s := rfl
@[simp] theorem exec_identify (r) (s) : exec (.identify r) s = execIdentify r s := rfl
@[simp] theorem exec_tenancyBind (r) (s) : exec (.tenancyBind r) s = execTenancyBind r s := rfl
@[simp] theorem exec_tenancyUnbind (r) (s) : exec (.tenancyUnbind r) s = execTenancyUnbind r s := rfl
@[simp] theorem exec_qpCreate (r) (s) : exec (.qpCreate r) s = execQpCreate r s := rfl
@[simp] theorem exec_qpDelete (r) (s) : exec (.qpDelete r) s = execQpDelete r s := rfl
@[simp] theorem exec_loadProgram (r) (s) : exec (.loadProgram r) s = execLoadProgram r s := rfl
@[simp] theorem exec_stageArcade (r) (s) : exec (.stageArcade r) s = execStageArcade r s := rfl
@[simp] theorem exec_installArcade (r) (s) : exec (.installArcade r) s = execInstallArcade r s := rfl
@[simp] theorem exec_loadExtension (r) (chashOk) (sigOk) (s) : exec (.loadExtension r chashOk sigOk) s = execLoadExtension r chashOk sigOk s := rfl
@[simp] theorem exec_extensionOpcode (r) (ans) (s) : exec (.extensionOpcode r ans) s = execExtensionOpcode r ans s := rfl
@[simp] theorem exec_unknownOpcode (f) (q) (s) : exec (.unknownOpcode f q) s = execUnknownOpcode f q s := rfl
@[simp] theorem exec_defineRecord (r) (p) (s) : exec (.defineRecord r p) s = execDefineRecord r p s := rfl
@[simp] theorem exec_removeRecord (r) (s) : exec (.removeRecord r) s = execRemoveRecord r s := rfl
@[simp] theorem exec_setHints (r) (s) : exec (.setHints r) s = execSetHints r s := rfl
@[simp] theorem exec_clearFlags (r) (s) : exec (.clearFlags r) s = execClearFlags r s := rfl
@[simp] theorem exec_postBatch (r) (hw) (s) : exec (.postBatch r hw) s = execPostBatch r hw s := rfl
@[simp] theorem exec_queryRecord (r) (s) : exec (.queryRecord r) s = execQueryRecord r s := rfl
@[simp] theorem exec_readJournal (r) (s) : exec (.readJournal r) s = execReadJournal r s := rfl
@[simp] theorem exec_stopFn (r) (s) : exec (.stopFn r) s = execStopFn r s := rfl
@[simp] theorem exec_setConfig (r) (s) : exec (.setConfig r) s = execSetConfig r s := rfl
@[simp] theorem exec_startFn (r) (k) (s) : exec (.startFn r k) s = execStartFn r k s := rfl
@[simp] theorem exec_getConfig (r) (s) : exec (.getConfig r) s = execGetConfig r s := rfl
@[simp] theorem exec_selftest (r) (k) (s) : exec (.selftest r k) s = execSelftest r k s := rfl
@[simp] theorem exec_calibrate (r) (k) (s) : exec (.calibrate r k) s = execCalibrate r k s := rfl
@[simp] theorem exec_linkTest (r) (lanes) (s) : exec (.linkTest r lanes) s = execLinkTest r lanes s := rfl
@[simp] theorem exec_readLog (r) (s) : exec (.readLog r) s = execReadLog r s := rfl
@[simp] theorem exec_lcChange (r) (sigOk) (s) : exec (.lcChange r sigOk) s = execLcChange r sigOk s := rfl
@[simp] theorem exec_returnEntryConsume (x) (s) : exec (.returnEntryConsume x) s = execReturnEntryConsume x s := rfl
@[simp] theorem exec_recordMove (k) (m) (s) : exec (.recordMove k m) s = execRecordMove k m s := rfl
@[simp] theorem exec_moveCopyComplete (k) (x) (s) : exec (.moveCopyComplete k x) s = execMoveCopyComplete k x s := rfl
@[simp] theorem exec_releaseLimitExpiry (k) (homes) (s) : exec (.releaseLimitExpiry k homes) s = execReleaseLimitExpiry k homes s := rfl
@[simp] theorem exec_heatEpochExpiry (s) : exec .heatEpochExpiry s = execHeatEpochExpiry s := rfl
@[simp] theorem exec_directorySweep (s) : exec (.directorySweep) s = execDirectorySweep s := rfl
@[simp] theorem exec_streetEvacuation (g) (ph) (s) : exec (.streetEvacuation g ph) s = execStreetEvacuation g ph s := rfl
@[simp] theorem exec_swst (k) (s) : exec (.swst k) s = execSwst k s := rfl
@[simp] theorem exec_resume (k) (s) : exec (.resume k) s = execResume k s := rfl
@[simp] theorem exec_dis (k) (s) : exec (.dis k) s = execDis k s := rfl
@[simp] theorem exec_tramTrigger (k) (src) (s) : exec (.tramTrigger k src) s = execTramTrigger k src s := rfl
@[simp] theorem exec_partnerStart (k) (s) : exec (.partnerStart k) s = execPartnerStart k s := rfl
@[simp] theorem exec_pacingRecord (k) (src) (s) : exec (.pacingRecord k src) s = execPacingRecord k src s := rfl
@[simp] theorem exec_pacedBurstStart (k) (s) : exec (.pacedBurstStart k) s = execPacedBurstStart k s := rfl
@[simp] theorem exec_tramRead (k) (err) (s) : exec (.tramRead k err) s = execTramRead k err s := rfl
@[simp] theorem exec_tramWrite (k) (err) (s) : exec (.tramWrite k err) s = execTramWrite k err s := rfl
@[simp] theorem exec_descriptorFetch (k) (err) (s) : exec (.descriptorFetch k err) s = execDescriptorFetch k err s := rfl
@[simp] theorem exec_descriptorComplete (k) (err) (s) : exec (.descriptorComplete k err) s = execDescriptorComplete k err s := rfl
@[simp] theorem exec_tramMissService (k) (walkErr) (s) : exec (.tramMissService k walkErr) s = execTramMissService k walkErr s := rfl
@[simp] theorem exec_errorLogWrite (b) (j) (x) (homes) (s) : exec (.errorLogWrite b j x homes) s = execErrorLogWrite b j x homes s := rfl
@[simp] theorem exec_correctedCoalesceExpiry (s) : exec .correctedCoalesceExpiry s = execCorrectedCoalesceExpiry s := rfl
@[simp] theorem exec_temperatureRead (p) (t0) (t1) (s) : exec (.temperatureRead p t0 t1) s = execTemperatureRead p t0 t1 s := rfl
@[simp] theorem exec_calPeriodExpiry (p) (u) (s) : exec (.calPeriodExpiry p u) s = execCalPeriodExpiry p u s := rfl
@[simp] theorem exec_calibrationPhase (p) (u) (ok) (s) : exec (.calibrationPhase p u ok) s = execCalibrationPhase p u ok s := rfl
@[simp] theorem exec_patrolScrub (p) (err) (lane) (s) : exec (.patrolScrub p err lane) s = execPatrolScrub p err lane s := rfl
@[simp] theorem exec_refresh (p) (s) : exec (.refresh p) s = execRefresh p s := rfl
@[simp] theorem exec_pgctlRun (u) (on) (s) : exec (.pgctlRun u on) s = execPgctlRun u on s := rfl
@[simp] theorem exec_pgctlClr (u) (s) : exec (.pgctlClr u) s = execPgctlClr u s := rfl
@[simp] theorem exec_perst (h) (level) (s) : exec (.perst h level) s = execPerst h level s := rfl
@[simp] theorem exec_linkDown (h) (s) : exec (.linkDown h) s = execLinkDown h s := rfl
@[simp] theorem exec_linkRetrainTimeout (h) (s) : exec (.linkRetrainTimeout h) s = execLinkRetrainTimeout h s := rfl
@[simp] theorem exec_d3hotEntry (f) (s) : exec (.d3hotEntry f) s = execD3hotEntry f s := rfl
@[simp] theorem exec_d0Return (f) (s) : exec (.d0Return f) s = execD0Return f s := rfl
@[simp] theorem exec_fwctlRead (f) (s) : exec (.fwctlRead f) s = execFwctlRead f s := rfl
@[simp] theorem exec_fwctlErase (f) (s) : exec (.fwctlErase f) s = execFwctlErase f s := rfl
@[simp] theorem exec_fwctlProgram (f) (s) : exec (.fwctlProgram f) s = execFwctlProgram f s := rfl
@[simp] theorem exec_flashOperationComplete (fails) (s) : exec (.flashOperationComplete fails) s = execFlashOperationComplete fails s := rfl
@[simp] theorem exec_getStatus (s) : exec .getStatus s = execGetStatus s := rfl
@[simp] theorem exec_getIdent (s) : exec .getIdent s = execGetIdent s := rfl
@[simp] theorem exec_readReg (n) (u) (off) (s) : exec (.readReg n u off) s = execReadReg n u off s := rfl
@[simp] theorem exec_writeReg (n) (u) (off) (v) (s) : exec (.writeReg n u off v) s = execWriteReg n u off v s := rfl
@[simp] theorem exec_smbReadLog (n) (x) (s) : exec (.smbReadLog n x) s = execSmbReadLog n x s := rfl
@[simp] theorem exec_deviceReset (v) (s) : exec (.deviceReset v) s = execDeviceReset v s := rfl
@[simp] theorem exec_clearAlert (s) : exec .clearAlert s = execClearAlert s := rfl
@[simp] theorem exec_alertResponseAddress (s) : exec .alertResponseAddress s = execAlertResponseAddress s := rfl
@[simp] theorem exec_alertReassert (s) : exec .alertReassert s = execAlertReassert s := rfl
@[simp] theorem exec_extest (s) : exec .extest s = execExtest s := rfl
@[simp] theorem exec_samplePreload (s) : exec .samplePreload s = execSamplePreload s := rfl
@[simp] theorem exec_idcode (s) : exec .idcode s = execIdcode s := rfl
@[simp] theorem exec_clamp (s) : exec .clamp s = execClamp s := rfl
@[simp] theorem exec_highz (s) : exec .highz s = execHighz s := rfl
@[simp] theorem exec_extestPulse (s) : exec .extestPulse s = execExtestPulse s := rfl
@[simp] theorem exec_extestTrain (s) : exec .extestTrain s = execExtestTrain s := rfl
@[simp] theorem exec_bypass (code) (s) : exec (.bypass code) s = execBypass code s := rfl
@[simp] theorem exec_pgaccRead (u) (off) (s) : exec (.pgaccRead u off) s = execPgaccRead u off s := rfl
@[simp] theorem exec_pgaccWrite (u) (off) (v) (s) : exec (.pgaccWrite u off v) s = execPgaccWrite u off v s := rfl
@[simp] theorem exec_trstN (s) : exec .trstN s = execTrstN s := rfl
@[simp] theorem exec_pwrgoodRise (strap) (s) : exec (.pwrgoodRise strap) s = execPwrgoodRise strap s := rfl
@[simp] theorem exec_pwrgoodFall (s) : exec .pwrgoodFall s = execPwrgoodFall s := rfl
@[simp] theorem exec_resetNLow (s) : exec .resetNLow s = execResetNLow s := rfl
@[simp] theorem exec_resetRelease (b) (s) : exec (.resetRelease b) s = execResetRelease b s := rfl
@[simp] theorem exec_testmode (level) (s) : exec (.testmode level) s = execTestmode level s := rfl
@[simp] theorem exec_tamperDetect (src) (s) : exec (.tamperDetect src) s = execTamperDetect src s := rfl
@[simp] theorem exec_kctlWipe (s) : exec .kctlWipe s = execKctlWipe s := rfl
@[simp] theorem exec_kctlSeal (s) : exec .kctlSeal s = execKctlSeal s := rfl
@[simp] theorem exec_kctlLock (s) : exec .kctlLock s = execKctlLock s := rfl
@[simp] theorem exec_thermtrip (x) (s) : exec (.thermtrip x) s = execThermtrip x s := rfl
@[simp] theorem exec_linkUp (h) (k) (s) : exec (.linkUp h k) s = execLinkUp h k s := rfl
@[simp] theorem exec_pllLockLoss (sq) (s) : exec (.pllLockLoss sq) s = execPllLockLoss sq s := rfl
@[simp] theorem exec_junctionTemperatureAlert (x) (s) : exec (.junctionTemperatureAlert x) s = execJunctionTemperatureAlert x s := rfl
@[simp] theorem exec_configurationRequest (x) (s) : exec (.configurationRequest x) s = execConfigurationRequest x s := rfl
@[simp] theorem exec_unsupportedRequest (h) (s) : exec (.unsupportedRequest h) s = execUnsupportedRequest h s := rfl
@[simp] theorem exec_hostReadTimeout (r) (s) : exec (.hostReadTimeout r) s = execHostReadTimeout r s := rfl
@[simp] theorem exec_patternCheckerLock (u) (x) (s) : exec (.patternCheckerLock u x) s = execPatternCheckerLock u x s := rfl
@[simp] theorem exec_dqsDriftCorrection (p) (s) : exec (.dqsDriftCorrection p) s = execDqsDriftCorrection p s := rfl

theorem step_front (c : Instr) (rest : List Instr) (s : State) (h : s.pending = c :: rest) :
    step s = exec c { s with pending := rest } := by simp [step, h]

theorem step_idle (s : State) (h : s.pending = []) : step s = .next s := by simp [step, h]

end Sys2Proof.Machine
end

