-- ==== Sys2Proof/Laws/Issue.lean ====
section
/-! SUPPORT. What the issue of an instruction answers. -/

namespace Sys2Proof.Machine

/-- An instruction of the form `f` that passes its checks runs its body. -/
theorem run_of_issues {s : State} {a : Issue} {f : State → Core → Form} {r : Ready} (h : s.issues a f = .inr r)
    (mk : State → Core → Insn) (hf : ∀ s k, (mk s k).toForm = f s k) :
    s.run a mk = .next (r.perform ((mk r.s r.k0).body r.w r.ls r.bs)) := by
  have e : (fun s k => (mk s k).toForm) = f := by
    funext s k
    exact hf s k
  simp [State.run, State.issue, e, h]

/-- A core that cannot issue leaves the state as it is. -/
theorem run_of_idle {s : State} {a : Issue} (mk : State → Core → Insn) (h : s.canIssue a.core = false) :
    s.run a mk = .next s := by
  simp [State.run, State.issue, State.issues, h]

end Sys2Proof.Machine
end

