-- ==== Sys2Proof/Laws/Maps.lean ====
section
/-! SUPPORT. Maps by number: what a lookup gives after an update, and that updates keep the canonical forms. -/

namespace Sys2Proof.Machine

variable {α : Type}

/-! ### Lookups -/

@[simp] theorem spGet?_nil (k : Nat) : spGet? ([] : List (Nat × α)) k = none := rfl

@[simp] theorem spGet?_cons (j : Nat) (v : α) (r : List (Nat × α)) (k : Nat) :
    spGet? ((j, v) :: r) k = if j = k then some v else spGet? r k := rfl

@[simp] theorem spGet?_spPut_self (m : List (Nat × α)) (k : Nat) (v : α) : spGet? (spPut m k v) k = some v := by
  induction m with
  | nil => simp [spPut]
  | cons h r ih =>
    obtain ⟨j, w⟩ := h
    simp only [spPut]
    split
    · simp
    · split
      · simp
      · have : j ≠ k := fun e => by simp_all
        simp [this, ih]

theorem spGet?_spPut_ne (m : List (Nat × α)) {k j : Nat} (v : α) (h : j ≠ k) : spGet? (spPut m k v) j = spGet? m j := by
  induction m with
  | nil => simp [spPut, h.symm]
  | cons e r ih =>
    obtain ⟨i, w⟩ := e
    simp only [spPut]
    split
    · simp [h.symm]
    · split
      · next e => subst e; simp [h.symm]
      · simp [ih]

theorem spGet?_spPut (m : List (Nat × α)) (k j : Nat) (v : α) :
    spGet? (spPut m k v) j = if j = k then some v else spGet? m j := by
  by_cases h : j = k
  · subst h; simp
  · simp [h, spGet?_spPut_ne m v h]

@[simp] theorem spGet_spPut_self (d : α) (m : List (Nat × α)) (k : Nat) (v : α) : spGet d (spPut m k v) k = v := by
  simp [spGet]

theorem spGet_spPut_ne (d : α) (m : List (Nat × α)) {k j : Nat} (v : α) (h : j ≠ k) :
    spGet d (spPut m k v) j = spGet d m j := by
  simp [spGet, spGet?_spPut_ne m v h]

theorem spGet_spPut (d : α) (m : List (Nat × α)) (k j : Nat) (v : α) :
    spGet d (spPut m k v) j = if j = k then v else spGet d m j := by
  by_cases h : j = k
  · subst h; simp
  · simp [h, spGet_spPut_ne d m v h]

theorem spGet?_of_lt {m : List (Nat × α)} {k : Nat} (h : ∀ p ∈ m, k < p.1) : spGet? m k = none := by
  induction m with
  | nil => rfl
  | cons e r ih =>
    obtain ⟨j, w⟩ := e
    have hj : k < j := h (j, w) (by simp)
    rw [spGet?_cons, if_neg (by omega)]
    exact ih (fun p hp => h p (by simp [hp]))

theorem spGet?_spDel_ne (m : List (Nat × α)) {k j : Nat} (h : j ≠ k) : spGet? (spDel m k) j = spGet? m j := by
  induction m with
  | nil => rfl
  | cons e r ih =>
    obtain ⟨i, w⟩ := e
    simp only [spDel]
    split
    · next e => subst e; simp [h.symm]
    · simp [ih]

theorem spGet?_filter (m : List (Nat × α)) (f : Nat → Bool) (k : Nat) :
    spGet? (m.filter (fun c => f c.1)) k = if f k then spGet? m k else none := by
  induction m with
  | nil => simp
  | cons e r ih =>
    obtain ⟨j, w⟩ := e
    by_cases hf : f j
    · simp only [List.filter_cons, hf, if_true, spGet?_cons, ih]
      by_cases h : j = k
      · subst h; simp [hf]
      · simp [h]
    · rw [List.filter_cons, if_neg hf, ih, spGet?_cons]
      by_cases h : j = k
      · subst h; simp [hf]
      · simp [h]

theorem spGet?_spClear (m : List (Nat × α)) (a n k : Nat) :
    spGet? (spClear m a n) k = if a ≤ k ∧ k < a + n then none else spGet? m k := by
  have := spGet?_filter m (fun i => !(decide (a ≤ i) && decide (i < a + n))) k
  unfold spClear
  rw [this]
  by_cases h : a ≤ k ∧ k < a + n
  · simp [h]
  · by_cases h1 : a ≤ k
    · have : ¬ k < a + n := fun h2 => h ⟨h1, h2⟩
      simp [h1, this]
    · simp [h1]

/-! ### Rising numbers -/

theorem Sparse.wf_nil : Sparse.wf ([] : Sparse α) := by simp [Sparse.wf]

theorem Sparse.wf_cons {j : Nat} {v : α} {r : Sparse α} :
    Sparse.wf ((j, v) :: r) ↔ (∀ p ∈ r, j < p.1) ∧ Sparse.wf r := by
  simp [Sparse.wf, List.pairwise_cons]

theorem Sparse.wf_spPut {m : Sparse α} (h : m.wf) (k : Nat) (v : α) : Sparse.wf (spPut m k v) := by
  suffices hs : Sparse.wf (spPut m k v) ∧ ∀ b, b < k → (∀ p ∈ m, b < p.1) → ∀ p ∈ spPut m k v, b < p.1 from hs.1
  induction m with
  | nil =>
    refine ⟨by simp [spPut, Sparse.wf], ?_⟩
    intro b hb _ p hp
    simp only [spPut, List.mem_singleton] at hp
    subst hp; exact hb
  | cons e r ih =>
    obtain ⟨j, w⟩ := e
    obtain ⟨h1, h2⟩ := Sparse.wf_cons.1 h
    obtain ⟨ih1, ih2⟩ := ih h2
    simp only [spPut]
    split
    · next hk =>
      refine ⟨Sparse.wf_cons.2 ⟨?_, h⟩, ?_⟩
      · intro p hp
        rcases List.mem_cons.1 hp with rfl | hp
        · exact hk
        · exact lt_trans hk (h1 p hp)
      · intro b hb hall p hp
        rcases List.mem_cons.1 hp with rfl | hp
        · exact hb
        · exact hall p hp
    · split
      · next hk =>
        subst hk
        refine ⟨Sparse.wf_cons.2 ⟨h1, h2⟩, ?_⟩
        intro b hb hall p hp
        rcases List.mem_cons.1 hp with rfl | hp
        · exact hb
        · exact hall p (by simp [hp])
      · next hk1 hk2 =>
        have hjk : j < k := by omega
        refine ⟨Sparse.wf_cons.2 ⟨ih2 j hjk h1, ih1⟩, ?_⟩
        intro b hb hall p hp
        rcases List.mem_cons.1 hp with rfl | hp
        · exact hall _ (by simp)
        · exact ih2 b hb (fun q hq => hall q (by simp [hq])) p hp

theorem Sparse.wf_filter {m : Sparse α} (h : m.wf) (f : Nat × α → Bool) : Sparse.wf (m.filter f) :=
  List.Pairwise.sublist (List.Sublist.map _ List.filter_sublist) h

theorem Sparse.wf_spDel {m : Sparse α} (h : m.wf) (k : Nat) : Sparse.wf (spDel m k) := by
  suffices hs : (spDel m k).Sublist m from List.Pairwise.sublist (List.Sublist.map _ hs) h
  clear h
  induction m with
  | nil => exact List.Sublist.refl _
  | cons e r ih =>
    obtain ⟨j, w⟩ := e
    simp only [spDel]
    split
    · exact List.sublist_cons_self _ _
    · exact ih.cons_cons _

theorem Sparse.wf_spClear {m : Sparse α} (h : m.wf) (a n : Nat) : Sparse.wf (spClear m a n) := Sparse.wf_filter h _

theorem spGet?_spDel_self {m : Sparse α} (h : m.wf) (k : Nat) : spGet? (spDel m k) k = none := by
  induction m with
  | nil => rfl
  | cons e r ih =>
    obtain ⟨j, w⟩ := e
    obtain ⟨h1, h2⟩ := Sparse.wf_cons.1 h
    simp only [spDel]
    split
    · next e => subst e; exact spGet?_of_lt h1
    · next hne => simp [hne, ih h2]

/-! ### Memories in canonical form -/

theorem Memory.wf_iff (d : Byte) (m : List Host.Cell) :
    Memory.wf d m = true ↔ Sparse.wf m ∧ ∀ c ∈ m, c.2 ≠ d := by
  induction m with
  | nil => simp [Memory.wf, Sparse.wf]
  | cons e r ih =>
    cases r with
    | nil => simp [Memory.wf, Sparse.wf]
    | cons f r =>
      obtain ⟨j, v⟩ := e
      obtain ⟨j', v'⟩ := f
      simp only [Memory.wf, Bool.and_eq_true, decide_eq_true_eq, ih, Sparse.wf_cons]
      constructor
      · rintro ⟨⟨h1, h2⟩, ⟨h3, h4⟩, h5⟩
        refine ⟨⟨?_, h3, h4⟩, ?_⟩
        · intro p hp
          rcases List.mem_cons.1 hp with rfl | hp
          · exact h1
          · exact lt_trans h1 (h3 p hp)
        · intro c hc
          rcases List.mem_cons.1 hc with rfl | hc
          · exact h2
          · exact h5 c hc
      · rintro ⟨⟨h1, h3, h4⟩, h5⟩
        exact ⟨⟨h1 (j', v') (by simp), h5 (j, v) (by simp)⟩, ⟨h3, h4⟩, fun c hc => h5 c (by simp [hc])⟩

theorem mem_spPut {m : List (Nat × α)} {k : Nat} {v : α} {c : Nat × α} (h : c ∈ spPut m k v) : c = (k, v) ∨ c ∈ m := by
  induction m with
  | nil => simpa [spPut] using h
  | cons e r ih =>
    obtain ⟨j, w⟩ := e
    simp only [spPut] at h
    split at h
    · rcases List.mem_cons.1 h with rfl | h
      · exact .inl rfl
      · exact .inr h
    · split at h
      · rcases List.mem_cons.1 h with rfl | h
        · exact .inl rfl
        · exact .inr (by simp [h])
      · rcases List.mem_cons.1 h with rfl | h
        · exact .inr (by simp)
        · rcases ih h with h | h
          · exact .inl h
          · exact .inr (by simp [h])

theorem mem_spDel {m : List (Nat × α)} {k : Nat} {c : Nat × α} (h : c ∈ spDel m k) : c ∈ m := by
  induction m with
  | nil => exact h
  | cons e r ih =>
    obtain ⟨j, w⟩ := e
    simp only [spDel] at h
    split at h
    · simp [h]
    · rcases List.mem_cons.1 h with rfl | h
      · simp
      · simp [ih h]

/-- Writing a cell keeps the canonical form. -/
theorem Memory.wf_cellPut {d : Byte} {m : List Host.Cell} (h : Memory.wf d m = true) (k : Nat) (v : Byte) :
    Memory.wf d (cellPut d m k v) = true := by
  obtain ⟨h1, h2⟩ := (Memory.wf_iff d m).1 h
  unfold cellPut
  split
  · exact (Memory.wf_iff _ _).2 ⟨Sparse.wf_spDel h1 k, fun c hc => h2 c (mem_spDel hc)⟩
  · next hv =>
    refine (Memory.wf_iff _ _).2 ⟨Sparse.wf_spPut h1 k v, fun c hc => ?_⟩
    rcases mem_spPut hc with rfl | hc
    · exact hv
    · exact h2 c hc

/-- A cell reads as it was written last, and the others as before. -/
theorem spGet_cellPut {d : Byte} {m : List Host.Cell} (h : Memory.wf d m = true) (k j : Nat) (v : Byte) :
    spGet d (cellPut d m k v) j = if j = k then v else spGet d m j := by
  obtain ⟨h1, _⟩ := (Memory.wf_iff d m).1 h
  unfold cellPut
  split
  · next hv =>
    subst hv
    by_cases hj : j = k
    · subst hj
      simp [spGet, spGet?_spDel_self h1]
    · simp [spGet, spGet?_spDel_ne m hj, hj]
  · exact spGet_spPut d m k j v

theorem Memory.wf_filter {d : Byte} {m : List Host.Cell} (h : Memory.wf d m = true) (f : Host.Cell → Bool) :
    Memory.wf d (m.filter f) = true := by
  obtain ⟨h1, h2⟩ := (Memory.wf_iff d m).1 h
  exact (Memory.wf_iff _ _).2 ⟨Sparse.wf_filter h1 f, fun c hc => h2 c (List.mem_of_mem_filter hc)⟩

theorem Memory.wf_spClear {d : Byte} {m : List Host.Cell} (h : Memory.wf d m = true) (a n : Nat) :
    Memory.wf d (spClear m a n) = true := Memory.wf_filter h _

theorem Memory.wf_memWr {m : List Host.Cell} (h : Memory.wf memDefault m = true) (a : Nat) (b : Byte) :
    Memory.wf memDefault (memWr m a b) = true := Memory.wf_cellPut h a b

theorem memRd_memWr {m : List Host.Cell} (h : Memory.wf memDefault m = true) (a i : Nat) (b : Byte) :
    memRd (memWr m a b) i = if i = a then b else memRd m i := spGet_cellPut h a i b

theorem Memory.wf_hostPut {m : List Host.Cell} (h : Memory.wf memDefault m = true) (a : Nat) (l : List Byte) :
    Memory.wf memDefault (hostPut m a l) = true := by
  induction l generalizing m a with
  | nil => exact h
  | cons b r ih => exact ih (Memory.wf_memWr h _ _) _

theorem Memory.wf_flashWr {m : List Host.Cell} (h : Memory.wf 0xFF m = true) (a : Nat) (l : List Byte) :
    Memory.wf 0xFF (flashWr m a l) = true := by
  induction l generalizing m a with
  | nil => exact h
  | cons b r ih => exact ih (Memory.wf_cellPut h _ _) _

/-- Bytes written to plain memory keep its canonical form. -/
theorem Memory.wf_memPut {m : List Host.Cell} (h : Memory.wf memDefault m = true) (a : Nat) (l : List Byte) :
    Memory.wf memDefault (memPut m a l) = true := by
  induction l generalizing m a with
  | nil => exact h
  | cons b r ih => exact ih (Memory.wf_memWr h _ _) _

/-- A byte written to attached memory keeps the canonical form of the memory. -/
theorem State.attWr_memWf {s : State} (h : Memory.wf memDefault s.mem = true) (pa : Nat) (b : Byte) :
    Memory.wf memDefault (s.attWr pa b).mem = true := by
  unfold State.attWr
  split
  · exact h
  · split
    · exact Memory.wf_memWr h _ _
    · dsimp only
      generalize List.replicate 32 memDefault = l
      split <;> simp only [Memory.wf_memPut h]

/-- A byte written at a physical address keeps the canonical form of the memory. -/
theorem State.wr_memWf {s : State} (h : Memory.wf memDefault s.mem = true) (pa : Nat) (b : Byte) :
    Memory.wf memDefault (s.wr pa b).mem = true := by
  unfold State.wr
  split
  · exact State.attWr_memWf h pa b
  all_goals first | exact h | exact Memory.wf_memWr h _ _

/-- Bytes written keep the canonical form of the memory. -/
theorem State.wrN_memWf {s : State} (h : Memory.wf memDefault s.mem = true) (pa : Nat) (l : List Byte) :
    Memory.wf memDefault (s.wrN pa l).mem = true := by
  induction l generalizing s pa with
  | nil => exact h
  | cons b r ih => exact ih (State.wr_memWf h pa b) (pa + 1)

/-- Every memory is in canonical form after reset. -/
theorem State.reset_memOk : State.reset.memOk := ⟨rfl, rfl, rfl, rfl⟩

end Sys2Proof.Machine
end

