-- ==== Sys2Proof/Laws/State.lean ====
section
/-! SUPPORT. What each named update of the state leaves: one lemma for each field. -/

set_option Elab.async false

namespace Sys2Proof.Machine

variable (s : State)

@[simp] theorem State.setCore_pending (c : CoreId) (k : Core) : (s.setCore c k).pending = s.pending := rfl
@[simp] theorem State.setCore_part (c : CoreId) (k : Core) : (s.setCore c k).part = s.part := rfl
@[simp] theorem State.setCore_mem (c : CoreId) (k : Core) : (s.setCore c k).mem = s.mem := rfl
@[simp] theorem State.setCore_keyArr (c : CoreId) (k : Core) : (s.setCore c k).keyArr = s.keyArr := rfl
@[simp] theorem State.setCore_layout (c : CoreId) (k : Core) : (s.setCore c k).layout = s.layout := rfl
@[simp] theorem State.setCore_tileKeys (c : CoreId) (k : Core) : (s.setCore c k).tileKeys = s.tileKeys := rfl
@[simp] theorem State.setCore_sqKeys (c : CoreId) (k : Core) : (s.setCore c k).sqKeys = s.sqKeys := rfl
@[simp] theorem State.setCore_kabase (c : CoreId) (k : Core) : (s.setCore c k).kabase = s.kabase := rfl
@[simp] theorem State.setCore_dirbase (c : CoreId) (k : Core) : (s.setCore c k).dirbase = s.dirbase := rfl
@[simp] theorem State.setCore_installed (c : CoreId) (k : Core) : (s.setCore c k).installed = s.installed := rfl
@[simp] theorem State.setCore_regions (c : CoreId) (k : Core) : (s.setCore c k).regions = s.regions := rfl
@[simp] theorem State.setCore_hostMem (c : CoreId) (k : Core) : (s.setCore c k).hostMem = s.hostMem := rfl
@[simp] theorem State.setCore_streets (c : CoreId) (k : Core) : (s.setCore c k).streets = s.streets := rfl
@[simp] theorem State.setCore_squares (c : CoreId) (k : Core) : (s.setCore c k).squares = s.squares := rfl
@[simp] theorem State.setCore_channels (c : CoreId) (k : Core) : (s.setCore c k).channels = s.channels := rfl
@[simp] theorem State.setCore_trams (c : CoreId) (k : Core) : (s.setCore c k).trams = s.trams := rfl
@[simp] theorem State.setCore_memPorts (c : CoreId) (k : Core) : (s.setCore c k).memPorts = s.memPorts := rfl
@[simp] theorem State.setCore_hostPorts (c : CoreId) (k : Core) : (s.setCore c k).hostPorts = s.hostPorts := rfl
@[simp] theorem State.setCore_tenancies (c : CoreId) (k : Core) : (s.setCore c k).tenancies = s.tenancies := rfl
@[simp] theorem State.setCore_raised (c : CoreId) (k : Core) : (s.setCore c k).raised = s.raised := rfl
@[simp] theorem State.setCore_seen (c : CoreId) (k : Core) : (s.setCore c k).seen = s.seen := rfl
@[simp] theorem State.setCore_invals (c : CoreId) (k : Core) : (s.setCore c k).invals = s.invals := rfl
@[simp] theorem State.setCore_dir (c : CoreId) (k : Core) : (s.setCore c k).dir = s.dir := rfl
@[simp] theorem State.setCore_fwdq (c : CoreId) (k : Core) : (s.setCore c k).fwdq = s.fwdq := rfl
@[simp] theorem State.setCore_deliveries (c : CoreId) (k : Core) : (s.setCore c k).deliveries = s.deliveries := rfl
@[simp] theorem State.setCore_moves (c : CoreId) (k : Core) : (s.setCore c k).moves = s.moves := rfl
@[simp] theorem State.setCore_batches (c : CoreId) (k : Core) : (s.setCore c k).batches = s.batches := rfl
@[simp] theorem State.setCore_nextHandle (c : CoreId) (k : Core) : (s.setCore c k).nextHandle = s.nextHandle := rfl
@[simp] theorem State.setCore_nextMove (c : CoreId) (k : Core) : (s.setCore c k).nextMove = s.nextMove := rfl
@[simp] theorem State.setCore_heatNow (c : CoreId) (k : Core) : (s.setCore c k).heatNow = s.heatNow := rfl
@[simp] theorem State.setCore_placeCfg (c : CoreId) (k : Core) : (s.setCore c k).placeCfg = s.placeCfg := rfl
@[simp] theorem State.setCore_msix (c : CoreId) (k : Core) : (s.setCore c k).msix = s.msix := rfl
@[simp] theorem State.setCore_msixTab (c : CoreId) (k : Core) : (s.setCore c k).msixTab = s.msixTab := rfl
@[simp] theorem State.setCore_nextTurn (c : CoreId) (k : Core) : (s.setCore c k).nextTurn = s.nextTurn := rfl
@[simp] theorem State.setCore_banks (c : CoreId) (k : Core) : (s.setCore c k).banks = s.banks := rfl
@[simp] theorem State.setCore_newest (c : CoreId) (k : Core) : (s.setCore c k).newest = s.newest := rfl
@[simp] theorem State.setCore_lseq (c : CoreId) (k : Core) : (s.setCore c k).lseq = s.lseq := rfl
@[simp] theorem State.setCore_coalesce (c : CoreId) (k : Core) : (s.setCore c k).coalesce = s.coalesce := rfl
@[simp] theorem State.setCore_aer (c : CoreId) (k : Core) : (s.setCore c k).aer = s.aer := rfl
@[simp] theorem State.setCore_aerLast (c : CoreId) (k : Core) : (s.setCore c k).aerLast = s.aerLast := rfl
@[simp] theorem State.setCore_fatal (c : CoreId) (k : Core) : (s.setCore c k).fatal = s.fatal := rfl
@[simp] theorem State.setCore_fuses (c : CoreId) (k : Core) : (s.setCore c k).fuses = s.fuses := rfl
@[simp] theorem State.setCore_extensions (c : CoreId) (k : Core) : (s.setCore c k).extensions = s.extensions := rfl
@[simp] theorem State.setCore_staged (c : CoreId) (k : Core) : (s.setCore c k).staged = s.staged := rfl
@[simp] theorem State.setCore_arcade (c : CoreId) (k : Core) : (s.setCore c k).arcade = s.arcade := rfl
@[simp] theorem State.setCore_arcgen (c : CoreId) (k : Core) : (s.setCore c k).arcgen = s.arcgen := rfl
@[simp] theorem State.setCore_flash (c : CoreId) (k : Core) : (s.setCore c k).flash = s.flash := rfl
@[simp] theorem State.setCore_flashOp (c : CoreId) (k : Core) : (s.setCore c k).flashOp = s.flashOp := rfl
@[simp] theorem State.setCore_torn (c : CoreId) (k : Core) : (s.setCore c k).torn = s.torn := rfl
@[simp] theorem State.setCore_fwaddr (c : CoreId) (k : Core) : (s.setCore c k).fwaddr = s.fwaddr := rfl
@[simp] theorem State.setCore_fwerr (c : CoreId) (k : Core) : (s.setCore c k).fwerr = s.fwerr := rfl
@[simp] theorem State.setCore_fwbuf (c : CoreId) (k : Core) : (s.setCore c k).fwbuf = s.fwbuf := rfl
@[simp] theorem State.setCore_boot (c : CoreId) (k : Core) : (s.setCore c k).boot = s.boot := rfl
@[simp] theorem State.setCore_kerb (c : CoreId) (k : Core) : (s.setCore c k).kerb = s.kerb := rfl
@[simp] theorem State.setCore_mgmt (c : CoreId) (k : Core) : (s.setCore c k).mgmt = s.mgmt := rfl
@[simp] theorem State.setCore_tap (c : CoreId) (k : Core) : (s.setCore c k).tap = s.tap := rfl
@[simp] theorem State.setCore_pins (c : CoreId) (k : Core) : (s.setCore c k).pins = s.pins := rfl
@[simp] theorem State.setCore_free (c : CoreId) (k : Core) : (s.setCore c k).free = s.free := rfl

@[simp] theorem State.setStreet_pending (g : Nat) (x : Street) : (s.setStreet g x).pending = s.pending := rfl
@[simp] theorem State.setStreet_part (g : Nat) (x : Street) : (s.setStreet g x).part = s.part := rfl
@[simp] theorem State.setStreet_mem (g : Nat) (x : Street) : (s.setStreet g x).mem = s.mem := rfl
@[simp] theorem State.setStreet_keyArr (g : Nat) (x : Street) : (s.setStreet g x).keyArr = s.keyArr := rfl
@[simp] theorem State.setStreet_layout (g : Nat) (x : Street) : (s.setStreet g x).layout = s.layout := rfl
@[simp] theorem State.setStreet_tileKeys (g : Nat) (x : Street) : (s.setStreet g x).tileKeys = s.tileKeys := rfl
@[simp] theorem State.setStreet_sqKeys (g : Nat) (x : Street) : (s.setStreet g x).sqKeys = s.sqKeys := rfl
@[simp] theorem State.setStreet_kabase (g : Nat) (x : Street) : (s.setStreet g x).kabase = s.kabase := rfl
@[simp] theorem State.setStreet_dirbase (g : Nat) (x : Street) : (s.setStreet g x).dirbase = s.dirbase := rfl
@[simp] theorem State.setStreet_installed (g : Nat) (x : Street) : (s.setStreet g x).installed = s.installed := rfl
@[simp] theorem State.setStreet_regions (g : Nat) (x : Street) : (s.setStreet g x).regions = s.regions := rfl
@[simp] theorem State.setStreet_hostMem (g : Nat) (x : Street) : (s.setStreet g x).hostMem = s.hostMem := rfl
@[simp] theorem State.setStreet_cores (g : Nat) (x : Street) : (s.setStreet g x).cores = s.cores := rfl
@[simp] theorem State.setStreet_squares (g : Nat) (x : Street) : (s.setStreet g x).squares = s.squares := rfl
@[simp] theorem State.setStreet_channels (g : Nat) (x : Street) : (s.setStreet g x).channels = s.channels := rfl
@[simp] theorem State.setStreet_trams (g : Nat) (x : Street) : (s.setStreet g x).trams = s.trams := rfl
@[simp] theorem State.setStreet_memPorts (g : Nat) (x : Street) : (s.setStreet g x).memPorts = s.memPorts := rfl
@[simp] theorem State.setStreet_hostPorts (g : Nat) (x : Street) : (s.setStreet g x).hostPorts = s.hostPorts := rfl
@[simp] theorem State.setStreet_tenancies (g : Nat) (x : Street) : (s.setStreet g x).tenancies = s.tenancies := rfl
@[simp] theorem State.setStreet_raised (g : Nat) (x : Street) : (s.setStreet g x).raised = s.raised := rfl
@[simp] theorem State.setStreet_seen (g : Nat) (x : Street) : (s.setStreet g x).seen = s.seen := rfl
@[simp] theorem State.setStreet_invals (g : Nat) (x : Street) : (s.setStreet g x).invals = s.invals := rfl
@[simp] theorem State.setStreet_dir (g : Nat) (x : Street) : (s.setStreet g x).dir = s.dir := rfl
@[simp] theorem State.setStreet_fwdq (g : Nat) (x : Street) : (s.setStreet g x).fwdq = s.fwdq := rfl
@[simp] theorem State.setStreet_deliveries (g : Nat) (x : Street) : (s.setStreet g x).deliveries = s.deliveries := rfl
@[simp] theorem State.setStreet_moves (g : Nat) (x : Street) : (s.setStreet g x).moves = s.moves := rfl
@[simp] theorem State.setStreet_batches (g : Nat) (x : Street) : (s.setStreet g x).batches = s.batches := rfl
@[simp] theorem State.setStreet_nextHandle (g : Nat) (x : Street) : (s.setStreet g x).nextHandle = s.nextHandle := rfl
@[simp] theorem State.setStreet_nextMove (g : Nat) (x : Street) : (s.setStreet g x).nextMove = s.nextMove := rfl
@[simp] theorem State.setStreet_heatNow (g : Nat) (x : Street) : (s.setStreet g x).heatNow = s.heatNow := rfl
@[simp] theorem State.setStreet_placeCfg (g : Nat) (x : Street) : (s.setStreet g x).placeCfg = s.placeCfg := rfl
@[simp] theorem State.setStreet_msix (g : Nat) (x : Street) : (s.setStreet g x).msix = s.msix := rfl
@[simp] theorem State.setStreet_msixTab (g : Nat) (x : Street) : (s.setStreet g x).msixTab = s.msixTab := rfl
@[simp] theorem State.setStreet_nextTurn (g : Nat) (x : Street) : (s.setStreet g x).nextTurn = s.nextTurn := rfl
@[simp] theorem State.setStreet_banks (g : Nat) (x : Street) : (s.setStreet g x).banks = s.banks := rfl
@[simp] theorem State.setStreet_newest (g : Nat) (x : Street) : (s.setStreet g x).newest = s.newest := rfl
@[simp] theorem State.setStreet_lseq (g : Nat) (x : Street) : (s.setStreet g x).lseq = s.lseq := rfl
@[simp] theorem State.setStreet_coalesce (g : Nat) (x : Street) : (s.setStreet g x).coalesce = s.coalesce := rfl
@[simp] theorem State.setStreet_aer (g : Nat) (x : Street) : (s.setStreet g x).aer = s.aer := rfl
@[simp] theorem State.setStreet_aerLast (g : Nat) (x : Street) : (s.setStreet g x).aerLast = s.aerLast := rfl
@[simp] theorem State.setStreet_fatal (g : Nat) (x : Street) : (s.setStreet g x).fatal = s.fatal := rfl
@[simp] theorem State.setStreet_fuses (g : Nat) (x : Street) : (s.setStreet g x).fuses = s.fuses := rfl
@[simp] theorem State.setStreet_extensions (g : Nat) (x : Street) : (s.setStreet g x).extensions = s.extensions := rfl
@[simp] theorem State.setStreet_staged (g : Nat) (x : Street) : (s.setStreet g x).staged = s.staged := rfl
@[simp] theorem State.setStreet_arcade (g : Nat) (x : Street) : (s.setStreet g x).arcade = s.arcade := rfl
@[simp] theorem State.setStreet_arcgen (g : Nat) (x : Street) : (s.setStreet g x).arcgen = s.arcgen := rfl
@[simp] theorem State.setStreet_flash (g : Nat) (x : Street) : (s.setStreet g x).flash = s.flash := rfl
@[simp] theorem State.setStreet_flashOp (g : Nat) (x : Street) : (s.setStreet g x).flashOp = s.flashOp := rfl
@[simp] theorem State.setStreet_torn (g : Nat) (x : Street) : (s.setStreet g x).torn = s.torn := rfl
@[simp] theorem State.setStreet_fwaddr (g : Nat) (x : Street) : (s.setStreet g x).fwaddr = s.fwaddr := rfl
@[simp] theorem State.setStreet_fwerr (g : Nat) (x : Street) : (s.setStreet g x).fwerr = s.fwerr := rfl
@[simp] theorem State.setStreet_fwbuf (g : Nat) (x : Street) : (s.setStreet g x).fwbuf = s.fwbuf := rfl
@[simp] theorem State.setStreet_boot (g : Nat) (x : Street) : (s.setStreet g x).boot = s.boot := rfl
@[simp] theorem State.setStreet_kerb (g : Nat) (x : Street) : (s.setStreet g x).kerb = s.kerb := rfl
@[simp] theorem State.setStreet_mgmt (g : Nat) (x : Street) : (s.setStreet g x).mgmt = s.mgmt := rfl
@[simp] theorem State.setStreet_tap (g : Nat) (x : Street) : (s.setStreet g x).tap = s.tap := rfl
@[simp] theorem State.setStreet_pins (g : Nat) (x : Street) : (s.setStreet g x).pins = s.pins := rfl
@[simp] theorem State.setStreet_free (g : Nat) (x : Street) : (s.setStreet g x).free = s.free := rfl

@[simp] theorem State.setSquare_pending (q : Nat) (x : Square) : (s.setSquare q x).pending = s.pending := rfl
@[simp] theorem State.setSquare_part (q : Nat) (x : Square) : (s.setSquare q x).part = s.part := rfl
@[simp] theorem State.setSquare_mem (q : Nat) (x : Square) : (s.setSquare q x).mem = s.mem := rfl
@[simp] theorem State.setSquare_keyArr (q : Nat) (x : Square) : (s.setSquare q x).keyArr = s.keyArr := rfl
@[simp] theorem State.setSquare_layout (q : Nat) (x : Square) : (s.setSquare q x).layout = s.layout := rfl
@[simp] theorem State.setSquare_tileKeys (q : Nat) (x : Square) : (s.setSquare q x).tileKeys = s.tileKeys := rfl
@[simp] theorem State.setSquare_sqKeys (q : Nat) (x : Square) : (s.setSquare q x).sqKeys = s.sqKeys := rfl
@[simp] theorem State.setSquare_kabase (q : Nat) (x : Square) : (s.setSquare q x).kabase = s.kabase := rfl
@[simp] theorem State.setSquare_dirbase (q : Nat) (x : Square) : (s.setSquare q x).dirbase = s.dirbase := rfl
@[simp] theorem State.setSquare_installed (q : Nat) (x : Square) : (s.setSquare q x).installed = s.installed := rfl
@[simp] theorem State.setSquare_regions (q : Nat) (x : Square) : (s.setSquare q x).regions = s.regions := rfl
@[simp] theorem State.setSquare_hostMem (q : Nat) (x : Square) : (s.setSquare q x).hostMem = s.hostMem := rfl
@[simp] theorem State.setSquare_cores (q : Nat) (x : Square) : (s.setSquare q x).cores = s.cores := rfl
@[simp] theorem State.setSquare_streets (q : Nat) (x : Square) : (s.setSquare q x).streets = s.streets := rfl
@[simp] theorem State.setSquare_channels (q : Nat) (x : Square) : (s.setSquare q x).channels = s.channels := rfl
@[simp] theorem State.setSquare_trams (q : Nat) (x : Square) : (s.setSquare q x).trams = s.trams := rfl
@[simp] theorem State.setSquare_memPorts (q : Nat) (x : Square) : (s.setSquare q x).memPorts = s.memPorts := rfl
@[simp] theorem State.setSquare_hostPorts (q : Nat) (x : Square) : (s.setSquare q x).hostPorts = s.hostPorts := rfl
@[simp] theorem State.setSquare_tenancies (q : Nat) (x : Square) : (s.setSquare q x).tenancies = s.tenancies := rfl
@[simp] theorem State.setSquare_raised (q : Nat) (x : Square) : (s.setSquare q x).raised = s.raised := rfl
@[simp] theorem State.setSquare_seen (q : Nat) (x : Square) : (s.setSquare q x).seen = s.seen := rfl
@[simp] theorem State.setSquare_invals (q : Nat) (x : Square) : (s.setSquare q x).invals = s.invals := rfl
@[simp] theorem State.setSquare_dir (q : Nat) (x : Square) : (s.setSquare q x).dir = s.dir := rfl
@[simp] theorem State.setSquare_fwdq (q : Nat) (x : Square) : (s.setSquare q x).fwdq = s.fwdq := rfl
@[simp] theorem State.setSquare_deliveries (q : Nat) (x : Square) : (s.setSquare q x).deliveries = s.deliveries := rfl
@[simp] theorem State.setSquare_moves (q : Nat) (x : Square) : (s.setSquare q x).moves = s.moves := rfl
@[simp] theorem State.setSquare_batches (q : Nat) (x : Square) : (s.setSquare q x).batches = s.batches := rfl
@[simp] theorem State.setSquare_nextHandle (q : Nat) (x : Square) : (s.setSquare q x).nextHandle = s.nextHandle := rfl
@[simp] theorem State.setSquare_nextMove (q : Nat) (x : Square) : (s.setSquare q x).nextMove = s.nextMove := rfl
@[simp] theorem State.setSquare_heatNow (q : Nat) (x : Square) : (s.setSquare q x).heatNow = s.heatNow := rfl
@[simp] theorem State.setSquare_placeCfg (q : Nat) (x : Square) : (s.setSquare q x).placeCfg = s.placeCfg := rfl
@[simp] theorem State.setSquare_msix (q : Nat) (x : Square) : (s.setSquare q x).msix = s.msix := rfl
@[simp] theorem State.setSquare_msixTab (q : Nat) (x : Square) : (s.setSquare q x).msixTab = s.msixTab := rfl
@[simp] theorem State.setSquare_nextTurn (q : Nat) (x : Square) : (s.setSquare q x).nextTurn = s.nextTurn := rfl
@[simp] theorem State.setSquare_banks (q : Nat) (x : Square) : (s.setSquare q x).banks = s.banks := rfl
@[simp] theorem State.setSquare_newest (q : Nat) (x : Square) : (s.setSquare q x).newest = s.newest := rfl
@[simp] theorem State.setSquare_lseq (q : Nat) (x : Square) : (s.setSquare q x).lseq = s.lseq := rfl
@[simp] theorem State.setSquare_coalesce (q : Nat) (x : Square) : (s.setSquare q x).coalesce = s.coalesce := rfl
@[simp] theorem State.setSquare_aer (q : Nat) (x : Square) : (s.setSquare q x).aer = s.aer := rfl
@[simp] theorem State.setSquare_aerLast (q : Nat) (x : Square) : (s.setSquare q x).aerLast = s.aerLast := rfl
@[simp] theorem State.setSquare_fatal (q : Nat) (x : Square) : (s.setSquare q x).fatal = s.fatal := rfl
@[simp] theorem State.setSquare_fuses (q : Nat) (x : Square) : (s.setSquare q x).fuses = s.fuses := rfl
@[simp] theorem State.setSquare_extensions (q : Nat) (x : Square) : (s.setSquare q x).extensions = s.extensions := rfl
@[simp] theorem State.setSquare_staged (q : Nat) (x : Square) : (s.setSquare q x).staged = s.staged := rfl
@[simp] theorem State.setSquare_arcade (q : Nat) (x : Square) : (s.setSquare q x).arcade = s.arcade := rfl
@[simp] theorem State.setSquare_arcgen (q : Nat) (x : Square) : (s.setSquare q x).arcgen = s.arcgen := rfl
@[simp] theorem State.setSquare_flash (q : Nat) (x : Square) : (s.setSquare q x).flash = s.flash := rfl
@[simp] theorem State.setSquare_flashOp (q : Nat) (x : Square) : (s.setSquare q x).flashOp = s.flashOp := rfl
@[simp] theorem State.setSquare_torn (q : Nat) (x : Square) : (s.setSquare q x).torn = s.torn := rfl
@[simp] theorem State.setSquare_fwaddr (q : Nat) (x : Square) : (s.setSquare q x).fwaddr = s.fwaddr := rfl
@[simp] theorem State.setSquare_fwerr (q : Nat) (x : Square) : (s.setSquare q x).fwerr = s.fwerr := rfl
@[simp] theorem State.setSquare_fwbuf (q : Nat) (x : Square) : (s.setSquare q x).fwbuf = s.fwbuf := rfl
@[simp] theorem State.setSquare_boot (q : Nat) (x : Square) : (s.setSquare q x).boot = s.boot := rfl
@[simp] theorem State.setSquare_kerb (q : Nat) (x : Square) : (s.setSquare q x).kerb = s.kerb := rfl
@[simp] theorem State.setSquare_mgmt (q : Nat) (x : Square) : (s.setSquare q x).mgmt = s.mgmt := rfl
@[simp] theorem State.setSquare_tap (q : Nat) (x : Square) : (s.setSquare q x).tap = s.tap := rfl
@[simp] theorem State.setSquare_pins (q : Nat) (x : Square) : (s.setSquare q x).pins = s.pins := rfl
@[simp] theorem State.setSquare_free (q : Nat) (x : Square) : (s.setSquare q x).free = s.free := rfl

@[simp] theorem State.setChannel_pending (k : Nat) (x : Channel) : (s.setChannel k x).pending = s.pending := rfl
@[simp] theorem State.setChannel_part (k : Nat) (x : Channel) : (s.setChannel k x).part = s.part := rfl
@[simp] theorem State.setChannel_mem (k : Nat) (x : Channel) : (s.setChannel k x).mem = s.mem := rfl
@[simp] theorem State.setChannel_keyArr (k : Nat) (x : Channel) : (s.setChannel k x).keyArr = s.keyArr := rfl
@[simp] theorem State.setChannel_layout (k : Nat) (x : Channel) : (s.setChannel k x).layout = s.layout := rfl
@[simp] theorem State.setChannel_tileKeys (k : Nat) (x : Channel) : (s.setChannel k x).tileKeys = s.tileKeys := rfl
@[simp] theorem State.setChannel_sqKeys (k : Nat) (x : Channel) : (s.setChannel k x).sqKeys = s.sqKeys := rfl
@[simp] theorem State.setChannel_kabase (k : Nat) (x : Channel) : (s.setChannel k x).kabase = s.kabase := rfl
@[simp] theorem State.setChannel_dirbase (k : Nat) (x : Channel) : (s.setChannel k x).dirbase = s.dirbase := rfl
@[simp] theorem State.setChannel_installed (k : Nat) (x : Channel) : (s.setChannel k x).installed = s.installed := rfl
@[simp] theorem State.setChannel_regions (k : Nat) (x : Channel) : (s.setChannel k x).regions = s.regions := rfl
@[simp] theorem State.setChannel_hostMem (k : Nat) (x : Channel) : (s.setChannel k x).hostMem = s.hostMem := rfl
@[simp] theorem State.setChannel_cores (k : Nat) (x : Channel) : (s.setChannel k x).cores = s.cores := rfl
@[simp] theorem State.setChannel_streets (k : Nat) (x : Channel) : (s.setChannel k x).streets = s.streets := rfl
@[simp] theorem State.setChannel_squares (k : Nat) (x : Channel) : (s.setChannel k x).squares = s.squares := rfl
@[simp] theorem State.setChannel_trams (k : Nat) (x : Channel) : (s.setChannel k x).trams = s.trams := rfl
@[simp] theorem State.setChannel_memPorts (k : Nat) (x : Channel) : (s.setChannel k x).memPorts = s.memPorts := rfl
@[simp] theorem State.setChannel_hostPorts (k : Nat) (x : Channel) : (s.setChannel k x).hostPorts = s.hostPorts := rfl
@[simp] theorem State.setChannel_tenancies (k : Nat) (x : Channel) : (s.setChannel k x).tenancies = s.tenancies := rfl
@[simp] theorem State.setChannel_raised (k : Nat) (x : Channel) : (s.setChannel k x).raised = s.raised := rfl
@[simp] theorem State.setChannel_seen (k : Nat) (x : Channel) : (s.setChannel k x).seen = s.seen := rfl
@[simp] theorem State.setChannel_invals (k : Nat) (x : Channel) : (s.setChannel k x).invals = s.invals := rfl
@[simp] theorem State.setChannel_dir (k : Nat) (x : Channel) : (s.setChannel k x).dir = s.dir := rfl
@[simp] theorem State.setChannel_fwdq (k : Nat) (x : Channel) : (s.setChannel k x).fwdq = s.fwdq := rfl
@[simp] theorem State.setChannel_deliveries (k : Nat) (x : Channel) : (s.setChannel k x).deliveries = s.deliveries := rfl
@[simp] theorem State.setChannel_moves (k : Nat) (x : Channel) : (s.setChannel k x).moves = s.moves := rfl
@[simp] theorem State.setChannel_batches (k : Nat) (x : Channel) : (s.setChannel k x).batches = s.batches := rfl
@[simp] theorem State.setChannel_nextHandle (k : Nat) (x : Channel) : (s.setChannel k x).nextHandle = s.nextHandle := rfl
@[simp] theorem State.setChannel_nextMove (k : Nat) (x : Channel) : (s.setChannel k x).nextMove = s.nextMove := rfl
@[simp] theorem State.setChannel_heatNow (k : Nat) (x : Channel) : (s.setChannel k x).heatNow = s.heatNow := rfl
@[simp] theorem State.setChannel_placeCfg (k : Nat) (x : Channel) : (s.setChannel k x).placeCfg = s.placeCfg := rfl
@[simp] theorem State.setChannel_msix (k : Nat) (x : Channel) : (s.setChannel k x).msix = s.msix := rfl
@[simp] theorem State.setChannel_msixTab (k : Nat) (x : Channel) : (s.setChannel k x).msixTab = s.msixTab := rfl
@[simp] theorem State.setChannel_nextTurn (k : Nat) (x : Channel) : (s.setChannel k x).nextTurn = s.nextTurn := rfl
@[simp] theorem State.setChannel_banks (k : Nat) (x : Channel) : (s.setChannel k x).banks = s.banks := rfl
@[simp] theorem State.setChannel_newest (k : Nat) (x : Channel) : (s.setChannel k x).newest = s.newest := rfl
@[simp] theorem State.setChannel_lseq (k : Nat) (x : Channel) : (s.setChannel k x).lseq = s.lseq := rfl
@[simp] theorem State.setChannel_coalesce (k : Nat) (x : Channel) : (s.setChannel k x).coalesce = s.coalesce := rfl
@[simp] theorem State.setChannel_aer (k : Nat) (x : Channel) : (s.setChannel k x).aer = s.aer := rfl
@[simp] theorem State.setChannel_aerLast (k : Nat) (x : Channel) : (s.setChannel k x).aerLast = s.aerLast := rfl
@[simp] theorem State.setChannel_fatal (k : Nat) (x : Channel) : (s.setChannel k x).fatal = s.fatal := rfl
@[simp] theorem State.setChannel_fuses (k : Nat) (x : Channel) : (s.setChannel k x).fuses = s.fuses := rfl
@[simp] theorem State.setChannel_extensions (k : Nat) (x : Channel) : (s.setChannel k x).extensions = s.extensions := rfl
@[simp] theorem State.setChannel_staged (k : Nat) (x : Channel) : (s.setChannel k x).staged = s.staged := rfl
@[simp] theorem State.setChannel_arcade (k : Nat) (x : Channel) : (s.setChannel k x).arcade = s.arcade := rfl
@[simp] theorem State.setChannel_arcgen (k : Nat) (x : Channel) : (s.setChannel k x).arcgen = s.arcgen := rfl
@[simp] theorem State.setChannel_flash (k : Nat) (x : Channel) : (s.setChannel k x).flash = s.flash := rfl
@[simp] theorem State.setChannel_flashOp (k : Nat) (x : Channel) : (s.setChannel k x).flashOp = s.flashOp := rfl
@[simp] theorem State.setChannel_torn (k : Nat) (x : Channel) : (s.setChannel k x).torn = s.torn := rfl
@[simp] theorem State.setChannel_fwaddr (k : Nat) (x : Channel) : (s.setChannel k x).fwaddr = s.fwaddr := rfl
@[simp] theorem State.setChannel_fwerr (k : Nat) (x : Channel) : (s.setChannel k x).fwerr = s.fwerr := rfl
@[simp] theorem State.setChannel_fwbuf (k : Nat) (x : Channel) : (s.setChannel k x).fwbuf = s.fwbuf := rfl
@[simp] theorem State.setChannel_boot (k : Nat) (x : Channel) : (s.setChannel k x).boot = s.boot := rfl
@[simp] theorem State.setChannel_kerb (k : Nat) (x : Channel) : (s.setChannel k x).kerb = s.kerb := rfl
@[simp] theorem State.setChannel_mgmt (k : Nat) (x : Channel) : (s.setChannel k x).mgmt = s.mgmt := rfl
@[simp] theorem State.setChannel_tap (k : Nat) (x : Channel) : (s.setChannel k x).tap = s.tap := rfl
@[simp] theorem State.setChannel_pins (k : Nat) (x : Channel) : (s.setChannel k x).pins = s.pins := rfl
@[simp] theorem State.setChannel_free (k : Nat) (x : Channel) : (s.setChannel k x).free = s.free := rfl

@[simp] theorem State.setTram_pending (q : Nat) (x : Tram) : (s.setTram q x).pending = s.pending := rfl
@[simp] theorem State.setTram_part (q : Nat) (x : Tram) : (s.setTram q x).part = s.part := rfl
@[simp] theorem State.setTram_mem (q : Nat) (x : Tram) : (s.setTram q x).mem = s.mem := rfl
@[simp] theorem State.setTram_keyArr (q : Nat) (x : Tram) : (s.setTram q x).keyArr = s.keyArr := rfl
@[simp] theorem State.setTram_layout (q : Nat) (x : Tram) : (s.setTram q x).layout = s.layout := rfl
@[simp] theorem State.setTram_tileKeys (q : Nat) (x : Tram) : (s.setTram q x).tileKeys = s.tileKeys := rfl
@[simp] theorem State.setTram_sqKeys (q : Nat) (x : Tram) : (s.setTram q x).sqKeys = s.sqKeys := rfl
@[simp] theorem State.setTram_kabase (q : Nat) (x : Tram) : (s.setTram q x).kabase = s.kabase := rfl
@[simp] theorem State.setTram_dirbase (q : Nat) (x : Tram) : (s.setTram q x).dirbase = s.dirbase := rfl
@[simp] theorem State.setTram_installed (q : Nat) (x : Tram) : (s.setTram q x).installed = s.installed := rfl
@[simp] theorem State.setTram_regions (q : Nat) (x : Tram) : (s.setTram q x).regions = s.regions := rfl
@[simp] theorem State.setTram_hostMem (q : Nat) (x : Tram) : (s.setTram q x).hostMem = s.hostMem := rfl
@[simp] theorem State.setTram_cores (q : Nat) (x : Tram) : (s.setTram q x).cores = s.cores := rfl
@[simp] theorem State.setTram_streets (q : Nat) (x : Tram) : (s.setTram q x).streets = s.streets := rfl
@[simp] theorem State.setTram_squares (q : Nat) (x : Tram) : (s.setTram q x).squares = s.squares := rfl
@[simp] theorem State.setTram_channels (q : Nat) (x : Tram) : (s.setTram q x).channels = s.channels := rfl
@[simp] theorem State.setTram_memPorts (q : Nat) (x : Tram) : (s.setTram q x).memPorts = s.memPorts := rfl
@[simp] theorem State.setTram_hostPorts (q : Nat) (x : Tram) : (s.setTram q x).hostPorts = s.hostPorts := rfl
@[simp] theorem State.setTram_tenancies (q : Nat) (x : Tram) : (s.setTram q x).tenancies = s.tenancies := rfl
@[simp] theorem State.setTram_raised (q : Nat) (x : Tram) : (s.setTram q x).raised = s.raised := rfl
@[simp] theorem State.setTram_seen (q : Nat) (x : Tram) : (s.setTram q x).seen = s.seen := rfl
@[simp] theorem State.setTram_invals (q : Nat) (x : Tram) : (s.setTram q x).invals = s.invals := rfl
@[simp] theorem State.setTram_dir (q : Nat) (x : Tram) : (s.setTram q x).dir = s.dir := rfl
@[simp] theorem State.setTram_fwdq (q : Nat) (x : Tram) : (s.setTram q x).fwdq = s.fwdq := rfl
@[simp] theorem State.setTram_deliveries (q : Nat) (x : Tram) : (s.setTram q x).deliveries = s.deliveries := rfl
@[simp] theorem State.setTram_moves (q : Nat) (x : Tram) : (s.setTram q x).moves = s.moves := rfl
@[simp] theorem State.setTram_batches (q : Nat) (x : Tram) : (s.setTram q x).batches = s.batches := rfl
@[simp] theorem State.setTram_nextHandle (q : Nat) (x : Tram) : (s.setTram q x).nextHandle = s.nextHandle := rfl
@[simp] theorem State.setTram_nextMove (q : Nat) (x : Tram) : (s.setTram q x).nextMove = s.nextMove := rfl
@[simp] theorem State.setTram_heatNow (q : Nat) (x : Tram) : (s.setTram q x).heatNow = s.heatNow := rfl
@[simp] theorem State.setTram_placeCfg (q : Nat) (x : Tram) : (s.setTram q x).placeCfg = s.placeCfg := rfl
@[simp] theorem State.setTram_msix (q : Nat) (x : Tram) : (s.setTram q x).msix = s.msix := rfl
@[simp] theorem State.setTram_msixTab (q : Nat) (x : Tram) : (s.setTram q x).msixTab = s.msixTab := rfl
@[simp] theorem State.setTram_nextTurn (q : Nat) (x : Tram) : (s.setTram q x).nextTurn = s.nextTurn := rfl
@[simp] theorem State.setTram_banks (q : Nat) (x : Tram) : (s.setTram q x).banks = s.banks := rfl
@[simp] theorem State.setTram_newest (q : Nat) (x : Tram) : (s.setTram q x).newest = s.newest := rfl
@[simp] theorem State.setTram_lseq (q : Nat) (x : Tram) : (s.setTram q x).lseq = s.lseq := rfl
@[simp] theorem State.setTram_coalesce (q : Nat) (x : Tram) : (s.setTram q x).coalesce = s.coalesce := rfl
@[simp] theorem State.setTram_aer (q : Nat) (x : Tram) : (s.setTram q x).aer = s.aer := rfl
@[simp] theorem State.setTram_aerLast (q : Nat) (x : Tram) : (s.setTram q x).aerLast = s.aerLast := rfl
@[simp] theorem State.setTram_fatal (q : Nat) (x : Tram) : (s.setTram q x).fatal = s.fatal := rfl
@[simp] theorem State.setTram_fuses (q : Nat) (x : Tram) : (s.setTram q x).fuses = s.fuses := rfl
@[simp] theorem State.setTram_extensions (q : Nat) (x : Tram) : (s.setTram q x).extensions = s.extensions := rfl
@[simp] theorem State.setTram_staged (q : Nat) (x : Tram) : (s.setTram q x).staged = s.staged := rfl
@[simp] theorem State.setTram_arcade (q : Nat) (x : Tram) : (s.setTram q x).arcade = s.arcade := rfl
@[simp] theorem State.setTram_arcgen (q : Nat) (x : Tram) : (s.setTram q x).arcgen = s.arcgen := rfl
@[simp] theorem State.setTram_flash (q : Nat) (x : Tram) : (s.setTram q x).flash = s.flash := rfl
@[simp] theorem State.setTram_flashOp (q : Nat) (x : Tram) : (s.setTram q x).flashOp = s.flashOp := rfl
@[simp] theorem State.setTram_torn (q : Nat) (x : Tram) : (s.setTram q x).torn = s.torn := rfl
@[simp] theorem State.setTram_fwaddr (q : Nat) (x : Tram) : (s.setTram q x).fwaddr = s.fwaddr := rfl
@[simp] theorem State.setTram_fwerr (q : Nat) (x : Tram) : (s.setTram q x).fwerr = s.fwerr := rfl
@[simp] theorem State.setTram_fwbuf (q : Nat) (x : Tram) : (s.setTram q x).fwbuf = s.fwbuf := rfl
@[simp] theorem State.setTram_boot (q : Nat) (x : Tram) : (s.setTram q x).boot = s.boot := rfl
@[simp] theorem State.setTram_kerb (q : Nat) (x : Tram) : (s.setTram q x).kerb = s.kerb := rfl
@[simp] theorem State.setTram_mgmt (q : Nat) (x : Tram) : (s.setTram q x).mgmt = s.mgmt := rfl
@[simp] theorem State.setTram_tap (q : Nat) (x : Tram) : (s.setTram q x).tap = s.tap := rfl
@[simp] theorem State.setTram_pins (q : Nat) (x : Tram) : (s.setTram q x).pins = s.pins := rfl
@[simp] theorem State.setTram_free (q : Nat) (x : Tram) : (s.setTram q x).free = s.free := rfl

@[simp] theorem State.setMemPort_pending (p : Nat) (x : MemPort) : (s.setMemPort p x).pending = s.pending := rfl
@[simp] theorem State.setMemPort_part (p : Nat) (x : MemPort) : (s.setMemPort p x).part = s.part := rfl
@[simp] theorem State.setMemPort_mem (p : Nat) (x : MemPort) : (s.setMemPort p x).mem = s.mem := rfl
@[simp] theorem State.setMemPort_keyArr (p : Nat) (x : MemPort) : (s.setMemPort p x).keyArr = s.keyArr := rfl
@[simp] theorem State.setMemPort_layout (p : Nat) (x : MemPort) : (s.setMemPort p x).layout = s.layout := rfl
@[simp] theorem State.setMemPort_tileKeys (p : Nat) (x : MemPort) : (s.setMemPort p x).tileKeys = s.tileKeys := rfl
@[simp] theorem State.setMemPort_sqKeys (p : Nat) (x : MemPort) : (s.setMemPort p x).sqKeys = s.sqKeys := rfl
@[simp] theorem State.setMemPort_kabase (p : Nat) (x : MemPort) : (s.setMemPort p x).kabase = s.kabase := rfl
@[simp] theorem State.setMemPort_dirbase (p : Nat) (x : MemPort) : (s.setMemPort p x).dirbase = s.dirbase := rfl
@[simp] theorem State.setMemPort_installed (p : Nat) (x : MemPort) : (s.setMemPort p x).installed = s.installed := rfl
@[simp] theorem State.setMemPort_regions (p : Nat) (x : MemPort) : (s.setMemPort p x).regions = s.regions := rfl
@[simp] theorem State.setMemPort_hostMem (p : Nat) (x : MemPort) : (s.setMemPort p x).hostMem = s.hostMem := rfl
@[simp] theorem State.setMemPort_cores (p : Nat) (x : MemPort) : (s.setMemPort p x).cores = s.cores := rfl
@[simp] theorem State.setMemPort_streets (p : Nat) (x : MemPort) : (s.setMemPort p x).streets = s.streets := rfl
@[simp] theorem State.setMemPort_squares (p : Nat) (x : MemPort) : (s.setMemPort p x).squares = s.squares := rfl
@[simp] theorem State.setMemPort_channels (p : Nat) (x : MemPort) : (s.setMemPort p x).channels = s.channels := rfl
@[simp] theorem State.setMemPort_trams (p : Nat) (x : MemPort) : (s.setMemPort p x).trams = s.trams := rfl
@[simp] theorem State.setMemPort_hostPorts (p : Nat) (x : MemPort) : (s.setMemPort p x).hostPorts = s.hostPorts := rfl
@[simp] theorem State.setMemPort_tenancies (p : Nat) (x : MemPort) : (s.setMemPort p x).tenancies = s.tenancies := rfl
@[simp] theorem State.setMemPort_raised (p : Nat) (x : MemPort) : (s.setMemPort p x).raised = s.raised := rfl
@[simp] theorem State.setMemPort_seen (p : Nat) (x : MemPort) : (s.setMemPort p x).seen = s.seen := rfl
@[simp] theorem State.setMemPort_invals (p : Nat) (x : MemPort) : (s.setMemPort p x).invals = s.invals := rfl
@[simp] theorem State.setMemPort_dir (p : Nat) (x : MemPort) : (s.setMemPort p x).dir = s.dir := rfl
@[simp] theorem State.setMemPort_fwdq (p : Nat) (x : MemPort) : (s.setMemPort p x).fwdq = s.fwdq := rfl
@[simp] theorem State.setMemPort_deliveries (p : Nat) (x : MemPort) : (s.setMemPort p x).deliveries = s.deliveries := rfl
@[simp] theorem State.setMemPort_moves (p : Nat) (x : MemPort) : (s.setMemPort p x).moves = s.moves := rfl
@[simp] theorem State.setMemPort_batches (p : Nat) (x : MemPort) : (s.setMemPort p x).batches = s.batches := rfl
@[simp] theorem State.setMemPort_nextHandle (p : Nat) (x : MemPort) : (s.setMemPort p x).nextHandle = s.nextHandle := rfl
@[simp] theorem State.setMemPort_nextMove (p : Nat) (x : MemPort) : (s.setMemPort p x).nextMove = s.nextMove := rfl
@[simp] theorem State.setMemPort_heatNow (p : Nat) (x : MemPort) : (s.setMemPort p x).heatNow = s.heatNow := rfl
@[simp] theorem State.setMemPort_placeCfg (p : Nat) (x : MemPort) : (s.setMemPort p x).placeCfg = s.placeCfg := rfl
@[simp] theorem State.setMemPort_msix (p : Nat) (x : MemPort) : (s.setMemPort p x).msix = s.msix := rfl
@[simp] theorem State.setMemPort_msixTab (p : Nat) (x : MemPort) : (s.setMemPort p x).msixTab = s.msixTab := rfl
@[simp] theorem State.setMemPort_nextTurn (p : Nat) (x : MemPort) : (s.setMemPort p x).nextTurn = s.nextTurn := rfl
@[simp] theorem State.setMemPort_banks (p : Nat) (x : MemPort) : (s.setMemPort p x).banks = s.banks := rfl
@[simp] theorem State.setMemPort_newest (p : Nat) (x : MemPort) : (s.setMemPort p x).newest = s.newest := rfl
@[simp] theorem State.setMemPort_lseq (p : Nat) (x : MemPort) : (s.setMemPort p x).lseq = s.lseq := rfl
@[simp] theorem State.setMemPort_coalesce (p : Nat) (x : MemPort) : (s.setMemPort p x).coalesce = s.coalesce := rfl
@[simp] theorem State.setMemPort_aer (p : Nat) (x : MemPort) : (s.setMemPort p x).aer = s.aer := rfl
@[simp] theorem State.setMemPort_aerLast (p : Nat) (x : MemPort) : (s.setMemPort p x).aerLast = s.aerLast := rfl
@[simp] theorem State.setMemPort_fatal (p : Nat) (x : MemPort) : (s.setMemPort p x).fatal = s.fatal := rfl
@[simp] theorem State.setMemPort_fuses (p : Nat) (x : MemPort) : (s.setMemPort p x).fuses = s.fuses := rfl
@[simp] theorem State.setMemPort_extensions (p : Nat) (x : MemPort) : (s.setMemPort p x).extensions = s.extensions := rfl
@[simp] theorem State.setMemPort_staged (p : Nat) (x : MemPort) : (s.setMemPort p x).staged = s.staged := rfl
@[simp] theorem State.setMemPort_arcade (p : Nat) (x : MemPort) : (s.setMemPort p x).arcade = s.arcade := rfl
@[simp] theorem State.setMemPort_arcgen (p : Nat) (x : MemPort) : (s.setMemPort p x).arcgen = s.arcgen := rfl
@[simp] theorem State.setMemPort_flash (p : Nat) (x : MemPort) : (s.setMemPort p x).flash = s.flash := rfl
@[simp] theorem State.setMemPort_flashOp (p : Nat) (x : MemPort) : (s.setMemPort p x).flashOp = s.flashOp := rfl
@[simp] theorem State.setMemPort_torn (p : Nat) (x : MemPort) : (s.setMemPort p x).torn = s.torn := rfl
@[simp] theorem State.setMemPort_fwaddr (p : Nat) (x : MemPort) : (s.setMemPort p x).fwaddr = s.fwaddr := rfl
@[simp] theorem State.setMemPort_fwerr (p : Nat) (x : MemPort) : (s.setMemPort p x).fwerr = s.fwerr := rfl
@[simp] theorem State.setMemPort_fwbuf (p : Nat) (x : MemPort) : (s.setMemPort p x).fwbuf = s.fwbuf := rfl
@[simp] theorem State.setMemPort_boot (p : Nat) (x : MemPort) : (s.setMemPort p x).boot = s.boot := rfl
@[simp] theorem State.setMemPort_kerb (p : Nat) (x : MemPort) : (s.setMemPort p x).kerb = s.kerb := rfl
@[simp] theorem State.setMemPort_mgmt (p : Nat) (x : MemPort) : (s.setMemPort p x).mgmt = s.mgmt := rfl
@[simp] theorem State.setMemPort_tap (p : Nat) (x : MemPort) : (s.setMemPort p x).tap = s.tap := rfl
@[simp] theorem State.setMemPort_pins (p : Nat) (x : MemPort) : (s.setMemPort p x).pins = s.pins := rfl
@[simp] theorem State.setMemPort_free (p : Nat) (x : MemPort) : (s.setMemPort p x).free = s.free := rfl

@[simp] theorem State.setHostPort_pending (h : Nat) (x : HostPort) : (s.setHostPort h x).pending = s.pending := rfl
@[simp] theorem State.setHostPort_part (h : Nat) (x : HostPort) : (s.setHostPort h x).part = s.part := rfl
@[simp] theorem State.setHostPort_mem (h : Nat) (x : HostPort) : (s.setHostPort h x).mem = s.mem := rfl
@[simp] theorem State.setHostPort_keyArr (h : Nat) (x : HostPort) : (s.setHostPort h x).keyArr = s.keyArr := rfl
@[simp] theorem State.setHostPort_layout (h : Nat) (x : HostPort) : (s.setHostPort h x).layout = s.layout := rfl
@[simp] theorem State.setHostPort_tileKeys (h : Nat) (x : HostPort) : (s.setHostPort h x).tileKeys = s.tileKeys := rfl
@[simp] theorem State.setHostPort_sqKeys (h : Nat) (x : HostPort) : (s.setHostPort h x).sqKeys = s.sqKeys := rfl
@[simp] theorem State.setHostPort_kabase (h : Nat) (x : HostPort) : (s.setHostPort h x).kabase = s.kabase := rfl
@[simp] theorem State.setHostPort_dirbase (h : Nat) (x : HostPort) : (s.setHostPort h x).dirbase = s.dirbase := rfl
@[simp] theorem State.setHostPort_installed (h : Nat) (x : HostPort) : (s.setHostPort h x).installed = s.installed := rfl
@[simp] theorem State.setHostPort_regions (h : Nat) (x : HostPort) : (s.setHostPort h x).regions = s.regions := rfl
@[simp] theorem State.setHostPort_hostMem (h : Nat) (x : HostPort) : (s.setHostPort h x).hostMem = s.hostMem := rfl
@[simp] theorem State.setHostPort_cores (h : Nat) (x : HostPort) : (s.setHostPort h x).cores = s.cores := rfl
@[simp] theorem State.setHostPort_streets (h : Nat) (x : HostPort) : (s.setHostPort h x).streets = s.streets := rfl
@[simp] theorem State.setHostPort_squares (h : Nat) (x : HostPort) : (s.setHostPort h x).squares = s.squares := rfl
@[simp] theorem State.setHostPort_channels (h : Nat) (x : HostPort) : (s.setHostPort h x).channels = s.channels := rfl
@[simp] theorem State.setHostPort_trams (h : Nat) (x : HostPort) : (s.setHostPort h x).trams = s.trams := rfl
@[simp] theorem State.setHostPort_memPorts (h : Nat) (x : HostPort) : (s.setHostPort h x).memPorts = s.memPorts := rfl
@[simp] theorem State.setHostPort_tenancies (h : Nat) (x : HostPort) : (s.setHostPort h x).tenancies = s.tenancies := rfl
@[simp] theorem State.setHostPort_raised (h : Nat) (x : HostPort) : (s.setHostPort h x).raised = s.raised := rfl
@[simp] theorem State.setHostPort_seen (h : Nat) (x : HostPort) : (s.setHostPort h x).seen = s.seen := rfl
@[simp] theorem State.setHostPort_invals (h : Nat) (x : HostPort) : (s.setHostPort h x).invals = s.invals := rfl
@[simp] theorem State.setHostPort_dir (h : Nat) (x : HostPort) : (s.setHostPort h x).dir = s.dir := rfl
@[simp] theorem State.setHostPort_fwdq (h : Nat) (x : HostPort) : (s.setHostPort h x).fwdq = s.fwdq := rfl
@[simp] theorem State.setHostPort_deliveries (h : Nat) (x : HostPort) : (s.setHostPort h x).deliveries = s.deliveries := rfl
@[simp] theorem State.setHostPort_moves (h : Nat) (x : HostPort) : (s.setHostPort h x).moves = s.moves := rfl
@[simp] theorem State.setHostPort_batches (h : Nat) (x : HostPort) : (s.setHostPort h x).batches = s.batches := rfl
@[simp] theorem State.setHostPort_nextHandle (h : Nat) (x : HostPort) : (s.setHostPort h x).nextHandle = s.nextHandle := rfl
@[simp] theorem State.setHostPort_nextMove (h : Nat) (x : HostPort) : (s.setHostPort h x).nextMove = s.nextMove := rfl
@[simp] theorem State.setHostPort_heatNow (h : Nat) (x : HostPort) : (s.setHostPort h x).heatNow = s.heatNow := rfl
@[simp] theorem State.setHostPort_placeCfg (h : Nat) (x : HostPort) : (s.setHostPort h x).placeCfg = s.placeCfg := rfl
@[simp] theorem State.setHostPort_msix (h : Nat) (x : HostPort) : (s.setHostPort h x).msix = s.msix := rfl
@[simp] theorem State.setHostPort_msixTab (h : Nat) (x : HostPort) : (s.setHostPort h x).msixTab = s.msixTab := rfl
@[simp] theorem State.setHostPort_nextTurn (h : Nat) (x : HostPort) : (s.setHostPort h x).nextTurn = s.nextTurn := rfl
@[simp] theorem State.setHostPort_banks (h : Nat) (x : HostPort) : (s.setHostPort h x).banks = s.banks := rfl
@[simp] theorem State.setHostPort_newest (h : Nat) (x : HostPort) : (s.setHostPort h x).newest = s.newest := rfl
@[simp] theorem State.setHostPort_lseq (h : Nat) (x : HostPort) : (s.setHostPort h x).lseq = s.lseq := rfl
@[simp] theorem State.setHostPort_coalesce (h : Nat) (x : HostPort) : (s.setHostPort h x).coalesce = s.coalesce := rfl
@[simp] theorem State.setHostPort_aer (h : Nat) (x : HostPort) : (s.setHostPort h x).aer = s.aer := rfl
@[simp] theorem State.setHostPort_aerLast (h : Nat) (x : HostPort) : (s.setHostPort h x).aerLast = s.aerLast := rfl
@[simp] theorem State.setHostPort_fatal (h : Nat) (x : HostPort) : (s.setHostPort h x).fatal = s.fatal := rfl
@[simp] theorem State.setHostPort_fuses (h : Nat) (x : HostPort) : (s.setHostPort h x).fuses = s.fuses := rfl
@[simp] theorem State.setHostPort_extensions (h : Nat) (x : HostPort) : (s.setHostPort h x).extensions = s.extensions := rfl
@[simp] theorem State.setHostPort_staged (h : Nat) (x : HostPort) : (s.setHostPort h x).staged = s.staged := rfl
@[simp] theorem State.setHostPort_arcade (h : Nat) (x : HostPort) : (s.setHostPort h x).arcade = s.arcade := rfl
@[simp] theorem State.setHostPort_arcgen (h : Nat) (x : HostPort) : (s.setHostPort h x).arcgen = s.arcgen := rfl
@[simp] theorem State.setHostPort_flash (h : Nat) (x : HostPort) : (s.setHostPort h x).flash = s.flash := rfl
@[simp] theorem State.setHostPort_flashOp (h : Nat) (x : HostPort) : (s.setHostPort h x).flashOp = s.flashOp := rfl
@[simp] theorem State.setHostPort_torn (h : Nat) (x : HostPort) : (s.setHostPort h x).torn = s.torn := rfl
@[simp] theorem State.setHostPort_fwaddr (h : Nat) (x : HostPort) : (s.setHostPort h x).fwaddr = s.fwaddr := rfl
@[simp] theorem State.setHostPort_fwerr (h : Nat) (x : HostPort) : (s.setHostPort h x).fwerr = s.fwerr := rfl
@[simp] theorem State.setHostPort_fwbuf (h : Nat) (x : HostPort) : (s.setHostPort h x).fwbuf = s.fwbuf := rfl
@[simp] theorem State.setHostPort_boot (h : Nat) (x : HostPort) : (s.setHostPort h x).boot = s.boot := rfl
@[simp] theorem State.setHostPort_kerb (h : Nat) (x : HostPort) : (s.setHostPort h x).kerb = s.kerb := rfl
@[simp] theorem State.setHostPort_mgmt (h : Nat) (x : HostPort) : (s.setHostPort h x).mgmt = s.mgmt := rfl
@[simp] theorem State.setHostPort_tap (h : Nat) (x : HostPort) : (s.setHostPort h x).tap = s.tap := rfl
@[simp] theorem State.setHostPort_pins (h : Nat) (x : HostPort) : (s.setHostPort h x).pins = s.pins := rfl
@[simp] theorem State.setHostPort_free (h : Nat) (x : HostPort) : (s.setHostPort h x).free = s.free := rfl

@[simp] theorem State.setTenancy_pending (t : Nat) (x : Tenancy) : (s.setTenancy t x).pending = s.pending := rfl
@[simp] theorem State.setTenancy_part (t : Nat) (x : Tenancy) : (s.setTenancy t x).part = s.part := rfl
@[simp] theorem State.setTenancy_mem (t : Nat) (x : Tenancy) : (s.setTenancy t x).mem = s.mem := rfl
@[simp] theorem State.setTenancy_keyArr (t : Nat) (x : Tenancy) : (s.setTenancy t x).keyArr = s.keyArr := rfl
@[simp] theorem State.setTenancy_layout (t : Nat) (x : Tenancy) : (s.setTenancy t x).layout = s.layout := rfl
@[simp] theorem State.setTenancy_tileKeys (t : Nat) (x : Tenancy) : (s.setTenancy t x).tileKeys = s.tileKeys := rfl
@[simp] theorem State.setTenancy_sqKeys (t : Nat) (x : Tenancy) : (s.setTenancy t x).sqKeys = s.sqKeys := rfl
@[simp] theorem State.setTenancy_kabase (t : Nat) (x : Tenancy) : (s.setTenancy t x).kabase = s.kabase := rfl
@[simp] theorem State.setTenancy_dirbase (t : Nat) (x : Tenancy) : (s.setTenancy t x).dirbase = s.dirbase := rfl
@[simp] theorem State.setTenancy_installed (t : Nat) (x : Tenancy) : (s.setTenancy t x).installed = s.installed := rfl
@[simp] theorem State.setTenancy_regions (t : Nat) (x : Tenancy) : (s.setTenancy t x).regions = s.regions := rfl
@[simp] theorem State.setTenancy_hostMem (t : Nat) (x : Tenancy) : (s.setTenancy t x).hostMem = s.hostMem := rfl
@[simp] theorem State.setTenancy_cores (t : Nat) (x : Tenancy) : (s.setTenancy t x).cores = s.cores := rfl
@[simp] theorem State.setTenancy_streets (t : Nat) (x : Tenancy) : (s.setTenancy t x).streets = s.streets := rfl
@[simp] theorem State.setTenancy_squares (t : Nat) (x : Tenancy) : (s.setTenancy t x).squares = s.squares := rfl
@[simp] theorem State.setTenancy_channels (t : Nat) (x : Tenancy) : (s.setTenancy t x).channels = s.channels := rfl
@[simp] theorem State.setTenancy_trams (t : Nat) (x : Tenancy) : (s.setTenancy t x).trams = s.trams := rfl
@[simp] theorem State.setTenancy_memPorts (t : Nat) (x : Tenancy) : (s.setTenancy t x).memPorts = s.memPorts := rfl
@[simp] theorem State.setTenancy_hostPorts (t : Nat) (x : Tenancy) : (s.setTenancy t x).hostPorts = s.hostPorts := rfl
@[simp] theorem State.setTenancy_raised (t : Nat) (x : Tenancy) : (s.setTenancy t x).raised = s.raised := rfl
@[simp] theorem State.setTenancy_seen (t : Nat) (x : Tenancy) : (s.setTenancy t x).seen = s.seen := rfl
@[simp] theorem State.setTenancy_invals (t : Nat) (x : Tenancy) : (s.setTenancy t x).invals = s.invals := rfl
@[simp] theorem State.setTenancy_dir (t : Nat) (x : Tenancy) : (s.setTenancy t x).dir = s.dir := rfl
@[simp] theorem State.setTenancy_fwdq (t : Nat) (x : Tenancy) : (s.setTenancy t x).fwdq = s.fwdq := rfl
@[simp] theorem State.setTenancy_deliveries (t : Nat) (x : Tenancy) : (s.setTenancy t x).deliveries = s.deliveries := rfl
@[simp] theorem State.setTenancy_moves (t : Nat) (x : Tenancy) : (s.setTenancy t x).moves = s.moves := rfl
@[simp] theorem State.setTenancy_batches (t : Nat) (x : Tenancy) : (s.setTenancy t x).batches = s.batches := rfl
@[simp] theorem State.setTenancy_nextHandle (t : Nat) (x : Tenancy) : (s.setTenancy t x).nextHandle = s.nextHandle := rfl
@[simp] theorem State.setTenancy_nextMove (t : Nat) (x : Tenancy) : (s.setTenancy t x).nextMove = s.nextMove := rfl
@[simp] theorem State.setTenancy_heatNow (t : Nat) (x : Tenancy) : (s.setTenancy t x).heatNow = s.heatNow := rfl
@[simp] theorem State.setTenancy_placeCfg (t : Nat) (x : Tenancy) : (s.setTenancy t x).placeCfg = s.placeCfg := rfl
@[simp] theorem State.setTenancy_msix (t : Nat) (x : Tenancy) : (s.setTenancy t x).msix = s.msix := rfl
@[simp] theorem State.setTenancy_msixTab (t : Nat) (x : Tenancy) : (s.setTenancy t x).msixTab = s.msixTab := rfl
@[simp] theorem State.setTenancy_nextTurn (t : Nat) (x : Tenancy) : (s.setTenancy t x).nextTurn = s.nextTurn := rfl
@[simp] theorem State.setTenancy_banks (t : Nat) (x : Tenancy) : (s.setTenancy t x).banks = s.banks := rfl
@[simp] theorem State.setTenancy_newest (t : Nat) (x : Tenancy) : (s.setTenancy t x).newest = s.newest := rfl
@[simp] theorem State.setTenancy_lseq (t : Nat) (x : Tenancy) : (s.setTenancy t x).lseq = s.lseq := rfl
@[simp] theorem State.setTenancy_coalesce (t : Nat) (x : Tenancy) : (s.setTenancy t x).coalesce = s.coalesce := rfl
@[simp] theorem State.setTenancy_aer (t : Nat) (x : Tenancy) : (s.setTenancy t x).aer = s.aer := rfl
@[simp] theorem State.setTenancy_aerLast (t : Nat) (x : Tenancy) : (s.setTenancy t x).aerLast = s.aerLast := rfl
@[simp] theorem State.setTenancy_fatal (t : Nat) (x : Tenancy) : (s.setTenancy t x).fatal = s.fatal := rfl
@[simp] theorem State.setTenancy_fuses (t : Nat) (x : Tenancy) : (s.setTenancy t x).fuses = s.fuses := rfl
@[simp] theorem State.setTenancy_extensions (t : Nat) (x : Tenancy) : (s.setTenancy t x).extensions = s.extensions := rfl
@[simp] theorem State.setTenancy_staged (t : Nat) (x : Tenancy) : (s.setTenancy t x).staged = s.staged := rfl
@[simp] theorem State.setTenancy_arcade (t : Nat) (x : Tenancy) : (s.setTenancy t x).arcade = s.arcade := rfl
@[simp] theorem State.setTenancy_arcgen (t : Nat) (x : Tenancy) : (s.setTenancy t x).arcgen = s.arcgen := rfl
@[simp] theorem State.setTenancy_flash (t : Nat) (x : Tenancy) : (s.setTenancy t x).flash = s.flash := rfl
@[simp] theorem State.setTenancy_flashOp (t : Nat) (x : Tenancy) : (s.setTenancy t x).flashOp = s.flashOp := rfl
@[simp] theorem State.setTenancy_torn (t : Nat) (x : Tenancy) : (s.setTenancy t x).torn = s.torn := rfl
@[simp] theorem State.setTenancy_fwaddr (t : Nat) (x : Tenancy) : (s.setTenancy t x).fwaddr = s.fwaddr := rfl
@[simp] theorem State.setTenancy_fwerr (t : Nat) (x : Tenancy) : (s.setTenancy t x).fwerr = s.fwerr := rfl
@[simp] theorem State.setTenancy_fwbuf (t : Nat) (x : Tenancy) : (s.setTenancy t x).fwbuf = s.fwbuf := rfl
@[simp] theorem State.setTenancy_boot (t : Nat) (x : Tenancy) : (s.setTenancy t x).boot = s.boot := rfl
@[simp] theorem State.setTenancy_kerb (t : Nat) (x : Tenancy) : (s.setTenancy t x).kerb = s.kerb := rfl
@[simp] theorem State.setTenancy_mgmt (t : Nat) (x : Tenancy) : (s.setTenancy t x).mgmt = s.mgmt := rfl
@[simp] theorem State.setTenancy_tap (t : Nat) (x : Tenancy) : (s.setTenancy t x).tap = s.tap := rfl
@[simp] theorem State.setTenancy_pins (t : Nat) (x : Tenancy) : (s.setTenancy t x).pins = s.pins := rfl
@[simp] theorem State.setTenancy_free (t : Nat) (x : Tenancy) : (s.setTenancy t x).free = s.free := rfl

@[simp] theorem State.setQp_pending (t q : Nat) (x : QPair) : (s.setQp t q x).pending = s.pending := rfl
@[simp] theorem State.setQp_part (t q : Nat) (x : QPair) : (s.setQp t q x).part = s.part := rfl
@[simp] theorem State.setQp_mem (t q : Nat) (x : QPair) : (s.setQp t q x).mem = s.mem := rfl
@[simp] theorem State.setQp_keyArr (t q : Nat) (x : QPair) : (s.setQp t q x).keyArr = s.keyArr := rfl
@[simp] theorem State.setQp_layout (t q : Nat) (x : QPair) : (s.setQp t q x).layout = s.layout := rfl
@[simp] theorem State.setQp_tileKeys (t q : Nat) (x : QPair) : (s.setQp t q x).tileKeys = s.tileKeys := rfl
@[simp] theorem State.setQp_sqKeys (t q : Nat) (x : QPair) : (s.setQp t q x).sqKeys = s.sqKeys := rfl
@[simp] theorem State.setQp_kabase (t q : Nat) (x : QPair) : (s.setQp t q x).kabase = s.kabase := rfl
@[simp] theorem State.setQp_dirbase (t q : Nat) (x : QPair) : (s.setQp t q x).dirbase = s.dirbase := rfl
@[simp] theorem State.setQp_installed (t q : Nat) (x : QPair) : (s.setQp t q x).installed = s.installed := rfl
@[simp] theorem State.setQp_regions (t q : Nat) (x : QPair) : (s.setQp t q x).regions = s.regions := rfl
@[simp] theorem State.setQp_hostMem (t q : Nat) (x : QPair) : (s.setQp t q x).hostMem = s.hostMem := rfl
@[simp] theorem State.setQp_cores (t q : Nat) (x : QPair) : (s.setQp t q x).cores = s.cores := rfl
@[simp] theorem State.setQp_streets (t q : Nat) (x : QPair) : (s.setQp t q x).streets = s.streets := rfl
@[simp] theorem State.setQp_squares (t q : Nat) (x : QPair) : (s.setQp t q x).squares = s.squares := rfl
@[simp] theorem State.setQp_channels (t q : Nat) (x : QPair) : (s.setQp t q x).channels = s.channels := rfl
@[simp] theorem State.setQp_trams (t q : Nat) (x : QPair) : (s.setQp t q x).trams = s.trams := rfl
@[simp] theorem State.setQp_memPorts (t q : Nat) (x : QPair) : (s.setQp t q x).memPorts = s.memPorts := rfl
@[simp] theorem State.setQp_hostPorts (t q : Nat) (x : QPair) : (s.setQp t q x).hostPorts = s.hostPorts := rfl
@[simp] theorem State.setQp_raised (t q : Nat) (x : QPair) : (s.setQp t q x).raised = s.raised := rfl
@[simp] theorem State.setQp_seen (t q : Nat) (x : QPair) : (s.setQp t q x).seen = s.seen := rfl
@[simp] theorem State.setQp_invals (t q : Nat) (x : QPair) : (s.setQp t q x).invals = s.invals := rfl
@[simp] theorem State.setQp_dir (t q : Nat) (x : QPair) : (s.setQp t q x).dir = s.dir := rfl
@[simp] theorem State.setQp_fwdq (t q : Nat) (x : QPair) : (s.setQp t q x).fwdq = s.fwdq := rfl
@[simp] theorem State.setQp_deliveries (t q : Nat) (x : QPair) : (s.setQp t q x).deliveries = s.deliveries := rfl
@[simp] theorem State.setQp_moves (t q : Nat) (x : QPair) : (s.setQp t q x).moves = s.moves := rfl
@[simp] theorem State.setQp_batches (t q : Nat) (x : QPair) : (s.setQp t q x).batches = s.batches := rfl
@[simp] theorem State.setQp_nextHandle (t q : Nat) (x : QPair) : (s.setQp t q x).nextHandle = s.nextHandle := rfl
@[simp] theorem State.setQp_nextMove (t q : Nat) (x : QPair) : (s.setQp t q x).nextMove = s.nextMove := rfl
@[simp] theorem State.setQp_heatNow (t q : Nat) (x : QPair) : (s.setQp t q x).heatNow = s.heatNow := rfl
@[simp] theorem State.setQp_placeCfg (t q : Nat) (x : QPair) : (s.setQp t q x).placeCfg = s.placeCfg := rfl
@[simp] theorem State.setQp_msix (t q : Nat) (x : QPair) : (s.setQp t q x).msix = s.msix := rfl
@[simp] theorem State.setQp_msixTab (t q : Nat) (x : QPair) : (s.setQp t q x).msixTab = s.msixTab := rfl
@[simp] theorem State.setQp_nextTurn (t q : Nat) (x : QPair) : (s.setQp t q x).nextTurn = s.nextTurn := rfl
@[simp] theorem State.setQp_banks (t q : Nat) (x : QPair) : (s.setQp t q x).banks = s.banks := rfl
@[simp] theorem State.setQp_newest (t q : Nat) (x : QPair) : (s.setQp t q x).newest = s.newest := rfl
@[simp] theorem State.setQp_lseq (t q : Nat) (x : QPair) : (s.setQp t q x).lseq = s.lseq := rfl
@[simp] theorem State.setQp_coalesce (t q : Nat) (x : QPair) : (s.setQp t q x).coalesce = s.coalesce := rfl
@[simp] theorem State.setQp_aer (t q : Nat) (x : QPair) : (s.setQp t q x).aer = s.aer := rfl
@[simp] theorem State.setQp_aerLast (t q : Nat) (x : QPair) : (s.setQp t q x).aerLast = s.aerLast := rfl
@[simp] theorem State.setQp_fatal (t q : Nat) (x : QPair) : (s.setQp t q x).fatal = s.fatal := rfl
@[simp] theorem State.setQp_fuses (t q : Nat) (x : QPair) : (s.setQp t q x).fuses = s.fuses := rfl
@[simp] theorem State.setQp_extensions (t q : Nat) (x : QPair) : (s.setQp t q x).extensions = s.extensions := rfl
@[simp] theorem State.setQp_staged (t q : Nat) (x : QPair) : (s.setQp t q x).staged = s.staged := rfl
@[simp] theorem State.setQp_arcade (t q : Nat) (x : QPair) : (s.setQp t q x).arcade = s.arcade := rfl
@[simp] theorem State.setQp_arcgen (t q : Nat) (x : QPair) : (s.setQp t q x).arcgen = s.arcgen := rfl
@[simp] theorem State.setQp_flash (t q : Nat) (x : QPair) : (s.setQp t q x).flash = s.flash := rfl
@[simp] theorem State.setQp_flashOp (t q : Nat) (x : QPair) : (s.setQp t q x).flashOp = s.flashOp := rfl
@[simp] theorem State.setQp_torn (t q : Nat) (x : QPair) : (s.setQp t q x).torn = s.torn := rfl
@[simp] theorem State.setQp_fwaddr (t q : Nat) (x : QPair) : (s.setQp t q x).fwaddr = s.fwaddr := rfl
@[simp] theorem State.setQp_fwerr (t q : Nat) (x : QPair) : (s.setQp t q x).fwerr = s.fwerr := rfl
@[simp] theorem State.setQp_fwbuf (t q : Nat) (x : QPair) : (s.setQp t q x).fwbuf = s.fwbuf := rfl
@[simp] theorem State.setQp_boot (t q : Nat) (x : QPair) : (s.setQp t q x).boot = s.boot := rfl
@[simp] theorem State.setQp_kerb (t q : Nat) (x : QPair) : (s.setQp t q x).kerb = s.kerb := rfl
@[simp] theorem State.setQp_mgmt (t q : Nat) (x : QPair) : (s.setQp t q x).mgmt = s.mgmt := rfl
@[simp] theorem State.setQp_tap (t q : Nat) (x : QPair) : (s.setQp t q x).tap = s.tap := rfl
@[simp] theorem State.setQp_pins (t q : Nat) (x : QPair) : (s.setQp t q x).pins = s.pins := rfl
@[simp] theorem State.setQp_free (t q : Nat) (x : QPair) : (s.setQp t q x).free = s.free := rfl

@[simp] theorem State.raise_pending (src : Nat) : (s.raise src).pending = s.pending := rfl
@[simp] theorem State.raise_part (src : Nat) : (s.raise src).part = s.part := rfl
@[simp] theorem State.raise_mem (src : Nat) : (s.raise src).mem = s.mem := rfl
@[simp] theorem State.raise_keyArr (src : Nat) : (s.raise src).keyArr = s.keyArr := rfl
@[simp] theorem State.raise_layout (src : Nat) : (s.raise src).layout = s.layout := rfl
@[simp] theorem State.raise_tileKeys (src : Nat) : (s.raise src).tileKeys = s.tileKeys := rfl
@[simp] theorem State.raise_sqKeys (src : Nat) : (s.raise src).sqKeys = s.sqKeys := rfl
@[simp] theorem State.raise_kabase (src : Nat) : (s.raise src).kabase = s.kabase := rfl
@[simp] theorem State.raise_dirbase (src : Nat) : (s.raise src).dirbase = s.dirbase := rfl
@[simp] theorem State.raise_installed (src : Nat) : (s.raise src).installed = s.installed := rfl
@[simp] theorem State.raise_regions (src : Nat) : (s.raise src).regions = s.regions := rfl
@[simp] theorem State.raise_hostMem (src : Nat) : (s.raise src).hostMem = s.hostMem := rfl
@[simp] theorem State.raise_cores (src : Nat) : (s.raise src).cores = s.cores := rfl
@[simp] theorem State.raise_streets (src : Nat) : (s.raise src).streets = s.streets := rfl
@[simp] theorem State.raise_squares (src : Nat) : (s.raise src).squares = s.squares := rfl
@[simp] theorem State.raise_channels (src : Nat) : (s.raise src).channels = s.channels := rfl
@[simp] theorem State.raise_trams (src : Nat) : (s.raise src).trams = s.trams := rfl
@[simp] theorem State.raise_memPorts (src : Nat) : (s.raise src).memPorts = s.memPorts := rfl
@[simp] theorem State.raise_hostPorts (src : Nat) : (s.raise src).hostPorts = s.hostPorts := rfl
@[simp] theorem State.raise_tenancies (src : Nat) : (s.raise src).tenancies = s.tenancies := rfl
@[simp] theorem State.raise_seen (src : Nat) : (s.raise src).seen = s.seen := rfl
@[simp] theorem State.raise_invals (src : Nat) : (s.raise src).invals = s.invals := rfl
@[simp] theorem State.raise_dir (src : Nat) : (s.raise src).dir = s.dir := rfl
@[simp] theorem State.raise_fwdq (src : Nat) : (s.raise src).fwdq = s.fwdq := rfl
@[simp] theorem State.raise_deliveries (src : Nat) : (s.raise src).deliveries = s.deliveries := rfl
@[simp] theorem State.raise_moves (src : Nat) : (s.raise src).moves = s.moves := rfl
@[simp] theorem State.raise_batches (src : Nat) : (s.raise src).batches = s.batches := rfl
@[simp] theorem State.raise_nextHandle (src : Nat) : (s.raise src).nextHandle = s.nextHandle := rfl
@[simp] theorem State.raise_nextMove (src : Nat) : (s.raise src).nextMove = s.nextMove := rfl
@[simp] theorem State.raise_heatNow (src : Nat) : (s.raise src).heatNow = s.heatNow := rfl
@[simp] theorem State.raise_placeCfg (src : Nat) : (s.raise src).placeCfg = s.placeCfg := rfl
@[simp] theorem State.raise_msix (src : Nat) : (s.raise src).msix = s.msix := rfl
@[simp] theorem State.raise_msixTab (src : Nat) : (s.raise src).msixTab = s.msixTab := rfl
@[simp] theorem State.raise_nextTurn (src : Nat) : (s.raise src).nextTurn = s.nextTurn := rfl
@[simp] theorem State.raise_banks (src : Nat) : (s.raise src).banks = s.banks := rfl
@[simp] theorem State.raise_newest (src : Nat) : (s.raise src).newest = s.newest := rfl
@[simp] theorem State.raise_lseq (src : Nat) : (s.raise src).lseq = s.lseq := rfl
@[simp] theorem State.raise_coalesce (src : Nat) : (s.raise src).coalesce = s.coalesce := rfl
@[simp] theorem State.raise_aer (src : Nat) : (s.raise src).aer = s.aer := rfl
@[simp] theorem State.raise_aerLast (src : Nat) : (s.raise src).aerLast = s.aerLast := rfl
@[simp] theorem State.raise_fatal (src : Nat) : (s.raise src).fatal = s.fatal := rfl
@[simp] theorem State.raise_fuses (src : Nat) : (s.raise src).fuses = s.fuses := rfl
@[simp] theorem State.raise_extensions (src : Nat) : (s.raise src).extensions = s.extensions := rfl
@[simp] theorem State.raise_staged (src : Nat) : (s.raise src).staged = s.staged := rfl
@[simp] theorem State.raise_arcade (src : Nat) : (s.raise src).arcade = s.arcade := rfl
@[simp] theorem State.raise_arcgen (src : Nat) : (s.raise src).arcgen = s.arcgen := rfl
@[simp] theorem State.raise_flash (src : Nat) : (s.raise src).flash = s.flash := rfl
@[simp] theorem State.raise_flashOp (src : Nat) : (s.raise src).flashOp = s.flashOp := rfl
@[simp] theorem State.raise_torn (src : Nat) : (s.raise src).torn = s.torn := rfl
@[simp] theorem State.raise_fwaddr (src : Nat) : (s.raise src).fwaddr = s.fwaddr := rfl
@[simp] theorem State.raise_fwerr (src : Nat) : (s.raise src).fwerr = s.fwerr := rfl
@[simp] theorem State.raise_fwbuf (src : Nat) : (s.raise src).fwbuf = s.fwbuf := rfl
@[simp] theorem State.raise_boot (src : Nat) : (s.raise src).boot = s.boot := rfl
@[simp] theorem State.raise_kerb (src : Nat) : (s.raise src).kerb = s.kerb := rfl
@[simp] theorem State.raise_mgmt (src : Nat) : (s.raise src).mgmt = s.mgmt := rfl
@[simp] theorem State.raise_tap (src : Nat) : (s.raise src).tap = s.tap := rfl
@[simp] theorem State.raise_pins (src : Nat) : (s.raise src).pins = s.pins := rfl
@[simp] theorem State.raise_free (src : Nat) : (s.raise src).free = s.free := rfl

@[simp] theorem State.see_pending (dest src : Nat) : (s.see dest src).pending = s.pending := rfl
@[simp] theorem State.see_part (dest src : Nat) : (s.see dest src).part = s.part := rfl
@[simp] theorem State.see_mem (dest src : Nat) : (s.see dest src).mem = s.mem := rfl
@[simp] theorem State.see_keyArr (dest src : Nat) : (s.see dest src).keyArr = s.keyArr := rfl
@[simp] theorem State.see_layout (dest src : Nat) : (s.see dest src).layout = s.layout := rfl
@[simp] theorem State.see_tileKeys (dest src : Nat) : (s.see dest src).tileKeys = s.tileKeys := rfl
@[simp] theorem State.see_sqKeys (dest src : Nat) : (s.see dest src).sqKeys = s.sqKeys := rfl
@[simp] theorem State.see_kabase (dest src : Nat) : (s.see dest src).kabase = s.kabase := rfl
@[simp] theorem State.see_dirbase (dest src : Nat) : (s.see dest src).dirbase = s.dirbase := rfl
@[simp] theorem State.see_installed (dest src : Nat) : (s.see dest src).installed = s.installed := rfl
@[simp] theorem State.see_regions (dest src : Nat) : (s.see dest src).regions = s.regions := rfl
@[simp] theorem State.see_hostMem (dest src : Nat) : (s.see dest src).hostMem = s.hostMem := rfl
@[simp] theorem State.see_cores (dest src : Nat) : (s.see dest src).cores = s.cores := rfl
@[simp] theorem State.see_streets (dest src : Nat) : (s.see dest src).streets = s.streets := rfl
@[simp] theorem State.see_squares (dest src : Nat) : (s.see dest src).squares = s.squares := rfl
@[simp] theorem State.see_channels (dest src : Nat) : (s.see dest src).channels = s.channels := rfl
@[simp] theorem State.see_trams (dest src : Nat) : (s.see dest src).trams = s.trams := rfl
@[simp] theorem State.see_memPorts (dest src : Nat) : (s.see dest src).memPorts = s.memPorts := rfl
@[simp] theorem State.see_hostPorts (dest src : Nat) : (s.see dest src).hostPorts = s.hostPorts := rfl
@[simp] theorem State.see_tenancies (dest src : Nat) : (s.see dest src).tenancies = s.tenancies := rfl
@[simp] theorem State.see_raised (dest src : Nat) : (s.see dest src).raised = s.raised := rfl
@[simp] theorem State.see_invals (dest src : Nat) : (s.see dest src).invals = s.invals := rfl
@[simp] theorem State.see_dir (dest src : Nat) : (s.see dest src).dir = s.dir := rfl
@[simp] theorem State.see_fwdq (dest src : Nat) : (s.see dest src).fwdq = s.fwdq := rfl
@[simp] theorem State.see_deliveries (dest src : Nat) : (s.see dest src).deliveries = s.deliveries := rfl
@[simp] theorem State.see_moves (dest src : Nat) : (s.see dest src).moves = s.moves := rfl
@[simp] theorem State.see_batches (dest src : Nat) : (s.see dest src).batches = s.batches := rfl
@[simp] theorem State.see_nextHandle (dest src : Nat) : (s.see dest src).nextHandle = s.nextHandle := rfl
@[simp] theorem State.see_nextMove (dest src : Nat) : (s.see dest src).nextMove = s.nextMove := rfl
@[simp] theorem State.see_heatNow (dest src : Nat) : (s.see dest src).heatNow = s.heatNow := rfl
@[simp] theorem State.see_placeCfg (dest src : Nat) : (s.see dest src).placeCfg = s.placeCfg := rfl
@[simp] theorem State.see_msix (dest src : Nat) : (s.see dest src).msix = s.msix := rfl
@[simp] theorem State.see_msixTab (dest src : Nat) : (s.see dest src).msixTab = s.msixTab := rfl
@[simp] theorem State.see_nextTurn (dest src : Nat) : (s.see dest src).nextTurn = s.nextTurn := rfl
@[simp] theorem State.see_banks (dest src : Nat) : (s.see dest src).banks = s.banks := rfl
@[simp] theorem State.see_newest (dest src : Nat) : (s.see dest src).newest = s.newest := rfl
@[simp] theorem State.see_lseq (dest src : Nat) : (s.see dest src).lseq = s.lseq := rfl
@[simp] theorem State.see_coalesce (dest src : Nat) : (s.see dest src).coalesce = s.coalesce := rfl
@[simp] theorem State.see_aer (dest src : Nat) : (s.see dest src).aer = s.aer := rfl
@[simp] theorem State.see_aerLast (dest src : Nat) : (s.see dest src).aerLast = s.aerLast := rfl
@[simp] theorem State.see_fatal (dest src : Nat) : (s.see dest src).fatal = s.fatal := rfl
@[simp] theorem State.see_fuses (dest src : Nat) : (s.see dest src).fuses = s.fuses := rfl
@[simp] theorem State.see_extensions (dest src : Nat) : (s.see dest src).extensions = s.extensions := rfl
@[simp] theorem State.see_staged (dest src : Nat) : (s.see dest src).staged = s.staged := rfl
@[simp] theorem State.see_arcade (dest src : Nat) : (s.see dest src).arcade = s.arcade := rfl
@[simp] theorem State.see_arcgen (dest src : Nat) : (s.see dest src).arcgen = s.arcgen := rfl
@[simp] theorem State.see_flash (dest src : Nat) : (s.see dest src).flash = s.flash := rfl
@[simp] theorem State.see_flashOp (dest src : Nat) : (s.see dest src).flashOp = s.flashOp := rfl
@[simp] theorem State.see_torn (dest src : Nat) : (s.see dest src).torn = s.torn := rfl
@[simp] theorem State.see_fwaddr (dest src : Nat) : (s.see dest src).fwaddr = s.fwaddr := rfl
@[simp] theorem State.see_fwerr (dest src : Nat) : (s.see dest src).fwerr = s.fwerr := rfl
@[simp] theorem State.see_fwbuf (dest src : Nat) : (s.see dest src).fwbuf = s.fwbuf := rfl
@[simp] theorem State.see_boot (dest src : Nat) : (s.see dest src).boot = s.boot := rfl
@[simp] theorem State.see_kerb (dest src : Nat) : (s.see dest src).kerb = s.kerb := rfl
@[simp] theorem State.see_mgmt (dest src : Nat) : (s.see dest src).mgmt = s.mgmt := rfl
@[simp] theorem State.see_tap (dest src : Nat) : (s.see dest src).tap = s.tap := rfl
@[simp] theorem State.see_pins (dest src : Nat) : (s.see dest src).pins = s.pins := rfl
@[simp] theorem State.see_free (dest src : Nat) : (s.see dest src).free = s.free := rfl

@[simp] theorem State.hostWr_pending (a : Nat) (l : List Byte) : (s.hostWr a l).pending = s.pending := rfl
@[simp] theorem State.hostWr_part (a : Nat) (l : List Byte) : (s.hostWr a l).part = s.part := rfl
@[simp] theorem State.hostWr_mem (a : Nat) (l : List Byte) : (s.hostWr a l).mem = s.mem := rfl
@[simp] theorem State.hostWr_keyArr (a : Nat) (l : List Byte) : (s.hostWr a l).keyArr = s.keyArr := rfl
@[simp] theorem State.hostWr_layout (a : Nat) (l : List Byte) : (s.hostWr a l).layout = s.layout := rfl
@[simp] theorem State.hostWr_tileKeys (a : Nat) (l : List Byte) : (s.hostWr a l).tileKeys = s.tileKeys := rfl
@[simp] theorem State.hostWr_sqKeys (a : Nat) (l : List Byte) : (s.hostWr a l).sqKeys = s.sqKeys := rfl
@[simp] theorem State.hostWr_kabase (a : Nat) (l : List Byte) : (s.hostWr a l).kabase = s.kabase := rfl
@[simp] theorem State.hostWr_dirbase (a : Nat) (l : List Byte) : (s.hostWr a l).dirbase = s.dirbase := rfl
@[simp] theorem State.hostWr_installed (a : Nat) (l : List Byte) : (s.hostWr a l).installed = s.installed := rfl
@[simp] theorem State.hostWr_regions (a : Nat) (l : List Byte) : (s.hostWr a l).regions = s.regions := rfl
@[simp] theorem State.hostWr_cores (a : Nat) (l : List Byte) : (s.hostWr a l).cores = s.cores := rfl
@[simp] theorem State.hostWr_streets (a : Nat) (l : List Byte) : (s.hostWr a l).streets = s.streets := rfl
@[simp] theorem State.hostWr_squares (a : Nat) (l : List Byte) : (s.hostWr a l).squares = s.squares := rfl
@[simp] theorem State.hostWr_channels (a : Nat) (l : List Byte) : (s.hostWr a l).channels = s.channels := rfl
@[simp] theorem State.hostWr_trams (a : Nat) (l : List Byte) : (s.hostWr a l).trams = s.trams := rfl
@[simp] theorem State.hostWr_memPorts (a : Nat) (l : List Byte) : (s.hostWr a l).memPorts = s.memPorts := rfl
@[simp] theorem State.hostWr_hostPorts (a : Nat) (l : List Byte) : (s.hostWr a l).hostPorts = s.hostPorts := rfl
@[simp] theorem State.hostWr_tenancies (a : Nat) (l : List Byte) : (s.hostWr a l).tenancies = s.tenancies := rfl
@[simp] theorem State.hostWr_raised (a : Nat) (l : List Byte) : (s.hostWr a l).raised = s.raised := rfl
@[simp] theorem State.hostWr_seen (a : Nat) (l : List Byte) : (s.hostWr a l).seen = s.seen := rfl
@[simp] theorem State.hostWr_invals (a : Nat) (l : List Byte) : (s.hostWr a l).invals = s.invals := rfl
@[simp] theorem State.hostWr_dir (a : Nat) (l : List Byte) : (s.hostWr a l).dir = s.dir := rfl
@[simp] theorem State.hostWr_fwdq (a : Nat) (l : List Byte) : (s.hostWr a l).fwdq = s.fwdq := rfl
@[simp] theorem State.hostWr_deliveries (a : Nat) (l : List Byte) : (s.hostWr a l).deliveries = s.deliveries := rfl
@[simp] theorem State.hostWr_moves (a : Nat) (l : List Byte) : (s.hostWr a l).moves = s.moves := rfl
@[simp] theorem State.hostWr_batches (a : Nat) (l : List Byte) : (s.hostWr a l).batches = s.batches := rfl
@[simp] theorem State.hostWr_nextHandle (a : Nat) (l : List Byte) : (s.hostWr a l).nextHandle = s.nextHandle := rfl
@[simp] theorem State.hostWr_nextMove (a : Nat) (l : List Byte) : (s.hostWr a l).nextMove = s.nextMove := rfl
@[simp] theorem State.hostWr_heatNow (a : Nat) (l : List Byte) : (s.hostWr a l).heatNow = s.heatNow := rfl
@[simp] theorem State.hostWr_placeCfg (a : Nat) (l : List Byte) : (s.hostWr a l).placeCfg = s.placeCfg := rfl
@[simp] theorem State.hostWr_msix (a : Nat) (l : List Byte) : (s.hostWr a l).msix = s.msix := rfl
@[simp] theorem State.hostWr_msixTab (a : Nat) (l : List Byte) : (s.hostWr a l).msixTab = s.msixTab := rfl
@[simp] theorem State.hostWr_nextTurn (a : Nat) (l : List Byte) : (s.hostWr a l).nextTurn = s.nextTurn := rfl
@[simp] theorem State.hostWr_banks (a : Nat) (l : List Byte) : (s.hostWr a l).banks = s.banks := rfl
@[simp] theorem State.hostWr_newest (a : Nat) (l : List Byte) : (s.hostWr a l).newest = s.newest := rfl
@[simp] theorem State.hostWr_lseq (a : Nat) (l : List Byte) : (s.hostWr a l).lseq = s.lseq := rfl
@[simp] theorem State.hostWr_coalesce (a : Nat) (l : List Byte) : (s.hostWr a l).coalesce = s.coalesce := rfl
@[simp] theorem State.hostWr_aer (a : Nat) (l : List Byte) : (s.hostWr a l).aer = s.aer := rfl
@[simp] theorem State.hostWr_aerLast (a : Nat) (l : List Byte) : (s.hostWr a l).aerLast = s.aerLast := rfl
@[simp] theorem State.hostWr_fatal (a : Nat) (l : List Byte) : (s.hostWr a l).fatal = s.fatal := rfl
@[simp] theorem State.hostWr_fuses (a : Nat) (l : List Byte) : (s.hostWr a l).fuses = s.fuses := rfl
@[simp] theorem State.hostWr_extensions (a : Nat) (l : List Byte) : (s.hostWr a l).extensions = s.extensions := rfl
@[simp] theorem State.hostWr_staged (a : Nat) (l : List Byte) : (s.hostWr a l).staged = s.staged := rfl
@[simp] theorem State.hostWr_arcade (a : Nat) (l : List Byte) : (s.hostWr a l).arcade = s.arcade := rfl
@[simp] theorem State.hostWr_arcgen (a : Nat) (l : List Byte) : (s.hostWr a l).arcgen = s.arcgen := rfl
@[simp] theorem State.hostWr_flash (a : Nat) (l : List Byte) : (s.hostWr a l).flash = s.flash := rfl
@[simp] theorem State.hostWr_flashOp (a : Nat) (l : List Byte) : (s.hostWr a l).flashOp = s.flashOp := rfl
@[simp] theorem State.hostWr_torn (a : Nat) (l : List Byte) : (s.hostWr a l).torn = s.torn := rfl
@[simp] theorem State.hostWr_fwaddr (a : Nat) (l : List Byte) : (s.hostWr a l).fwaddr = s.fwaddr := rfl
@[simp] theorem State.hostWr_fwerr (a : Nat) (l : List Byte) : (s.hostWr a l).fwerr = s.fwerr := rfl
@[simp] theorem State.hostWr_fwbuf (a : Nat) (l : List Byte) : (s.hostWr a l).fwbuf = s.fwbuf := rfl
@[simp] theorem State.hostWr_boot (a : Nat) (l : List Byte) : (s.hostWr a l).boot = s.boot := rfl
@[simp] theorem State.hostWr_kerb (a : Nat) (l : List Byte) : (s.hostWr a l).kerb = s.kerb := rfl
@[simp] theorem State.hostWr_mgmt (a : Nat) (l : List Byte) : (s.hostWr a l).mgmt = s.mgmt := rfl
@[simp] theorem State.hostWr_tap (a : Nat) (l : List Byte) : (s.hostWr a l).tap = s.tap := rfl
@[simp] theorem State.hostWr_pins (a : Nat) (l : List Byte) : (s.hostWr a l).pins = s.pins := rfl
@[simp] theorem State.hostWr_free (a : Nat) (l : List Byte) : (s.hostWr a l).free = s.free := rfl

@[simp] theorem State.alertOn_pending : (s.alertOn).pending = s.pending := rfl
@[simp] theorem State.alertOn_part : (s.alertOn).part = s.part := rfl
@[simp] theorem State.alertOn_mem : (s.alertOn).mem = s.mem := rfl
@[simp] theorem State.alertOn_keyArr : (s.alertOn).keyArr = s.keyArr := rfl
@[simp] theorem State.alertOn_layout : (s.alertOn).layout = s.layout := rfl
@[simp] theorem State.alertOn_tileKeys : (s.alertOn).tileKeys = s.tileKeys := rfl
@[simp] theorem State.alertOn_sqKeys : (s.alertOn).sqKeys = s.sqKeys := rfl
@[simp] theorem State.alertOn_kabase : (s.alertOn).kabase = s.kabase := rfl
@[simp] theorem State.alertOn_dirbase : (s.alertOn).dirbase = s.dirbase := rfl
@[simp] theorem State.alertOn_installed : (s.alertOn).installed = s.installed := rfl
@[simp] theorem State.alertOn_regions : (s.alertOn).regions = s.regions := rfl
@[simp] theorem State.alertOn_hostMem : (s.alertOn).hostMem = s.hostMem := rfl
@[simp] theorem State.alertOn_cores : (s.alertOn).cores = s.cores := rfl
@[simp] theorem State.alertOn_streets : (s.alertOn).streets = s.streets := rfl
@[simp] theorem State.alertOn_squares : (s.alertOn).squares = s.squares := rfl
@[simp] theorem State.alertOn_channels : (s.alertOn).channels = s.channels := rfl
@[simp] theorem State.alertOn_trams : (s.alertOn).trams = s.trams := rfl
@[simp] theorem State.alertOn_memPorts : (s.alertOn).memPorts = s.memPorts := rfl
@[simp] theorem State.alertOn_hostPorts : (s.alertOn).hostPorts = s.hostPorts := rfl
@[simp] theorem State.alertOn_tenancies : (s.alertOn).tenancies = s.tenancies := rfl
@[simp] theorem State.alertOn_raised : (s.alertOn).raised = s.raised := rfl
@[simp] theorem State.alertOn_seen : (s.alertOn).seen = s.seen := rfl
@[simp] theorem State.alertOn_invals : (s.alertOn).invals = s.invals := rfl
@[simp] theorem State.alertOn_dir : (s.alertOn).dir = s.dir := rfl
@[simp] theorem State.alertOn_fwdq : (s.alertOn).fwdq = s.fwdq := rfl
@[simp] theorem State.alertOn_deliveries : (s.alertOn).deliveries = s.deliveries := rfl
@[simp] theorem State.alertOn_moves : (s.alertOn).moves = s.moves := rfl
@[simp] theorem State.alertOn_batches : (s.alertOn).batches = s.batches := rfl
@[simp] theorem State.alertOn_nextHandle : (s.alertOn).nextHandle = s.nextHandle := rfl
@[simp] theorem State.alertOn_nextMove : (s.alertOn).nextMove = s.nextMove := rfl
@[simp] theorem State.alertOn_heatNow : (s.alertOn).heatNow = s.heatNow := rfl
@[simp] theorem State.alertOn_placeCfg : (s.alertOn).placeCfg = s.placeCfg := rfl
@[simp] theorem State.alertOn_msix : (s.alertOn).msix = s.msix := rfl
@[simp] theorem State.alertOn_msixTab : (s.alertOn).msixTab = s.msixTab := rfl
@[simp] theorem State.alertOn_nextTurn : (s.alertOn).nextTurn = s.nextTurn := rfl
@[simp] theorem State.alertOn_banks : (s.alertOn).banks = s.banks := rfl
@[simp] theorem State.alertOn_newest : (s.alertOn).newest = s.newest := rfl
@[simp] theorem State.alertOn_lseq : (s.alertOn).lseq = s.lseq := rfl
@[simp] theorem State.alertOn_coalesce : (s.alertOn).coalesce = s.coalesce := rfl
@[simp] theorem State.alertOn_aer : (s.alertOn).aer = s.aer := rfl
@[simp] theorem State.alertOn_aerLast : (s.alertOn).aerLast = s.aerLast := rfl
@[simp] theorem State.alertOn_fatal : (s.alertOn).fatal = s.fatal := rfl
@[simp] theorem State.alertOn_fuses : (s.alertOn).fuses = s.fuses := rfl
@[simp] theorem State.alertOn_extensions : (s.alertOn).extensions = s.extensions := rfl
@[simp] theorem State.alertOn_staged : (s.alertOn).staged = s.staged := rfl
@[simp] theorem State.alertOn_arcade : (s.alertOn).arcade = s.arcade := rfl
@[simp] theorem State.alertOn_arcgen : (s.alertOn).arcgen = s.arcgen := rfl
@[simp] theorem State.alertOn_flash : (s.alertOn).flash = s.flash := rfl
@[simp] theorem State.alertOn_flashOp : (s.alertOn).flashOp = s.flashOp := rfl
@[simp] theorem State.alertOn_torn : (s.alertOn).torn = s.torn := rfl
@[simp] theorem State.alertOn_fwaddr : (s.alertOn).fwaddr = s.fwaddr := rfl
@[simp] theorem State.alertOn_fwerr : (s.alertOn).fwerr = s.fwerr := rfl
@[simp] theorem State.alertOn_fwbuf : (s.alertOn).fwbuf = s.fwbuf := rfl
@[simp] theorem State.alertOn_boot : (s.alertOn).boot = s.boot := rfl
@[simp] theorem State.alertOn_kerb : (s.alertOn).kerb = s.kerb := rfl
@[simp] theorem State.alertOn_tap : (s.alertOn).tap = s.tap := rfl
@[simp] theorem State.alertOn_pins : (s.alertOn).pins = s.pins := rfl
@[simp] theorem State.alertOn_free : (s.alertOn).free = s.free := rfl

/-- A byte written to attached memory changes plain memory, the key array and the directory at most. -/
theorem State.attWr_eq (pa : Nat) (b : Byte) :
    ∃ m ks d q, s.attWr pa b = { s with mem := m, keyArr := ks, dir := d, kerb := q } := by
  unfold State.attWr
  split
  · exact ⟨_, _, _, _, rfl⟩
  · split
    · exact ⟨_, _, _, _, rfl⟩
    · dsimp only
      split <;> exact ⟨_, _, _, _, rfl⟩

/-- A byte written at a physical address changes memory, the key array, the directory and KSTAT.EMPTY at most. -/
theorem State.wr_eq (pa : Nat) (b : Byte) :
    ∃ m ks d q, s.wr pa b = { s with mem := m, keyArr := ks, dir := d, kerb := q } := by
  unfold State.wr
  split
  · exact State.attWr_eq s pa b
  all_goals exact ⟨_, _, _, _, rfl⟩
@[simp] theorem State.wr_pending (pa : Nat) (b : Byte) : (s.wr pa b).pending = s.pending := by obtain ⟨_, _, _, _, h⟩ := s.wr_eq pa b; rw [h]
@[simp] theorem State.wr_part (pa : Nat) (b : Byte) : (s.wr pa b).part = s.part := by obtain ⟨_, _, _, _, h⟩ := s.wr_eq pa b; rw [h]
@[simp] theorem State.wr_layout (pa : Nat) (b : Byte) : (s.wr pa b).layout = s.layout := by obtain ⟨_, _, _, _, h⟩ := s.wr_eq pa b; rw [h]
@[simp] theorem State.wr_tileKeys (pa : Nat) (b : Byte) : (s.wr pa b).tileKeys = s.tileKeys := by obtain ⟨_, _, _, _, h⟩ := s.wr_eq pa b; rw [h]
@[simp] theorem State.wr_sqKeys (pa : Nat) (b : Byte) : (s.wr pa b).sqKeys = s.sqKeys := by obtain ⟨_, _, _, _, h⟩ := s.wr_eq pa b; rw [h]
@[simp] theorem State.wr_kabase (pa : Nat) (b : Byte) : (s.wr pa b).kabase = s.kabase := by obtain ⟨_, _, _, _, h⟩ := s.wr_eq pa b; rw [h]
@[simp] theorem State.wr_dirbase (pa : Nat) (b : Byte) : (s.wr pa b).dirbase = s.dirbase := by obtain ⟨_, _, _, _, h⟩ := s.wr_eq pa b; rw [h]
@[simp] theorem State.wr_installed (pa : Nat) (b : Byte) : (s.wr pa b).installed = s.installed := by obtain ⟨_, _, _, _, h⟩ := s.wr_eq pa b; rw [h]
@[simp] theorem State.wr_regions (pa : Nat) (b : Byte) : (s.wr pa b).regions = s.regions := by obtain ⟨_, _, _, _, h⟩ := s.wr_eq pa b; rw [h]
@[simp] theorem State.wr_hostMem (pa : Nat) (b : Byte) : (s.wr pa b).hostMem = s.hostMem := by obtain ⟨_, _, _, _, h⟩ := s.wr_eq pa b; rw [h]
@[simp] theorem State.wr_cores (pa : Nat) (b : Byte) : (s.wr pa b).cores = s.cores := by obtain ⟨_, _, _, _, h⟩ := s.wr_eq pa b; rw [h]
@[simp] theorem State.wr_streets (pa : Nat) (b : Byte) : (s.wr pa b).streets = s.streets := by obtain ⟨_, _, _, _, h⟩ := s.wr_eq pa b; rw [h]
@[simp] theorem State.wr_squares (pa : Nat) (b : Byte) : (s.wr pa b).squares = s.squares := by obtain ⟨_, _, _, _, h⟩ := s.wr_eq pa b; rw [h]
@[simp] theorem State.wr_channels (pa : Nat) (b : Byte) : (s.wr pa b).channels = s.channels := by obtain ⟨_, _, _, _, h⟩ := s.wr_eq pa b; rw [h]
@[simp] theorem State.wr_trams (pa : Nat) (b : Byte) : (s.wr pa b).trams = s.trams := by obtain ⟨_, _, _, _, h⟩ := s.wr_eq pa b; rw [h]
@[simp] theorem State.wr_memPorts (pa : Nat) (b : Byte) : (s.wr pa b).memPorts = s.memPorts := by obtain ⟨_, _, _, _, h⟩ := s.wr_eq pa b; rw [h]
@[simp] theorem State.wr_hostPorts (pa : Nat) (b : Byte) : (s.wr pa b).hostPorts = s.hostPorts := by obtain ⟨_, _, _, _, h⟩ := s.wr_eq pa b; rw [h]
@[simp] theorem State.wr_tenancies (pa : Nat) (b : Byte) : (s.wr pa b).tenancies = s.tenancies := by obtain ⟨_, _, _, _, h⟩ := s.wr_eq pa b; rw [h]
@[simp] theorem State.wr_raised (pa : Nat) (b : Byte) : (s.wr pa b).raised = s.raised := by obtain ⟨_, _, _, _, h⟩ := s.wr_eq pa b; rw [h]
@[simp] theorem State.wr_seen (pa : Nat) (b : Byte) : (s.wr pa b).seen = s.seen := by obtain ⟨_, _, _, _, h⟩ := s.wr_eq pa b; rw [h]
@[simp] theorem State.wr_invals (pa : Nat) (b : Byte) : (s.wr pa b).invals = s.invals := by obtain ⟨_, _, _, _, h⟩ := s.wr_eq pa b; rw [h]
@[simp] theorem State.wr_fwdq (pa : Nat) (b : Byte) : (s.wr pa b).fwdq = s.fwdq := by obtain ⟨_, _, _, _, h⟩ := s.wr_eq pa b; rw [h]
@[simp] theorem State.wr_deliveries (pa : Nat) (b : Byte) : (s.wr pa b).deliveries = s.deliveries := by obtain ⟨_, _, _, _, h⟩ := s.wr_eq pa b; rw [h]
@[simp] theorem State.wr_moves (pa : Nat) (b : Byte) : (s.wr pa b).moves = s.moves := by obtain ⟨_, _, _, _, h⟩ := s.wr_eq pa b; rw [h]
@[simp] theorem State.wr_batches (pa : Nat) (b : Byte) : (s.wr pa b).batches = s.batches := by obtain ⟨_, _, _, _, h⟩ := s.wr_eq pa b; rw [h]
@[simp] theorem State.wr_nextHandle (pa : Nat) (b : Byte) : (s.wr pa b).nextHandle = s.nextHandle := by obtain ⟨_, _, _, _, h⟩ := s.wr_eq pa b; rw [h]
@[simp] theorem State.wr_nextMove (pa : Nat) (b : Byte) : (s.wr pa b).nextMove = s.nextMove := by obtain ⟨_, _, _, _, h⟩ := s.wr_eq pa b; rw [h]
@[simp] theorem State.wr_heatNow (pa : Nat) (b : Byte) : (s.wr pa b).heatNow = s.heatNow := by obtain ⟨_, _, _, _, h⟩ := s.wr_eq pa b; rw [h]
@[simp] theorem State.wr_placeCfg (pa : Nat) (b : Byte) : (s.wr pa b).placeCfg = s.placeCfg := by obtain ⟨_, _, _, _, h⟩ := s.wr_eq pa b; rw [h]
@[simp] theorem State.wr_msix (pa : Nat) (b : Byte) : (s.wr pa b).msix = s.msix := by obtain ⟨_, _, _, _, h⟩ := s.wr_eq pa b; rw [h]
@[simp] theorem State.wr_msixTab (pa : Nat) (b : Byte) : (s.wr pa b).msixTab = s.msixTab := by obtain ⟨_, _, _, _, h⟩ := s.wr_eq pa b; rw [h]
@[simp] theorem State.wr_nextTurn (pa : Nat) (b : Byte) : (s.wr pa b).nextTurn = s.nextTurn := by obtain ⟨_, _, _, _, h⟩ := s.wr_eq pa b; rw [h]
@[simp] theorem State.wr_banks (pa : Nat) (b : Byte) : (s.wr pa b).banks = s.banks := by obtain ⟨_, _, _, _, h⟩ := s.wr_eq pa b; rw [h]
@[simp] theorem State.wr_newest (pa : Nat) (b : Byte) : (s.wr pa b).newest = s.newest := by obtain ⟨_, _, _, _, h⟩ := s.wr_eq pa b; rw [h]
@[simp] theorem State.wr_lseq (pa : Nat) (b : Byte) : (s.wr pa b).lseq = s.lseq := by obtain ⟨_, _, _, _, h⟩ := s.wr_eq pa b; rw [h]
@[simp] theorem State.wr_coalesce (pa : Nat) (b : Byte) : (s.wr pa b).coalesce = s.coalesce := by obtain ⟨_, _, _, _, h⟩ := s.wr_eq pa b; rw [h]
@[simp] theorem State.wr_aer (pa : Nat) (b : Byte) : (s.wr pa b).aer = s.aer := by obtain ⟨_, _, _, _, h⟩ := s.wr_eq pa b; rw [h]
@[simp] theorem State.wr_aerLast (pa : Nat) (b : Byte) : (s.wr pa b).aerLast = s.aerLast := by obtain ⟨_, _, _, _, h⟩ := s.wr_eq pa b; rw [h]
@[simp] theorem State.wr_fatal (pa : Nat) (b : Byte) : (s.wr pa b).fatal = s.fatal := by obtain ⟨_, _, _, _, h⟩ := s.wr_eq pa b; rw [h]
@[simp] theorem State.wr_fuses (pa : Nat) (b : Byte) : (s.wr pa b).fuses = s.fuses := by obtain ⟨_, _, _, _, h⟩ := s.wr_eq pa b; rw [h]
@[simp] theorem State.wr_extensions (pa : Nat) (b : Byte) : (s.wr pa b).extensions = s.extensions := by obtain ⟨_, _, _, _, h⟩ := s.wr_eq pa b; rw [h]
@[simp] theorem State.wr_staged (pa : Nat) (b : Byte) : (s.wr pa b).staged = s.staged := by obtain ⟨_, _, _, _, h⟩ := s.wr_eq pa b; rw [h]
@[simp] theorem State.wr_arcade (pa : Nat) (b : Byte) : (s.wr pa b).arcade = s.arcade := by obtain ⟨_, _, _, _, h⟩ := s.wr_eq pa b; rw [h]
@[simp] theorem State.wr_arcgen (pa : Nat) (b : Byte) : (s.wr pa b).arcgen = s.arcgen := by obtain ⟨_, _, _, _, h⟩ := s.wr_eq pa b; rw [h]
@[simp] theorem State.wr_flash (pa : Nat) (b : Byte) : (s.wr pa b).flash = s.flash := by obtain ⟨_, _, _, _, h⟩ := s.wr_eq pa b; rw [h]
@[simp] theorem State.wr_flashOp (pa : Nat) (b : Byte) : (s.wr pa b).flashOp = s.flashOp := by obtain ⟨_, _, _, _, h⟩ := s.wr_eq pa b; rw [h]
@[simp] theorem State.wr_torn (pa : Nat) (b : Byte) : (s.wr pa b).torn = s.torn := by obtain ⟨_, _, _, _, h⟩ := s.wr_eq pa b; rw [h]
@[simp] theorem State.wr_fwaddr (pa : Nat) (b : Byte) : (s.wr pa b).fwaddr = s.fwaddr := by obtain ⟨_, _, _, _, h⟩ := s.wr_eq pa b; rw [h]
@[simp] theorem State.wr_fwerr (pa : Nat) (b : Byte) : (s.wr pa b).fwerr = s.fwerr := by obtain ⟨_, _, _, _, h⟩ := s.wr_eq pa b; rw [h]
@[simp] theorem State.wr_fwbuf (pa : Nat) (b : Byte) : (s.wr pa b).fwbuf = s.fwbuf := by obtain ⟨_, _, _, _, h⟩ := s.wr_eq pa b; rw [h]
@[simp] theorem State.wr_boot (pa : Nat) (b : Byte) : (s.wr pa b).boot = s.boot := by obtain ⟨_, _, _, _, h⟩ := s.wr_eq pa b; rw [h]
@[simp] theorem State.wr_mgmt (pa : Nat) (b : Byte) : (s.wr pa b).mgmt = s.mgmt := by obtain ⟨_, _, _, _, h⟩ := s.wr_eq pa b; rw [h]
@[simp] theorem State.wr_tap (pa : Nat) (b : Byte) : (s.wr pa b).tap = s.tap := by obtain ⟨_, _, _, _, h⟩ := s.wr_eq pa b; rw [h]
@[simp] theorem State.wr_pins (pa : Nat) (b : Byte) : (s.wr pa b).pins = s.pins := by obtain ⟨_, _, _, _, h⟩ := s.wr_eq pa b; rw [h]
@[simp] theorem State.wr_free (pa : Nat) (b : Byte) : (s.wr pa b).free = s.free := by obtain ⟨_, _, _, _, h⟩ := s.wr_eq pa b; rw [h]

/-- So do bytes written from an address on. -/
theorem State.wrN_eq (pa : Nat) (l : List Byte) :
    ∃ m ks d q, s.wrN pa l = { s with mem := m, keyArr := ks, dir := d, kerb := q } := by
  induction l generalizing s pa with
  | nil => exact ⟨_, _, _, _, rfl⟩
  | cons b r ih =>
    obtain ⟨m, ks, d, q, h⟩ := State.wr_eq s pa b
    obtain ⟨m', ks', d', q', h'⟩ := ih (s.wr pa b) (pa + 1)
    exact ⟨m', ks', d', q', by simp only [State.wrN]; rw [h', h]⟩
@[simp] theorem State.wrN_pending (pa : Nat) (l : List Byte) : (s.wrN pa l).pending = s.pending := by obtain ⟨_, _, _, _, h⟩ := s.wrN_eq pa l; rw [h]
@[simp] theorem State.wrN_part (pa : Nat) (l : List Byte) : (s.wrN pa l).part = s.part := by obtain ⟨_, _, _, _, h⟩ := s.wrN_eq pa l; rw [h]
@[simp] theorem State.wrN_layout (pa : Nat) (l : List Byte) : (s.wrN pa l).layout = s.layout := by obtain ⟨_, _, _, _, h⟩ := s.wrN_eq pa l; rw [h]
@[simp] theorem State.wrN_tileKeys (pa : Nat) (l : List Byte) : (s.wrN pa l).tileKeys = s.tileKeys := by obtain ⟨_, _, _, _, h⟩ := s.wrN_eq pa l; rw [h]
@[simp] theorem State.wrN_sqKeys (pa : Nat) (l : List Byte) : (s.wrN pa l).sqKeys = s.sqKeys := by obtain ⟨_, _, _, _, h⟩ := s.wrN_eq pa l; rw [h]
@[simp] theorem State.wrN_kabase (pa : Nat) (l : List Byte) : (s.wrN pa l).kabase = s.kabase := by obtain ⟨_, _, _, _, h⟩ := s.wrN_eq pa l; rw [h]
@[simp] theorem State.wrN_dirbase (pa : Nat) (l : List Byte) : (s.wrN pa l).dirbase = s.dirbase := by obtain ⟨_, _, _, _, h⟩ := s.wrN_eq pa l; rw [h]
@[simp] theorem State.wrN_installed (pa : Nat) (l : List Byte) : (s.wrN pa l).installed = s.installed := by obtain ⟨_, _, _, _, h⟩ := s.wrN_eq pa l; rw [h]
@[simp] theorem State.wrN_regions (pa : Nat) (l : List Byte) : (s.wrN pa l).regions = s.regions := by obtain ⟨_, _, _, _, h⟩ := s.wrN_eq pa l; rw [h]
@[simp] theorem State.wrN_hostMem (pa : Nat) (l : List Byte) : (s.wrN pa l).hostMem = s.hostMem := by obtain ⟨_, _, _, _, h⟩ := s.wrN_eq pa l; rw [h]
@[simp] theorem State.wrN_cores (pa : Nat) (l : List Byte) : (s.wrN pa l).cores = s.cores := by obtain ⟨_, _, _, _, h⟩ := s.wrN_eq pa l; rw [h]
@[simp] theorem State.wrN_streets (pa : Nat) (l : List Byte) : (s.wrN pa l).streets = s.streets := by obtain ⟨_, _, _, _, h⟩ := s.wrN_eq pa l; rw [h]
@[simp] theorem State.wrN_squares (pa : Nat) (l : List Byte) : (s.wrN pa l).squares = s.squares := by obtain ⟨_, _, _, _, h⟩ := s.wrN_eq pa l; rw [h]
@[simp] theorem State.wrN_channels (pa : Nat) (l : List Byte) : (s.wrN pa l).channels = s.channels := by obtain ⟨_, _, _, _, h⟩ := s.wrN_eq pa l; rw [h]
@[simp] theorem State.wrN_trams (pa : Nat) (l : List Byte) : (s.wrN pa l).trams = s.trams := by obtain ⟨_, _, _, _, h⟩ := s.wrN_eq pa l; rw [h]
@[simp] theorem State.wrN_memPorts (pa : Nat) (l : List Byte) : (s.wrN pa l).memPorts = s.memPorts := by obtain ⟨_, _, _, _, h⟩ := s.wrN_eq pa l; rw [h]
@[simp] theorem State.wrN_hostPorts (pa : Nat) (l : List Byte) : (s.wrN pa l).hostPorts = s.hostPorts := by obtain ⟨_, _, _, _, h⟩ := s.wrN_eq pa l; rw [h]
@[simp] theorem State.wrN_tenancies (pa : Nat) (l : List Byte) : (s.wrN pa l).tenancies = s.tenancies := by obtain ⟨_, _, _, _, h⟩ := s.wrN_eq pa l; rw [h]
@[simp] theorem State.wrN_raised (pa : Nat) (l : List Byte) : (s.wrN pa l).raised = s.raised := by obtain ⟨_, _, _, _, h⟩ := s.wrN_eq pa l; rw [h]
@[simp] theorem State.wrN_seen (pa : Nat) (l : List Byte) : (s.wrN pa l).seen = s.seen := by obtain ⟨_, _, _, _, h⟩ := s.wrN_eq pa l; rw [h]
@[simp] theorem State.wrN_invals (pa : Nat) (l : List Byte) : (s.wrN pa l).invals = s.invals := by obtain ⟨_, _, _, _, h⟩ := s.wrN_eq pa l; rw [h]
@[simp] theorem State.wrN_fwdq (pa : Nat) (l : List Byte) : (s.wrN pa l).fwdq = s.fwdq := by obtain ⟨_, _, _, _, h⟩ := s.wrN_eq pa l; rw [h]
@[simp] theorem State.wrN_deliveries (pa : Nat) (l : List Byte) : (s.wrN pa l).deliveries = s.deliveries := by obtain ⟨_, _, _, _, h⟩ := s.wrN_eq pa l; rw [h]
@[simp] theorem State.wrN_moves (pa : Nat) (l : List Byte) : (s.wrN pa l).moves = s.moves := by obtain ⟨_, _, _, _, h⟩ := s.wrN_eq pa l; rw [h]
@[simp] theorem State.wrN_batches (pa : Nat) (l : List Byte) : (s.wrN pa l).batches = s.batches := by obtain ⟨_, _, _, _, h⟩ := s.wrN_eq pa l; rw [h]
@[simp] theorem State.wrN_nextHandle (pa : Nat) (l : List Byte) : (s.wrN pa l).nextHandle = s.nextHandle := by obtain ⟨_, _, _, _, h⟩ := s.wrN_eq pa l; rw [h]
@[simp] theorem State.wrN_nextMove (pa : Nat) (l : List Byte) : (s.wrN pa l).nextMove = s.nextMove := by obtain ⟨_, _, _, _, h⟩ := s.wrN_eq pa l; rw [h]
@[simp] theorem State.wrN_heatNow (pa : Nat) (l : List Byte) : (s.wrN pa l).heatNow = s.heatNow := by obtain ⟨_, _, _, _, h⟩ := s.wrN_eq pa l; rw [h]
@[simp] theorem State.wrN_placeCfg (pa : Nat) (l : List Byte) : (s.wrN pa l).placeCfg = s.placeCfg := by obtain ⟨_, _, _, _, h⟩ := s.wrN_eq pa l; rw [h]
@[simp] theorem State.wrN_msix (pa : Nat) (l : List Byte) : (s.wrN pa l).msix = s.msix := by obtain ⟨_, _, _, _, h⟩ := s.wrN_eq pa l; rw [h]
@[simp] theorem State.wrN_msixTab (pa : Nat) (l : List Byte) : (s.wrN pa l).msixTab = s.msixTab := by obtain ⟨_, _, _, _, h⟩ := s.wrN_eq pa l; rw [h]
@[simp] theorem State.wrN_nextTurn (pa : Nat) (l : List Byte) : (s.wrN pa l).nextTurn = s.nextTurn := by obtain ⟨_, _, _, _, h⟩ := s.wrN_eq pa l; rw [h]
@[simp] theorem State.wrN_banks (pa : Nat) (l : List Byte) : (s.wrN pa l).banks = s.banks := by obtain ⟨_, _, _, _, h⟩ := s.wrN_eq pa l; rw [h]
@[simp] theorem State.wrN_newest (pa : Nat) (l : List Byte) : (s.wrN pa l).newest = s.newest := by obtain ⟨_, _, _, _, h⟩ := s.wrN_eq pa l; rw [h]
@[simp] theorem State.wrN_lseq (pa : Nat) (l : List Byte) : (s.wrN pa l).lseq = s.lseq := by obtain ⟨_, _, _, _, h⟩ := s.wrN_eq pa l; rw [h]
@[simp] theorem State.wrN_coalesce (pa : Nat) (l : List Byte) : (s.wrN pa l).coalesce = s.coalesce := by obtain ⟨_, _, _, _, h⟩ := s.wrN_eq pa l; rw [h]
@[simp] theorem State.wrN_aer (pa : Nat) (l : List Byte) : (s.wrN pa l).aer = s.aer := by obtain ⟨_, _, _, _, h⟩ := s.wrN_eq pa l; rw [h]
@[simp] theorem State.wrN_aerLast (pa : Nat) (l : List Byte) : (s.wrN pa l).aerLast = s.aerLast := by obtain ⟨_, _, _, _, h⟩ := s.wrN_eq pa l; rw [h]
@[simp] theorem State.wrN_fatal (pa : Nat) (l : List Byte) : (s.wrN pa l).fatal = s.fatal := by obtain ⟨_, _, _, _, h⟩ := s.wrN_eq pa l; rw [h]
@[simp] theorem State.wrN_fuses (pa : Nat) (l : List Byte) : (s.wrN pa l).fuses = s.fuses := by obtain ⟨_, _, _, _, h⟩ := s.wrN_eq pa l; rw [h]
@[simp] theorem State.wrN_extensions (pa : Nat) (l : List Byte) : (s.wrN pa l).extensions = s.extensions := by obtain ⟨_, _, _, _, h⟩ := s.wrN_eq pa l; rw [h]
@[simp] theorem State.wrN_staged (pa : Nat) (l : List Byte) : (s.wrN pa l).staged = s.staged := by obtain ⟨_, _, _, _, h⟩ := s.wrN_eq pa l; rw [h]
@[simp] theorem State.wrN_arcade (pa : Nat) (l : List Byte) : (s.wrN pa l).arcade = s.arcade := by obtain ⟨_, _, _, _, h⟩ := s.wrN_eq pa l; rw [h]
@[simp] theorem State.wrN_arcgen (pa : Nat) (l : List Byte) : (s.wrN pa l).arcgen = s.arcgen := by obtain ⟨_, _, _, _, h⟩ := s.wrN_eq pa l; rw [h]
@[simp] theorem State.wrN_flash (pa : Nat) (l : List Byte) : (s.wrN pa l).flash = s.flash := by obtain ⟨_, _, _, _, h⟩ := s.wrN_eq pa l; rw [h]
@[simp] theorem State.wrN_flashOp (pa : Nat) (l : List Byte) : (s.wrN pa l).flashOp = s.flashOp := by obtain ⟨_, _, _, _, h⟩ := s.wrN_eq pa l; rw [h]
@[simp] theorem State.wrN_torn (pa : Nat) (l : List Byte) : (s.wrN pa l).torn = s.torn := by obtain ⟨_, _, _, _, h⟩ := s.wrN_eq pa l; rw [h]
@[simp] theorem State.wrN_fwaddr (pa : Nat) (l : List Byte) : (s.wrN pa l).fwaddr = s.fwaddr := by obtain ⟨_, _, _, _, h⟩ := s.wrN_eq pa l; rw [h]
@[simp] theorem State.wrN_fwerr (pa : Nat) (l : List Byte) : (s.wrN pa l).fwerr = s.fwerr := by obtain ⟨_, _, _, _, h⟩ := s.wrN_eq pa l; rw [h]
@[simp] theorem State.wrN_fwbuf (pa : Nat) (l : List Byte) : (s.wrN pa l).fwbuf = s.fwbuf := by obtain ⟨_, _, _, _, h⟩ := s.wrN_eq pa l; rw [h]
@[simp] theorem State.wrN_boot (pa : Nat) (l : List Byte) : (s.wrN pa l).boot = s.boot := by obtain ⟨_, _, _, _, h⟩ := s.wrN_eq pa l; rw [h]
@[simp] theorem State.wrN_mgmt (pa : Nat) (l : List Byte) : (s.wrN pa l).mgmt = s.mgmt := by obtain ⟨_, _, _, _, h⟩ := s.wrN_eq pa l; rw [h]
@[simp] theorem State.wrN_tap (pa : Nat) (l : List Byte) : (s.wrN pa l).tap = s.tap := by obtain ⟨_, _, _, _, h⟩ := s.wrN_eq pa l; rw [h]
@[simp] theorem State.wrN_pins (pa : Nat) (l : List Byte) : (s.wrN pa l).pins = s.pins := by obtain ⟨_, _, _, _, h⟩ := s.wrN_eq pa l; rw [h]
@[simp] theorem State.wrN_free (pa : Nat) (l : List Byte) : (s.wrN pa l).free = s.free := by obtain ⟨_, _, _, _, h⟩ := s.wrN_eq pa l; rw [h]

@[simp] theorem State.setFrameKey_pending (f : Nat) (b : Byte) : (s.setFrameKey f b).pending = s.pending := s.wr_pending _ b
@[simp] theorem State.setFrameKey_part (f : Nat) (b : Byte) : (s.setFrameKey f b).part = s.part := s.wr_part _ b
@[simp] theorem State.setFrameKey_layout (f : Nat) (b : Byte) : (s.setFrameKey f b).layout = s.layout := s.wr_layout _ b
@[simp] theorem State.setFrameKey_tileKeys (f : Nat) (b : Byte) : (s.setFrameKey f b).tileKeys = s.tileKeys := s.wr_tileKeys _ b
@[simp] theorem State.setFrameKey_sqKeys (f : Nat) (b : Byte) : (s.setFrameKey f b).sqKeys = s.sqKeys := s.wr_sqKeys _ b
@[simp] theorem State.setFrameKey_kabase (f : Nat) (b : Byte) : (s.setFrameKey f b).kabase = s.kabase := s.wr_kabase _ b
@[simp] theorem State.setFrameKey_dirbase (f : Nat) (b : Byte) : (s.setFrameKey f b).dirbase = s.dirbase := s.wr_dirbase _ b
@[simp] theorem State.setFrameKey_installed (f : Nat) (b : Byte) : (s.setFrameKey f b).installed = s.installed := s.wr_installed _ b
@[simp] theorem State.setFrameKey_regions (f : Nat) (b : Byte) : (s.setFrameKey f b).regions = s.regions := s.wr_regions _ b
@[simp] theorem State.setFrameKey_hostMem (f : Nat) (b : Byte) : (s.setFrameKey f b).hostMem = s.hostMem := s.wr_hostMem _ b
@[simp] theorem State.setFrameKey_cores (f : Nat) (b : Byte) : (s.setFrameKey f b).cores = s.cores := s.wr_cores _ b
@[simp] theorem State.setFrameKey_streets (f : Nat) (b : Byte) : (s.setFrameKey f b).streets = s.streets := s.wr_streets _ b
@[simp] theorem State.setFrameKey_squares (f : Nat) (b : Byte) : (s.setFrameKey f b).squares = s.squares := s.wr_squares _ b
@[simp] theorem State.setFrameKey_channels (f : Nat) (b : Byte) : (s.setFrameKey f b).channels = s.channels := s.wr_channels _ b
@[simp] theorem State.setFrameKey_trams (f : Nat) (b : Byte) : (s.setFrameKey f b).trams = s.trams := s.wr_trams _ b
@[simp] theorem State.setFrameKey_memPorts (f : Nat) (b : Byte) : (s.setFrameKey f b).memPorts = s.memPorts := s.wr_memPorts _ b
@[simp] theorem State.setFrameKey_hostPorts (f : Nat) (b : Byte) : (s.setFrameKey f b).hostPorts = s.hostPorts := s.wr_hostPorts _ b
@[simp] theorem State.setFrameKey_tenancies (f : Nat) (b : Byte) : (s.setFrameKey f b).tenancies = s.tenancies := s.wr_tenancies _ b
@[simp] theorem State.setFrameKey_raised (f : Nat) (b : Byte) : (s.setFrameKey f b).raised = s.raised := s.wr_raised _ b
@[simp] theorem State.setFrameKey_seen (f : Nat) (b : Byte) : (s.setFrameKey f b).seen = s.seen := s.wr_seen _ b
@[simp] theorem State.setFrameKey_invals (f : Nat) (b : Byte) : (s.setFrameKey f b).invals = s.invals := s.wr_invals _ b
@[simp] theorem State.setFrameKey_fwdq (f : Nat) (b : Byte) : (s.setFrameKey f b).fwdq = s.fwdq := s.wr_fwdq _ b
@[simp] theorem State.setFrameKey_deliveries (f : Nat) (b : Byte) : (s.setFrameKey f b).deliveries = s.deliveries := s.wr_deliveries _ b
@[simp] theorem State.setFrameKey_moves (f : Nat) (b : Byte) : (s.setFrameKey f b).moves = s.moves := s.wr_moves _ b
@[simp] theorem State.setFrameKey_batches (f : Nat) (b : Byte) : (s.setFrameKey f b).batches = s.batches := s.wr_batches _ b
@[simp] theorem State.setFrameKey_nextHandle (f : Nat) (b : Byte) : (s.setFrameKey f b).nextHandle = s.nextHandle := s.wr_nextHandle _ b
@[simp] theorem State.setFrameKey_nextMove (f : Nat) (b : Byte) : (s.setFrameKey f b).nextMove = s.nextMove := s.wr_nextMove _ b
@[simp] theorem State.setFrameKey_heatNow (f : Nat) (b : Byte) : (s.setFrameKey f b).heatNow = s.heatNow := s.wr_heatNow _ b
@[simp] theorem State.setFrameKey_placeCfg (f : Nat) (b : Byte) : (s.setFrameKey f b).placeCfg = s.placeCfg := s.wr_placeCfg _ b
@[simp] theorem State.setFrameKey_msix (f : Nat) (b : Byte) : (s.setFrameKey f b).msix = s.msix := s.wr_msix _ b
@[simp] theorem State.setFrameKey_msixTab (f : Nat) (b : Byte) : (s.setFrameKey f b).msixTab = s.msixTab := s.wr_msixTab _ b
@[simp] theorem State.setFrameKey_nextTurn (f : Nat) (b : Byte) : (s.setFrameKey f b).nextTurn = s.nextTurn := s.wr_nextTurn _ b
@[simp] theorem State.setFrameKey_banks (f : Nat) (b : Byte) : (s.setFrameKey f b).banks = s.banks := s.wr_banks _ b
@[simp] theorem State.setFrameKey_newest (f : Nat) (b : Byte) : (s.setFrameKey f b).newest = s.newest := s.wr_newest _ b
@[simp] theorem State.setFrameKey_lseq (f : Nat) (b : Byte) : (s.setFrameKey f b).lseq = s.lseq := s.wr_lseq _ b
@[simp] theorem State.setFrameKey_coalesce (f : Nat) (b : Byte) : (s.setFrameKey f b).coalesce = s.coalesce := s.wr_coalesce _ b
@[simp] theorem State.setFrameKey_aer (f : Nat) (b : Byte) : (s.setFrameKey f b).aer = s.aer := s.wr_aer _ b
@[simp] theorem State.setFrameKey_aerLast (f : Nat) (b : Byte) : (s.setFrameKey f b).aerLast = s.aerLast := s.wr_aerLast _ b
@[simp] theorem State.setFrameKey_fatal (f : Nat) (b : Byte) : (s.setFrameKey f b).fatal = s.fatal := s.wr_fatal _ b
@[simp] theorem State.setFrameKey_fuses (f : Nat) (b : Byte) : (s.setFrameKey f b).fuses = s.fuses := s.wr_fuses _ b
@[simp] theorem State.setFrameKey_extensions (f : Nat) (b : Byte) : (s.setFrameKey f b).extensions = s.extensions := s.wr_extensions _ b
@[simp] theorem State.setFrameKey_staged (f : Nat) (b : Byte) : (s.setFrameKey f b).staged = s.staged := s.wr_staged _ b
@[simp] theorem State.setFrameKey_arcade (f : Nat) (b : Byte) : (s.setFrameKey f b).arcade = s.arcade := s.wr_arcade _ b
@[simp] theorem State.setFrameKey_arcgen (f : Nat) (b : Byte) : (s.setFrameKey f b).arcgen = s.arcgen := s.wr_arcgen _ b
@[simp] theorem State.setFrameKey_flash (f : Nat) (b : Byte) : (s.setFrameKey f b).flash = s.flash := s.wr_flash _ b
@[simp] theorem State.setFrameKey_flashOp (f : Nat) (b : Byte) : (s.setFrameKey f b).flashOp = s.flashOp := s.wr_flashOp _ b
@[simp] theorem State.setFrameKey_torn (f : Nat) (b : Byte) : (s.setFrameKey f b).torn = s.torn := s.wr_torn _ b
@[simp] theorem State.setFrameKey_fwaddr (f : Nat) (b : Byte) : (s.setFrameKey f b).fwaddr = s.fwaddr := s.wr_fwaddr _ b
@[simp] theorem State.setFrameKey_fwerr (f : Nat) (b : Byte) : (s.setFrameKey f b).fwerr = s.fwerr := s.wr_fwerr _ b
@[simp] theorem State.setFrameKey_fwbuf (f : Nat) (b : Byte) : (s.setFrameKey f b).fwbuf = s.fwbuf := s.wr_fwbuf _ b
@[simp] theorem State.setFrameKey_boot (f : Nat) (b : Byte) : (s.setFrameKey f b).boot = s.boot := s.wr_boot _ b
@[simp] theorem State.setFrameKey_mgmt (f : Nat) (b : Byte) : (s.setFrameKey f b).mgmt = s.mgmt := s.wr_mgmt _ b
@[simp] theorem State.setFrameKey_tap (f : Nat) (b : Byte) : (s.setFrameKey f b).tap = s.tap := s.wr_tap _ b
@[simp] theorem State.setFrameKey_pins (f : Nat) (b : Byte) : (s.setFrameKey f b).pins = s.pins := s.wr_pins _ b
@[simp] theorem State.setFrameKey_free (f : Nat) (b : Byte) : (s.setFrameKey f b).free = s.free := s.wr_free _ b

@[simp] theorem State.keyBack_pending (f : Nat) (b : Byte) : (s.keyBack f b).pending = s.pending := s.setFrameKey_pending f _
@[simp] theorem State.keyBack_part (f : Nat) (b : Byte) : (s.keyBack f b).part = s.part := s.setFrameKey_part f _
@[simp] theorem State.keyBack_layout (f : Nat) (b : Byte) : (s.keyBack f b).layout = s.layout := s.setFrameKey_layout f _
@[simp] theorem State.keyBack_tileKeys (f : Nat) (b : Byte) : (s.keyBack f b).tileKeys = s.tileKeys := s.setFrameKey_tileKeys f _
@[simp] theorem State.keyBack_sqKeys (f : Nat) (b : Byte) : (s.keyBack f b).sqKeys = s.sqKeys := s.setFrameKey_sqKeys f _
@[simp] theorem State.keyBack_kabase (f : Nat) (b : Byte) : (s.keyBack f b).kabase = s.kabase := s.setFrameKey_kabase f _
@[simp] theorem State.keyBack_dirbase (f : Nat) (b : Byte) : (s.keyBack f b).dirbase = s.dirbase := s.setFrameKey_dirbase f _
@[simp] theorem State.keyBack_installed (f : Nat) (b : Byte) : (s.keyBack f b).installed = s.installed := s.setFrameKey_installed f _
@[simp] theorem State.keyBack_regions (f : Nat) (b : Byte) : (s.keyBack f b).regions = s.regions := s.setFrameKey_regions f _
@[simp] theorem State.keyBack_hostMem (f : Nat) (b : Byte) : (s.keyBack f b).hostMem = s.hostMem := s.setFrameKey_hostMem f _
@[simp] theorem State.keyBack_cores (f : Nat) (b : Byte) : (s.keyBack f b).cores = s.cores := s.setFrameKey_cores f _
@[simp] theorem State.keyBack_streets (f : Nat) (b : Byte) : (s.keyBack f b).streets = s.streets := s.setFrameKey_streets f _
@[simp] theorem State.keyBack_squares (f : Nat) (b : Byte) : (s.keyBack f b).squares = s.squares := s.setFrameKey_squares f _
@[simp] theorem State.keyBack_channels (f : Nat) (b : Byte) : (s.keyBack f b).channels = s.channels := s.setFrameKey_channels f _
@[simp] theorem State.keyBack_trams (f : Nat) (b : Byte) : (s.keyBack f b).trams = s.trams := s.setFrameKey_trams f _
@[simp] theorem State.keyBack_memPorts (f : Nat) (b : Byte) : (s.keyBack f b).memPorts = s.memPorts := s.setFrameKey_memPorts f _
@[simp] theorem State.keyBack_hostPorts (f : Nat) (b : Byte) : (s.keyBack f b).hostPorts = s.hostPorts := s.setFrameKey_hostPorts f _
@[simp] theorem State.keyBack_tenancies (f : Nat) (b : Byte) : (s.keyBack f b).tenancies = s.tenancies := s.setFrameKey_tenancies f _
@[simp] theorem State.keyBack_raised (f : Nat) (b : Byte) : (s.keyBack f b).raised = s.raised := s.setFrameKey_raised f _
@[simp] theorem State.keyBack_seen (f : Nat) (b : Byte) : (s.keyBack f b).seen = s.seen := s.setFrameKey_seen f _
@[simp] theorem State.keyBack_invals (f : Nat) (b : Byte) : (s.keyBack f b).invals = s.invals := s.setFrameKey_invals f _
@[simp] theorem State.keyBack_fwdq (f : Nat) (b : Byte) : (s.keyBack f b).fwdq = s.fwdq := s.setFrameKey_fwdq f _
@[simp] theorem State.keyBack_deliveries (f : Nat) (b : Byte) : (s.keyBack f b).deliveries = s.deliveries := s.setFrameKey_deliveries f _
@[simp] theorem State.keyBack_moves (f : Nat) (b : Byte) : (s.keyBack f b).moves = s.moves := s.setFrameKey_moves f _
@[simp] theorem State.keyBack_batches (f : Nat) (b : Byte) : (s.keyBack f b).batches = s.batches := s.setFrameKey_batches f _
@[simp] theorem State.keyBack_nextHandle (f : Nat) (b : Byte) : (s.keyBack f b).nextHandle = s.nextHandle := s.setFrameKey_nextHandle f _
@[simp] theorem State.keyBack_nextMove (f : Nat) (b : Byte) : (s.keyBack f b).nextMove = s.nextMove := s.setFrameKey_nextMove f _
@[simp] theorem State.keyBack_heatNow (f : Nat) (b : Byte) : (s.keyBack f b).heatNow = s.heatNow := s.setFrameKey_heatNow f _
@[simp] theorem State.keyBack_placeCfg (f : Nat) (b : Byte) : (s.keyBack f b).placeCfg = s.placeCfg := s.setFrameKey_placeCfg f _
@[simp] theorem State.keyBack_msix (f : Nat) (b : Byte) : (s.keyBack f b).msix = s.msix := s.setFrameKey_msix f _
@[simp] theorem State.keyBack_msixTab (f : Nat) (b : Byte) : (s.keyBack f b).msixTab = s.msixTab := s.setFrameKey_msixTab f _
@[simp] theorem State.keyBack_nextTurn (f : Nat) (b : Byte) : (s.keyBack f b).nextTurn = s.nextTurn := s.setFrameKey_nextTurn f _
@[simp] theorem State.keyBack_banks (f : Nat) (b : Byte) : (s.keyBack f b).banks = s.banks := s.setFrameKey_banks f _
@[simp] theorem State.keyBack_newest (f : Nat) (b : Byte) : (s.keyBack f b).newest = s.newest := s.setFrameKey_newest f _
@[simp] theorem State.keyBack_lseq (f : Nat) (b : Byte) : (s.keyBack f b).lseq = s.lseq := s.setFrameKey_lseq f _
@[simp] theorem State.keyBack_coalesce (f : Nat) (b : Byte) : (s.keyBack f b).coalesce = s.coalesce := s.setFrameKey_coalesce f _
@[simp] theorem State.keyBack_aer (f : Nat) (b : Byte) : (s.keyBack f b).aer = s.aer := s.setFrameKey_aer f _
@[simp] theorem State.keyBack_aerLast (f : Nat) (b : Byte) : (s.keyBack f b).aerLast = s.aerLast := s.setFrameKey_aerLast f _
@[simp] theorem State.keyBack_fatal (f : Nat) (b : Byte) : (s.keyBack f b).fatal = s.fatal := s.setFrameKey_fatal f _
@[simp] theorem State.keyBack_fuses (f : Nat) (b : Byte) : (s.keyBack f b).fuses = s.fuses := s.setFrameKey_fuses f _
@[simp] theorem State.keyBack_extensions (f : Nat) (b : Byte) : (s.keyBack f b).extensions = s.extensions := s.setFrameKey_extensions f _
@[simp] theorem State.keyBack_staged (f : Nat) (b : Byte) : (s.keyBack f b).staged = s.staged := s.setFrameKey_staged f _
@[simp] theorem State.keyBack_arcade (f : Nat) (b : Byte) : (s.keyBack f b).arcade = s.arcade := s.setFrameKey_arcade f _
@[simp] theorem State.keyBack_arcgen (f : Nat) (b : Byte) : (s.keyBack f b).arcgen = s.arcgen := s.setFrameKey_arcgen f _
@[simp] theorem State.keyBack_flash (f : Nat) (b : Byte) : (s.keyBack f b).flash = s.flash := s.setFrameKey_flash f _
@[simp] theorem State.keyBack_flashOp (f : Nat) (b : Byte) : (s.keyBack f b).flashOp = s.flashOp := s.setFrameKey_flashOp f _
@[simp] theorem State.keyBack_torn (f : Nat) (b : Byte) : (s.keyBack f b).torn = s.torn := s.setFrameKey_torn f _
@[simp] theorem State.keyBack_fwaddr (f : Nat) (b : Byte) : (s.keyBack f b).fwaddr = s.fwaddr := s.setFrameKey_fwaddr f _
@[simp] theorem State.keyBack_fwerr (f : Nat) (b : Byte) : (s.keyBack f b).fwerr = s.fwerr := s.setFrameKey_fwerr f _
@[simp] theorem State.keyBack_fwbuf (f : Nat) (b : Byte) : (s.keyBack f b).fwbuf = s.fwbuf := s.setFrameKey_fwbuf f _
@[simp] theorem State.keyBack_boot (f : Nat) (b : Byte) : (s.keyBack f b).boot = s.boot := s.setFrameKey_boot f _
@[simp] theorem State.keyBack_mgmt (f : Nat) (b : Byte) : (s.keyBack f b).mgmt = s.mgmt := s.setFrameKey_mgmt f _
@[simp] theorem State.keyBack_tap (f : Nat) (b : Byte) : (s.keyBack f b).tap = s.tap := s.setFrameKey_tap f _
@[simp] theorem State.keyBack_pins (f : Nat) (b : Byte) : (s.keyBack f b).pins = s.pins := s.setFrameKey_pins f _
@[simp] theorem State.keyBack_free (f : Nat) (b : Byte) : (s.keyBack f b).free = s.free := s.setFrameKey_free f _

@[simp] theorem State.dirPut_pending (i : Nat) (d : DirEnt) : (s.dirPut i d).pending = s.pending := rfl
@[simp] theorem State.dirPut_part (i : Nat) (d : DirEnt) : (s.dirPut i d).part = s.part := rfl
@[simp] theorem State.dirPut_mem (i : Nat) (d : DirEnt) : (s.dirPut i d).mem = s.mem := rfl
@[simp] theorem State.dirPut_keyArr (i : Nat) (d : DirEnt) : (s.dirPut i d).keyArr = s.keyArr := rfl
@[simp] theorem State.dirPut_layout (i : Nat) (d : DirEnt) : (s.dirPut i d).layout = s.layout := rfl
@[simp] theorem State.dirPut_tileKeys (i : Nat) (d : DirEnt) : (s.dirPut i d).tileKeys = s.tileKeys := rfl
@[simp] theorem State.dirPut_sqKeys (i : Nat) (d : DirEnt) : (s.dirPut i d).sqKeys = s.sqKeys := rfl
@[simp] theorem State.dirPut_kabase (i : Nat) (d : DirEnt) : (s.dirPut i d).kabase = s.kabase := rfl
@[simp] theorem State.dirPut_dirbase (i : Nat) (d : DirEnt) : (s.dirPut i d).dirbase = s.dirbase := rfl
@[simp] theorem State.dirPut_installed (i : Nat) (d : DirEnt) : (s.dirPut i d).installed = s.installed := rfl
@[simp] theorem State.dirPut_regions (i : Nat) (d : DirEnt) : (s.dirPut i d).regions = s.regions := rfl
@[simp] theorem State.dirPut_hostMem (i : Nat) (d : DirEnt) : (s.dirPut i d).hostMem = s.hostMem := rfl
@[simp] theorem State.dirPut_cores (i : Nat) (d : DirEnt) : (s.dirPut i d).cores = s.cores := rfl
@[simp] theorem State.dirPut_streets (i : Nat) (d : DirEnt) : (s.dirPut i d).streets = s.streets := rfl
@[simp] theorem State.dirPut_squares (i : Nat) (d : DirEnt) : (s.dirPut i d).squares = s.squares := rfl
@[simp] theorem State.dirPut_channels (i : Nat) (d : DirEnt) : (s.dirPut i d).channels = s.channels := rfl
@[simp] theorem State.dirPut_trams (i : Nat) (d : DirEnt) : (s.dirPut i d).trams = s.trams := rfl
@[simp] theorem State.dirPut_memPorts (i : Nat) (d : DirEnt) : (s.dirPut i d).memPorts = s.memPorts := rfl
@[simp] theorem State.dirPut_hostPorts (i : Nat) (d : DirEnt) : (s.dirPut i d).hostPorts = s.hostPorts := rfl
@[simp] theorem State.dirPut_tenancies (i : Nat) (d : DirEnt) : (s.dirPut i d).tenancies = s.tenancies := rfl
@[simp] theorem State.dirPut_raised (i : Nat) (d : DirEnt) : (s.dirPut i d).raised = s.raised := rfl
@[simp] theorem State.dirPut_seen (i : Nat) (d : DirEnt) : (s.dirPut i d).seen = s.seen := rfl
@[simp] theorem State.dirPut_invals (i : Nat) (d : DirEnt) : (s.dirPut i d).invals = s.invals := rfl
@[simp] theorem State.dirPut_fwdq (i : Nat) (d : DirEnt) : (s.dirPut i d).fwdq = s.fwdq := rfl
@[simp] theorem State.dirPut_deliveries (i : Nat) (d : DirEnt) : (s.dirPut i d).deliveries = s.deliveries := rfl
@[simp] theorem State.dirPut_moves (i : Nat) (d : DirEnt) : (s.dirPut i d).moves = s.moves := rfl
@[simp] theorem State.dirPut_batches (i : Nat) (d : DirEnt) : (s.dirPut i d).batches = s.batches := rfl
@[simp] theorem State.dirPut_nextHandle (i : Nat) (d : DirEnt) : (s.dirPut i d).nextHandle = s.nextHandle := rfl
@[simp] theorem State.dirPut_nextMove (i : Nat) (d : DirEnt) : (s.dirPut i d).nextMove = s.nextMove := rfl
@[simp] theorem State.dirPut_heatNow (i : Nat) (d : DirEnt) : (s.dirPut i d).heatNow = s.heatNow := rfl
@[simp] theorem State.dirPut_placeCfg (i : Nat) (d : DirEnt) : (s.dirPut i d).placeCfg = s.placeCfg := rfl
@[simp] theorem State.dirPut_msix (i : Nat) (d : DirEnt) : (s.dirPut i d).msix = s.msix := rfl
@[simp] theorem State.dirPut_msixTab (i : Nat) (d : DirEnt) : (s.dirPut i d).msixTab = s.msixTab := rfl
@[simp] theorem State.dirPut_nextTurn (i : Nat) (d : DirEnt) : (s.dirPut i d).nextTurn = s.nextTurn := rfl
@[simp] theorem State.dirPut_banks (i : Nat) (d : DirEnt) : (s.dirPut i d).banks = s.banks := rfl
@[simp] theorem State.dirPut_newest (i : Nat) (d : DirEnt) : (s.dirPut i d).newest = s.newest := rfl
@[simp] theorem State.dirPut_lseq (i : Nat) (d : DirEnt) : (s.dirPut i d).lseq = s.lseq := rfl
@[simp] theorem State.dirPut_coalesce (i : Nat) (d : DirEnt) : (s.dirPut i d).coalesce = s.coalesce := rfl
@[simp] theorem State.dirPut_aer (i : Nat) (d : DirEnt) : (s.dirPut i d).aer = s.aer := rfl
@[simp] theorem State.dirPut_aerLast (i : Nat) (d : DirEnt) : (s.dirPut i d).aerLast = s.aerLast := rfl
@[simp] theorem State.dirPut_fatal (i : Nat) (d : DirEnt) : (s.dirPut i d).fatal = s.fatal := rfl
@[simp] theorem State.dirPut_fuses (i : Nat) (d : DirEnt) : (s.dirPut i d).fuses = s.fuses := rfl
@[simp] theorem State.dirPut_extensions (i : Nat) (d : DirEnt) : (s.dirPut i d).extensions = s.extensions := rfl
@[simp] theorem State.dirPut_staged (i : Nat) (d : DirEnt) : (s.dirPut i d).staged = s.staged := rfl
@[simp] theorem State.dirPut_arcade (i : Nat) (d : DirEnt) : (s.dirPut i d).arcade = s.arcade := rfl
@[simp] theorem State.dirPut_arcgen (i : Nat) (d : DirEnt) : (s.dirPut i d).arcgen = s.arcgen := rfl
@[simp] theorem State.dirPut_flash (i : Nat) (d : DirEnt) : (s.dirPut i d).flash = s.flash := rfl
@[simp] theorem State.dirPut_flashOp (i : Nat) (d : DirEnt) : (s.dirPut i d).flashOp = s.flashOp := rfl
@[simp] theorem State.dirPut_torn (i : Nat) (d : DirEnt) : (s.dirPut i d).torn = s.torn := rfl
@[simp] theorem State.dirPut_fwaddr (i : Nat) (d : DirEnt) : (s.dirPut i d).fwaddr = s.fwaddr := rfl
@[simp] theorem State.dirPut_fwerr (i : Nat) (d : DirEnt) : (s.dirPut i d).fwerr = s.fwerr := rfl
@[simp] theorem State.dirPut_fwbuf (i : Nat) (d : DirEnt) : (s.dirPut i d).fwbuf = s.fwbuf := rfl
@[simp] theorem State.dirPut_boot (i : Nat) (d : DirEnt) : (s.dirPut i d).boot = s.boot := rfl
@[simp] theorem State.dirPut_kerb (i : Nat) (d : DirEnt) : (s.dirPut i d).kerb = s.kerb := rfl
@[simp] theorem State.dirPut_mgmt (i : Nat) (d : DirEnt) : (s.dirPut i d).mgmt = s.mgmt := rfl
@[simp] theorem State.dirPut_tap (i : Nat) (d : DirEnt) : (s.dirPut i d).tap = s.tap := rfl
@[simp] theorem State.dirPut_pins (i : Nat) (d : DirEnt) : (s.dirPut i d).pins = s.pins := rfl
@[simp] theorem State.dirPut_free (i : Nat) (d : DirEnt) : (s.dirPut i d).free = s.free := rfl

@[simp] theorem State.setBatch_pending (b : BatchSt) : (s.setBatch b).pending = s.pending := rfl
@[simp] theorem State.setBatch_part (b : BatchSt) : (s.setBatch b).part = s.part := rfl
@[simp] theorem State.setBatch_mem (b : BatchSt) : (s.setBatch b).mem = s.mem := rfl
@[simp] theorem State.setBatch_keyArr (b : BatchSt) : (s.setBatch b).keyArr = s.keyArr := rfl
@[simp] theorem State.setBatch_layout (b : BatchSt) : (s.setBatch b).layout = s.layout := rfl
@[simp] theorem State.setBatch_tileKeys (b : BatchSt) : (s.setBatch b).tileKeys = s.tileKeys := rfl
@[simp] theorem State.setBatch_sqKeys (b : BatchSt) : (s.setBatch b).sqKeys = s.sqKeys := rfl
@[simp] theorem State.setBatch_kabase (b : BatchSt) : (s.setBatch b).kabase = s.kabase := rfl
@[simp] theorem State.setBatch_dirbase (b : BatchSt) : (s.setBatch b).dirbase = s.dirbase := rfl
@[simp] theorem State.setBatch_installed (b : BatchSt) : (s.setBatch b).installed = s.installed := rfl
@[simp] theorem State.setBatch_regions (b : BatchSt) : (s.setBatch b).regions = s.regions := rfl
@[simp] theorem State.setBatch_hostMem (b : BatchSt) : (s.setBatch b).hostMem = s.hostMem := rfl
@[simp] theorem State.setBatch_cores (b : BatchSt) : (s.setBatch b).cores = s.cores := rfl
@[simp] theorem State.setBatch_streets (b : BatchSt) : (s.setBatch b).streets = s.streets := rfl
@[simp] theorem State.setBatch_squares (b : BatchSt) : (s.setBatch b).squares = s.squares := rfl
@[simp] theorem State.setBatch_channels (b : BatchSt) : (s.setBatch b).channels = s.channels := rfl
@[simp] theorem State.setBatch_trams (b : BatchSt) : (s.setBatch b).trams = s.trams := rfl
@[simp] theorem State.setBatch_memPorts (b : BatchSt) : (s.setBatch b).memPorts = s.memPorts := rfl
@[simp] theorem State.setBatch_hostPorts (b : BatchSt) : (s.setBatch b).hostPorts = s.hostPorts := rfl
@[simp] theorem State.setBatch_tenancies (b : BatchSt) : (s.setBatch b).tenancies = s.tenancies := rfl
@[simp] theorem State.setBatch_raised (b : BatchSt) : (s.setBatch b).raised = s.raised := rfl
@[simp] theorem State.setBatch_seen (b : BatchSt) : (s.setBatch b).seen = s.seen := rfl
@[simp] theorem State.setBatch_invals (b : BatchSt) : (s.setBatch b).invals = s.invals := rfl
@[simp] theorem State.setBatch_dir (b : BatchSt) : (s.setBatch b).dir = s.dir := rfl
@[simp] theorem State.setBatch_fwdq (b : BatchSt) : (s.setBatch b).fwdq = s.fwdq := rfl
@[simp] theorem State.setBatch_deliveries (b : BatchSt) : (s.setBatch b).deliveries = s.deliveries := rfl
@[simp] theorem State.setBatch_moves (b : BatchSt) : (s.setBatch b).moves = s.moves := rfl
@[simp] theorem State.setBatch_nextHandle (b : BatchSt) : (s.setBatch b).nextHandle = s.nextHandle := rfl
@[simp] theorem State.setBatch_nextMove (b : BatchSt) : (s.setBatch b).nextMove = s.nextMove := rfl
@[simp] theorem State.setBatch_heatNow (b : BatchSt) : (s.setBatch b).heatNow = s.heatNow := rfl
@[simp] theorem State.setBatch_placeCfg (b : BatchSt) : (s.setBatch b).placeCfg = s.placeCfg := rfl
@[simp] theorem State.setBatch_msix (b : BatchSt) : (s.setBatch b).msix = s.msix := rfl
@[simp] theorem State.setBatch_msixTab (b : BatchSt) : (s.setBatch b).msixTab = s.msixTab := rfl
@[simp] theorem State.setBatch_nextTurn (b : BatchSt) : (s.setBatch b).nextTurn = s.nextTurn := rfl
@[simp] theorem State.setBatch_banks (b : BatchSt) : (s.setBatch b).banks = s.banks := rfl
@[simp] theorem State.setBatch_newest (b : BatchSt) : (s.setBatch b).newest = s.newest := rfl
@[simp] theorem State.setBatch_lseq (b : BatchSt) : (s.setBatch b).lseq = s.lseq := rfl
@[simp] theorem State.setBatch_coalesce (b : BatchSt) : (s.setBatch b).coalesce = s.coalesce := rfl
@[simp] theorem State.setBatch_aer (b : BatchSt) : (s.setBatch b).aer = s.aer := rfl
@[simp] theorem State.setBatch_aerLast (b : BatchSt) : (s.setBatch b).aerLast = s.aerLast := rfl
@[simp] theorem State.setBatch_fatal (b : BatchSt) : (s.setBatch b).fatal = s.fatal := rfl
@[simp] theorem State.setBatch_fuses (b : BatchSt) : (s.setBatch b).fuses = s.fuses := rfl
@[simp] theorem State.setBatch_extensions (b : BatchSt) : (s.setBatch b).extensions = s.extensions := rfl
@[simp] theorem State.setBatch_staged (b : BatchSt) : (s.setBatch b).staged = s.staged := rfl
@[simp] theorem State.setBatch_arcade (b : BatchSt) : (s.setBatch b).arcade = s.arcade := rfl
@[simp] theorem State.setBatch_arcgen (b : BatchSt) : (s.setBatch b).arcgen = s.arcgen := rfl
@[simp] theorem State.setBatch_flash (b : BatchSt) : (s.setBatch b).flash = s.flash := rfl
@[simp] theorem State.setBatch_flashOp (b : BatchSt) : (s.setBatch b).flashOp = s.flashOp := rfl
@[simp] theorem State.setBatch_torn (b : BatchSt) : (s.setBatch b).torn = s.torn := rfl
@[simp] theorem State.setBatch_fwaddr (b : BatchSt) : (s.setBatch b).fwaddr = s.fwaddr := rfl
@[simp] theorem State.setBatch_fwerr (b : BatchSt) : (s.setBatch b).fwerr = s.fwerr := rfl
@[simp] theorem State.setBatch_fwbuf (b : BatchSt) : (s.setBatch b).fwbuf = s.fwbuf := rfl
@[simp] theorem State.setBatch_boot (b : BatchSt) : (s.setBatch b).boot = s.boot := rfl
@[simp] theorem State.setBatch_kerb (b : BatchSt) : (s.setBatch b).kerb = s.kerb := rfl
@[simp] theorem State.setBatch_mgmt (b : BatchSt) : (s.setBatch b).mgmt = s.mgmt := rfl
@[simp] theorem State.setBatch_tap (b : BatchSt) : (s.setBatch b).tap = s.tap := rfl
@[simp] theorem State.setBatch_pins (b : BatchSt) : (s.setBatch b).pins = s.pins := rfl
@[simp] theorem State.setBatch_free (b : BatchSt) : (s.setBatch b).free = s.free := rfl

@[simp] theorem State.dropBatch_pending (t q seq : Nat) : (s.dropBatch t q seq).pending = s.pending := rfl
@[simp] theorem State.dropBatch_part (t q seq : Nat) : (s.dropBatch t q seq).part = s.part := rfl
@[simp] theorem State.dropBatch_mem (t q seq : Nat) : (s.dropBatch t q seq).mem = s.mem := rfl
@[simp] theorem State.dropBatch_keyArr (t q seq : Nat) : (s.dropBatch t q seq).keyArr = s.keyArr := rfl
@[simp] theorem State.dropBatch_layout (t q seq : Nat) : (s.dropBatch t q seq).layout = s.layout := rfl
@[simp] theorem State.dropBatch_tileKeys (t q seq : Nat) : (s.dropBatch t q seq).tileKeys = s.tileKeys := rfl
@[simp] theorem State.dropBatch_sqKeys (t q seq : Nat) : (s.dropBatch t q seq).sqKeys = s.sqKeys := rfl
@[simp] theorem State.dropBatch_kabase (t q seq : Nat) : (s.dropBatch t q seq).kabase = s.kabase := rfl
@[simp] theorem State.dropBatch_dirbase (t q seq : Nat) : (s.dropBatch t q seq).dirbase = s.dirbase := rfl
@[simp] theorem State.dropBatch_installed (t q seq : Nat) : (s.dropBatch t q seq).installed = s.installed := rfl
@[simp] theorem State.dropBatch_regions (t q seq : Nat) : (s.dropBatch t q seq).regions = s.regions := rfl
@[simp] theorem State.dropBatch_hostMem (t q seq : Nat) : (s.dropBatch t q seq).hostMem = s.hostMem := rfl
@[simp] theorem State.dropBatch_cores (t q seq : Nat) : (s.dropBatch t q seq).cores = s.cores := rfl
@[simp] theorem State.dropBatch_streets (t q seq : Nat) : (s.dropBatch t q seq).streets = s.streets := rfl
@[simp] theorem State.dropBatch_squares (t q seq : Nat) : (s.dropBatch t q seq).squares = s.squares := rfl
@[simp] theorem State.dropBatch_channels (t q seq : Nat) : (s.dropBatch t q seq).channels = s.channels := rfl
@[simp] theorem State.dropBatch_trams (t q seq : Nat) : (s.dropBatch t q seq).trams = s.trams := rfl
@[simp] theorem State.dropBatch_memPorts (t q seq : Nat) : (s.dropBatch t q seq).memPorts = s.memPorts := rfl
@[simp] theorem State.dropBatch_hostPorts (t q seq : Nat) : (s.dropBatch t q seq).hostPorts = s.hostPorts := rfl
@[simp] theorem State.dropBatch_tenancies (t q seq : Nat) : (s.dropBatch t q seq).tenancies = s.tenancies := rfl
@[simp] theorem State.dropBatch_raised (t q seq : Nat) : (s.dropBatch t q seq).raised = s.raised := rfl
@[simp] theorem State.dropBatch_seen (t q seq : Nat) : (s.dropBatch t q seq).seen = s.seen := rfl
@[simp] theorem State.dropBatch_invals (t q seq : Nat) : (s.dropBatch t q seq).invals = s.invals := rfl
@[simp] theorem State.dropBatch_dir (t q seq : Nat) : (s.dropBatch t q seq).dir = s.dir := rfl
@[simp] theorem State.dropBatch_fwdq (t q seq : Nat) : (s.dropBatch t q seq).fwdq = s.fwdq := rfl
@[simp] theorem State.dropBatch_deliveries (t q seq : Nat) : (s.dropBatch t q seq).deliveries = s.deliveries := rfl
@[simp] theorem State.dropBatch_moves (t q seq : Nat) : (s.dropBatch t q seq).moves = s.moves := rfl
@[simp] theorem State.dropBatch_nextHandle (t q seq : Nat) : (s.dropBatch t q seq).nextHandle = s.nextHandle := rfl
@[simp] theorem State.dropBatch_nextMove (t q seq : Nat) : (s.dropBatch t q seq).nextMove = s.nextMove := rfl
@[simp] theorem State.dropBatch_heatNow (t q seq : Nat) : (s.dropBatch t q seq).heatNow = s.heatNow := rfl
@[simp] theorem State.dropBatch_placeCfg (t q seq : Nat) : (s.dropBatch t q seq).placeCfg = s.placeCfg := rfl
@[simp] theorem State.dropBatch_msix (t q seq : Nat) : (s.dropBatch t q seq).msix = s.msix := rfl
@[simp] theorem State.dropBatch_msixTab (t q seq : Nat) : (s.dropBatch t q seq).msixTab = s.msixTab := rfl
@[simp] theorem State.dropBatch_nextTurn (t q seq : Nat) : (s.dropBatch t q seq).nextTurn = s.nextTurn := rfl
@[simp] theorem State.dropBatch_banks (t q seq : Nat) : (s.dropBatch t q seq).banks = s.banks := rfl
@[simp] theorem State.dropBatch_newest (t q seq : Nat) : (s.dropBatch t q seq).newest = s.newest := rfl
@[simp] theorem State.dropBatch_lseq (t q seq : Nat) : (s.dropBatch t q seq).lseq = s.lseq := rfl
@[simp] theorem State.dropBatch_coalesce (t q seq : Nat) : (s.dropBatch t q seq).coalesce = s.coalesce := rfl
@[simp] theorem State.dropBatch_aer (t q seq : Nat) : (s.dropBatch t q seq).aer = s.aer := rfl
@[simp] theorem State.dropBatch_aerLast (t q seq : Nat) : (s.dropBatch t q seq).aerLast = s.aerLast := rfl
@[simp] theorem State.dropBatch_fatal (t q seq : Nat) : (s.dropBatch t q seq).fatal = s.fatal := rfl
@[simp] theorem State.dropBatch_fuses (t q seq : Nat) : (s.dropBatch t q seq).fuses = s.fuses := rfl
@[simp] theorem State.dropBatch_extensions (t q seq : Nat) : (s.dropBatch t q seq).extensions = s.extensions := rfl
@[simp] theorem State.dropBatch_staged (t q seq : Nat) : (s.dropBatch t q seq).staged = s.staged := rfl
@[simp] theorem State.dropBatch_arcade (t q seq : Nat) : (s.dropBatch t q seq).arcade = s.arcade := rfl
@[simp] theorem State.dropBatch_arcgen (t q seq : Nat) : (s.dropBatch t q seq).arcgen = s.arcgen := rfl
@[simp] theorem State.dropBatch_flash (t q seq : Nat) : (s.dropBatch t q seq).flash = s.flash := rfl
@[simp] theorem State.dropBatch_flashOp (t q seq : Nat) : (s.dropBatch t q seq).flashOp = s.flashOp := rfl
@[simp] theorem State.dropBatch_torn (t q seq : Nat) : (s.dropBatch t q seq).torn = s.torn := rfl
@[simp] theorem State.dropBatch_fwaddr (t q seq : Nat) : (s.dropBatch t q seq).fwaddr = s.fwaddr := rfl
@[simp] theorem State.dropBatch_fwerr (t q seq : Nat) : (s.dropBatch t q seq).fwerr = s.fwerr := rfl
@[simp] theorem State.dropBatch_fwbuf (t q seq : Nat) : (s.dropBatch t q seq).fwbuf = s.fwbuf := rfl
@[simp] theorem State.dropBatch_boot (t q seq : Nat) : (s.dropBatch t q seq).boot = s.boot := rfl
@[simp] theorem State.dropBatch_kerb (t q seq : Nat) : (s.dropBatch t q seq).kerb = s.kerb := rfl
@[simp] theorem State.dropBatch_mgmt (t q seq : Nat) : (s.dropBatch t q seq).mgmt = s.mgmt := rfl
@[simp] theorem State.dropBatch_tap (t q seq : Nat) : (s.dropBatch t q seq).tap = s.tap := rfl
@[simp] theorem State.dropBatch_pins (t q seq : Nat) : (s.dropBatch t q seq).pins = s.pins := rfl
@[simp] theorem State.dropBatch_free (t q seq : Nat) : (s.dropBatch t q seq).free = s.free := rfl

end Sys2Proof.Machine
end

