-- ==== Sys2Proof/Laws/Path.lean ====
section
/-! SUPPORT. What the checks of an issue change: of the core its key cache, its walker's caches and the MODEL's
counter, and of the device key bytes. -/

namespace Sys2Proof.Machine

/-- Two cores differ at most in what the checks of an instruction change. -/
def Core.near (k j : Core) : Prop :=
  ∃ kc f ct ps, j = { k with keyCache := kc, free := f, ccTlb := ct, psc := ps }

theorem Core.near_refl (k : Core) : k.near k := ⟨k.keyCache, k.free, k.ccTlb, k.psc, rfl⟩

theorem Core.near_trans {k j l : Core} (h : k.near j) (g : j.near l) : k.near l := by
  obtain ⟨_, _, _, _, rfl⟩ := h
  obtain ⟨a, b, c, d, rfl⟩ := g
  exact ⟨a, b, c, d, rfl⟩

theorem Core.near_bank {k j : Core} (h : k.near j) : j.bank = k.bank := by
  obtain ⟨_, _, _, _, rfl⟩ := h; rfl

theorem Core.near_curIx {k j : Core} (h : k.near j) : j.curIx = k.curIx := by
  obtain ⟨_, _, _, _, rfl⟩ := h; rfl

theorem Core.near_bankAt {k j : Core} (h : k.near j) (i : Fin 5) : j.bankAt i = k.bankAt i := by
  obtain ⟨_, _, _, _, rfl⟩ := h; rfl

/-- Two states differ at most in key bytes, and in what stands where KABASE has them. -/
def State.near (s t : State) : Prop :=
  ∃ m ka tk sk d kb, t = { s with mem := m, keyArr := ka, tileKeys := tk, sqKeys := sk, dir := d, kerb := kb }

theorem State.near_refl (s : State) : s.near s := ⟨s.mem, s.keyArr, s.tileKeys, s.sqKeys, s.dir, s.kerb, rfl⟩

theorem State.near_trans {s t u : State} (h : s.near t) (g : t.near u) : s.near u := by
  obtain ⟨_, _, _, _, _, _, rfl⟩ := h
  obtain ⟨a, b, c, d, e, f, rfl⟩ := g
  exact ⟨a, b, c, d, e, f, rfl⟩

theorem State.near_core {s t : State} (h : s.near t) (c : CoreId) : t.core c = s.core c := by
  obtain ⟨_, _, _, _, _, _, rfl⟩ := h; rfl

theorem State.near_dirMem (s : State) (d : Sparse DirEnt) (m : List Host.Cell) :
    s.near { s with dir := d, mem := m } := ⟨m, s.keyArr, s.tileKeys, s.sqKeys, d, s.kerb, rfl⟩

theorem State.near_mem (s : State) (m : List Host.Cell) : s.near { s with mem := m } := State.near_dirMem s s.dir m

theorem State.near_keyArr (s : State) (a : List Host.Cell) : s.near { s with keyArr := a } :=
  ⟨s.mem, a, s.tileKeys, s.sqKeys, s.dir, s.kerb, rfl⟩

/-- A byte of attached memory written changes memory, the key array or the directory. -/
theorem attWr_near (s : State) (pa : Nat) (b : Byte) : s.near (s.attWr pa b) := by
  unfold State.attWr
  split
  · exact State.near_keyArr s _
  · split
    · exact State.near_mem s _
    · generalize hz : List.replicate 32 memDefault = z
      dsimp only
      split
      · exact State.near_dirMem s _ _
      · exact State.near_dirMem s _ _

/-- A byte written changes memory, the key array, the directory, or marks the Kerb as written. -/
theorem wr_near (s : State) (pa : Nat) (b : Byte) : s.near (s.wr pa b) := by
  unfold State.wr
  cases pKind pa with
  | attached => exact attWr_near s pa b
  | tile n o k => cases k <;> exact State.near_mem s _
  | _ => first | exact State.near_refl s | exact State.near_mem s _ | exact ⟨_, s.keyArr, s.tileKeys, s.sqKeys, s.dir, _, rfl⟩
/-! ### Translation -/

/-- A translation changes of the core what the walker caches, whether it succeeds or not. -/
theorem ccXlate_near (k : Core) (s : State) (va : Nat) (u w f e : Bool) : k.near (ccXlate k s va u w f e).1 := by
  simp only [ccXlate]
  repeat' split
  all_goals exact Core.near_refl _

theorem ccXlateL_near (s : State) (c : CoreId) (w f e : Bool) :
    ∀ (l : List Nat) (k : Core), k.near (ccXlateL s c w f e k l).1
  | [], k => Core.near_refl k
  | va :: r, k => by
    have h1 := ccXlate_near k s va (!k.sup) w f e
    simp only [ccXlateL]
    split
    · rename_i h; rw [h] at h1; exact h1
    · rename_i h; rw [h] at h1; exact h1
    · rename_i h
      rw [h] at h1
      have h2 := Core.near_trans h1 (ccXlateL_near s c w f e r _)
      split <;> (rename_i g; rw [g] at h2; exact h2)

theorem chk8_near (s : State) (c : CoreId) (e : Option HwErr) (k : Core) (r : Req) : k.near (chk8 s c e k r).1 := by
  simp only [chk8]
  repeat' split
  all_goals first | exact Core.near_refl _ | exact ccXlateL_near _ _ _ _ _ _ _

theorem chk8All_near (s : State) (c : CoreId) (e : Option HwErr) :
    ∀ (l : List Req) (k : Core), k.near (chk8All s c e k l).1
  | [], k => Core.near_refl k
  | r :: rs, k => by
    have h1 := chk8_near s c e k r
    simp only [chk8All]
    split
    · rename_i h; rw [h] at h1; exact h1
    · rename_i h
      rw [h] at h1
      have h2 := Core.near_trans h1 (chk8All_near s c e rs _)
      split <;> (rename_i g; rw [g] at h2; exact h2)

/-! ### Storage keys -/

theorem keyBack_near (s : State) (f : Nat) (b : Byte) : s.near (s.keyBack f b) := wr_near _ _ _

theorem touchFrame_near (s : State) (cache : Sparse Byte) (v f : Nat) (um : Byte) :
    s.near (touchFrame s cache v f um).1 := by
  simp only [touchFrame]
  repeat' split
  all_goals first | exact State.near_refl _ | exact keyBack_near _ _ _

theorem fetchKeys_near (v : Nat) : ∀ (l : List Gran) (s : State) (cache : Sparse Byte), s.near (fetchKeys v l s cache).1
  | [], s, _ => State.near_refl s
  | .frame f :: r, s, cache => State.near_trans (touchFrame_near s cache v f 0) (fetchKeys_near v r _ _)
  | .tile _ :: r, s, cache => fetchKeys_near v r s cache
  | .sq _ :: r, s, cache => fetchKeys_near v r s cache

theorem touchKeys_near (um : Byte) (v : Nat) : ∀ (l : List (Nat × Gran)) (s : State) (cache : Sparse Byte),
    s.near (touchKeys um v l s cache).1
  | [], s, _ => State.near_refl s
  | (_, .tile i) :: r, s, cache =>
    State.near_trans ⟨_, _, _, _, _, _, rfl⟩ (touchKeys_near um v r { s with tileKeys := spPut s.tileKeys i (spGet 0 s.tileKeys i ||| um) } cache)
  | (_, .sq i) :: r, s, cache =>
    State.near_trans ⟨_, _, _, _, _, _, rfl⟩ (touchKeys_near um v r { s with sqKeys := spPut s.sqKeys i (spGet 0 s.sqKeys i ||| um) } cache)
  | (_, .frame f) :: r, s, cache =>
    State.near_trans (touchFrame_near s cache v f um) (touchKeys_near um v r _ _)

/-- The key check of an access reads key bytes into the key cache, and writes back those that it evicts. -/
theorem keyCheck_near (s : State) (c : CoreId) (k : Core) (addr : Nat → Nat) (l : List Loc) (w : Bool) (fin : Nat)
    (e : Option HwErr) : s.near (keyCheck s c k addr l w fin e).1 ∧ k.near (keyCheck s c k addr l w fin e).2.1 := by
  simp only [keyCheck]
  repeat' split
  all_goals first
    | exact ⟨State.near_refl _, Core.near_refl _⟩
    | exact ⟨fetchKeys_near _ _ _ _, ⟨_, _, _, _, rfl⟩⟩

theorem chk9_near (s : State) (c : CoreId) (e : Option HwErr) (k : Core) (r : Req) (l : List Loc) :
    s.near (chk9 s c e k r l).1 ∧ k.near (chk9 s c e k r l).2.1 := by
  simp only [chk9]
  split
  · exact ⟨State.near_refl _, Core.near_refl _⟩
  · exact keyCheck_near _ _ _ _ _ _ _ _

theorem chk9All_near (c : CoreId) (e : Option HwErr) : ∀ (l : List (Req × List Loc)) (s : State) (k : Core),
    s.near (chk9All c e l s k).1 ∧ k.near (chk9All c e l s k).2.1
  | [], s, k => ⟨State.near_refl s, Core.near_refl k⟩
  | (r, l) :: rest, s, k => by
    have h1 := chk9_near s c e k r l
    simp only [chk9All]
    split
    · rename_i h; rw [h] at h1; exact h1
    · rename_i h
      rw [h] at h1
      have h2 := chk9All_near c e rest
      exact ⟨State.near_trans h1.1 (h2 _ _).1, Core.near_trans h1.2 (h2 _ _).2⟩

/-- Checks 7 to 9 change of the core what the walker and the key cache hold, and of the device key bytes. -/
theorem operandChecks_near (s : State) (c : CoreId) (k : Core) (rs : List Req) (e : Option HwErr) :
    s.near (operandChecks s c k rs e).s ∧ k.near (operandChecks s c k rs e).k := by
  simp only [operandChecks]
  split
  · exact ⟨State.near_refl _, Core.near_refl _⟩
  · have h1 := chk8All_near s c e rs k
    split
    · rename_i h; rw [h] at h1; exact ⟨State.near_refl _, h1⟩
    · rename_i k1 ls h
      rw [h] at h1
      have h2 := chk9All_near c e (rs.zip ls) s k1
      split <;> (rename_i g; rw [g] at h2; exact ⟨h2.1, Core.near_trans h1 h2.2⟩)

/-- The key check of a fetch, and the USE that it sets when it passes. -/
theorem stateFetchKeys_near (s : State) (c : CoreId) (k : Core) (addr : Nat → Nat) (l : List Loc) (e : Option HwErr) :
    s.near (s.fetchKeys c k addr l e).1 ∧ k.near (s.fetchKeys c k addr l e).2.1 := by
  have h1 := keyCheck_near s c k addr l false 512 e
  simp only [State.fetchKeys]
  split
  · rename_i h; rw [h] at h1; exact h1
  · rename_i h
    rw [h] at h1
    exact ⟨State.near_trans h1.1 (touchKeys_near _ _ _ _ _), Core.near_trans h1.2 ⟨_, _, _, _, rfl⟩⟩

/-- Check 1 changes key bytes, a key cache and the walker's caches. -/
theorem fetchCheck_near (s : State) (c : CoreId) (k : Core) (n : Nat) (b : Byte) (e : Option HwErr) :
    s.near (s.fetchCheck c k n b e).1 ∧ k.near (s.fetchCheck c k n b e).2.1 := by
  simp only [State.fetchCheck]
  split
  · split
    · rename_i h
      have h1 := ccXlateL_near s c false true (e == some .walk)
        ((List.range n).map (fun i => ccVa k k.bank.fseg ((k.bank.pc.toNat + i) % 2 ^ 32))) k
      rw [h] at h1
      exact ⟨State.near_refl _, h1⟩
    · rename_i h
      have h1 := ccXlateL_near s c false true (e == some .walk)
        ((List.range n).map (fun i => ccVa k k.bank.fseg ((k.bank.pc.toNat + i) % 2 ^ 32))) k
      rw [h] at h1
      have h2 := stateFetchKeys_near s c
      exact ⟨(h2 _ _ _ _).1, Core.near_trans h1 (h2 _ _ _ _).2⟩
  · repeat' split
    all_goals first | exact ⟨State.near_refl _, Core.near_refl _⟩ | exact stateFetchKeys_near _ _ _ _ _ _

/-- USE and MOD of the operands change key bytes and the key cache. -/
theorem Work.touch_near : ∀ (l : List (Req × List Loc)) (w : Work),
    (w.touch l).c = w.c ∧ w.s.near (w.touch l).s ∧ w.k.near (w.touch l).k
  | [], w => ⟨rfl, State.near_refl _, Core.near_refl _⟩
  | (_, _) :: rest, w => by
    unfold Work.touch
    have h := Work.touch_near rest
    refine ⟨(h _).1, State.near_trans ?_ (h _).2.1, Core.near_trans ?_ (h _).2.2⟩
    · exact touchKeys_near _ _ _ _ _
    · exact ⟨_, _, _, _, rfl⟩

/-- The access of a format M or L instruction depends on the core's bank alone. -/
theorem mReqs_bank (a : Issue) (m : MOp) {k j : Core} (h : j.bank = k.bank) (p q : Bool) :
    mReqs a m j p q = mReqs a m k p q := by simp only [mReqs, h]

end Sys2Proof.Machine
end

