-- ==== Sys2Proof/Machine/Code.lean ====
section
/-! DEFINITION. The instruction that stands at a core's PC, as its bytes spell it (R93, R94). -/

namespace Sys2Proof.Machine

/-- The byte that a core would fetch at an address: a control core through its address space, an engine from its fetch
queue, its loop buffer or its tile. -/
def State.fetchByte (s : State) (c : CoreId) (k : Core) (a : Nat) : Byte :=
  if isCc c then
    match (ccXlate k s (ccVa k k.bank.fseg (a % 2 ^ 32)) false false false false).2 with
    | .ok pa => s.ccByte k.sup pa
    | .error _ => 0
  else k.codeByte (s.code c) a

/-- The instruction at the PC of a core, with the Arcade formats in force. -/
def State.atPc (s : State) (c : CoreId) : Instr :=
  let k : Core := s.core c
  decodeBytes c (fun x => arcadeLen (spGet 0 s.arcade.entries x))
    ((List.range 16).map (fun i => s.fetchByte c k (k.bank.pc.toNat + i)))

end Sys2Proof.Machine
end

