-- ==== Sys2Proof/Tests/Slice0.lean ====
section
/-! SUPPORT. Small tests, the refusals of WellFormed, and for every statement with hypotheses states and operands that
meet them. -/

set_option maxRecDepth 100000

set_option Elab.async false

namespace Sys2Proof.Tests

open Sys2Proof.Machine

/-! ### Helpers -/

/-- An instruction of the form `f` reaches its body, with `p` of what it has then. -/
def reaches (s : State) (a : Issue) (f : State → Core → Form) (p : Ready → Bool) : Bool :=
  match s.issues a f with
  | .inr r => p r
  | .inl _ => false

/-- `reaches` says that the hypotheses of a statement about instructions are met. -/
theorem reaches_iff (s : State) (a : Issue) (f : State → Core → Form) (p : Ready → Bool) :
    reaches s a f p = true ↔ ∃ r, s.issues a f = .inr r ∧ p r = true := by
  unfold reaches
  cases s.issues a f <;> simp

/-- The state that a command answers. -/
def after (o : Host.Outcome State Fault Refusal) (p : State → Bool) : Bool :=
  match o with
  | .next t => p t
  | _ => false

/-- The command answers a next state, and `p` holds of it. -/
def gives (s : State) (c : Instr) (p : State → Bool) : Bool := after (exec c s) p

/-- A device in service: square, streets and host port 0 run, and engine 0 has the core `k`. -/
def dev (k : Core) : State :=
  { State.reset with
    pins := { State.reset.pins with resetN := true }, boot := { State.reset.boot with stage := 6, cfgRead := true }
    installed := 2 ^ 36
    cores := [(0, k)], streets := (List.range 16).map (fun g => (g, { Street.reset with st := .running }))
    squares := [(0, { Square.reset with st := .running })]
    hostPorts := [(0, { HostPort.reset with st := .running, perst := true, nwidth := 16, nrate := 5 })] }

/-- A core whose current bank is `b`. -/
def coreOf (b : Bank) : Core := { Core.reset with banks := Core.reset.banks.set 0 b }

/-- A device whose engine 0 has the bank `b`. -/
def on (b : Bank) : State := dev (coreOf b)

/-- Engine 0 with ACC and PSW. -/
def acc (v : Nat) (psw : W64 := pswReset) : State := on { Bank.reset with acc := BitVec.ofNat 256 v, psw := psw }

/-- PSW after reset with one bit set or cleared. -/
def with1 (n : Nat) : W64 := pswReset ||| (1 : W64) <<< n
def with0 (n : Nat) : W64 := pswReset &&& ~~~ ((1 : W64) <<< n)

/-- Bytes in the tile of engine 0. -/
def tile (s : State) (off : Nat) (l : List Byte) : State := s.wrN (tilePa 0 off) l

def e0 : Issue := { core := .eng 0, pre := [], err := none }
def c0 : Issue := { core := .cc 0, pre := [], err := none }
/-- An immediate operand, and `n` bytes at an absolute address. -/
def im (d : W32) : MOp := { long := false, am := 0, len := 0, d := d }
def ab (a : W32) (n : Nat) : MOp := { long := false, am := 1, len := BitVec.ofNat 5 (n - 1), d := a }
/-- SS operands of `n1` and `n2` bytes at IX and IY. -/
def ss (n1 n2 : Nat) : SOp := { l1 := BitVec.ofNat 5 (n1 - 1), l2 := BitVec.ofNat 5 (n2 - 1), d1 := 0, d2 := 0 }
def yes (_ : Ready) : Bool := true
def good (l : List Byte) : Bool := (badNibble 0 (nibbles l)).isNone

/-! ### Witnesses: binary, index registers -/

theorem witness_BinaryAddSubtract :
    ([0x43, 0x44, 0x45, 0x46, 0x47].all (fun op =>
        reaches (acc 7) e0 (fun _ k => mForm e0 op (im 5) .q true k true false) yes
          && reaches (acc 7) e0 (fun _ k => mForm e0 op (ab 0x100 8) .q true k true false) yes)
      && reaches (acc 7) e0 (fun _ _ => aForm e0 0x08) yes) = true := by decide +kernel

theorem witness_BinaryLogicShift :
    ([0x48, 0x49, 0x4A].all (fun op => reaches (acc 7) e0 (fun _ k => mForm e0 op (im 5) .q true k true false) yes)
      && reaches (acc 7) e0 (fun _ _ => aForm e0 0x09) yes
      && [0x26, 0x27, 0x28].all (fun op => [(0 : Byte), 63].all (fun sel =>
        reaches (acc 7) e0 (fun _ _ => { bForm e0 op with legal := decide (sel.toNat < 64) }) yes))) = true := by decide +kernel

theorem witness_LoadsAndStores :
    ([(0x40, LenCls.q), (0x41, .q), (0x56, .i), (0x57, .i)].all (fun p =>
        reaches (acc 7) e0 (fun _ k => mForm e0 p.1 (ab 0x100 4) p.2 true k true false) yes
          && reaches (acc 7) e0 (fun _ k => mForm e0 p.1 (im 0xFFFF) p.2 true k true false) yes)
      && reaches (acc 7) e0 (fun _ _ => bForm e0 0x2C) yes
      && [(0x42, LenCls.q), (0x58, .i), (0x59, .i)].all (fun p =>
        reaches (acc 7) e0 (fun _ k => mForm e0 p.1 (ab 0x100 4) p.2 false k false true) yes)
      && reaches (acc 7) e0 (fun _ k => { mForm e0 0x5E (ab 0x100 16) .x false k true false with r3 := false }) yes
      && reaches (acc 7) e0 (fun _ k => { mForm e0 0x5F (ab 0x100 16) .x false k false true with r3 := false }) yes) = true := by
  decide +kernel

theorem witness_BinaryMultiply :
    ([0x4B, 0x4C].all (fun op => reaches (acc 7) e0 (fun _ k => mForm e0 op (im 0xFFFF) .q true k true false) yes)) = true := by
  decide +kernel

/-- Each clause of the division: a zero divisor and the overflow, trapping and not, and an ordinary quotient. -/
theorem witness_BinaryDivide :
    ([0x4D, 0x4E].all (fun op => [with1 eZDE, with0 eZDE].all (fun p =>
        [(7, (0 : W32)), (7, 2), (0, 2)].all (fun v => reaches (acc v.1 p) e0
          (fun _ k => { mForm e0 op (im v.2) .q true k true false with divider := 18 })
          (fun r => pswBit r.w.k.bank.psw eZDE == pswBit p eZDE && (qOperand (im v.2) true (op1 r.bs) == 0) == (v.2 == 0)))))
      && [with1 eBOE, with0 eBOE].all (fun p => reaches (acc (2 ^ 63) p) e0
          (fun _ k => { mForm e0 0x4D (im 0xFFFF) .q true k true false with divider := 18 })
          (fun r => pswBit r.w.k.bank.psw eBOE == pswBit p eBOE && r.w.k.bank.q.toInt == -(2 ^ 63)
            && (qOperand (im 0xFFFF) true (op1 r.bs)).toInt == -1))) = true := by decide +kernel

theorem witness_IndexRegisters :
    ([0x14, 0x15, 0x16, 0x17, 0x18, 0x19].all (fun op => reaches (acc 0) e0 (fun _ _ => aForm e0 op) yes)
      && [0x24, 0x25].all (fun op => reaches (acc 0) e0 (fun _ _ => bForm e0 op) yes)
      && [0x5A, 0x5B].all (fun op => reaches (acc 0) e0 (fun _ k => { mForm e0 op (ab 0x100 1) .z true k false false with
          pfx := pfxOk .none e0.pre, reqs := [] }) yes)) = true := by decide +kernel

/-! ### Witnesses: decimal -/

/-- +5 and the greatest value of ACC.D; a field of 16 bytes that is not zero above. -/
def dBig : Nat := 0x99999999999999999999999999999999_9999999999999999999999999999999C

theorem witness_DecimalAccumulator :
    ([(0x51, 0x5C), (0x51, dBig), (0x52, 0x5C), (0x53, 0x5C)].all (fun p => [with1 eDOE, with0 eDOE].all (fun w =>
        reaches (acc p.2 w) e0 (fun _ k => { mForm e0 p.1 (im 0x1C) .d true k true false with micro := true, residue := true })
          (fun r => good r.w.k.bank.d && good (dOperand (im 0x1C) (op1 r.bs)))))
      && [0x0A, 0x0B].all (fun op => reaches (acc 0x5C) e0 (fun _ _ => { aForm e0 op with micro := true, residue := false })
        (fun r => good r.w.k.bank.d))
      && [0x0E, 0x07].all (fun op => reaches (acc 0x5C) e0 (fun _ _ => { aForm e0 op with micro := true }) yes)
      && [im 0x1C, ab 0x100 3].all (fun m =>
        reaches (tile (acc 0) 0x100 [0, 1, 0x2C]) e0 (fun _ k => { mForm e0 0x4F m .d true k true false with micro := true })
          (fun r => good (dOperand m (op1 r.bs))))
      && [(0x5C, with1 eDOE), (dBig, with1 eDOE), (dBig, with0 eDOE)].all (fun p =>
        reaches (acc p.1 p.2) e0 (fun _ k => { mForm e0 0x50 (ab 0x100 2) .d false k false true with micro := true })
          (fun r => (allZero (r.w.k.bank.d.take 30) == (p.1 == 0x5C)) && pswBit r.w.k.bank.psw eDOE == pswBit p.2 eDOE)))
      = true := by decide +kernel

theorem witness_DecimalMultiplyDivideShift :
    ([(0x54, 0x5C, 0x2C), (0x54, dBig, 0x2C), (0x55, 0x5C, 0xC), (0x55, 0x5C, 0x2D)].all (fun p =>
        reaches (acc p.2.1) e0 (fun _ k => { mForm e0 p.1 (im p.2.2) .d16 true k true false with micro := true, residue := true })
          (fun r => good r.w.k.bank.d && good (dOperand (im p.2.2) (op1 r.bs))
            && allZero (r.w.k.bank.d.take 16) == (p.2.1 == 0x5C) && (pval (dOperand (im p.2.2) (op1 r.bs)) == 0) == (p.2.2 == 0xC)))
      && [0x29, 0x2A, 0x2B].all (fun op => [(0 : Byte), 1, 63].all (fun sel =>
        reaches (acc 0x15C) e0 (fun _ _ => { bForm e0 op with legal := decide (sel.toNat < 64), micro := true, residue := true })
          (fun r => good r.w.k.bank.d)))
      && [(0x5C, with1 eBOE, true), (dBig, with1 eBOE, false), (dBig, with0 eBOE, false)].all (fun p =>
        reaches (acc p.1 p.2.1) e0 (fun _ _ => { aForm e0 0x0C with micro := true, residue := true })
          (fun r => good r.w.k.bank.d && decide (pval r.w.k.bank.d < 2 ^ 63) == p.2.2
            && pswBit r.w.k.bank.psw eBOE == pswBit p.2.1 eBOE))
      && reaches (acc 7) e0 (fun _ _ => { aForm e0 0x0D with micro := true, residue := true }) yes) = true := by decide +kernel

/-- Operand 1 at 0x100 and operand 2 at 0x200. -/
def xy (x y : List Byte) (v : Nat := 0x5C) (psw : W64 := pswReset) : State :=
  tile (tile (on { Bank.reset with ix := 0x100, iy := 0x200, acc := BitVec.ofNat 256 v, psw := psw }) 0x100 x) 0x200 y

/-- The form of the packed instructions on two operands in memory. -/
def packed (op : Nat) (o : SOp) (read write : Bool) : State → Core → Form := fun _ k =>
  { ssForm e0 op o false k [ssReq1 e0 o k (ssN1 o) read write, ssReq2 e0 o k (ssN2 o)] with residue := true }

theorem witness_DecimalMemory :
    ([[(0x5C : Byte)], [0x9C]].all (fun x =>
        [(11, true, true), (12, true, true), (14, true, false)].all (fun p =>
          reaches (xy x [0x9C]) e0 (packed p.1 (ss 1 1) p.2.1 p.2.2) (fun r => good (op1 r.bs) && good (op2 r.bs)))
        && reaches (xy x [0x9C]) e0 (packed 13 (ss 1 1) true true) (fun r => good (op2 r.bs)))
      && reaches (xy [0x5C] [0x9C]) e0 (fun _ k =>
        ssForm e0 15 (ss 1 1) false k [ssReq1 e0 (ss 1 1) k 1 true true, ssReq2 e0 (ss 1 1) k 1]) yes) = true := by decide +kernel

/-- A first nibble that is no digit, in each operand in turn. -/
theorem witness_DecimalMemory_data :
    ([(0x51, LenCls.d), (0x52, .d), (0x53, .d), (0x54, .d16), (0x55, .d16)].all (fun p =>
        reaches (acc 0xA0) e0 (fun _ k => { mForm e0 p.1 (im 0x1C) p.2 true k true false with micro := true, residue := true })
          (fun r => badNibble 0 (nibbles r.w.k.bank.d) == some 62)
        && reaches (acc 0x5C) e0 (fun _ k => { mForm e0 p.1 (im 0xA1C) p.2 true k true false with micro := true, residue := true })
          (fun r => good r.w.k.bank.d && badNibble 0 (nibbles (dOperand (im 0xA1C) (op1 r.bs))) == some 1))
      && [0x29, 0x2A, 0x2B].all (fun op => reaches (acc 0xA0) e0
        (fun _ _ => { bForm e0 op with legal := decide ((1 : Byte).toNat < 64), micro := true, residue := true })
        (fun r => (badNibble 0 (nibbles r.w.k.bank.d)).isSome))
      && [(0x0A, false), (0x0B, false), (0x0C, true)].all (fun p => reaches (acc 0xA0) e0
        (fun _ _ => { aForm e0 p.1 with micro := true, residue := p.2 }) (fun r => (badNibble 0 (nibbles r.w.k.bank.d)).isSome))
      && [(11, true, true), (12, true, true), (14, true, false)].all (fun p =>
        reaches (xy [0xAC] [0x9C]) e0 (packed p.1 (ss 1 1) p.2.1 p.2.2) (fun r => badNibble 0 (nibbles (op1 r.bs)) == some 0)
          && reaches (xy [0x5C] [0xAC]) e0 (packed p.1 (ss 1 1) p.2.1 p.2.2) (fun r =>
            good (op1 r.bs) && badNibble 0 (nibbles (op2 r.bs)) == some 0))
      && reaches (xy [0x5C] [0xAC]) e0 (packed 13 (ss 1 1) true true) (fun r => badNibble 0 (nibbles (op2 r.bs)) == some 0)) = true := by
  decide +kernel

theorem witness_PackedRoundTrip : 0 < 1 ∧ (-9 : Int).natAbs < 10 ^ (2 * 1 - 1) := by decide

/-! ### Witnesses: floating point -/

theorem witness_FloatBinary64 :
    ([(0x60, 0), (0x61, 0), (0x62, 0), (0x63, 22), (0x64, 0)].all (fun p => reaches (acc 0) e0
        (fun _ k => { mForm e0 p.1 (ab 0x100 8) .b false k true false with r3 := false, divider := p.2 }) yes)
      && [(0x13, 26), (0x12, 0), (0x11, 0)].all (fun p => reaches (acc 0) e0
        (fun _ _ => { aForm e0 p.1 with r3 := false, divider := p.2 }) yes)) = true := by decide +kernel

theorem witness_FloatDecimal128 :
    ([(0x65, true), (0x66, true), (0x67, true), (0x68, true), (0x69, false)].all (fun p => reaches (acc 0) e0
        (fun _ k => { mForm e0 p.1 (ab 0x100 16) .x false k true false with r3 := false, residue := p.2 }) yes)
      && [(0x0F, 0x5C, true), (0x0F, 0xA0, false), (0x10, 0, false)].all (fun p => reaches (acc p.2.1) e0
        (fun _ _ => { aForm e0 p.1 with r3 := false, residue := true }) (fun r => good r.w.k.bank.d == p.2.2))) = true := by
  decide +kernel

theorem witness_Decimal128RoundTrip : (1 : Nat) < 10 ^ 34 ∧ (-6176 : Int) ≤ 6111 ∧ (6111 : Int) ≤ 6111 := by decide

/-! ### Witnesses: strings, editing, long instructions -/

/-- The form of a byte instruction. -/
def bytesF (op : Nat) (o : SOp) (read write : Bool) (n : Nat) (one : Bool) : State → Core → Form := fun _ k =>
  ssForm e0 op o one k [ssReq1 e0 o k (ssN1 o) read write, ssReq2 e0 o k n]

theorem witness_ByteStrings :
    ([(0, false, true), (1, true, false), (2, true, true), (3, true, true), (4, true, true)].all (fun p =>
        reaches (xy [1, 2] [1, 2]) e0 (bytesF p.1 (ss 2 1) p.2.1 p.2.2 2 true) (fun r => op1 r.bs == op2 r.bs || p.1 == 0))
      && reaches (xy [1, 2] [1, 3]) e0 (bytesF 1 (ss 2 1) true false 2 true) (fun r =>
        (op1 r.bs).take 1 == (op2 r.bs).take 1 && byteAt (op1 r.bs) 1 != byteAt (op2 r.bs) 1)
      && reaches (xy [1, 2] [1, 3]) e0 (bytesF 5 (ss 2 1) true true 256 true) yes
      && reaches (xy [0, 2] [0, 0, 0]) e0 (bytesF 6 (ss 2 1) true false 256 true) (fun r =>
        (op1 r.bs).all (fun u => byteAt (op2 r.bs) u.toNat == 0))
      && reaches (xy [0, 2] [0, 0, 9]) e0 (bytesF 6 (ss 2 1) true false 256 true) (fun r =>
        byteAt (op2 r.bs) (byteAt (op1 r.bs) 0).toNat == 0 && byteAt (op2 r.bs) (byteAt (op1 r.bs) 1).toNat != 0)
      && [7, 8].all (fun op => reaches (xy [0, 2] [0x5C]) e0 (bytesF op (ss 2 1) false true 1 false) yes)) = true := by
  decide +kernel

theorem witness_ByteStrings_apart :
    (((List.range 4).map (fun i => Loc.tile i .plain)).filterMap (locCell 0)).map (fun p => p.1) = [tilePa 0 0, tilePa 0 1, tilePa 0 2, tilePa 0 3]
      ∧ [tilePa 0 0, tilePa 0 1, tilePa 0 2, tilePa 0 3].Nodup := by decide +kernel

/-- The form of FMT and FMTM with a pattern of two characters and a field of one byte. -/
def edit (op : Nat) : State → Core → Form := fun _ k =>
  ssForm e0 op (ss 2 1) false k [ssReq1 e0 (ss 2 1) k 2 true true, ssReq2 e0 (ss 2 1) k 1]

/-- The digits of the field edited into the pattern, and the place of the first significant one. -/
def edited (r : Ready) : List Byte × Option Nat :=
  editGo (r.w.k.bank.accByte 23) (decide (pval (op2 r.bs) < 0)) 0 false none (op1 r.bs)
    (decDigits (digitPlaces (op1 r.bs)) (pval (op2 r.bs)).natAbs)

/-- Two digit places for one digit, one place, an invalid digit, and no place at all with the trap enabled and not. -/
theorem witness_Editing :
    (reaches (xy [0x10, 0x10] [0x1C]) e0 (edit 9) (fun r => good (op2 r.bs) && decide ((pval (op2 r.bs)).natAbs < 10 ^ digitPlaces (op1 r.bs)))
      && reaches (xy [0x10, 0x10] [0x1C]) e0 (edit 10) (fun r => good (op2 r.bs) && (edited r).2 == some 1
        && byteAt (edited r).1 0 == r.w.k.bank.accByte 23)
      && reaches (xy [0x10, 0x20] [0x1C]) e0 (edit 10) (fun r => good (op2 r.bs)
        && decide ((pval (op2 r.bs)).natAbs < 10 ^ digitPlaces (op1 r.bs))
        && match (edited r).2 with | some (j + 1) => byteAt (edited r).1 j != r.w.k.bank.accByte 23 | _ => true)
      && [9, 10].all (fun op => reaches (xy [0x10, 0x10] [0xAC]) e0 (edit op) (fun r => badNibble 0 (nibbles (op2 r.bs)) == some 0))
      && [9, 10].all (fun op => [with1 eDOE, with0 eDOE].all (fun w => reaches (xy [0x40, 0x40] [0x1C] 0 w) e0 (edit op)
          (fun r => good (op2 r.bs) && decide (10 ^ digitPlaces (op1 r.bs) ≤ (pval (op2 r.bs)).natAbs)
            && pswBit r.w.k.bank.psw eDOE == pswBit w eDOE)))) = true := by decide +kernel

/-- ACC for the long instructions: SCAN's byte at 23, the length in the low half of ACC.Q. -/
def long (len : Nat) (x y : List Byte) : State := xy x y len

/-- An access of a long instruction. -/
def lreq (most : Nat) (ix : Bool) (read write : Bool) (k : Core) : Req :=
  { ea := (if ix then k.bank.ix else k.bank.iy).toNat, n := min (k.bank.q.toNat % 2 ^ 32) most
    far := (k.bank.accByte 22).getLsbD (if ix then 0 else 1), read := read, write := write, align := 0 }

/-- The form of a long instruction. -/
def longF (op : Nat) (rs : Core → List Req) : State → Core → Form := fun _ k =>
  { aForm e0 op with r3 := false, slotBar := true, reqs := if k.bank.q.toNat % 2 ^ 32 = 0 then [] else rs k, ss := true, micro := true }

def lmovF : State → Core → Form := longF 0x1A (fun k => [lreq 16 true false true k, lreq 16 false true false k])
def lcmpF : State → Core → Form := longF 0x1B (fun k => [lreq 16 true true false k, lreq 16 false true false k])
def scanF : State → Core → Form := longF 0x1C (fun k => [lreq 16 true true false k])
def lxltF : State → Core → Form := longF 0x1D (fun k => [lreq 8 true true true k,
  { ea := k.bank.iy.toNat, n := 256, far := (k.bank.accByte 22).getLsbD 1, read := true, write := false, align := 0 }])

/-- Length 0, the most that one step takes, one more; and a byte that stops a compare and a scan (which look for byte 0). -/
theorem witness_LongSteps :
    ([0, 16, 17].all (fun n => reaches (long n [] []) e0 lmovF (fun r => r.w.k.bank.q.toNat % 2 ^ 32 == n)
        && reaches (long n [] []) e0 lcmpF (fun r => op1 r.bs == op2 r.bs && r.w.k.bank.q.toNat % 2 ^ 32 == n)
        && reaches (long n (List.replicate 17 1) []) e0 scanF (fun r => (op1 r.bs).all (fun u => u != r.w.k.bank.accByte 23)
          && !(r.w.k.bank.accByte 22).getLsbD 2))
      && [0, 8, 9].all (fun n => reaches (long n [] []) e0 lxltF yes)
      && reaches (long 3 [1, 2] [1, 3]) e0 lcmpF (fun r => (op1 r.bs).take 1 == (op2 r.bs).take 1
        && byteAt (op1 r.bs) 1 != byteAt (op2 r.bs) 1)
      && reaches (long 3 [1, 2, 0] []) e0 scanF (fun r => byteAt (op1 r.bs) 2 == r.w.k.bank.accByte 23
        && (op1 r.bs).take 2 == [1, 2])) = true := by decide +kernel

/-! ### Witnesses: control and system -/

/-- A bank with a return stack of `n` entries. -/
def stack (n : Nat) (psw : W64 := pswReset) : State := on { Bank.reset with rsp := BitVec.ofNat 5 n, psw := psw }

/-- A branch to `IX` with condition `cond`. -/
def br (cond : Nat) : MOp := { long := false, am := 2, len := BitVec.ofNat 5 cond, d := 0x40 }

def branchF (op : Nat) (m : MOp) (cls : LenCls) : State → Core → Form := fun _ k =>
  { mForm e0 op m cls false k false false with
    legal := [1, 2, 3, 5].contains m.am.toNat && decide (m.len.toNat ≤ 0x10) && mOk false cls false m, pfx := pfxOk .none e0.pre
    reqs := [], slotBar := true, branch := true }

def loopF (op : Nat) (ok : Bool) : State → Core → Form := fun _ _ =>
  { Form.plain (BitVec.ofNat 8 op) 4 with legal := ok, pfx := pfxOk .none e0.pre, slotBar := true }

def retF : State → Core → Form := fun _ _ => { aForm e0 0x02 with slotBar := true, branch := true }

theorem witness_ControlFlow :
    (reaches (stack 0) e0 (fun _ _ => aForm e0 0x00) yes
      && reaches (stack 0) e0 (branchF 0x5C (br 0) .any) (fun r => condHolds r.w.k.bank.psw 0)
      && reaches (stack 0) e0 (branchF 0x5C (br 0x10) .any) (fun r => !condHolds r.w.k.bank.psw 1)
      && reaches (stack 0) e0 (branchF 0x5C (br 1) .any) (fun r => !condHolds r.w.k.bank.psw 1)
      && [0, 15].all (fun n => reaches (stack n) e0 (branchF 0x5D (br 0) .z) (fun r => decide (r.w.k.bank.rsp.toNat < 16)))
      && [with1 eRSE, with0 eRSE].all (fun p =>
        reaches (stack 16 p) e0 (branchF 0x5D (br 0) .z) (fun r => decide (16 ≤ r.w.k.bank.rsp.toNat)
            && pswBit r.w.k.bank.psw eRSE == pswBit p eRSE)
          && reaches (stack 0 p) e0 retF (fun r => r.w.k.bank.rsp == 0 && pswBit r.w.k.bank.psw eRSE == pswBit p eRSE))
      && [1, 16].all (fun n => reaches (stack n) e0 retF (fun r => r.w.k.bank.rsp != 0))
      && reaches (stack 0) e0 (loopF 0x6A true) yes && reaches (stack 0) e0 (loopF 0x6B true) yes) = true := by decide +kernel

/-- A core with a posted store. -/
def posted : Core := { Core.reset with posted := [{ issued := 0, via := none, locs := [.phys 0x1000], bytes := [1], pc := 0, ea := 0x1000 }] }
/-- An invalidation of `c`. -/
def inv (c : CoreId) (u : List UnitId) : Inval :=
  { from_ := c, key := false, scope := 0, addr := 0, ten := 0, unseen := u, unacked := [.core (.eng 1)] }

theorem witness_HoldingInstructions :
    (reaches (dev { Core.reset with lbox := { head := 0, slots := [zeros 64], waiting := [] } }) e0 (fun _ _ => aForm e0 0x01)
        (fun r => r.w.k.lbox.slots != [])
      && reaches (dev { Core.reset with evpend := 1, evmask := 1 }) e0 (fun _ _ => aForm e0 0x01) (fun r =>
        !pswBit r.w.k.bank.psw 10 && r.w.k.evpend.getLsbD 0 && r.w.k.evmask.getLsbD 0 && spGet (0 : BitVec 6) r.w.k.evtask 0 == r.w.k.task)
      && reaches (dev Core.reset) e0 (fun _ _ => aForm e0 0x01) (fun r =>
        r.w.k.lbox.slots == [] && r.w.k.takeable.isNone && r.w.k.evpend == 0)
      && reaches (dev Core.reset) e0 (fun _ _ => aForm e0 0x05) (fun r => r.w.drainAll.k.posted == [])
      && reaches (dev posted) e0 (fun _ _ => aForm e0 0x05) (fun r => r.w.drainAll.k.posted != [])
      && reaches (dev Core.reset) e0 (fun _ k => { aForm e0 0x06 with r3 := false, priv := !k.sup })
        (fun r => r.w.s.invals.all (fun i => i.from_ != r.w.c))
      && reaches { dev Core.reset with invals := [inv (.eng 0) []] } e0
        (fun _ k => { aForm e0 0x06 with r3 := false, priv := !k.sup }) (fun r => r.w.s.invals.any (fun i => i.from_ == r.w.c))
      && reaches (dev Core.reset) e0 (fun _ _ => { aForm e0 0x04 with slotBar := true }) yes) = true := by decide +kernel

def mtsF (a : Issue) (x : Byte) : State → Core → Form := fun _ k =>
  { bForm a 0x21 with
    slotBar := x == 0
    priv := (!k.sup && (specAccess (isCc a.core) x.toNat == .none || specAccess (isCc a.core) x.toNat == .read))
      || (x == 0 && pswRefused k k.bank.q)
    ready := !(x == 0x27 && !isCc a.core && k.taskBusy (k.bank.q.truncate 6)) }

/-- The PSW, a bank register, numbers that are not written, a register of the engine, and the numbers of the task banks. -/
theorem witness_SpecialRegisters :
    (reaches (acc 7) e0 (fun _ k => { bForm e0 0x20 with priv := !k.sup && specAccess false 0x30 == .none }) yes
      && [(0x00 : Byte), 0x02, 0x1F, 0x20, 0x26, 0x27].all (fun x => reaches (acc 7) e0 (mtsF e0 x) yes)
      && reaches (acc 7) e0 (fun _ k => { bForm e0 0x20 with priv := !k.sup && specAccess false 0x33 == .none }) yes
      && (bankSpecWr 0 0x02 7).isSome && (bankSpecWr 0 0x1F 7).isSome
      && [(0x01 : Byte), 0x0D].all (fun x => reaches (acc 7) e0 (mtsF e0 x) yes && (bankSpecWr 0 x.toNat 7).isNone)
      && reaches (acc 7) e0 (mtsF e0 0x33) (fun _ => specAccess false 0x33 == .reserved)
      && reaches (acc 7) e0 (mtsF e0 0x20) (fun _ => specAccess false 0x20 != .reserved)
      && reaches (acc 7) e0 (mtsF e0 0x2A) yes && (Core.reset.xdatWr 7).isNone
      && ({ Core.reset with inShadow := true, xsel := 2 } : Core).xdatWr 7 != none
      && [(0x26 : Byte), 0x27].all (fun x => reaches (acc 7) c0 (mtsF c0 x) yes)) = true := by decide +kernel

/-- An access of bank `b` to memory at 0x1000, with what it does when it has its data. -/
def far (b : Fin 5) (e : Eff) (xs : List Xfer) : FarWait :=
  { bank := b, issued := 0, eff := e, xfers := xs, got := 0, at_ := 0, divider := 0, back := false, pc := 0, slot := none, lc := 0, te := false }
def x1 : Xfer := { ea := 0x1000, pa := some 0x1000, via := none, depth := none }
/-- A task whose bank awaits a load. -/
def loading : Core := { Core.reset with waits := [far 0 (Eff.of [] [] 1) [x1]] }

/-- TEVICT of the task in bank 1 while that bank awaits a load. -/
theorem witness_TaskSwitches_tevict :
    (let k : Core := { coreOf { Bank.reset with acc := BitVec.ofNat 256 1 } with
       res := #v[some 0, some 1, none, none], waits := [far 1 (Eff.of [] [] 1) [x1]] }
     reaches (dev k) e0 (fun _ k => (mtsInsn e0 0x27 k).toForm) (fun r => !isCc e0.core && r.k0.taskBusy (r.k0.bank.q.truncate 6))) = true := by
  decide +kernel

theorem witness_TrapsAndUnassigned :
    (reaches (acc 0) e0 (fun _ _ => { bForm e0 0x23 with legal := decide ((15 : Byte).toNat < 16), slotBar := true }) yes
      && reaches (acc 0 (with1 9)) e0 (fun _ k => { bForm e0 0x2F with legal := pswBit k.bank.psw 9, slotBar := true }) yes
      && (acc 0).canIssue (.eng 0)
      && [0x1E, 0xF3].all (fun b =>
        let s : State := acc 0
        let f : Nat × Core := (s.core (.eng 0)).fetchStart (s.code (.eng 0)) 3
        let p : State × Core := s.portTo (.eng 0) f.2 f.1
        (p.1.fetchCheck (.eng 0) { p.2.settle false f.1 with now := f.1 } 3 b none).2.2.isNone))
      = true := by decide +kernel

/-! ### Witnesses: contexts and exceptions -/

def switchF (a : Issue) (sel : Byte) (waits : Bool) : State → Core → Form := fun _ k =>
  { bForm a 0x22 with
    legal := decide (sel.toNat < 64), r3 := false, priv := !k.sup, slotBar := true
    ready := !waits || k.task == sel.truncate 6 || (k.posted.isEmpty && !k.victimBusy (sel.truncate 6)) }

/-- Two tasks resident. -/
def two : Core := { Core.reset with res := #v[some 0, some 1, none, none] }

theorem witness_TaskSwitches_switch :
    (reaches (dev two) e0 (switchF e0 0 true) (fun r => r.w.k.task == 0)
      && reaches (dev two) e0 (switchF e0 1 true) (fun r => r.w.k.task != 1 && !r.w.k.inShadow && (r.w.k.seqEnd 2 []).bankOf? 1 == some 1)
      && reaches (dev { two with posted := posted.posted }) e0 (switchF e0 1 false) (fun r => r.k0.task != 1 && r.k0.posted != [])
      && reaches (dev two) c0 (switchF c0 1 true) (fun r => r.w.k.task != 1 && isCc r.w.c)) = true := by decide +kernel

/-- A handler of engine 0 with task 1, in bank 1, as XTASK. -/
def handling : Core := { two with inShadow := true, xtask := 1 }

theorem witness_TaskSwitches_retx :
    reaches (dev handling) e0 (fun _ k => { aForm e0 0x03 with legal := k.inShadow, priv := !k.sup, slotBar := true, ready := !k.returnWaits })
      (fun r =>
        let k : Core := { r.w.k with trap := r.w.k.trapHeld, asyncCtx := r.w.k.ctxHeld, trapHeld := none, ctxHeld := none }
        !isCc r.w.c && k.bankOf? k.xtask == some 1 && k.asyncMc.isNone && k.trap.isNone && k.asyncCtx.isNone && !k.tracePend
          && (k.takeableIn 1).isNone && !pswBit (k.banks.get 1).psw 8 && k.inflight == []) = true := by decide +kernel

/-- The conditions that TaskSwitches has for a completed SWITCH and RETX beside those on the task. -/
def quiet (k : Core) : Bool :=
  (dev k).canIssue (.eng 0) && k.inflight == [] && k.bg.isNone && k.key == 0 && k.sup && k.bank.slot.isNone
    && decide (k.bank.pc.toNat + 2 ≤ 0x80000) && k.posted == [] && !k.bank.atLoopEnd 2 && !k.bank.atLoopEnd 1

/-- Also at the last two bytes of the tile, and with DS 1 in the bank that RETX returns to. -/
theorem witness_TaskSwitches_complete :
    (e0.core == .eng 0 && e0.pre == [] && e0.err == none
      && [(0 : W32), 0x7FFFE].all (fun pc =>
        let k : Core := { two with banks := two.banks.set 0 { Bank.reset with pc := pc } }
        quiet k && !k.cm && !k.inShadow && k.task == 0 && k.bankOf? 1 == some 1)
      && [pswReset, with1 8].all (fun p =>
        let k : Core := { handling with banks := two.banks.set 1 { Bank.reset with psw := p } }
        quiet k && k.inShadow && k.asyncMc.isNone && k.trapHeld.isNone && k.ctxHeld.isNone && !k.tracePend
          && k.bankOf? k.xtask == some 1 && (k.takeableIn 1).isNone && pswBit (k.banks.get 1).psw 8 == pswBit p 8)) = true := by
  decide +kernel

/-- An exception without address and detail. -/
def exn (v : BitVec 6) : Exn := mkFault v 0 0 0
/-- A valid descriptor for a vector: V in the top bit of the first byte. -/
def described (k : Core) (v : Nat) : State := tile (dev { k with dtb := 0x400 }) (0x400 + 16 * v) (List.replicate 16 0xC0)

/-- The core at an exception's entry. -/
def entering (s : State) : Work :=
  let w0 : Work := Work.idle { s := s, c := .eng 0, k := s.core (.eng 0), pen := 0 } (s.core (.eng 0)).now
  { w0 with k := w0.k.settle false w0.k.now }

/-- A fault, an event, and a fault in a delay slot, each with a valid descriptor. -/
theorem witness_ExceptionEntry :
    ([(none, some (exn 2), Item.fault (exn 2), 2), (some (0, some 0x40), some (exn 2), .fault (exn 2), 2), (none, none, .event 0, 32)].all (fun p =>
      let k : Core := { coreOf { Bank.reset with pc := 4, slot := p.1, psw := with1 10 } with exn := p.2.1, evpend := (if p.2.1.isSome then 0 else 1), evmask := 1 }
      let s : State := described k p.2.2.2
      let w : Work := entering s
      let asy : Bool := match p.2.2.1 with | .event _ => true | _ => false
      s.canEnter (.eng 0) && !w.k.inShadow && w.k.entryMc.isNone && w.k.pick == some p.2.2.1 && (w.at asy).k.bank.slot == p.1
        && (w.k.itemExn p.2.2.1).vec == BitVec.ofNat 6 p.2.2.2 && ((w.at asy).descr (w.k.itemExn p.2.2.1).vec).2.v)) = true := by decide +kernel

theorem witness_ExceptionEntry_priority :
    ([({ Core.reset with asyncMc := some (exn 1) } : Core), { Core.reset with trap := some (exn 16) }, { Core.reset with tracePend := true },
       { Core.reset with asyncCtx := some (exn 14) }, { Core.reset with exn := some (exn 2) },
       { Core.reset with exn := some (exn 2), exnFar := true }].all (fun k => k.bank.slot.isNone && !k.oneStep && !k.takeable.isSome)
      && ({ coreOf { Bank.reset with psw := with1 10 } with evpend := 1, evmask := 1 } : Core).takeable == some 0) = true := by decide +kernel

theorem witness_ExceptionEntry_escalation :
    ([(false, 0x400), (false, 0x600), (true, 0x400)].all (fun p =>
      let k : Core := { Core.reset with inShadow := true, exn := some (exn 2), escalated := p.1, dtb := BitVec.ofNat 32 p.2 }
      let s : State := tile (dev k) 0x400 (List.replicate 16 0xC0)
      let w : Work := entering s
      s.canEnter (.eng 0) && w.k.inShadow && w.k.exn == some (exn 2) && w.k.entryMc.isNone && (w.at false).k.escalated == p.1
        && ((w.at false).descr 0).2.v == (p.2 == 0x400))) = true := by decide +kernel

/-- The form of SMM and LMM. -/
def groupF (op : Nat) (b1 : Byte) (write : Bool) : State → Core → Form := fun _ k =>
  { Form.plain (BitVec.ofNat 8 op) 4 with
    legal := b1 != 0 && !isCc e0.core, pfx := pfxOk (.ml false) e0.pre
    reqs := [{ ea := (k.bank.iy + (0 : W16).signExtend 32).toNat
               n := 32 * ([7, 6, 5, 4, 3, 2, 1, 0].filter (fun g => b1.getLsbD g)).length, far := isFar e0, read := !write, write := write
               align := 16 }], ss := true }

def savF (op : Nat) (b1 : Byte) (write : Bool) : State → Core → Form := fun _ k =>
  { Form.plain (BitVec.ofNat 8 op) 4 with
    legal := isCc c0.core && decide (b1.toNat < 2) && (0 : W16) == 0, r3 := false, pfx := pfxOk .none c0.pre, priv := !k.sup
    reqs := [savReq k write] }

/-- All groups, the PSW alone in supervisor and in user state, and the halves of a control core's bank. -/
theorem witness_GroupMoves :
    (reaches (xy [] []) e0 (groupF 0x72 0xFF true) yes && reaches (xy [] []) e0 (groupF 0x73 0xFF false) (fun r => r.w.k.sup)
      && reaches (tile (on { Bank.reset with iy := 0x200, psw := pswReset &&& ~~~ 0x1000 }) 0x200 (beBytes 8 0x1000)) e0
        (groupF 0x73 0x08 false) (fun r => pswRefused r.w.k (BitVec.ofNat 64 (beAt (slice (op1 r.bs) 0 32) 0 8)))
      && (let s : State := { dev Core.reset with cores := [(128, { Core.resetCc with savp := 0x10301800400 })] }
          reaches s c0 (savF 0x74 0 true) yes
            && reaches s c0 (savF 0x75 0 false) (fun r => beAt (op1 r.bs) 8 8 == 0)
            && reaches s c0 (savF 0x75 1 false) (fun r => beAt (op1 r.bs) 8 8 != 1))) = true := by decide +kernel

theorem witness_GroupRoundTrip : (7 < 8 ∧ Bank.reset.psw = Bank.reset.psw) ∧ Bank.reset.rsp.toNat ≤ 16 := by decide

/-! ### Witnesses: translation, keys, Arcade -/

def slotF (op : Nat) (m : MOp) (write : Bool) : State → Core → Form := fun _ k =>
  { mForm e0 op m .any false k false false with
    legal := !isCc e0.core && [1, 2, 3].contains m.am.toNat && !m.long && decide (m.d.toNat < 65536)
    r3 := false, pfx := pfxOk .none e0.pre, reqs := [slotReq m k write], priv := !k.sup }

def keyF (op : Nat) (m : MOp) : State → Core → Form := fun _ k =>
  { mForm e0 op m .z true k false false with pfx := pfxOk .none e0.pre, reqs := [], priv := !k.sup }

def invalF (op : Nat) (m : MOp) (scopes : List Nat) : State → Core → Form := fun _ k =>
  { mForm e0 op m .any true k false false with
    legal := decide (m.am.toNat < 6) && scopes.contains m.len.toNat && !m.long && decide (m.d.toNat < 65536)
    r3 := false, pfx := pfxOk .none e0.pre, reqs := [], priv := !k.sup }

/-- A slot image, keys below and at 0x180000, and an invalidation with and without a posted store. -/
theorem witness_TranslationInstructions :
    (reaches (acc 0) e0 (slotF 0x6E (ab 0x100 4) false) yes && reaches (acc 0) e0 (slotF 0x6F (ab 0x100 4) true) yes
      && [0x70, 0x71].all (fun op =>
        reaches (on { Bank.reset with ix := 0x17FFFF }) e0 (keyF op { ab 0 1 with am := 2 }) (fun r =>
            decide ((mEa { ab 0 1 with am := 2 } r.w.k.bank).toNat = 0x17FFFF))
          && reaches (on { Bank.reset with ix := 0x180000 }) e0 (keyF op { ab 0 1 with am := 2 }) (fun r =>
            decide (0x180000 ≤ (mEa { ab 0 1 with am := 2 } r.w.k.bank).toNat)))
      && [Core.reset, posted].all (fun k => reaches (dev k) e0 (invalF 0x6C (ab 0x100 3) [0, 1, 2, 3, 4]) (fun r =>
            (r.w.drainAll.k.posted == []) == (k.posted == []))
          && reaches (dev k) e0 (invalF 0x6D (ab 0x100 2) [0, 1, 4]) (fun r => (r.w.drainAll.k.posted == []) == (k.posted == []))))
      = true := by decide +kernel

/-- The first invalidation of engine 0 that a unit has not seen, and one that it has; no other is before it. -/
theorem witness_InvalidationRound :
    (let s : State := { dev { Core.reset with hold := some .sync } with invals := [inv (.eng 0) [.tram 0], inv (.eng 1) []] }
     s.invals = [] ++ inv (.eng 0) [.tram 0] :: [inv (.eng 1) []] ∧ UnitId.tram 0 ∈ (inv (.eng 0) [.tram 0]).unseen
       ∧ UnitId.core (.eng 1) ∈ (inv (.eng 0) [.tram 0]).unacked ∧ (s.core (.eng 1)).inFlightWith (inv (.eng 0) [.tram 0]) = false
       ∧ (s.core (.eng 0)).hold = some .sync) := by decide +kernel

theorem witness_TlbSlotsAndKeys :
    ((({ Core.reset with tlb := [(3, tlbOfImage 0 0), (9, tlbOfImage 0 0)] } : Core).tlb.map (fun p => p.1)).Pairwise (· < ·))
      ∧ tlbHits { TlbEnt.empty with v := true } 0 0 = true ∧ Core.reset.bank.pc.toNat + 6 ≤ tileSize := by decide +kernel

/-- An entry of format 0 whose routine is an EXIT, at the address where Arcade RAM begins, and one that never ends. -/
theorem witness_ArcadeRoutine :
    (let e : W64 := BitVec.ofNat 64 (2 ^ 63 + 2 ^ 40 + 0xC00 * 2 ^ 24)
     let s : State := { acc 7 with arcade := { words := [(0xC00, 0xFC000000)], entries := [(0, e)] } }
     reaches s e0 (fun s k =>
       let e : W64 := spGet 0 s.arcade.entries (0 : BitVec 4).toNat
       { Form.plain (BitVec.ofNat 8 (0xE0 + (0 : BitVec 4).toNat)) (arcadeLen e) with
         legal := arcadeLegal e0.core e 0 0, r3 := false, pfx := pfxOk .none e0.pre
         slotBar := entLong e, priv := entPriv e && !k.sup }) yes) = true := by decide +kernel

/-! ### Witnesses: memory and what happens beside the instructions -/

theorem witness_MemoryBytes : Memory.wf memDefault (tile (acc 0) 0x100 [1, 0, 2]).mem = true
    ∧ ((acc 0).keyArr.map (fun p => p.1)).Pairwise (· < ·) := by decide +kernel

/-- A result due at cycle 3. -/
def due3 : InFlight := { bank := 0, due := 3, wr := wrQ 1 }

/-- A core whose fetch queue is full. -/
def full : Core := { Core.reset with fq := List.replicate 32 (0, 0), now := 5 }

theorem witness_CoreHousekeeping :
    ((let k : Core := { Core.reset with now := 5 }
      ((dev k).core (.eng 0)).nextGrant false == some (.fetch, 0) && decide (0 < ((dev k).core (.eng 0)).now))
      && (let g : TgtFetch := { addr := 0x100, start := 3, code := List.replicate 12 (3, 0), slotIn := true }
          let k : Core := { Core.reset with now := 5, fetchAt := 4, fq := List.replicate 4 (0, 0), tgt := some g }
          ((dev k).core (.eng 0)).nextGrant false == some (.fetch, 4) && ((dev k).core (.eng 0)).tgt == some g)
      && (let k : Core := { Core.reset with inflight := [due3], now := 3 }
          ((dev k).core (.eng 0)).inflight == [due3] && decide (due3.due ≤ ((dev k).core (.eng 0)).now))
      && (let k : Core := { Core.reset with inflight := [due3], halted := true }
          decide (((dev k).core (.eng 0)).now < due3.due) && !(dev k).canIssue (.eng 0))
      && [(0x7FFFF, StKind.set), (0, .plain), (0x100, .clr)].all (fun p =>
          let e : StoreEnt := { at_ := 0, off := p.1, bytes := [1], kind := p.2 }
          let k : Core := { full with sbuf := [e] }
          Memory.wf memDefault (dev k).mem && ((dev k).core (.eng 0)).sbuf == [e] && decide (e.off + e.bytes.length ≤ tileSize)
            && ((dev k).core (.eng 0)).nextGrant false == some (.drain, 0))) = true := by
  decide +kernel

/-- A core that waits for a load longer than SWTH, with an event for task 1, without and with a posted store; and a fill
at its second block and at its last. -/
theorem witness_CoreHousekeeping_tasks :
    ([[], posted.posted].all (fun l =>
        let k : Core := { loading with swth := 1, res := #v[some 0, some 1, none, none], evpend := 1, evmask := 1, evtask := [(0, 1)], posted := l }
        (dev k).fallback (.eng 0) == some 1
          && (l != [] || ((Work.idle { s := dev k, c := .eng 0, k := k, pen := 0 } 2).k.settle false 2).bankOf? 1 == some 1))
      && [1, 10, 11].all (fun n =>
        let g : BgFill := { task := 1, bank := 1, area := 0x400, blocks := (List.range n).map (fun i => (i, zeros 16)) }
        let k : Core := { full with bg := some g }
        ((dev k).core (.eng 0)).bg == some g && k.nextGrant false == some (.fill, 0) && decide (0 < k.now) && g.blocks.length == n)) = true := by
  decide +kernel

/-- The device of a core, with the memory ports in service. -/
def ported (k : Core) : State :=
  { dev k with memPorts := (List.range 8).map (fun p => (p, { MemPort.reset with st := .running })) }

/-- A load of ACC.Q that awaits its data, one that will fault, one with two transfers, and a port that answers. -/
theorem witness_FarResponses :
    ([(Eff.of [(2, wrQ 9)] [] 1, [x1]), (Eff.fail (exn 5), [x1]), (Eff.of [] [] 1, [x1, x1])].all (fun p =>
      let wt : FarWait := far 0 p.1 p.2
      let s : State := ported { Core.reset with waits := [wt] }
      let k : Core := s.core (.eng 0)
      k.waits == [wt] && wt.bank == k.curIx && !(x1.pa.any s.heldPa) && k.hold.isNone && s.respAt x1.pa .ok == .ok
        && k.inflight == [] && wt.eff.st == [] && s.portDown 0x1000 == none)
      && (let s : State := ported { Core.reset with posted := posted.posted }
          let k : Core := s.core (.eng 0)
          k.waits == [] && k.posted == posted.posted && (posted.posted.all (fun p => p.cells.all (fun q => !s.heldPa q.1)))
            && k.hold.isNone && k.asyncMc.isNone && k.entryMc.isNone)
      && (let s : State := (dev Core.reset).setChannel 3 { Channel.reset with st := .active }
          s.tramWaiting 0 == some 3 && s.tramWaiting 1 == none && (s.core (.eng 0)).waits == [] && (s.core (.eng 0)).posted == [])) = true := by
  decide +kernel

/-- One posted store with a DRAIN that waits for it, and two. -/
theorem witness_PostedStores :
    ([posted.posted, posted.posted ++ posted.posted].all (fun l =>
      let s : State := ported { Core.reset with posted := l, hold := some .drain }
      let k : Core := s.core (.eng 0)
      k.posted == l && k.hold == some .drain && k.asyncMc.isNone && k.entryMc.isNone && !(l.any (fun p => p.cells.any (fun x => s.heldPa x.1)))
        && l.all (fun p => s.respAt ((p.cells.head?).map (fun x => x.1)) .ok == .ok && p.events == []))) = true := by decide +kernel

theorem witness_EventsTimersLetterbox :
    (let s : State := { dev { Core.reset with evroute := [(0, { src := 0, v := true })] } with raised := [(0, 1)] }
     outsideSrc 0 = false ∧ s.waiting (coreIx (.eng 0)) 0 true ≠ 0 ∧ (s.core (.eng 0)).hold ≠ some .wait ∧ s.runs (.eng 0) = true
       ∧ (s.square (coreSquare (.eng 0))).relock = none ∧ s.heldPa (tilePa 0 0) = false)
      ∧ (let q : Square := { Square.reset with group := .running, timers := [(7, { count := 0, period := 1 })] }
         let s : State := { dev Core.reset with squares := [(3, q)] }
         (s.square ((31 : Fin 32).val / 8)).group = .running
           ∧ (spGet Timer.reset (s.square ((31 : Fin 32).val / 8)).timers ((31 : Fin 32).val % 8)).period ≠ 0)
      ∧ (∀ n ∈ [0, 15, 16], let b : Letterbox := { head := 15, slots := List.replicate n (zeros 64), waiting := [zeros 64] }
         ((dev { Core.reset with lbox := b }).core (.eng 0)).lbox.slots.length = n
           ∧ ((dev { Core.reset with lbox := b }).core (.eng 0)).lbox.waiting ≠ []) := by decide +kernel

/-! ### Witnesses: the block -/

theorem witness_StepRunsFrontCommand : ({ dev Core.reset with pending := [.getStatus] } : State).pending = .getStatus :: []
    ∧ (dev Core.reset).pending = [] := by decide +kernel

theorem witness_LifeCycleInvariant : State.reset.fusesOk ∧ after (step { State.reset with pending := [.getStatus] }) (fun _ => true) = true := by
  unfold State.fusesOk
  decide +kernel

theorem witness_FusesOnlyForward : ([0, 1, 2, 3].all (fun lc =>
    gives { dev Core.reset with fuses := { lc := lc, lccount := 1, ownerBanks := 1, floor := 0 } } .getStatus (fun _ => true))) = true := by
  decide +kernel

theorem witness_IssueFrame : reaches (acc 0) e0 (fun _ _ => aForm e0 0x00)
    (fun r => r.ls == [] && ((acc 0).core e0.core).inflight == [] && ((acc 0).core e0.core).bg.isNone && e0.err == none
      && (acc 0).kabase.toNat + 2 ^ 28 ≤ sqBase && ((acc 0).core e0.core).keyCache == [] && !(acc 0).layout.live) = true := by decide +kernel

/-- An instruction at the last bytes of the tile, with an operand at the last bytes of the plain window. -/
theorem witness_IssueCompletes :
    (let s : State := on { Bank.reset with pc := 0x7FFFC }
     let k : Core := s.core (.eng 0)
     let i : Form := mForm e0 0x43 { ab 0 8 with am := 2, d := 0x8 } .q true { k with banks := k.banks.set 0 { Bank.reset with ix := 0x7FFF0 } } true false
     s.canIssue (.eng 0) = true ∧ k.inflight = [] ∧ k.key = 0 ∧ k.bank.pc.toNat + (0 + i.len) ≤ 0x80000 ∧ 1 ≤ i.len
       ∧ decodeOk k [] i = true ∧ i.priv = false ∧ i.ready = true ∧ k.bg = none ∧ i.reqs ≠ [] ∧ ∀ q ∈ i.reqs, q.far = false ∧ q.align = 0 ∧ q.ea + q.n ≤ 0x80000) := by
  decide +kernel

theorem witness_PerformFrame : reaches (on { Bank.reset with ix := 0x7FFF0 }) e0
    (fun _ k => mForm e0 0x42 { ab 8 8 with am := 2 } .q false k false true)
    (fun r => r.far == [] && r.formed.isNone && ((acc 7).core e0.core).bg.isNone && ((acc 7).core e0.core).inflight == [] && !r.w.k.bank.atLoopEnd r.len
      && r.ls == [(List.range 8).map (fun i => Loc.tile (0x7FFF8 + i) .plain)]) = true := by decide +kernel

/-! ### Witnesses: queue pairs -/

def f0 : FnId := ⟨0, 0⟩
def f1 : FnId := ⟨0, 1⟩
/-- A running queue pair with its rings in host memory. -/
def qp : QPair := { QPair.reset with st := .running, sqbase := 0x10000, cqbase := 0x20000, cqint := 0x0101, nextSeq := 1 }
/-- The device with queue pair `q` of the managing function's tenancy; tenancy 1 is bound to function 1. -/
def qdev (q : Nat) (x : QPair) : State :=
  { dev Core.reset with
    tenancies :=
      [(0, { Tenancy.reset with
             bound := some f0, st := .running, qpQuota := 256, vecCount := 16, dirQuota := 8, pinQuota := 4096
             jret := 16, qps := if q = 0 then [(0, x)] else [(0, qp), (q, x)] }),
       (1, { Tenancy.reset with bound := some f1, qps := [(0, QPair.reset)] })] }
/-- A submission with its fields, and its CRC-32C. -/
def sub (op : Nat) (l : List (Nat × Nat × Nat)) (p0 p1 : Nat) : List Byte :=
  let b : List Byte := l.foldl (fun b p => patch b p.1 (leBytes p.2.1 p.2.2))
    (leBytes 1 op ++ zeros 39 ++ leBytes 8 p0 ++ leBytes 8 p1 ++ zeros 4)
  b ++ leBytes 4 (crc32c b)

theorem witness_QueuePairPages :
    ([qp, { qp with st := .stopped }, { qp with fetched := [{ seq := 0, sqix := 0, sqhd := 1, bytes := zeros 64, prog := .none }] }].all (fun x =>
        (qdev 0 x).bar0 f0 && (qdev 0 x).qpOf f0 0 == some (0, x) && x.sqDepth == 16 && x.cqDepth == 16
          && ((qdev 0 x).tenancy 0).st == .running)
      && !({ qdev 0 qp with hostPorts := [] } : State).bar0 f0
      && [{ qp with counted := 1 }, { qp with counted := 1, st := .stopped }].all (fun x => (qdev 3 x).qpOf f0 3 == some (0, x)
        && ((qdev 3 x).tenancy 0).bound == some f0 && x.counted != 0 && x.time != 0 && x.st != .faulted)
      && [qp, { qp with st := .draining }, { qp with st := .faulted }, { qp with st := .stopped }].all (fun x =>
        (qdev 3 x).qpOf f0 3 == some (0, x))) = true := by decide +kernel

/-- The six checks of a submission, as `SubmissionChecks` lists them, on queue pair `q` of tenancy 0. -/
def six (q : Nat) (b : List Byte) : List Bool :=
  let s : State := qdev 0 qp
  let op : Nat := (byteAt b 0).toNat
  [leAt b 60 4 == crc32c (b.take 60), (byteAt b 3).toNat % 64 == (s.tenancy 0).devno.toNat, (byteAt b 2).toNat % 16 == 0,
   opcodes.contains op || (s.claims op).isSome,
   decide ((byteAt b 1).toNat < 4) && decide ((byteAt b 2).toNat < 16) && decide ((byteAt b 3).toNat < 64) && allZero (slice b 6 2)
     && allZero (slice b 56 4),
   q == 0 || op == 0x30 || op == 0x40 || op == 0x41]

/-- A submission that passes, and one that fails at each check and at none before. -/
theorem witness_SubmissionChecks :
    ((six 0 (sub 0x01 [] 0x1000 0)).all id
      && ([(0, zeros 64), (0, sub 0x01 [(3, 1, 1)] 0 0), (0, sub 0x01 [(2, 1, 1)] 0 0), (0, sub 0x0F [] 0 0), (0, sub 0x01 [(6, 1, 1)] 0 0),
          (1, sub 0x01 [] 0 0)].map (fun p => (six p.1 p.2).findIdx? (fun c => !c))) == (List.range 6).map some) = true := by decide +kernel

/-- The device with a submission at SQHEAD. -/
def posting (b : List Byte) : State := (qdev 0 { qp with sqtail := 1 }).hostWr 0x10000 b

theorem witness_SubmissionChecks_fetch :
    ([sub 0x01 [] 0x1000 0, sub 0x0F [] 0 0, sub 0x01 [(6, 1, 1)] 0 0].all (fun b =>
        (posting b).fetches f0 { qp with sqtail := 1 } && (posting b).hostRd 0x10000 64 == b)
      && !(qdev 0 qp).fetches f0 qp) = true := by decide +kernel

def r0 : CmdRef := { fn := f0, q := 0, sqix := 0, readFails := false }
/-- The managing function's command `b` has been fetched, with progress `p`. -/
def cdev (b : List Byte) (p : Prog := .none) : State :=
  qdev 0 { qp with fetched := [{ seq := 0, sqix := 0, sqhd := 1, bytes := b, prog := p }] }
/-- A row's command, with the state in which it begins its work, and `p` of them. -/
def cmd (s0 : State) (op : Nat) (p : State → Cmd → Bool) (r : CmdRef := r0) : Bool :=
  match s0.cmd? r (fun o => o == op) with
  | some c => match s0.begin? c with | some s => p s c | none => false
  | none => false
/-- Only the named PARAM bytes are used, the managing function issued it, and the pointers are used as said. -/
def fits (s : State) (c : Cmd) (l : List (Nat × Nat)) (u0 u1 : Nat) : Bool :=
  reserved71 c (namedBytes l) == none && issuer72 s c == none && ptrs73 c u0 u1 == none

/-- A first offending byte at the ends of PARAM, and no refusal before an answer. -/
theorem witness_SubmissionChecks_param :
    ([0, 31].all (fun i => cmd (cdev (sub 0x01 [(8 + i, 1, 1)] 0 0)) 0x01 (fun _ c =>
      (List.range i).all (fun j => byteAt c.e.bytes (8 + j) == 0) && byteAt c.e.bytes (8 + i) != 0))) = true := by decide +kernel

theorem witness_Completions :
    ([({ qp with cqtail := 15 } : QPair), { qp with st := .faulted }, { qp with st := .draining, cqint := 2 }, { qp with cqint := 2, counted := 1 }].all (fun x =>
      (qdev 3 x).qp? 0 3 == some x && Memory.wf memDefault (qdev 3 x).hostMem && (sub 0x01 [] 0 0).length == 64)) = true := by decide +kernel

/-! ### Witnesses: Gloes commands -/

theorem witness_ReportingAndTenancies :
    (cmd (cdev (sub 0x01 [] 0x1000 0)) 0x01 (fun s c => fits s c [] 1 0 && decide (c.t < 16))
      && (let s : State := cdev (sub 0x53 [(8, 1, 3), (10, 2, 15)] 0x1000 0)
          cmd s 0x53 (fun s c => fits s c [(8, 1), (10, 2)] 1 0 && fn72 s c == none && !s.noFn c.fid))
      && [(1, 0), (65536, 20000)].all (fun p =>
        let s : State := { cdev (sub 0x70 [(16, 4, p.1)] 0x1000 0) with lseq := p.2 }
        cmd s 0x70 (fun s c => fits s c [(8, 12)] 1 0 && !s.heldPa logBase && c.le 16 4 == p.1))
      && [[], [({ jseq := 0, akey := 0, rseq := 0, qp := 0, tag := 0, jent := some (zeros 16) } : Retained)]].all (fun l =>
        let u : State := cdev (sub 0x41 [(16, 4, 1)] 0x1000 0)
        let s : State := u.setTenancy 0 { u.tenancy 0 with ring := l }
        cmd s 0x41 (fun s c => fits s c [(8, 12)] 1 0 && mem76 s c == none && (s.tenancy c.t).jret != 0 && decide ((s.tenancy c.t).oldest ≤ c.le 8 8)))
      && (let u : State := cdev (sub 0x41 [(16, 4, 1)] 0x1000 0)
          let s : State := u.setTenancy 0 { u.tenancy 0 with jseq := 20, ring := [({ jseq := 4, akey := 0, rseq := 0, qp := 0, tag := 0, jent := none } : Retained)] }
          cmd s 0x41 (fun s c => decide (c.le 8 8 < (s.tenancy c.t).oldest)))) = true := by decide +kernel

theorem witness_ReportingAndTenancies_tenancies :
    (cmd (cdev (sub 0x02 [(8, 1, 15), (9, 1, 1), (10, 1, 15)] 0 0)) 0x02 (fun s c =>
        fits s c [(8, 3)] 0 0 && (s.tenancy 15).bound == none && s.tenOf ⟨1, 15⟩ == none && s.fuses.lc != 3 && !s.heldFn c (1, 15) && decide (s.qpTotal < 256))
      && [FState.running, .stopped].all (fun st => [0, 1].all (fun p =>
        let u : State := cdev (sub 0x03 [(8, 1, 1), (9, 1, p)] 0 0)
        let s : State := u.setTenancy 1 { u.tenancy 1 with st := st }
        cmd s 0x03 (fun s c => reserved71 c (fun i => if i = 8 then 255 else if i = 9 then 1 else 0) == none && issuer72 s c == none
          && ptrs73 c 0 0 == none && (s.tenancy 1).bound == some f1 && c.t == 0 && !s.heldFn c (1, 1) && s.dirUsed 1 == 0)))
      && (let s : State := cdev (sub 0x04 [(8, 1, 255), (9, 1, 12), (10, 1, 12), (12, 2, 15)] 0x1000 0x2000)
          cmd s 0x04 (fun s c => reserved71 c (namedBytes [(8, 3), (12, 2)]) == none && ptrs73 c 1 1 4096 == none && decide (15 < (s.tenancy c.t).vecCount)
            && s.qp? c.t 255 == none && decide ((s.tenancy c.t).qps.length < (s.tenancy c.t).qpQuota) && decide (s.qpTotal < 256)))
      && [FState.running, .stopped].all (fun st =>
        let u : State := cdev (sub 0x05 [(8, 1, 3)] 0 0)
        let s : State := u.setQp 0 3 { qp with st := st }
        cmd s 0x05 (fun s c => fits s c [(8, 1)] 0 0 && s.qp? c.t 3 != none && !s.heldFn c (2, 3) && s.fst (2, 3) == st))) = true := by
  decide +kernel

/-- A program of 16 bytes for street 0, the smallest Arcade image, and the smallest package. -/
theorem witness_LoadingCommands :
    ([crc32c (zeros 16), 0].all (fun crc =>
        let u : State := cdev (sub 0x10 [(8, 2, 1), (12, 4, 16), (16, 4, crc)] 0x1000 0)
        let s : State := u.setStreet 0 Street.reset
        cmd s 0x10 (fun s c => reserved71 c (fun i => if i = 10 then 1 else namedBytes [(8, 2), (12, 8)] i) == none && issuer72 s c == none
          && ptrs73 c 1 0 == none && s.fuses.lc != 3 && !s.heldFn c (3, 0) && (s.street 0).st == .stopped
          && (c.le 16 4 == crc32c (s.hostRd c.ptr0 16)) == (crc != 0)))
      && [0xFC000000, 0x04000000].all (fun w =>
        let img : List Byte := leBytes 4 w
        let s : State := (cdev (sub 0x11 [(8, 2, 1), (12, 4, crc32c (img ++ zeros 128))] 0x1000 0x2000)).hostWr 0x1000 img
        cmd s 0x11 (fun s c => fits s c [(8, 2), (12, 4)] 1 1 && c.le 12 4 == crc32c (s.hostRd c.ptr0 4 ++ s.hostRd c.ptr1 128)))
      && [(none, FState.stopped), (some ({ words := [], entries := [] } : Arcade), .stopped), (some { words := [], entries := [] }, .running)].all (fun p =>
        let s : State := { cdev (sub 0x12 [] 0 0) with staged := p.1, streets := [(0, { Street.reset with st := p.2 })] }
        cmd s 0x12 (fun s c => fits s c [] 0 0 && (List.range 16).all (fun g => !s.heldFn c (3, g))))
      && (let s : State := { cdev (sub 0x13 [(12, 4, 64)] 0x1000 0) with fuses := { lc := 1, lccount := 1, ownerBanks := 1, floor := 0 } }
          cmd s 0x13 (fun s c => fits s c [(12, 4)] 1 0 && s.fuses.lc == 1 && !extForm (s.hostRd c.ptr0 512) 64))
      && [0, 1, 2, 3].all (fun lc => [1, 2, 3].all (fun tg =>
        let s : State := { cdev (sub 0x80 [(8, 1, tg), (12, 4, 512)] 0x1000 0) with
          fuses := { lc := BitVec.ofNat 2 lc, lccount := 1, ownerBanks := 1, floor := 0 }, streets := [] }
        cmd s 0x80 (fun s c => fits s c [(8, 1), (12, 4)] 1 0 && (List.range 16).all (fun i => !s.heldFn c (3, i) && !s.heldFn c (1, i))
          && s.tenancies.all (fun p => p.1 == c.t || p.2.bound == none || p.2.st == .stopped)))) ) = true := by decide +kernel

/-- The header of a package without code that claims opcode 0xC0, and an authorisation from PROVISIONED to SERVICE. -/
def extPack : List Byte := [0x4C, 0x58, 0x37, 0x45] ++ leBytes 4 1 ++ leBytes 4 1 ++ zeros 500
def lcPack : List Byte :=
  [0x4C, 0x58, 0x4C, 0x43, 1, 2, 0, 0] ++ leBytes 8 State.reset.part.serial.toNat ++ leBytes 2 1 ++ zeros 494

/-- A package that is accepted, one that removes an extension, and an accepted authorisation. -/
theorem witness_LoadingCommands_accepted :
    ([[], [({ opmap := 1, version := 0, caps := 0, codeLen := 0 } : Extension)]].all (fun l =>
        let s : State := { (cdev (sub 0x13 [(12, 4, 512)] 0x1000 0)).hostWr 0x1000 extPack with
          extensions := l, fuses := { lc := 1, lccount := 1, ownerBanks := 1, floor := 0 } }
        cmd s 0x13 (fun s c => fits s c [(12, 4)] 1 0 && c.le 12 4 == 512 && extForm (s.hostRd c.ptr0 512) 512
          && (match extAccept s.extensions (extOf (s.hostRd c.ptr0 512)) with | .ok _ => true | .error _ => false)))
      && (let s : State := { (cdev (sub 0x80 [(8, 1, 2), (12, 4, 512)] 0x1000 0)).hostWr 0x1000 lcPack with
            streets := [], fuses := { lc := 1, lccount := 1, ownerBanks := 1, floor := 0 } }
          cmd s 0x80 (fun s c => fits s c [(8, 1), (12, 4)] 1 0 && lcPermits s.fuses 2 && lcForm s (s.hostRd c.ptr0 512) 2 && !c.readFails))) = true := by
  decide +kernel

/-- Opcode 0xC0 while an extension claims it, and once none does. -/
theorem witness_LoadingCommands_extension :
    [[({ opmap := 1, version := 1, caps := 0, codeLen := 0 } : Extension)], []].all (fun l =>
      let s : State := { cdev (sub 0xC0 [] 0 0) with extensions := l }
      match s.cmd? r0 (fun o => decide (0xC0 ≤ o) && decide (o < 0xE0)) with
      | some c => (s.begin? c).isSome && (s.claims c.e.opcode).isSome == (l != []) && statusCodes.contains 0
      | none => false) = true := by decide +kernel

/-- The device with every port in service and a command of the managing function. -/
def fdev (op : Nat) (l : List (Nat × Nat × Nat)) (p0 p1 : Nat) (p : Prog := .none) : State :=
  { cdev (sub op l p0 p1) p with memPorts := (List.range 8).map (fun i => (i, { MemPort.reset with st := .running, dimms := 1, size := 64 })) }
/-- A function named in bytes 8 to 11. -/
def fn (f : Fid) : List (Nat × Nat × Nat) := [(8, 1, f.1), (10, 2, f.2)]
def named (s : State) (c : Cmd) : Bool :=
  fits s c [(8, 1), (10, 2)] 0 0 && fn72 s c == none && c.fid.1 != 0 && !s.noFn c.fid

theorem witness_FunctionCommands_stop :
    ([FState.stopped, .running, .faulted].all (fun st =>
        let u : State := fdev 0x50 (fn (3, 15)) 0 0
        let s : State := u.setStreet 15 { u.street 15 with st := st }
        cmd s 0x50 (fun s c => named s c && stop75 s c == none && !s.heldFn c c.fid && s.fst c.fid == st
          && (st == .stopped || (s.stopFunction c.fid).fst c.fid == .stopped)))
      && (let u : State := fdev 0x50 (fn (3, 0)) 0 0
          let s : State := u.setCore (.eng 0) { Core.reset with lbox := { head := 0, slots := [zeros 64], waiting := [] } }
          cmd s 0x50 (fun s c => named s c && s.fst c.fid == .running && (s.stopFunction c.fid).fst c.fid != .stopped))
      && (let s : State := fdev 0x50 (fn (5, 7)) 0 0
          cmd s 0x50 (fun s c => named s c && s.fst c.fid == .running && s.portInUse))
      && (let u : State := fdev 0x50 (fn (8, 1)) 0 0
          let s : State := (u.setHostPort 1 { HostPort.reset with st := .running }).setTenancy 1 { u.tenancy 1 with bound := some ⟨1, 0⟩, st := .running }
          cmd s 0x50 (fun s c => named s c && stop75 s c == none && s.fst c.fid == .running && s.linkInUse 1))
      && (let u : State := fdev 0x50 (fn (3, 15)) 0 0 (.wait 1)
          let s : State := u.setStreet 15 { u.street 15 with st := .draining }
          cmd s 0x50 (fun s c => c.e.prog == .wait 1 && (s.stopFunction c.fid).fst c.fid == .stopped))) = true := by decide +kernel

theorem witness_FunctionCommands_start :
    ([FState.running, .faulted, .stopped].all (fun st =>
        let u : State := fdev 0x52 (fn (3, 0)) 0 0
        let s : State := u.setStreet 0 { Street.reset with st := st }
        cmd s 0x52 (fun s c => named s c && !s.absent c.fid && s.fst c.fid == st && !s.heldFn c c.fid && s.fuses.lc != 3 && !s.memStopped
          && s.parentSt c.fid == .running && c.e.prog == .none))
      && (let u : State := fdev 0x52 (fn (3, 0)) 0 0
          let s : State := { u with regions := [{ base := 0, m := 1, ports := [(0, 0)] }], memPorts := [] }
          cmd s 0x52 (fun s c => named s c && !s.absent c.fid && !s.heldFn c c.fid && s.fuses.lc != 3 && s.memStopped))
      && (let u : State := fdev 0x52 (fn (3, 0)) 0 0
          let y : Fetched := { seq := 1, sqix := 1, sqhd := 2, bytes := sub 0x50 (fn (3, 0)) 0 0, prog := .wait 1 }
          let x : QPair := (u.qp? 0 0).getD qp
          cmd (u.setQp 0 0 { x with fetched := x.fetched ++ [y] }) 0x52 (fun s c => named s c && !s.absent c.fid && s.heldFn c c.fid && c.e.prog == .none))
      && (let s : State := fdev 0x52 (fn (3, 8)) 0 0
          let u : State := s.setStreet 8 Street.reset
          cmd u 0x52 (fun s c => named s c && s.fst c.fid == .stopped && s.parentSt c.fid == .stopped && !s.heldFn c c.fid))
      && [[], [({ pid := 0x401, value := 2500 } : PendSet)]].all (fun l =>
        let u : State := fdev 0x52 (fn (4, 3)) 0 0
        let s : State := u.setSquare 3 { Square.reset with pend := l }
        cmd s 0x52 (fun s c => named s c && c.fid.1 == 4 && s.fst c.fid == .stopped && !s.heldFn c c.fid && s.fuses.lc != 3
          && ((s.square 3).newClock == (s.square 3).eclk) == (l == []) && !(s.square 3).bringUp && s.squareQuiet 3))) = true := by decide +kernel

/-- One setting in the packet, two in a buffer, and a structural one of a running function. -/
theorem witness_FunctionCommands_set :
    ([(fn (3, 15) ++ [(12, 2, 1), (16, 2, 0x301), (24, 8, 1)], 0), (fn (3, 15) ++ [(12, 2, 2)], 0x1000)].all (fun p =>
        let s : State := (fdev 0x51 p.1 p.2 0).hostWr 0x1000 ((leBytes 2 0x301 ++ zeros 6 ++ leBytes 8 1) ++ (leBytes 2 0x301 ++ zeros 6 ++ leBytes 8 0))
        cmd s 0x51 (fun s c =>
          let n : Nat := c.le 12 2
          let one : Bool := n == 1 && c.ptr0 == 0
          let l : List Byte := if one then slice c.e.bytes 16 16 else s.hostRd c.ptr0 (16 * n)
          reserved71 c (namedBytes (if one then [(8, 1), (10, 4), (16, 16)] else [(8, 1), (10, 4)])) == none && fn72 s c == none
            && ptrs73 c (if one then 0 else 1) 0 == none && !s.noFn c.fid && !s.heldFn c c.fid
            && s.judge c.fid l (if one then 16 else 0) n n (s.placeCfg.heatTile, s.placeCfg.heatSq) == none
            && set76 s c.fid (settingsOf l n) != none
            && set76 (s.setStreet 15 Street.reset) c.fid (settingsOf l n) == none))
      && ((dev Core.reset).street 15).pend == [] && !((dev Core.reset).street 15).testFirst && !((dev Core.reset).street 15).loaded
      && ((dev Core.reset).street 15).st == .running && !((dev Core.reset).street 15).evacDue) = true := by decide +kernel

theorem witness_ClocksAndTests_clocks :
    (let s : State := (dev Core.reset).setSquare 3 { Square.reset with relock := some 2000, st := .running }
     (s.square 3).relock = some 2000 ∧ s.fatal = false ∧ (s.square 3).st = .running ∧ (127 : Fin 128).val / 32 = (3 : Fin 4).val
       ∧ ((dev Core.reset).square 3).relock = none ∧ ((dev Core.reset).square 3).st = .stopped) := by decide +kernel

theorem witness_ClocksAndTests :
    ([FState.stopped, .running, .faulted].all (fun st =>
        let u : State := fdev 0x60 (fn (3, 0)) 0 0
        let s : State := u.setStreet 0 { Street.reset with st := st }
        cmd s 0x60 (fun s c => fits s c [(8, 1), (10, 3)] 0 0 && !s.noFn c.fid && !s.heldFn c c.fid && s.fst c.fid == st))
      && [(0, FState.running), (0, .stopped), (1, .running), (0, .faulted)].all (fun p =>
        let u : State := fdev 0x60 (fn (5, 7) ++ [(12, 1, p.1)]) 0 0
        let s : State := u.setMemPort 7 { u.memPort 7 with st := p.2 }
        cmd s 0x60 (fun s c => fits s c [(8, 1), (10, 3)] 0 0 && !s.noFn c.fid && c.le 12 1 == p.1 && !s.heldFn c c.fid && s.fst c.fid == p.2))
      && (let s : State := fdev 0x61 (fn (5, 0)) 0 0
          cmd s 0x61 (fun s c => fits s c [(8, 1), (10, 2)] 0 0 && !s.noFn c.fid && !s.heldFn c c.fid && s.fst c.fid != .faulted))
      && [(8, 1), (9, 10000000)].all (fun p =>
          let u : State := fdev 0x62 (fn (5, 0) ++ [(12, 1, p.1), (16, 8, 1), (24, 4, p.2)]) 0x1000 0
          let s : State := u.setMemPort 0 MemPort.reset
          cmd s 0x62 (fun s c => reserved71 c (linkNamed false) == none && issuer72 s c == none && ptrs73 c 1 0 == none && !s.noFn c.fid
            && c.le 12 1 == p.1 && c.le 24 4 == p.2 && !s.heldFn c c.fid && s.fst c.fid == .stopped && !(s.memPort 0).pg.byMgmt))
      && (let u : State := fdev 0x60 (fn (3, 0)) 0 0
          let s : State := u.setStreet 1 { u.street 1 with st := .draining, evac := true }
          cmd s 0x60 (fun s c => s.fst c.fid == .running && !(s.street 0).evac && (s.street 1).evac))
      && !(MemPort.reset.cal.get 0).dfail && (MemPort.reset.cal.get 0).spared == 0x7F && !(MemPort.reset.cal.get 0).again
      && !(MemPort.reset.cal.get 0).passing) = true := by decide +kernel

/-! ### Witnesses: records, postings, placement -/

/-- Record 7 of tenancy 0 and its place in the tile of engine 0. -/
def k7 : RecKey := ⟨0, 7⟩
def p0 : Place := { home := 0, cls := 0, loc := BitVec.ofNat 48 (tilePa 0 0x40000) }
def p1 : Place := { home := 1, cls := 0, loc := BitVec.ofNat 48 (tilePa 1 0x40000) }
def d7 : DirEnt :=
  { key := k7, st := .settled, pin := false, cold := false, doubt := false, lost := false, pinwait := false, skey := 1, rlen := 0, group := 0
    heat := 3, epoch := 0, rseq := 5, home := p0.home, cls := p0.cls, loc := p0.loc, moveix := 0 }
/-- The device with the record `d` in the first entry of its bucket. -/
def rdev (s : State) (d : DirEnt) : State := { s with dir := [(bucketOf k7 * 8, d)], nextHandle := 1 }
/-- The named PARAM bytes and the pointers of a command on records. -/
def recs (s : State) (c : Cmd) (l : List (Nat × Nat)) (u0 : Nat) : Bool :=
  reserved71 c (namedBytes l) == none && ptrs73 c u0 0 == none && mem76 s c == none

/-- The firmware's structures where start-up would put them in 2^36 bytes. -/
def laid (s : State) : State :=
  { s with
    installed := 2 ^ 36, kabase := 0x80000000, dirbase := 0, layout := { live := true, keyBase := 0x80000000, keyLen := 2 ^ 24
                                                                         dirBase := 0, tabBase := 0x100000000 } }

theorem witness_laidOut : (laid (dev Core.reset)).laidOut := by
  unfold State.laidOut
  decide +kernel

/-- An entry's byte, and one that is not the directory's. -/
theorem witness_MemoryBytes_directory :
    (let s : State := laid (dev Core.reset)
     pKind 0x123 == .attached && !s.inKeys 0x123 && s.dirSlot 0x123 == some 9 && s.layout.dirBase % 32 == 0 && s.dir == []
       && s.dirSlot 0xF00000000 == none) = true := by decide +kernel

/-- The record's entry can be read and its slice of the directory is in reach, and the command has not begun. -/
def fresh (s : State) (c : Cmd) : Bool := c.e.prog == .none && c.dirBad == [] && !s.sliceHeld c.key

theorem witness_RecordCommands :
    ([0, 0x1000].all (fun p =>
        let s : State := fdev 0x20 [(8, 8, 7), (20, 4, if p = 0 then 0 else crc32c (zeros 16))] p 0
        cmd s 0x20 (fun s c => fresh s c && reserved71 c (fun i => if i = 17 then 3 else namedBytes [(8, 9), (18, 6)] i) == none && ptrs73 c 2 0 == none
          && mem76 s c == none && s.fuses.lc != 3 && s.dirFind k7 == none && decide (s.dirUsed 0 < (s.tenancy 0).dirQuota)
          && s.dirFree k7 == some (bucketOf k7 * 8) && (p == 0 || c.le 20 4 == crc32c (s.hostRd c.ptr0 16))
          && hints78 s 0 none 16 false false 0 == none && s.defineOk c p0 && s.anyPlace k7 16 false false (s.groupHomes 0 0)
          && !s.defineOk c { p0 with loc := 0 }
          && !({ s with streets := [], installed := 0 } : State).anyPlace k7 16 false false (s.groupHomes 0 0)
          && !({ s with streets := [], installed := 0 } : State).defineOk c p0))
      && [0, 3].all (fun h =>
        let s : State := rdev (fdev 0x22 [(8, 8, 7), (16, 1, h)] 0 0) d7
        cmd s 0x22 (fun s c => fresh s c && reserved71 c (fun i => if i = 16 then 3 else namedBytes [(8, 8), (18, 2)] i) == none && ptrs73 c 0 0 == none
          && mem76 s c == none && s.target c == some d7 && (hints78 s 0 (some d7) d7.len (h == 3) (h == 3) 0 == none) == (h == 0)))
      && [(0, false), (0, true), (1, false)].all (fun p =>
        let d : DirEnt := { d7 with doubt := true, lost := p.2 }
        let s : State := rdev (fdev 0x23 [(8, 8, 7), (16, 1, p.1), (20, 4, if p.1 = 0 then 0 else crc32c (zeros 16))] (0x1000 * p.1) 0) d
        cmd s 0x23 (fun s c => fresh s c && reserved71 c (fun i => if i = 16 then 1 else namedBytes [(8, 8), (20, 4)] i) == none && ptrs73 c p.1 0 == none
          && mem76 s c == none && s.target c == some d && (p.1 == 0 || c.le 20 4 == crc32c (s.hostRd c.ptr0 d.len))))
      && [HomeSt.settled, .moving].all (fun st =>
        let s : State := rdev (fdev 0x21 [(8, 8, 7)] 0x1000 0) { d7 with st := st }
        cmd s 0x21 (fun s c => fresh s c && recs s c [(8, 8)] 2 && s.target c == some { d7 with st := st }))
      && (let s : State := rdev (fdev 0x21 [(8, 8, 7)] 0 0) { d7 with st := .removing }
          cmd s 0x21 (fun s c => !c.recBad && (s.dirFind k7).map (fun e => e.2.st) == some .removing && s.fwdOf k7 == [] && s.deliveries == []
            && s.orders k7 == [] && !s.heldPa d7.loc.toNat))
      && [(16, 0, false), (4096, 1, false), (16, 1, false), (16, 1, true)].all (fun p =>
        let d : DirEnt := { d7 with rlen := BitVec.ofNat 8 p.2.1, lost := p.2.2 }
        let s : State := rdev (fdev 0x40 [(8, 8, 7), (16, 4, p.1)] 0x1000 0) d
        cmd s 0x40 (fun s c => fresh s c && recs s c [(8, 12)] 1 && c.le 16 4 == p.1 && s.target c == some d && s.applied k7 d.rseq
          && !c.recBad && !s.heldPa d.loc.toNat))) = true := by
  decide +kernel

/-- A posting of the record: its key and a body of 48 bytes, sealed. -/
def post7 : List Byte :=
  let b : List Byte := leBytes 8 7 ++ zeros 4
  b ++ leBytes 4 (crc32c (b ++ zeros 48)) ++ zeros 48

/-- The batch that a row names, and `p` of it. -/
def batch (s : State) (p : Cmd → Bool) (r : CmdRef := r0) : Bool :=
  match s.cmd? r (fun o => o == 0x30) with
  | some c => p c
  | none => false
/-- A segment header of one posting, sealed for its address. -/
def header (seg : Nat) : List Byte :=
  let b : List Byte := leBytes 8 3 ++ leBytes 2 1 ++ zeros 6 ++ leBytes 8 0x3000 ++ zeros 36
  b ++ leBytes 4 (crc32c (leBytes 8 seg ++ slice b 8 52))

theorem witness_Postings :
    ((let s : State := cdev (sub 0x30 [] 0x1000 0)
      let y : Fetched := { seq := 1, sqix := 1, sqhd := 2, bytes := sub 0x30 [] 0x1000 0, prog := .none }
      let x : QPair := (s.qp? 0 0).getD qp
      let u : State := s.setQp 0 0 { x with fetched := { (x.fetched.headD y) with prog := .batch 0x1000 0 0 0 none } :: [y] }
      batch u (fun c => c.e.prog == .none && !u.batchTurn c) { r0 with sqix := 1 }
        && batch u (fun c => c.e.prog == .batch 0x1000 0 0 0 none)
        && batch u (fun _ => (u.opOf r0).map (fun e => (e.prog, e.opcode)) == some (.batch 0x1000 0 0 0 none, 0x30)) { r0 with readFails := true })
      && [(0, none), (1, some 0x1000), (1, none)].all (fun p =>
        let u : State := cdev (sub 0x30 [(8, 1, p.1)] 0x1000 0)
        let s : State := u.setQp 0 0 { (u.qp? 0 0).getD qp with parked := p.2 }
        batch s (fun c => s.batchTurn c && reserved71 c (fun i => if i = 8 then 1 else 0) == none && ptrs73 c 1 0 == none
          && s.fuses.lc != 3 && mem76 s c == none && ((s.qp? c.t c.q).bind (fun x => x.parked) == some (BitVec.ofNat 64 c.ptr0)) == p.2.isSome))
      && [3, 1, 0, 2, 4].all (fun v => leNat (((qdev 0 qp).hostWr 0x1000 (leBytes 8 v)).hostRd 0x1000 8) == v)
      && headerBad 0x1000 (header 0x1000) == none && headerBad 0x1040 (header 0x1000) == some 0x4001
      && (let s : State := cdev (sub 0x30 [] 0x1000 0)
          let x : QPair := (s.qp? 0 0).getD qp
          let u : State := s.setQp 0 0 { x with share := 256 }
          let w : State := u.setQp 0 3 { qp with fetched := x.fetched }
          batch w (fun c => (w.qp? c.t c.q).any (fun x => decide (x.qwt * 16 ≤ x.share)) && w.othersWork c.t c.q)
            && batch s (fun c => (s.qp? c.t c.q).any (fun x => decide (x.share < x.qwt * 16)) && !s.sliceHeld (postingKey c.t post7)
              && c.dirBad == [] && s.overfills c.t post7 == none))
      && (let s : State := rdev (fdev 0x30 [] 0x1000 0) d7
          leAt post7 12 4 == crc32c (post7.take 12 ++ post7.drop 16) && allZero (slice post7 8 4) && postingKey 0 post7 == k7
            && (match s.lookup k7 with | .ok d => d == d7 | .error _ => false) && s.fwdOf k7 == [] && s.passes k7 d7.rseq)
      && (let s : State := rdev (fdev 0x30 [] 0x1000 0) { d7 with lost := true }
          (match s.lookup k7 with | .ok _ => false | .error _ => true) && (s.qp? 0 0).map (fun x => x.st) == some .running)) = true := by
  decide +kernel

/-- A return entry at the place that the firmware consumes next. -/
def ret (l : List Byte) (v : List Delivery) : State :=
  ((rdev (fdev 0x30 [] 0 0) d7).wrN (sqPa 0 0) l |> fun s => { s with deliveries := v })
def del (p : Option Posting) : Delivery := { handle := 1, home := 0, key := k7, post := p }
def pst : Posting :=
  { key := k7, rseq := 5, body := zeros 48, redel := false, ref := { ten := 0, q := 0, seq := 0, jaddr := 0x3000, jseq := 0, live := true } }

theorem witness_ReturnEntries :
    ([(0x81, some pst), (0x82, some pst), (0x83, none)].all (fun p =>
        let s : State := ret (leBytes 1 p.1 ++ zeros 6 ++ leBytes 1 1 ++ zeros 24) [del p.2]
        s.rd (sqPa 0 0) == BitVec.ofNat 8 p.1 && !s.heldPa (sqPa 0 0) && BitVec.ofNat 32 (beAt (s.rdN (sqPa 0 0) 32) 4 4) == (1 : W32)
          && s.deliveries.find? (fun d => d.handle == 1 && d.home == 0) == some (del p.2)
          && (s.dirFind k7).map (fun e => e.2.lost) == some false)
      && (ret (zeros 32) []).rd (sqPa 0 0) == 0 && (ret (leBytes 1 0x81 ++ zeros 31) []).deliveries == []) = true := by decide +kernel

theorem witness_SweepsAndEvacuation :
    (!(dev Core.reset).memStopped && ({ dev Core.reset with regions := [{ base := 0, m := 1, ports := [(0, 0)] }] } : State).memStopped
      && ((dev Core.reset).street 15).st == .running && (List.range 16).all (fun i => !((dev Core.reset).street i).evac)
      && [false, true].all (fun due =>
        let s : State := (dev Core.reset).setStreet 15 { Street.reset with st := .draining, evac := true, evacDue := due }
        (s.street 15).st == .draining && (s.street 15).evac && (s.street 15).evacDue == due && s.streetEmpty 15
          && (s.street 14).st == .running && !(s.street 14).evac)
      && !(rdev (dev Core.reset) d7).streetEmpty 0
      && (rdev (dev Core.reset) d7).dirFind d7.key == some (bucketOf k7 * 8, d7)) = true := by decide +kernel

/-- A move from tile to tile, one that is no choice, one with its group, and copies into a tile and into attached memory. -/
theorem witness_Moves :
    (let s : State := rdev (dev Core.reset) d7
     s.dirFind k7 == some (bucketOf k7 * 8, d7) && !s.memStopped && !s.sliceHeld k7 && s.moveOk d7 p1 [(k7, p1)]
       && !s.moveOk d7 { p1 with loc := 0 } [(k7, { p1 with loc := 0 })]
       && [false, true].all (fun rel => [p1, { home := 1, cls := 2, loc := 0xF00000000 }].all (fun q =>
          let m : Move := { key := k7, dst := some q, released := rel, ix := 1 }
          let u : State := (laid { rdev (dev Core.reset) { d7 with st := .moving } with moves := [m] }).setChannel 29 { Channel.reset with fn := .running }
          u.moves.find? (fun m => m.key == k7) == some m && u.copyFree q 1 && !u.sliceHeld k7 && !u.heldPa d7.loc.toNat && !u.heldPa q.loc.toNat
            && u.fwdOf k7 == [] && d7.group == 0 && d7.cls != 2))) = true := by
  decide +kernel

theorem witness_Moves_sorted : Sparse.wf (rdev (dev Core.reset) d7).dir := by
  unfold Sparse.wf
  decide +kernel

/-! ### Witnesses: Tram -/

/-- A running channel 0 with physical addresses and key 0. -/
def ch : Channel := { Channel.reset with fn := .running, cctl := 0x80000000 }
def tdev (c : Channel) : State := (dev Core.reset).setChannel 0 c
/-- A physical address word for a byte of the tile of engine 0, and a virtual one. -/
def phys (o : Nat) : W64 := BitVec.ofNat 64 (2 ^ 63 + tilePa 0 o)
def virt (a : Nat) : W64 := BitVec.ofNat 64 (2 ^ 62 + a)
/-- Four bytes from 0x100 to 0x200, the last descriptor of its chain. -/
def four : Desc := { src := phys 0x100, dst := phys 0x200, next := (1 : W64) <<< 63, len := 4, sw := 0, dw := 0, swap := false }
def fourBytes : List Byte := beBytes 8 four.src.toNat ++ beBytes 8 four.dst.toNat ++ beBytes 8 four.next.toNat ++ beBytes 4 4 ++ zeros 4
/-- Moving under that descriptor. -/
def moving : Channel := { ch with st := .active, phase := .move, desc := some four, ccur := phys 0x40 }

theorem witness_TramStarts :
    ([ChState.idle, .active, .halted].all (fun st => [0, 255].all (fun n =>
        ((tdev { ch with st := st, tpend := n }).channel 0).fn == .running))
      && ((tdev Channel.reset).channel 0).fn != .running
      && (let c : Channel := { ch with cctl := 0x80000201 }
          c.tv && c.tsrc == 1 && !outsideSrc 1 && ({ tdev c with raised := [(1, 1)] } : State).waiting 136 1 false != 0)
      && (let c : Channel := { ch with cctl := 0x20080000000 }
          c.tpair && ({ tdev c with raised := [(164, 1)] } : State).waiting 264 164 true != 0)
      && [0, 255].all (fun n => let c : Channel := { ch with cctl := 0x80100400, pcred := n }
          c.pmode == 2 && c.psrc == 1 && ({ tdev c with raised := [(1, 1)] } : State).waiting 392 1 true != 0)
      && [(0x80100000, 1), (0x80100000, 0), (0x80280000, 0), (0x80080000, 0)].all (fun p =>
          let c : Channel := { moving with cctl := BitVec.ofNat 64 p.1, pcred := p.2 }
          tramOver (tdev c) 0 c four && decide (c.burst < four.len))
      && ch.settling == false && { ch with unacked := true }.settling
      && (moving.cctl.getLsbD 31 && { moving with cctl := 0x80280000 }.req)) = true := by decide +kernel

theorem witness_TramTransfers :
    ([fourBytes, zeros 32].all (fun b =>
        let c : Channel := { ch with st := .active, ccur := phys 0x40 }
        let s : State := tile (tdev c) 0x40 b
        s.channel 0 == c && adAs c.ccur == 2 && c.phys && decide (adAddr c.ccur % 32 = 0)
          && (match tramCheck s 0 c (adAs c.ccur) (adAddr c.ccur) 32 false with
              | .ok l => l.all (fun pa => (s.portDown pa).isNone) && descBad c.phys (l.map (tramTouch s 0 l false).rd) == (b != fourBytes)
              | .error _ => false))
      && (let c : Channel := { ch with st := .active, ccur := virt 0x400000000000 }
          match tramCheck (tdev c) 0 c 1 (adAddr c.ccur) 32 false with | .error e => e == (0x02, 0) | .ok _ => false)
      && (let s : State := tdev moving
          moving.pmode == 0 && !adFix four.src && decide (srcElem four 0 = tilePa 0 0x100) && tramSpan s 0 == some 4 && tramNext s 0 false == some 0
            && moving.moves && !tramBlocks s 0 moving four
            && (match tramCheck s 0 moving 2 (tilePa 0 0x100) 4 false with | .ok l => l.length == 4 && l.all (fun pa => (s.portDown pa).isNone) | .error _ => false))
      && (let c : Channel := { moving with rpos := 4, buf := [1, 2, 3, 4] }
          let s : State := tdev c
          tramNext s 0 true == some 0 && (match tramCheck s 0 c 2 (dstAddr four c.wpos) 4 true with
            | .ok l => l.length == 4 && l.all (fun pa => (s.portDown pa).isNone) | .error _ => false))
      && (let s : State := (tdev moving).setChannel 5 { moving with cctl := 0x10080000000 }
          tramNext s 0 false == some 5 && (s.channel 5).pri && !(s.channel 0).pri)
      && (let c : Channel := { ch with unacked := true }
          c.settling && c.desc == none)
      && [0, 1].all (fun n => [four, { four with next := virt 0 }].all (fun d =>
          let c : Channel := { moving with phase := .done, tpend := n, desc := some d }
          match tramDstat (tdev c) 0 c 0 with | .ok _ => true | .error _ => false))
      && [false, true].all (fun leaf =>
          let c : Channel := { ch with st := .halted, tlbHalt := true, cfault := virt 0x40000000 }
          let u : State := ((tdev c).wrN (sqPa 0 0x10000) (beBytes 8 0x5000)).wrN 0x5000 (beBytes 8 (if leaf then 0x6001 else 0))
          let s : State := u.wrN 0x6008 (beBytes 8 0x40000013)
          match walkFrom s.rd8 s false false c.cten (adAddr c.cfault) 4 (s.rd8 (sqPa 0 (0x10000 + 8 * c.cten.toNat))) [] with
          | .leaf _ _ => leaf
          | .fail _ => !leaf)) = true := by decide +kernel

/-! ### Witnesses: errors, ports, management -/

/-- A record of a severity, for memory port 0. -/
def rec (sev : BitVec 2) (code : Byte) : ErrRec :=
  { sev := sev, hop := 0xA, code := code, utype := 4, uidx := 0, asp := 0, addr := 0, synd := 0, ten := 0, task := 0, pc := 0 }

/-- An empty bank, a full one, and slots of each severity. -/
theorem witness_ErrorRecords :
    (bankOf 4 0 = .mp 0 ∧ bankSlots (.mp 0) = 4 ∧ spGet? (dev Core.reset).banks (bankIx (.mp 0) * 16) = none)
      ∧ (let s : State := { dev Core.reset with banks := (List.range 4).map (fun i => (80 + i, { r := rec 0 0x10, ovf := false, count := 1 })) }
         ∀ i < 4, spGet? s.banks (bankIx (.mp 0) * 16 + i) ≠ none)
      ∧ (∀ p ∈ [((0 : BitVec 2), (0x10 : Byte)), (1, 0x30), (3, 0x30)],
          let s : State := { dev Core.reset with banks := [(80, { r := rec p.1 p.2, ovf := false, count := 1 })] }
          spGet? s.banks (bankIx (.mp 0) * 16 + (0 : Fin 16).val) = some { r := rec p.1 p.2, ovf := false, count := 1 }
            ∧ Memory.wf memDefault s.mem = true ∧ s.coalesce = [] ∧ s.heldPa logBase = false ∧ s.fatal = false)
      ∧ ([0, 0, 0, 0].length = 4 ∧ 5 < 2 ^ 64)
      ∧ ({ dev Core.reset with coalesce := [{ r := rec 0 0x10, count := 2 }] } : State).coalesce = [{ r := rec 0 0x10, count := 2 }] := by decide +kernel

theorem witness_ErrorRecords_flits :
    (let h : List Byte := [0x80] ++ zeros 11
     let f : Flit := { header := h ++ beBytes 4 (crc32c h), payload := [] }
     (flitSeal f = flitCrc f ∧ flitClass f = 2 ∧ flitPoison f = false)
       ∧ flitSeal { f with payload := [1] } ≠ flitCrc { f with payload := [1] }) := by decide +kernel

theorem witness_MemoryPorts :
    (let x : MemPort := { MemPort.reset with st := .running, dimms := 1, size := 64 }
     let s : State := (dev Core.reset).setMemPort 7 x
     ((s.memPort 7).dimms = 1 ∧ (94 : Byte).toInt < 95 ∧ 95 ≤ (95 : Byte).toInt
        ∧ (∀ v : Fin 2, ((3 : Byte).toInt - (x.cal.get v).tlast.toInt).natAbs < 4) ∧ x.hot = 0 ∧ ({ x with st := .stopped } : MemPort).st = .stopped)
       ∧ ((x.cal.get 1).dfail = false ∧ (x.cal.get 1).spared = 0x7F ∧ (x.cal.get 1).phase = 0 ∧ (x.cal.get 1).todo = [])
       ∧ ((dev Core.reset).memPort 7).st ≠ .running ∧ ((dev Core.reset).memPort 7).dimms = 0 ∧ x.size ≠ 0) := by decide +kernel

theorem witness_MemoryPorts_patterns :
    (let p : Patgen := { Patgen.reset with mask1 := (1 : W64) <<< 63 }
     let s : State := (dev Core.reset).setMemPort 0 { MemPort.reset with pg := p }
     let u : State := (dev Core.reset).setMemPort 0 { MemPort.reset with pg := { p with pgctl := 0x10 } }
     s.pgStopped (.mp 0) = true ∧ (s.pgOf (.mp 0)).pgctl.getLsbD 4 = false ∧ (u.pgOf (.mp 0)).pgctl.getLsbD 4 = true
       ∧ (u.pgOf (.mp 0)).mask1.getLsbD ((127 : Fin 128).val - 64) = true ∧ (s.pgStopped (.hp 0)) = false)
      ∧ (∀ pat ∈ [(8 : Nat), 9], let p : Patgen := { Patgen.reset with pgctl := BitVec.ofNat 64 (0x10 + pat), mask1 := (1 : W64) <<< 63, lfsr := [(127, 128)] }
          (pgSent false p 127 5).isSome = true ∧ pgSent false p 127 5 ≠ some 0x123 ∧ pgLocked p 127 = false ∧ bits p.pgctl.toNat 0 4 = pat) := by
  decide +kernel

theorem witness_HostLinks :
    (let s : State := dev Core.reset
     s.pins.pwrgood = true ∧ s.linkIsUp 0 = true ∧ s.linkIsUp 1 = false ∧ s.held = false ∧ s.boot.stage ≠ 0
       ∧ (let t : State := s.setHostPort 0 { s.hostPort 0 with nwidth := 0 }
          (t.hostPort 0).st = .running ∧ (t.hostPort 0).perst = true ∧ (t.hostPort 0).nwidth = 0 ∧ (t.hostPort 0).tested = false
            ∧ (16 : BitVec 5).toNat ≤ 16 ∧ (5 : BitVec 3).toNat ≤ (t.hostPort 0).maxrate.toNat)
       ∧ ((s.setHostPort 0 { s.hostPort 0 with d3 := 0x8000 }).hostPort 0).d3.getLsbD (15 : Fin 16).val = true)
      ∧ ({ dev Core.reset with pins := { State.reset.pins with pwrgood := false } } : State).pins.pwrgood = false := by decide +kernel

theorem witness_HostLinks_sorted : Sparse.wf (qdev 0 qp).tenancies ∧ (qdev 0 qp).tenOf ⟨0, 1⟩ = some 1 := by
  unfold Sparse.wf
  decide +kernel

/-- Sectors that nothing protects, at the ends of the protected ranges, and a part of slot A, which is in use. -/
theorem witness_FlashAndRegisters :
    ((dev Core.reset).mgmtFn = f0 ∧ (dev Core.reset).bar2 f0 = true ∧ (dev Core.reset).flashOp = none
       ∧ ([0x2000, 0xFF000, 0x1C00000, 0x1000, 0x100000, 0x3FF000, 0x400000].map (dev Core.reset).flashProtected
          = [false, false, false, true, true, true, true]))
      ∧ (∀ op : BitVec 2, ({ dev Core.reset with flashOp := some { op := op, sector := 0x2000 } } : State).flashOp
          = some { op := op, sector := 0x2000 })
      ∧ (let s : State := (dev Core.reset).setHostPort 1 ((dev Core.reset).hostPort 0)
         s.bar2 ⟨1, 0⟩ = true ∧ (⟨1, 0⟩ : FnId) ≠ s.mgmtFn)
      ∧ (dev Core.reset).awake = true ∧ Memory.wf 0xFF (dev Core.reset).flash = true := by decide +kernel

theorem witness_ManagementPorts :
    ((dev Core.reset).pins.pwrgood = true ∧ (dev Core.reset).reached 6 = true ∧ State.reset.reached 2 = false
       ∧ (dev Core.reset).alertCause = false ∧ ({ dev Core.reset with fatal := true } : State).alertCause = true)
      ∧ (reachable 7 0x17FF = true ∧ reachable 7 0x1800 = false ∧ reachable 9 0x10FF = true ∧ reachable 10 0 = false)
      ∧ ((0x0F : Byte).toNat < 16 ∧ (dev Core.reset).fuses.lc = 0) := by decide +kernel

theorem witness_PinsAndKerb :
    (State.reset.pins.pwrgood = true ∧ (dev Core.reset).held = false ∧ (dev Core.reset).awake = true ∧ State.reset.awake = false
       ∧ State.reset.boot.stage = 0)
      ∧ (∀ lc ∈ [(0 : BitVec 2), 1, 2, 3], ({ dev Core.reset with fuses := { State.reset.fuses with lc := lc } } : State).fuses.lc = lc)
      ∧ (({ dev Core.reset with fuses := { State.reset.fuses with lc := 1 }, kerb := { State.reset.kerb with tampen := 3 } } : State).tamperWipes 1 = true
        ∧ (dev Core.reset).tamperWipes 0 = false ∧ (dev Core.reset).tamperWipes 5 = true) := by decide +kernel

/-! ### What WellFormed refuses: one ill-formed term for each check -/

theorem test_wellformed :
    ([Instr.nop { e0 with pre := List.replicate 11 .far }, .ldq e0 { ab 0 1 with d := 0x10000 }, .faddb e0 { ab 0 8 with long := true },
      .unassignedOpcode e0 0x00, .unassignedOpcode e0 0x2F, .farLoadResponse (.eng 0) 0 .ok, .registerWrite (.phys 0x10300000004 0),
      .registerWrite (.phys 0x102FFFFFFF8 0), .registerWrite (.phys 0x1030A000000 0), .registerWrite (.page f0 2 false 0),
      .registerWrite (.bar2 f1 0 false 0), .registerWrite (.bar2 f0 4 true 0), .ringFlitReceive 0 { header := zeros 15, payload := [] } .none,
      .ringFlitReceive 0 { header := zeros 16, payload := zeros 16 } .none, .sqtail f0 0 0 [{ addr := 0xFFFFFFFFFFFFFFFF, bytes := zeros 2 }],
      .linkUp 0 { width := 3, rate := 1, reversed := false, polarity := 0 }, .linkUp 0 { width := 16, rate := 6, reversed := false, polarity := 0 },
      .tamperDetect 2, .bypass 0x10, .pgaccRead 16 0, .patrolScrub 0 (some .corrected) 40, .registerWrite (.bar4 f0 2 false 0),
      .extensionOpcode r0 { status := 0x1234, res0 := 0, res1 := 0, detail := 0 }, .configurationRequest ⟨f0, 2⟩].all (fun c => !c.wf)) = true := by decide +kernel

/-- What start-up finds on a device without modules. -/
def bare : BootFacts :=
  { flash := true, fuses := true, slotA := { sigOk := true, coreOk := true, auxOk := true }, slotB := { sigOk := true, coreOk := true, auxOk := true }, kerbOpens := false, ports := [], kabase := 0, dirbase := 0, squares := 0xF
    streets := 0xFFFF, vbatLow := false }
def port (p : Fin 8) (r : W16) : PortFacts := { port := p, slot0 := some { gib := 32, ranks := 2 }, slot1 := none, spdRate := r, trains := true }

theorem test_wellformed_boot :
    ([{ bare with kabase := 1 }, { bare with dirbase := 0x40000000 }, { bare with tables := 0x800 }, { bare with ports := [port 0 6500] },
      { bare with ports := [port 0 6400, port 0 6400] }].all (fun b => !(Instr.resetRelease b).wf)
      && (Instr.resetRelease { bare with ports := [port 0 6400, port 1 6400] }).wf) = true := by decide +kernel

/-! ### Small tests: what the spec gives -/

/-- R337: the CRC-32C of "123456789". -/
theorem test_crc32c : crc32c [0x31, 0x32, 0x33, 0x34, 0x35, 0x36, 0x37, 0x38, 0x39] = 0xE3069283 := by decide +kernel

/-- Example 4-1. -/
theorem test_packed : pval [0x12, 0x3C] = 123 ∧ pval [0x12, 0x3D] = -123 ∧ pval [0x12, 0x3F] = 123 ∧ pval [0x00, 0x0D] = 0
    ∧ badNibble 0 (nibbles [0x1A, 0x3C]) = some 1 ∧ badNibble 0 (nibbles [0x12, 0x3B]) = some 3 := by decide +kernel

/-- Operand 1 at 0x100 as the engine reads it after a command, with PSW once every result has landed. -/
def left (s : State) (c : Instr) (n : Nat) (p : List Byte → W64 → Bool) : Bool :=
  gives s c (fun t =>
    let k : Core := (t.core (.eng 0)).settle false 1000
    p (({ s := t, c := .eng 0, k := k, pen := 0 } : Work).loadTile 0x100 n).2 k.bank.psw)

/-- Example 4-5: the three rows. -/
theorem test_packed_overflow :
    (left (xy [0x99, 0x95, 0x0C] [0x07, 0x5C] 0 (with0 eDOE)) (.padd e0 (ss 3 2)) 3 (fun l p => l == [0, 0x02, 0x5C] && p.getLsbD sDVS && p.getLsbD 4)
      && left (xy [0x50, 0x00, 0x0D] [0x50, 0x00, 0x0D] 0 (with0 eDOE)) (.padd e0 (ss 3 3)) 3 (fun l p => l == [0, 0, 0x0D] && p.getLsbD sDVS)
      && left (xy [0x99, 0x95, 0x0C] [0x07, 0x5C] 0 (with0 eDOE)) (.psub e0 (ss 3 2)) 3 (fun l p => l == [0x99, 0x87, 0x5C] && !p.getLsbD sDVS)) = true := by
  decide +kernel

/-- Example 6-1. -/
theorem test_zoned :
    (left (xy [] [0x31, 0x30, 0x34, 0x33, 0x30, 0xC7]) (.ztop e0 (ss 4 6)) 4 (fun l _ => l == [0x01, 0x04, 0x30, 0x7C])
      && left (xy [] [0x01, 0x04, 0x30, 0x7D]) (.ptoz e0 (ss 8 4)) 8 (fun l _ => l == [0x30, 0x30, 0x31, 0x30, 0x34, 0x33, 0x30, 0xD7])) = true := by
  decide +kernel

/-- The pattern of Example 6-2, and ACC with its fill and float characters. -/
def pat62 : List Byte := [0x20, 0x10, 0x10, 0x2C, 0x10, 0x10, 0x11, 0x2E, 0x11, 0x11, 0xC3, 0xD2]
def acc62 : Nat := 0x2420 * 2 ^ 64

/-- Example 6-2: −1,234.50 by FMTM and by FMT, and zero. -/
theorem test_edit :
    (left (xy pat62 [0x01, 0x23, 0x45, 0x0D] acc62) (.fmtm e0 (ss 12 4)) 12
        (fun l p => l == [0x20, 0x24, 0x31, 0x2C, 0x32, 0x33, 0x34, 0x2E, 0x35, 0x30, 0x43, 0x52] && p.getLsbD 0 && p.getLsbD 3)
      && left (xy pat62 [0x01, 0x23, 0x45, 0x0D] acc62) (.fmt e0 (ss 12 4)) 12
        (fun l _ => l == [0x20, 0x20, 0x31, 0x2C, 0x32, 0x33, 0x34, 0x2E, 0x35, 0x30, 0x43, 0x52])
      && left (xy pat62 [0, 0, 0, 0x0C] acc62) (.fmtm e0 (ss 12 4)) 12
        (fun l _ => l == [0x20, 0x20, 0x20, 0x20, 0x20, 0x24, 0x30, 0x2E, 0x30, 0x30, 0x20, 0x20])) = true := by decide +kernel

/-- A result, its exceptions (IV 1, DZ 2, OF 4, UF 8, IX 16), and whether it is tiny without a flag. -/
def fp (r : FRes) (v e : Nat) (tiny : Bool := false) : Bool := r.v == v && r.e == e && (e != 0 || r.tiny == tiny)

/-- Operands of Table 5-9: s, h, n, 1⁻, u, M′, M. -/
def bs : Nat := 1
def bh : Nat := 0x000FFFFFFFFFFFFF
def bn : Nat := 0x0010000000000000
def b1 : Nat := 0x3FEFFFFFFFFFFFFF
def bu : Nat := 0x7C90000000000000
def bM' : Nat := 0x7FEFFFFFFFFFFFFE
def bM : Nat := 0x7FEFFFFFFFFFFFFF
def bInf : Nat := 0x7FF0000000000000

/-- Table 5-10, nearest even and the other modes that it gives (1 toward 0, 2 toward +∞, 3 toward −∞, 4 ties away). -/
theorem test_binary64_edges :
    (fp (binAdd 0 false bM bM) bInf 20 && fp (binAdd 1 false bM bM) bM 20 && fp (binAdd 3 false bM bM) bM 20
      && fp (binAdd 0 false bM bu) bInf 20 && fp (binAdd 1 false bM bu) bM 16 && fp (binAdd 3 false bM bu) bM 16
      && fp (binAdd 0 true bM bM') 0x7CA0000000000000 0 && fp (binMul 0 bM 0x4000000000000000) bInf 20
      && fp (binMul 1 bM 0x4000000000000000) bM 20 && fp (binDiv 0 bM 0x3FE0000000000000) bInf 20 && fp (binDiv 3 bM bs) bM 20
      && fp (binMul 0 bs bM) 0x3CCFFFFFFFFFFFFF 0 && fp (binAdd 0 false bs bs) 2 0 true && fp (binAdd 0 true 2 bs) bs 0 true
      && fp (binAdd 0 true bs bs) 0 0 && fp (binAdd 3 true bs bs) 0x8000000000000000 0
      && fp (binMul 0 bs 0x3FE0000000000000) 0 24 && fp (binMul 2 bs 0x3FE0000000000000) bs 24 && fp (binMul 4 bs 0x3FE0000000000000) bs 24
      && fp (binDiv 0 bs 0x4000000000000000) 0 24 && fp (binMul 0 bs 0x3FF8000000000000) 2 24 && fp (binMul 1 bs 0x3FF8000000000000) bs 24
      && fp (binDiv 0 bs bM) 0 24 && fp (binDiv 2 bs bM) bs 24 && fp (binAdd 0 true bn bs) bh 0 true && fp (binAdd 0 false bh bs) bn 0
      && fp (binMul 0 bn b1) bn 24 && fp (binMul 1 bn b1) bh 24 && fp (binSqrt 0 bs) 0x1E60000000000000 0
      && fp (binSqrt 0 bM) 0x5FEFFFFFFFFFFFFF 16 && fp (binSqrt 2 bM) 0x5FF0000000000000 16 && fp (binSqrt 0 0x8000000000000001) 0x7FF8000000000000 1
      && (binCmp 0x8000000000000000 0).1.z && fp (binToInt 0 bM) 0x7FFFFFFFFFFFFFFF 1 && fp (binToInt 0 bs) 0 16 && fp (binToInt 2 bs) 1 16
      && fp (binOfInt 0 (2 ^ 63 - 1)) 0x43E0000000000000 16 && fp (binOfInt 1 (2 ^ 63 - 1)) 0x43DFFFFFFFFFFFFF 16) = true := by decide +kernel

/-- A finite decimal128 number. -/
def dx (c : Nat) (e : Int) : Nat := decEnc false c e
def dX : Nat := 0x77FFCFF3FCFF3FCFF3FCFF3FCFF3FCFF
def dInf : Nat := 0x78000000000000000000000000000000

/-- Table 5-12. -/
theorem test_decimal128_edges :
    (dx (10 ^ 34 - 1) 6111 == dX && fp (decAdd 0 false dX dX) dInf 20 && fp (decAdd 1 false dX dX) dX 20
      && fp (decAdd 0 false dX (dx 5 6110)) dInf 20 && fp (decAdd 3 false dX (dx 5 6110)) dX 16
      && fp (decAdd 0 true dX 0x77FFCFF3FCFF3FCFF3FCFF3FCFF3FCFE) (dx 1 6111) 0 && fp (decMul 0 dX (dx 2 0)) dInf 20 && fp (decDiv 1 dX 1) dX 20
      && fp (decMul 0 1 dX) (dx (10 ^ 34 - 1) (-65)) 0 && fp (decAdd 0 false 1 1) 2 0 true && fp (decAdd 0 true 2 1) 1 0 true
      && fp (decAdd 0 true 1 1) 0 0 && fp (decAdd 3 true 1 1) (2 ^ 127) 0 && fp (decMul 0 1 (dx 5 (-1))) 0 24 && fp (decMul 4 1 (dx 5 (-1))) 1 24
      && fp (decDiv 0 1 (dx 2 0)) 0 24 && fp (decDiv 2 1 (dx 2 0)) 1 24 && fp (decMul 0 1 (dx 15 (-1))) 2 24 && fp (decMul 3 1 (dx 15 (-1))) 1 24
      && fp (decDiv 0 1 dX) 0 24 && fp (decDiv 2 1 dX) 1 24 && fp (decAdd 0 true (dx 1 (-6143)) 1) (dx (10 ^ 33 - 1) (-6176)) 0 true
      && fp (decAdd 0 false (dx (10 ^ 33 - 1) (-6176)) 1) (dx (10 ^ 33) (-6176)) 0
      && fp (decDiv 0 (dx (10 ^ 34 - 1) (-6176)) (dx 1 1)) (dx (10 ^ 33) (-6176)) 24
      && fp (decDiv 1 (dx (10 ^ 34 - 1) (-6176)) (dx 1 1)) (dx (10 ^ 33 - 1) (-6176)) 24
      && (decCmp 1 2).1.n && (decCmp (dx 2 0) (dx 20 (-1))).1.z && decToPacked 0 dX == (pk (10 ^ 63 - 1) 32, 1)
      && decToPacked 0 1 == (pk 0 32, 16) && decToPacked 2 1 == (pk 1 32, 16) && fp (decOfPacked 0 (pk (10 ^ 63 - 1) 32)) (dx (10 ^ 33) 30) 16
      && fp (decOfPacked 1 (pk (10 ^ 63 - 1) 32)) (dx (10 ^ 34 - 1) 29) 16) = true := by decide +kernel

/-- R149: −1 + 1 is 0 with a carry and no overflow; MAX + 1 overflows, and with PSW.BOE raises vector 10. -/
theorem test_addq :
    (gives (acc (2 ^ 64 - 1)) (.addq e0 (im 1)) (fun t =>
        let b : Bank := ((t.core (.eng 0)).settle false 10).bank
        b.q == 0 && b.psw.extractLsb' 0 4 == 0b0101)
      && gives (acc (2 ^ 63 - 1) (with1 eBOE)) (.addq e0 (im 1)) (fun t => (t.core (.eng 0)).exn.map (fun x => x.vec) == some 10)) = true := by
  decide +kernel

/-- Example 3-2: what raises illegal instruction and what the privilege exception. -/
theorem test_outcomes :
    ((let vec (s : State) (c : Instr) : Option (BitVec 6) := after (exec c s) (fun _ => true) |> fun _ =>
        match exec c s with | .next t => (t.core (.eng 0)).exn.map (fun x => x.vec) | _ => none
      let user : W64 := pswReset &&& ~~~ ((1 : W64) <<< 12)
      [vec (acc 0) (.unassignedOpcode e0 0x1E), vec (acc 0) (.trap e0 0x1F), vec (acc 0) (.ldq e0 { ab 0 8 with am := 6 }),
       vec (acc 0) (.ldq e0 { ab 0x10 3 with am := 2 }), vec (acc 0) (.bcc { e0 with pre := [.far] } { br 9 with am := 5 }),
       vec (acc 0) (.ldq { e0 with pre := [.far, .far] } { ab 0x18 8 with am := 3 }), vec (acc 0 user) (.mts e0 0x20), vec (acc 0) (.svc e0 5),
       vec (acc 0 (with1 9)) (.bor e0 (ss 25 1)), vec (acc 0) (.bmov e0 (ss 1 2)), vec (acc 0) (.bor e0 (ss 25 1))])
      == [some 2, some 2, some 2, some 2, some 2, some 2, some 3, some 2, some 2, some 2, none]) = true := by decide +kernel

/-- R172: a move one byte upward fills operand 1 with the first byte. -/
theorem test_bmov_overlap :
    gives (tile (on { Bank.reset with ix := 0x101, iy := 0x100 }) 0x100 [7, 8, 9]) (.bmov e0 (ss 3 1)) (fun t =>
      (({ s := t, c := .eng 0, k := t.core (.eng 0), pen := 0 } : Work).loadTile 0x100 4).2 == [7, 7, 7, 7]) = true := by decide +kernel

/-- R330, R334: an SQTAIL past the depth sets DBERR; one within it is stored. -/
theorem test_doorbell :
    (gives (qdev 3 qp) (.sqtail f0 3 16 []) (fun t => (t.qp? 0 3).map (fun x => (x.dberr, x.sqtail)) == some (true, 0))
      && gives (qdev 3 qp) (.sqtail f0 3 15 []) (fun t => (t.qp? 0 3).map (fun x => (x.dberr, x.sqtail)) == some (false, 15))) = true := by
  decide +kernel

/-- R335, R340: IDENTIFY is fetched and answered: STATUS 0, RES0 256, and P = 1 on the first pass. -/
theorem test_identify :
    gives (posting (sub 0x01 [(4, 2, 0xB41)] 0x30000 0)) (.submissionFetch f0 0 ⟨false, none⟩) (fun t =>
      gives t (.identify r0) (fun u => leAt (u.hostRd 0x20000 32) 0 2 == 0xB41 && leAt (u.hostRd 0x20000 32) 2 2 == 0
        && (byteAt (u.hostRd 0x20000 32) 5).getLsbD 7 && leAt (u.hostRd 0x20000 32) 12 4 == 256 && byteAt (u.hostRd 0x30000 1) 0 == 0x4C)) = true := by
  decide +kernel

/-- Table 18-12: IDCODE is selected after TRST_N; BYPASS by any code that is not listed. -/
theorem test_tap : (gives (dev Core.reset) (.bypass 0x77) (fun t => t.tap.ir == 0x77)
    && gives (dev Core.reset) .trstN (fun t => t.tap.ir == 0x02)) = true := by decide +kernel

/-- R448: LC_CHANGE is permitted from BLANK to PROVISIONED and RETIRED only, and never out of RETIRED. -/
theorem test_life_cycle :
    ((List.range 4).map (fun tg => lcPermits { lc := 0, lccount := 0, ownerBanks := 0, floor := 0 } tg)
        == [false, true, false, true]
      && [1, 2, 3].all (fun tg => !lcPermits { lc := 3, lccount := 1, ownerBanks := 1, floor := 0 } tg)) = true := by decide +kernel

/-- Bytes as a word of the opcode table's numbering. -/
def word (l : List Nat) : Nat := l.foldr (fun b w => b + 256 * w) 0

/-- Tables 3-2, 3-7 to 3-10, written out: formats A, B, M and L (ADDQ of 8 bytes at 0x100), SS (PADD of 3 and 2 bytes,
halfword 10 1011 00010 00001), LOOPI, SMM, two prefixes, MTS to TPRE, an Arcade opcode, and an unassigned one. -/
theorem test_decode :
    ([([0x00], Instr.nop e0), ([0x06], .tlbsync e0), ([0x20, 0x33], .mfs e0 0x33), ([0x21, 0x26], .tpre e0), ([0x21, 0x25], .mts e0 0x25),
      ([0x43, 0x27, 0x01, 0x00], .addq e0 { long := false, am := 1, len := 7, d := 0x100 }),
      ([0xC3, 0x27, 0x00, 0x01, 0x02, 0x03], .addq e0 { long := true, am := 1, len := 7, d := 0x10203 }),
      ([0x5C, 0x49, 0x00, 0x40], .bcc e0 { long := false, am := 2, len := 9, d := 0x40 }),
      ([0x6A, 0x08, 0x00, 0x05], .loopi e0 8 5), ([0x72, 0x88, 0xFF, 0xE0], .smm e0 0x88 0xFFE0),
      ([0xAC, 0x41, 0x00, 0x10, 0xFF, 0xFE], .padd e0 { l1 := 2, l2 := 1, d1 := 0x10, d2 := 0xFFFE }),
      ([0xF1, 0xF2, 0x80, 0x00, 0x00, 0x00, 0x00, 0x00], .bmov { e0 with pre := [.far1, .far2] } { l1 := 0, l2 := 0, d1 := 0, d2 := 0 }),
      ([0xF0, 0x40, 0x67, 0x00, 0x08], .ldq { e0 with pre := [.far] } { long := false, am := 3, len := 7, d := 8 }),
      ([0xE3], .arcadeInstruction e0 3 0 0), ([0x1E], .unassignedOpcode e0 0x1E), ([0xF3], .unassignedOpcode e0 0xF3)].all (fun p =>
        decodeTableWord (8 * p.1.length) (word p.1) == some p.2)) = true := by decide +kernel

/-- R94: what stands at the PC of an engine, its prefix included. -/
theorem test_at_pc :
    ((tile (on { Bank.reset with pc := 0x40 }) 0x40 [0xF0, 0x40, 0x67, 0x00, 0x08]).atPc (.eng 0)
      == .ldq { e0 with pre := [.far] } { long := false, am := 3, len := 7, d := 8 }) = true := by decide +kernel
end Sys2Proof.Tests
end

/-! PROOFS. Bytes at physical addresses (01 R36, R74, R75; 10 R285; 11 R296 to R299): what a write leaves at its own
address and at every other. Settles O29. -/

namespace Sys2Proof.Machine

/-! ### Cells of a map in rising order -/

theorem Sparse.wf_cellPut {m : Sparse Byte} (h : m.wf) (d : Byte) (k : Nat) (v : Byte) :
    Sparse.wf (cellPut d m k v) := by
  unfold cellPut
  split
  · exact Sparse.wf_spDel h k
  · exact Sparse.wf_spPut h k v

theorem spGet?_cellPut_ne (d : Byte) (m : Sparse Byte) {k j : Nat} (v : Byte) (h : j ≠ k) :
    spGet? (cellPut d m k v) j = spGet? m j := by
  unfold cellPut
  split
  · exact spGet?_spDel_ne m h
  · exact spGet?_spPut_ne m v h

theorem spGet_cellPut_self {m : Sparse Byte} (h : m.wf) (d : Byte) (k : Nat) (v : Byte) :
    spGet d (cellPut d m k v) k = v := by
  unfold cellPut
  split
  · next hv => simp [spGet, spGet?_spDel_self h, hv]
  · exact spGet_spPut_self d m k v

/-- Bytes written to plain memory read back, and the bytes outside them read as before. -/
theorem memRd_memPut {m : List Host.Cell} (h : Memory.wf memDefault m = true) (a i : Nat) (l : List Byte) :
    memRd (memPut m a l) i = if a ≤ i ∧ i < a + l.length then byteAt l (i - a) else memRd m i := by
  induction l generalizing m a with
  | nil => simp only [memPut, List.length_nil]; rw [if_neg (by omega)]
  | cons b r ih =>
    rw [memPut, ih (Memory.wf_memWr h a b), memRd_memWr h, List.length_cons]
    rcases Nat.lt_trichotomy i a with hi | hi | hi
    · rw [if_neg (by omega), if_neg (by omega), if_neg (by omega)]
    · subst hi
      rw [if_neg (by omega), if_pos rfl, if_pos (by omega), Nat.sub_self]
      rfl
    · obtain ⟨k, rfl⟩ : ∃ k, i = a + 1 + k := ⟨i - (a + 1), by omega⟩
      have hk : a + 1 + k - a = k + 1 := by omega
      simp only [Nat.add_sub_cancel_left, hk, byteAt, List.getElem?_cons_succ]
      by_cases hl : k < r.length
      · rw [if_pos (by omega), if_pos (by omega)]
      · rw [if_neg (by omega), if_neg (by omega), if_neg (by omega)]

/-! ### Lengths of byte strings -/

@[simp] theorem length_leBytes (n v : Nat) : (leBytes n v).length = n := by
  induction n generalizing v with
  | zero => rfl
  | succ n ih => simp [leBytes, ih]

@[simp] theorem length_beBytes (n v : Nat) : (beBytes n v).length = n := by simp [beBytes]

@[simp] theorem length_zeros (n : Nat) : (zeros n).length = n := by simp [zeros]

theorem length_patch (l : List Byte) {off : Nat} {b : List Byte} (h : off + b.length ≤ l.length) :
    (patch l off b).length = l.length := by
  simp only [patch, List.length_append, List.length_take, List.length_drop]
  omega

theorem byteAt_patch_self (l : List Byte) {off : Nat} (b : Byte) (h : off ≤ l.length) :
    byteAt (patch l off [b]) off = b := by
  simp [byteAt, patch, Nat.min_eq_left h]

theorem DirEnt.length_image (d : DirEnt) : d.image.length = 32 := by simp [DirEnt.image]

/-! ### The address map (Table 1-6) -/

/-- The address whose byte an address reads: in a tile, that of the plain byte (R75). -/
def cellOf (pa : Nat) : Nat := match pKind pa with | .tile n o _ => tilePa n o | _ => pa

theorem cellOf_tile {pa n o : Nat} {k : StKind} (h : pKind pa = .tile n o k) : cellOf pa = tilePa n o := by
  simp [cellOf, h]

theorem pKind_attached {pa : Nat} : pKind pa = .attached ↔ pa < sqBase := by
  unfold pKind
  constructor
  · intro h
    by_contra hpa
    rw [if_neg hpa] at h
    dsimp only at h
    repeat' split at h
    all_goals simp at h
  · intro h
    rw [if_pos h]

theorem cellOf_attached {pa : Nat} (h : pKind pa = .attached) : cellOf pa = pa := by simp [cellOf, h]

/-- The byte that an address outside attached memory reads is no byte of attached memory. -/
theorem sqBase_le_cellOf {pa : Nat} (h : pKind pa ≠ .attached) : sqBase ≤ cellOf pa := by
  unfold cellOf
  split
  · simp only [tilePa, tileBase, sqBase]; omega
  · exact Nat.le_of_not_lt (fun hlt => h (pKind_attached.2 hlt))

/-- A tile address names an engine and an offset that exist. -/
theorem pKind_tile_bounds {pa n o : Nat} {k : StKind} (h : pKind pa = .tile n o k) : n < 128 ∧ o < tileSize := by
  unfold pKind at h
  dsimp only at h
  repeat' split at h
  all_goals simp only [PKind.tile.injEq, reduceCtorEq] at h
  all_goals
    obtain ⟨rfl, rfl, _⟩ := h
    simp only [tileSize, tileBase, tileSetBase, tileClrBase, sqBase] at *
    omega

theorem pKind_tilePa {n o : Nat} (hn : n < 128) (ho : o < tileSize) : pKind (tilePa n o) = .tile n o .plain := by
  have hsub : tilePa n o - tileBase = tileSize * n + o := by rw [tilePa, Nat.mul_comm n]; omega
  have hdiv : (tileSize * n + o) / tileSize = n := by rw [Nat.mul_add_div (by decide), Nat.div_eq_of_lt ho]; rfl
  have hmod : (tileSize * n + o) % tileSize = o := by rw [Nat.mul_add_mod, Nat.mod_eq_of_lt ho]
  have hlo : tileBase ≤ tilePa n o := by simp only [tilePa]; omega
  have hhi : tilePa n o < tileSetBase := by
    simp only [tilePa, tileBase, tileSetBase, tileSize] at *; omega
  have hsq : sqBase + 0x4000000 ≤ tileBase := by decide
  rw [pKind, if_neg (by omega), if_neg (by omega), if_neg (by omega), if_pos hhi, hsub, hdiv, hmod]

/-! ### What a read depends on -/

/-- A byte of attached memory is one of the key array, or else one of its entry of the directory and of memory. -/
theorem State.attRd_congr {s t : State} {q : Nat} (hlay : t.layout = s.layout)
    (hkey : s.inKeys q = true → spGet? t.keyArr q = spGet? s.keyArr q)
    (hdir : s.inKeys q = false → ∀ i, s.dirSlot q = some i → spGet? t.dir i = spGet? s.dir i)
    (hmem : s.inKeys q = false → memRd t.mem q = memRd s.mem q) : t.attRd q = s.attRd q := by
  have hin : t.inKeys q = s.inKeys q := by simp [State.inKeys, hlay]
  have hsl : t.dirSlot q = s.dirSlot q := by simp [State.dirSlot, hlay]
  have hini : t.keyInit q = s.keyInit q := by simp [State.keyInit, hlay]
  unfold State.attRd
  rw [hin, hsl, hini]
  cases hk : s.inKeys q with
  | true => simp [spGet, hkey hk]
  | false =>
    cases hs : s.dirSlot q with
    | none => simp [hmem hk]
    | some i => simp [hdir hk i hs, hmem hk]

/-- A byte at a physical address is one of attached memory, or the one that memory holds at its cell. -/
theorem State.rd_congr {s t : State} {q : Nat} (hatt : pKind q = .attached → t.attRd q = s.attRd q)
    (hmem : pKind q ≠ .attached → memRd t.mem (cellOf q) = memRd s.mem (cellOf q)) : t.rd q = s.rd q := by
  unfold State.rd
  unfold cellOf at hmem
  cases hq : pKind q with
  | attached => exact hatt hq
  | square | kerb | tile => simpa [hq] using hmem
  | reg | resv => rfl

theorem State.rd_attached {s : State} {pa : Nat} (h : pKind pa = .attached) : s.rd pa = s.attRd pa := by
  simp [State.rd, h]

theorem State.attRd_inKeys {s : State} {pa : Nat} (h : s.inKeys pa = true) :
    s.attRd pa = spGet (s.keyInit pa) s.keyArr pa := by
  simp [State.attRd, h]

/-- Outside the key array and the valid entries of the directory, attached memory is plain. -/
theorem State.attRd_plain {s : State} {pa : Nat} (h : s.inKeys pa = false)
    (hs : ∀ i, s.dirSlot pa = some i → spGet? s.dir i = none) : s.attRd pa = memRd s.mem pa := by
  cases hi : s.dirSlot pa with
  | none => simp [State.attRd, h, hi]
  | some i => simp [State.attRd, h, hi, hs i hi]

theorem State.rd_tile {s : State} {pa n o : Nat} {k : StKind} (h : pKind pa = .tile n o k) :
    s.rd pa = memRd s.mem (tilePa n o) := by
  simp [State.rd, h]

theorem State.rd_tilePa (s : State) {pa n o : Nat} {k : StKind} (h : pKind pa = .tile n o k) :
    s.rd (tilePa n o) = memRd s.mem (tilePa n o) := by
  obtain ⟨hn, ho⟩ := pKind_tile_bounds h
  exact State.rd_tile (pKind_tilePa hn ho)

/-! ### What a write to attached memory does -/

theorem State.wr_attached {s : State} {pa : Nat} (b : Byte) (h : pKind pa = .attached) : s.wr pa b = s.attWr pa b := by
  simp [State.wr, h]

theorem State.attWr_inKeys {s : State} {pa : Nat} (b : Byte) (h : s.inKeys pa = true) :
    s.attWr pa b = { s with keyArr := cellPut (s.keyInit pa) s.keyArr pa b } := by
  simp [State.attWr, h]

theorem State.attWr_plain {s : State} {pa : Nat} (b : Byte) (h : s.inKeys pa = false) (hs : s.dirSlot pa = none) :
    s.attWr pa b = { s with mem := memWr s.mem pa b } := by
  simp [State.attWr, h, hs]

/-- The 32 bytes at `a` of the directory entry `i`: those it spells, or those that memory holds while its V is 0. -/
def State.entryBytes (s : State) (i a : Nat) : List Byte :=
  match spGet? s.dir i with
  | some d => d.image
  | none => (List.range 32).map (fun j => memRd s.mem (a + j))

theorem State.length_entryBytes (s : State) (i a : Nat) : (s.entryBytes i a).length = 32 := by
  unfold State.entryBytes
  split
  · exact DirEnt.length_image _
  · simp

/-- The 32 bytes of the directory entry `i` once the byte `b` has been written at `pa`. -/
def State.entryPatched (s : State) (i pa : Nat) (b : Byte) : List Byte :=
  patch (s.entryBytes i (pa / 32 * 32)) (pa % 32) [b]

theorem State.length_entryPatched (s : State) (i pa : Nat) (b : Byte) : (s.entryPatched i pa b).length = 32 := by
  have hlen := s.length_entryBytes i (pa / 32 * 32)
  rw [State.entryPatched, length_patch _ (by rw [hlen, List.length_singleton]; omega), hlen]

theorem State.byteAt_entryPatched (s : State) (i pa : Nat) (b : Byte) : byteAt (s.entryPatched i pa b) (pa % 32) = b :=
  byteAt_patch_self _ b (by rw [State.length_entryBytes]; omega)

/-- A byte written in a directory entry makes it what its bytes then spell, and clears the memory below it. -/
theorem State.attWr_entry_some {s : State} {pa i : Nat} {b : Byte} {d : DirEnt} (h : s.inKeys pa = false)
    (hs : s.dirSlot pa = some i) (hd : dirOfImage (s.entryPatched i pa b) = some d) :
    s.attWr pa b =
      { s with dir := spPut s.dir i d, mem := memPut s.mem (pa / 32 * 32) (List.replicate 32 memDefault) } := by
  generalize hz : List.replicate 32 memDefault = z
  simp only [State.attWr, h, hs, hz, Bool.false_eq_true, if_false]
  split
  · next d' hd' => cases hd.symm.trans hd'; rfl
  · next hd' => cases hd.symm.trans hd'

/-- Bytes that spell no entry stay in memory. -/
theorem State.attWr_entry_none {s : State} {pa i : Nat} {b : Byte} (h : s.inKeys pa = false)
    (hs : s.dirSlot pa = some i) (hd : dirOfImage (s.entryPatched i pa b) = none) :
    s.attWr pa b = { s with dir := spDel s.dir i, mem := memPut s.mem (pa / 32 * 32) (s.entryPatched i pa b) } := by
  generalize hz : List.replicate 32 memDefault = z
  simp only [State.attWr, h, hs, hz, Bool.false_eq_true, if_false]
  split
  · next d' hd' => cases hd.symm.trans hd'
  · rfl

/-- A byte written in a directory entry changes that entry and its 32 bytes of memory. -/
theorem State.attWr_entry {s : State} {pa i : Nat} (b : Byte) (h : s.inKeys pa = false) (hs : s.dirSlot pa = some i) :
    ∃ d l, l.length = 32 ∧ s.attWr pa b = { s with dir := d, mem := memPut s.mem (pa / 32 * 32) l }
      ∧ ∀ j, j ≠ i → spGet? d j = spGet? s.dir j := by
  cases hd : dirOfImage (s.entryPatched i pa b) with
  | some d =>
    exact ⟨_, _, List.length_replicate, State.attWr_entry_some h hs hd, fun j hj => spGet?_spPut_ne s.dir d hj⟩
  | none =>
    exact ⟨_, _, s.length_entryPatched i pa b, State.attWr_entry_none h hs hd, fun j hj => spGet?_spDel_ne s.dir hj⟩

/-- A byte written at a physical address keeps the key array in rising order. -/
theorem State.wr_keyArrWf {s : State} (h : Sparse.wf s.keyArr) (pa : Nat) (b : Byte) :
    Sparse.wf (s.wr pa b).keyArr := by
  unfold State.wr
  cases pKind pa with
  | attached =>
    cases hk : s.inKeys pa with
    | true => rw [State.attWr_inKeys b hk]; exact Sparse.wf_cellPut h _ _ _
    | false =>
      cases hs : s.dirSlot pa with
      | none => rw [State.attWr_plain b hk hs]; exact h
      | some i => obtain ⟨d, l, -, e, -⟩ := State.attWr_entry b hk hs; rw [e]; exact h
  | tile n o k => cases k <;> exact h
  | square | kerb | reg | resv => exact h

/-! ### Reads after a write that meets no directory entry -/

/-- A write that changes memory at one cell leaves every byte of another cell as it was. -/
theorem State.rd_memWr_ne {s t : State} (hwf : Memory.wf memDefault s.mem = true) {a q : Nat} {v : Byte}
    (hlay : t.layout = s.layout) (hkey : t.keyArr = s.keyArr) (hdir : t.dir = s.dir) (hmem : t.mem = memWr s.mem a v)
    (hq : cellOf q ≠ a) : t.rd q = s.rd q := by
  have hcell : memRd t.mem (cellOf q) = memRd s.mem (cellOf q) := by rw [hmem, memRd_memWr hwf, if_neg hq]
  refine State.rd_congr (fun hatt => ?_) (fun _ => hcell)
  rw [cellOf_attached hatt] at hcell
  exact State.attRd_congr hlay (fun _ => by rw [hkey]) (fun _ _ _ => by rw [hdir]) (fun _ => hcell)

/-- The bytes of every other cell read as before (R36, R74). -/
theorem State.rd_wr_ne {s : State} (hwf : Memory.wf memDefault s.mem = true) {pa q : Nat} (b : Byte)
    (hslot : pKind pa = .attached → s.inKeys pa = false → s.dirSlot pa = none) (hq : cellOf q ≠ cellOf pa) :
    (s.wr pa b).rd q = s.rd q := by
  cases hpa : pKind pa with
  | attached =>
    rw [cellOf_attached hpa] at hq
    rw [State.wr_attached b hpa]
    cases hk : s.inKeys pa with
    | true =>
      rw [State.attWr_inKeys b hk]
      refine State.rd_congr (fun hatt => ?_) (fun _ => rfl)
      rw [cellOf_attached hatt] at hq
      exact State.attRd_congr rfl (fun _ => spGet?_cellPut_ne _ _ _ hq) (fun _ _ _ => rfl) (fun _ => rfl)
    | false =>
      rw [State.attWr_plain b hk (hslot hpa hk)]
      exact State.rd_memWr_ne hwf rfl rfl rfl rfl hq
  | tile n o k =>
    rw [cellOf_tile hpa] at hq
    cases k <;> simp only [State.wr, hpa] <;> exact State.rd_memWr_ne hwf rfl rfl rfl rfl hq
  | square | kerb =>
    simp only [cellOf, hpa] at hq
    simp only [State.wr, hpa]
    exact State.rd_memWr_ne hwf rfl rfl rfl rfl hq
  | reg | resv => simp only [State.wr, hpa]

/-- A byte of attached memory outside the directory reads back. -/
theorem State.attRd_attWr {s : State} (hwf : Memory.wf memDefault s.mem = true) (hkeys : Sparse.wf s.keyArr) {pa : Nat}
    (b : Byte) (hslot : s.inKeys pa = false → s.dirSlot pa = none) : (s.attWr pa b).attRd pa = b := by
  cases hk : s.inKeys pa with
  | true =>
    rw [State.attWr_inKeys b hk, State.attRd_inKeys]
    · exact spGet_cellPut_self hkeys _ pa b
    · exact hk
  | false =>
    rw [State.attWr_plain b hk (hslot hk), State.attRd_plain]
    · exact (memRd_memWr hwf pa pa b).trans (if_pos rfl)
    · exact hk
    · exact fun i hi => nomatch (hslot hk).symm.trans hi

/-- A byte that a tile address stores: the byte written, or the plain byte with bits set or cleared (R74). -/
def StKind.stored (k : StKind) (old b : Byte) : Byte :=
  match k with | .plain => b | .set => old ||| b | .clr => old &&& ~~~ b

theorem State.wr_tile {s : State} {pa n o : Nat} {k : StKind} (b : Byte) (h : pKind pa = .tile n o k) :
    s.wr pa b = { s with mem := memWr s.mem (tilePa n o) (k.stored (memRd s.mem (tilePa n o)) b) } := by
  cases k <;> simp only [State.wr, h, StKind.stored]

/-- A tile address and its plain address both read what the write stored. -/
theorem State.rd_wr_tile {s : State} (hwf : Memory.wf memDefault s.mem = true) {pa n o : Nat} {k : StKind} (b : Byte)
    (h : pKind pa = .tile n o k) :
    (s.wr pa b).rd pa = k.stored (s.rd pa) b ∧ (s.wr pa b).rd (tilePa n o) = k.stored (s.rd (tilePa n o)) b := by
  have hrd : (s.wr pa b).rd pa = k.stored (s.rd pa) b := by
    rw [State.rd_tile h, State.rd_tile h, State.wr_tile b h]
    exact (memRd_memWr hwf _ _ _).trans (if_pos rfl)
  refine ⟨hrd, ?_⟩
  rwa [State.rd_tilePa _ h, State.rd_tilePa _ h, ← State.rd_tile h, ← State.rd_tile h]

/-! ### Reads after a write to the directory -/

theorem State.dirSlot_ne {s : State} {pa q i j : Nat} (hbase : s.layout.dirBase % 32 = 0) (hi : s.dirSlot pa = some i)
    (hj : s.dirSlot q = some j) (hq : q / 32 ≠ pa / 32) : j ≠ i := by
  unfold State.dirSlot at hi hj
  split at hi
  · next hpa =>
    split at hj
    · next hq' =>
      simp only [Option.some.injEq] at hi hj
      omega
    · cases hj
  · cases hi

/-- The bytes outside the entry read as before (R299). -/
theorem State.rd_wr_entry_ne {s : State} (hwf : Memory.wf memDefault s.mem = true) {pa q i : Nat} (b : Byte)
    (hatt : pKind pa = .attached) (hk : s.inKeys pa = false) (hs : s.dirSlot pa = some i)
    (hbase : s.layout.dirBase % 32 = 0) (hq : q / 32 ≠ pa / 32) : (s.wr pa b).rd q = s.rd q := by
  obtain ⟨d, l, hlen, e, hne⟩ := State.attWr_entry b hk hs
  rw [State.wr_attached b hatt, e]
  have hout : ∀ a, a / 32 ≠ pa / 32 → memRd (memPut s.mem (pa / 32 * 32) l) a = memRd s.mem a := by
    intro a ha
    rw [memRd_memPut hwf, if_neg (by omega)]
  refine State.rd_congr (fun hqa => ?_) (fun hqa => hout _ ?_)
  · exact State.attRd_congr rfl (fun _ => rfl) (fun _ j hj => hne j (State.dirSlot_ne hbase hs hj hq)) (fun _ => hout q hq)
  · have hlo := sqBase_le_cellOf hqa
    have hhi := pKind_attached.1 hatt
    simp only [sqBase] at hlo hhi
    omega

/-- The entry is what its 32 bytes then spell (R299). -/
theorem State.dir_wr_entry {s : State} {pa i : Nat} (b : Byte) (hatt : pKind pa = .attached) (hk : s.inKeys pa = false)
    (hs : s.dirSlot pa = some i) (hdir : Sparse.wf s.dir) :
    spGet? (s.wr pa b).dir i = dirOfImage (s.entryPatched i pa b) := by
  rw [State.wr_attached b hatt]
  cases hd : dirOfImage (s.entryPatched i pa b) with
  | some d => rw [State.attWr_entry_some hk hs hd]; exact spGet?_spPut_self s.dir i d
  | none => rw [State.attWr_entry_none hk hs hd]; exact spGet?_spDel_self hdir i

/-- A byte of an entry that is not valid reads back. -/
theorem State.rd_wr_entry_self {s : State} (hwf : Memory.wf memDefault s.mem = true) {pa i : Nat} {b : Byte}
    (hatt : pKind pa = .attached) (hk : s.inKeys pa = false) (hs : s.dirSlot pa = some i) (hdir : Sparse.wf s.dir)
    (hd : dirOfImage (s.entryPatched i pa b) = none) : (s.wr pa b).rd pa = b := by
  have hdel : ∀ j, s.dirSlot pa = some j → spGet? (spDel s.dir i) j = none := by
    intro j hj
    cases hs.symm.trans hj
    exact spGet?_spDel_self hdir i
  rw [State.rd_attached hatt, State.wr_attached b hatt, State.attWr_entry_none hk hs hd, State.attRd_plain]
  · rw [memRd_memPut hwf, State.length_entryPatched, if_pos (by omega), show pa - pa / 32 * 32 = pa % 32 by omega]
    exact s.byteAt_entryPatched i pa b
  · exact hk
  · exact hdel

/-! ### O29 -/

/-- Settles O29: memory and the key array stay canonical; outside the directory a write is a write of one cell; a
byte of the directory rewrites its entry. -/
theorem memoryBytes : Obligations.MemoryBytes := by
  unfold Obligations.MemoryBytes
  intro s pa b cell slot hwf hkeys
  have hcell : cell = cellOf := rfl
  refine ⟨State.wr_memWf hwf pa b, State.wr_keyArrWf hkeys pa b, fun hslot => ?_, fun i hslot hbase hdir => ?_⟩
  · have hplain : pKind pa = .attached → s.inKeys pa = false → s.dirSlot pa = none := by
      intro hatt hk
      simpa [slot, hatt, hk] using hslot
    refine ⟨fun q hq => State.rd_wr_ne hwf b hplain (by simpa only [hcell] using hq), ?_⟩
    cases hpa : pKind pa with
    | attached =>
      have h := State.attRd_attWr hwf hkeys b (hplain hpa)
      rwa [← State.wr_attached b hpa, ← State.rd_attached hpa] at h
    | square | kerb => simp only [State.wr, State.rd, hpa]; exact (memRd_memWr hwf pa pa b).trans (if_pos rfl)
    | tile n o k =>
      have h := State.rd_wr_tile hwf b hpa
      cases k with
      | plain => exact h.1
      | set | clr => exact h
    | reg | resv => simp [State.wr, State.rd, hpa]
  · have ⟨hatt, hk, hs⟩ : pKind pa = .attached ∧ s.inKeys pa = false ∧ s.dirSlot pa = some i := by
      by_cases hp : pKind pa = .attached ∧ s.inKeys pa = false
      · exact ⟨hp.1, hp.2, by simpa only [slot, if_pos hp] using hslot⟩
      · simp [slot, hp] at hslot
    exact ⟨fun q hq => State.rd_wr_entry_ne hwf b hatt hk hs hbase hq, State.dir_wr_entry b hatt hk hs hdir,
      State.rd_wr_entry_self hwf hatt hk hs hdir⟩

end Sys2Proof.Machine

/-! PROOFS. Square clocks (01 R31, 16 R444), and the commands that test and calibrate (13 R378; 17 R467, R474, R475,
R491; 11 R320). Settles O47. -/

namespace Sys2Proof.Machine

/-! ### What a row does with the command that it names -/

/-- The row acts on the command when its effect leaves the command started, or completed. -/
theorem State.onCmd_of_started {s0 s : State} {r : CmdRef} {op : Nat} {c : Cmd} {f : Cmd → State → State}
    (hc : s0.cmd? r (fun o => o == op) = some c) (hb : s0.begin? c = some s) (hs : (f c s).unstarted c = false) :
    s0.onCmd r op f = f c s := by
  simp [State.onCmd, State.onCmdIf, hc, hb, hs]

@[simp] theorem State.qp?_setQp_self (s : State) (t q : Nat) (x : QPair) : (s.setQp t q x).qp? t q = some x := by
  simp [State.qp?, State.setQp, State.setTenancy, State.tenancy]

theorem State.qp?_congr {s u : State} (h : u.tenancies = s.tenancies) (t q : Nat) : u.qp? t q = s.qp? t q := by
  simp [State.qp?, State.tenancy, h]

/-- A vector raised changes the vectors alone. -/
theorem State.msixOf_eq (s : State) (t : Nat) (x : QPair) : ∃ m, s.msixOf t x = { s with msix := m } := by
  unfold State.msixOf
  split <;> exact ⟨_, rfl⟩

@[simp] theorem State.msixOf_tenancies (s : State) (t : Nat) (x : QPair) : (s.msixOf t x).tenancies = s.tenancies := by
  obtain ⟨_, h⟩ := s.msixOf_eq t x; rw [h]

theorem State.qp?_ite_msixOf (s : State) (p : Prop) [Decidable p] (t q : Nat) (x : QPair) :
    (if p then s.msixOf t x else s).qp? t q = s.qp? t q := by
  split
  · exact State.qp?_congr (s.msixOf_tenancies t x) t q
  · rfl

@[simp] theorem State.msixOf_squares (s : State) (t : Nat) (x : QPair) : (s.msixOf t x).squares = s.squares := by
  obtain ⟨_, h⟩ := s.msixOf_eq t x; rw [h]

@[simp] theorem State.ghostDone_squares (s : State) (t q : Nat) (e : Fetched) : (s.ghostDone t q e).squares = s.squares := by
  unfold State.ghostDone
  dsimp only
  split <;> rfl

@[simp] theorem State.qp?_ghostDone (s : State) (t q : Nat) (e : Fetched) : (s.ghostDone t q e).qp? t q = s.qp? t q := by
  unfold State.ghostDone
  dsimp only
  split
  · simp [State.qp?, State.setTenancy, State.tenancy]
  · rfl

@[simp] theorem State.complete_squares (s : State) (t q : Nat) (e : Fetched) (a : Ans) :
    (s.complete t q e a).squares = s.squares := by
  simp only [State.complete]
  repeat' split
  all_goals simp

theorem QPair.drained_fetched (x : QPair) : x.drained.fetched = x.fetched := by
  unfold QPair.drained
  split <;> rfl

/-- No command of the queue pair has the number of one that is complete. -/
theorem State.complete_fetched {s : State} {t q : Nat} {e : Fetched} {a : Ans} {x : QPair}
    (h : (s.complete t q e a).qp? t q = some x) : ∀ y ∈ x.fetched, y.seq ≠ e.seq := by
  cases hx : s.qp? t q with
  | none => simp [State.complete, hx] at h
  | some x0 =>
    simp only [State.complete, hx] at h
    split at h
    · next hno =>
      rw [State.qp?_ghostDone, hx] at h
      cases h
      simpa using hno
    · have hleft : ∀ y ∈ x0.fetched.filter (fun y => y.seq != e.seq), y.seq ≠ e.seq := by simp
      split at h
      · rw [State.qp?_setQp_self] at h
        cases h
        exact hleft
      · rw [State.qp?_ite_msixOf, State.qp?_setQp_self] at h
        cases h
        rwa [QPair.drained_fetched]

/-- A command that is complete is none that has not started. -/
theorem State.ends_unstarted (s : State) (c : Cmd) (a : Ans) : (s.ends c a).unstarted c = false := by
  unfold State.unstarted
  cases hx : (s.ends c a).qp? c.t c.q with
  | none => rfl
  | some x =>
    have hne := State.complete_fetched hx
    simp only [List.any_eq_false, Bool.and_eq_true, beq_iff_eq, not_and]
    exact fun y hy hseq => absurd hseq (hne y hy)

/-- A command whose progress is recorded has started. -/
theorem State.progress_unstarted (s : State) (c : Cmd) {p : Prog} (hp : p ≠ .none) :
    (s.progress c p).unstarted c = false := by
  unfold State.unstarted State.progress State.setProg
  dsimp only
  split
  · next x hx =>
    split at hx
    · next hnone => rw [hnone] at hx; cases hx
    · rw [State.qp?_setQp_self] at hx
      cases hx
      simp only [List.any_map, List.any_eq_false, Function.comp_apply, Bool.and_eq_true, beq_iff_eq, not_and]
      intro y _ hseq
      split at hseq
      · next h => simpa [h] using hp
      · next h => exact absurd hseq h
  · rfl

/-! ### Squares after an error that is device fatal (R414) -/

theorem foldl_keeps {σ α β : Type} (g : σ → β) {f : σ → α → σ} (h : ∀ s a, g (f s a) = g s) (l : List α) (s : σ) :
    g (l.foldl f s) = g s := by
  induction l generalizing s with
  | nil => rfl
  | cons a r ih => rw [List.foldl_cons, ih, h]

@[simp] theorem State.square_setSquare_self (s : State) (q : Nat) (x : Square) : (s.setSquare q x).square q = x := by
  simp [State.square, State.setSquare]

theorem State.square_setSquare_ne (s : State) {q i : Nat} (x : Square) (h : i ≠ q) :
    (s.setSquare q x).square i = s.square i := by
  simp [State.square, State.setSquare, spGet_spPut_ne, h]

/-- Each square of a list changed once. -/
theorem State.square_foldl_setSquare (f : Square → Square) {l : List Nat} (hl : l.Nodup) (s : State) (i : Nat) :
    (l.foldl (fun s q => s.setSquare q (f (s.square q))) s).square i = if i ∈ l then f (s.square i) else s.square i := by
  induction l generalizing s with
  | nil => rfl
  | cons q r ih =>
    obtain ⟨hq, hr⟩ := List.nodup_cons.1 hl
    rw [List.foldl_cons, ih hr]
    by_cases hi : i = q
    · subst hi; simp [hq]
    · simp [hi, State.square_setSquare_ne]

@[simp] theorem State.setDoubt_squares (s : State) (k : RecKey) : (s.setDoubt k).squares = s.squares := by
  unfold State.setDoubt State.dirSet
  split <;> rfl

@[simp] theorem State.failFetched_squares (s : State) (t q : Nat) : (s.failFetched t q).squares = s.squares := by
  unfold State.failFetched
  split
  · rfl
  · exact foldl_keeps State.squares (fun s e => s.complete_squares t q e _) _ _

@[simp] theorem State.vectorsRaised_squares (s : State) : s.vectorsRaised.squares = s.squares := by
  refine foldl_keeps State.squares (fun s t => foldl_keeps State.squares (fun s q => ?_) _ _) _ _
  split
  · rfl
  · exact s.msixOf_squares _ _

theorem State.square_congr {s t : State} (h : t.squares = s.squares) (q : Nat) : t.square q = s.square q := by
  simp [State.square, h]

theorem State.square_foldl {α : Type} {f : State → α → State} (h : ∀ s a, (f s a).squares = s.squares) (l : List α)
    (s : State) (q : Nat) : (l.foldl f s).square q = s.square q :=
  State.square_congr (foldl_keeps State.squares h l s) q

theorem State.allFaulted_square (s : State) {q : Nat} (hq : q < 4) :
    s.allFaulted.square q = { s.square q with st := .faulted, group := .faulted } := by
  have hs2 := State.square_foldl_setSquare (fun x => { x with st := .faulted, group := .faulted })
    (List.nodup_range (n := 4))
  unfold State.allFaulted
  dsimp only
  rw [State.square_foldl, State.square_foldl, State.square_foldl, hs2, if_pos (List.mem_range.2 hq), State.square_foldl,
    State.square_congr (s := s)]
  · exact s.vectorsRaised_squares
  all_goals exact fun _ _ => rfl

/-- Every fetched command of the device completed with DEVICE_FAULT (R414, step 1). -/
def State.failAll (s : State) : State :=
  s.tenancies.foldl (fun s x => x.2.qps.foldl (fun s y => s.failFetched x.1 y.1) s) s

/-- Every record with a delivered posting that is not answered in doubt (R414, step 3). -/
def State.doubtDelivered (s : State) : State :=
  s.deliveries.foldl (fun s d => if d.post.isSome then s.setDoubt d.key else s) s

/-- Every record with a posting in its forward queue in doubt (R414, step 3). -/
def State.doubtQueued (s : State) : State := s.fwdq.foldl (fun s p => s.setDoubt p.key) s

theorem State.failAll_squares (s : State) : s.failAll.squares = s.squares := by
  refine foldl_keeps State.squares (fun s x => ?_) s.tenancies s
  exact foldl_keeps State.squares (fun s y => s.failFetched_squares _ _) x.2.qps s

theorem State.doubtDelivered_squares (s : State) : s.doubtDelivered.squares = s.squares := by
  refine foldl_keeps State.squares (fun s d => ?_) s.deliveries s
  split
  · exact s.setDoubt_squares d.key
  · rfl

theorem State.doubtQueued_squares (s : State) : s.doubtQueued.squares = s.squares := by
  refine foldl_keeps State.squares (fun s p => ?_) s.fwdq s
  exact s.setDoubt_squares _

theorem State.deviceFatal_eq {s : State} (h : s.fatal = false) :
    s.deviceFatal = { s.failAll.doubtDelivered.doubtQueued.allFaulted with fatal := true } := by
  unfold State.deviceFatal
  rw [if_neg (by simp [h])]
  rfl

theorem State.deviceFatal_fatal {s : State} (h : s.fatal = false) : s.deviceFatal.fatal = true := by
  rw [State.deviceFatal_eq h]

/-- A device-fatal error leaves every square FAULTED, as it was but for that. -/
theorem State.deviceFatal_square {s : State} (h : s.fatal = false) {q : Nat} (hq : q < 4) :
    s.deviceFatal.square q = { s.square q with st := .faulted, group := .faulted } := by
  have hkeep : s.failAll.doubtDelivered.doubtQueued.squares = s.squares := by
    rw [State.doubtQueued_squares, State.doubtDelivered_squares, State.failAll_squares]
  have hall := State.allFaulted_square s.failAll.doubtDelivered.doubtQueued hq
  rw [State.square_congr hkeep] at hall
  rw [State.deviceFatal_eq h]
  generalize s.failAll.doubtDelivered.doubtQueued.allFaulted = t at hall ⊢
  exact hall

/-- A log entry changes memory, where the log lies, with what reports it. -/
theorem State.logEntry_eq (s : State) (sev : BitVec 2) (time action aten : Nat) (words : List Nat) :
    ∃ m ks d q n fl a al mg, s.logEntry sev time action aten words =
      { s with mem := m, keyArr := ks, dir := d, kerb := q, lseq := n, flash := fl, aer := a, aerLast := al, mgmt := mg } := by
  obtain ⟨m, ks, d, q, h⟩ :=
    s.wrN_eq (logBase + s.lseq % 16384 * 64) (logBytes s.lseq time 0 action aten words)
  simp only [State.logEntry, State.logWrite, h, State.aerNote, State.alertOn]
  repeat' split
  all_goals exact ⟨_, _, _, _, _, _, _, _, _, rfl⟩

@[simp] theorem State.logEntry_fatal (s : State) (sev : BitVec 2) (time action aten : Nat) (words : List Nat) :
    (s.logEntry sev time action aten words).fatal = s.fatal := by
  obtain ⟨_, _, _, _, _, _, _, _, _, e⟩ := s.logEntry_eq sev time action aten words; rw [e]

@[simp] theorem State.logEntry_squares (s : State) (sev : BitVec 2) (time action aten : Nat) (words : List Nat) :
    (s.logEntry sev time action aten words).squares = s.squares := by
  obtain ⟨_, _, _, _, _, _, _, _, _, e⟩ := s.logEntry_eq sev time action aten words; rw [e]

theorem State.fatalOpen_fatal (s : State) : s.fatalOpen.fatal = true := by
  cases h : s.fatal with
  | true => simp [State.fatalOpen, h]
  | false => simp [State.fatalOpen, h, State.logOpen, State.deviceFatal_fatal h]

theorem State.fatalOpen_square {s : State} (h : s.fatal = false) {q : Nat} (hq : q < 4) :
    s.fatalOpen.square q = { s.square q with st := .faulted, group := .faulted } := by
  rw [← State.deviceFatal_square h hq]
  simp [State.fatalOpen, h, State.logOpen, State.square]

/-! ### Square clocks (R31, R444) -/

theorem squarePllLock_relock {s : State} {sq : Fin 4} {old : Nat} (h : (s.square sq.val).relock = some old) :
    exec (.squarePllLock sq) s = .next (s.setSquare sq.val { s.square sq.val with relock := none }) := by
  simp [execSquarePllLock, h]

theorem squarePllLock_idle {s : State} {sq : Fin 4} (h : (s.square sq.val).relock = none) :
    exec (.squarePllLock sq) s = .next s := by
  simp [execSquarePllLock, h]

/-- A square whose PLL does not lock: the earlier frequency, and FAULTED. -/
def Square.lockFailed (x : Square) (old : Nat) : Square := { x with relock := none, eclk := old, st := .faulted }

theorem pllLockTimeout_relock {s : State} {sq : Fin 4} {old : Nat} (h : (s.square sq.val).relock = some old) (ok : Bool) :
    exec (.pllLockTimeout sq ok) s = .next
      (let t : State := s.setSquare sq.val ((s.square sq.val).lockFailed old)
       if ok then t else t.fatalOpen) := by
  cases ok <;> simp [execPllLockTimeout, h, Square.lockFailed]

theorem pllLockTimeout_idle {s : State} {sq : Fin 4} (h : (s.square sq.val).relock = none) (ok : Bool) :
    exec (.pllLockTimeout sq ok) s = .next s := by
  simp [execPllLockTimeout, h]

/-- When the earlier frequency cannot be locked either, the device is fatal and the square as it was left. -/
theorem pllLockTimeout_fatal {s : State} {sq : Fin 4} {old : Nat} (h : (s.square sq.val).relock = some old)
    (hf : s.fatal = false) :
    ∃ t : State, exec (.pllLockTimeout sq false) s = .next t ∧ t.fatal = true ∧ (t.square sq.val).eclk = old
      ∧ (t.square sq.val).st = .faulted := by
  refine ⟨_, pllLockTimeout_relock h false, State.fatalOpen_fatal _, ?_⟩
  dsimp only
  have hf' : (s.setSquare sq.val ((s.square sq.val).lockFailed old)).fatal = false := hf
  rw [if_neg (by decide), State.fatalOpen_square hf' sq.isLt, State.square_setSquare_self]
  exact ⟨rfl, rfl⟩

theorem pllLockLoss_serving {s : State} {sq : Fin 4}
    (h : (s.square sq.val).st = .running ∨ (s.square sq.val).st = .draining) :
    exec (.pllLockLoss sq) s = .next (s.setSquare sq.val { s.square sq.val with st := .faulted }) := by
  simp [execPllLockLoss, h]

theorem pllLockLoss_idle {s : State} {sq : Fin 4}
    (h : (s.square sq.val).st = .stopped ∨ (s.square sq.val).st = .faulted) : exec (.pllLockLoss sq) s = .next s := by
  have hno : ¬((s.square sq.val).st = .running ∨ (s.square sq.val).st = .draining) := by
    rcases h with h | h <;> simp [h]
  simp [execPllLockLoss, hno]

/-- No engine of a square issues instructions while its PLL locks again (R31). -/
theorem runs_relock {s : State} {n : Fin 128} {old : Nat} (h : (s.square (n.val / 32)).relock = some old) :
    s.runs (.eng n) = false := by
  simp [State.runs, h]

/-! ### SELFTEST (R378, R474) -/

/-- A row names the command `c`, which has begun nothing yet but may have waited for its turn; `s` is the state once
its share of the round is taken (R339, R352, R374). -/
structure Begun (s0 : State) (r : CmdRef) (op : Nat) (c : Cmd) (s : State) : Prop where
  cmd : s0.cmd? r (fun o => o == op) = some c
  share : s0.begin? c = some s
  prog : c.e.prog = .none ∨ ∃ n, c.e.prog = .queued n

/-- SELFTEST of the function that it names, once its checks have passed and no other command holds the function. -/
def State.selftestOf (s : State) (c : Cmd) (k : TestFacts) : State :=
  match test76 s c.fid with
  | some a => s.ends c a
  | none =>
    if c.fid.1 = 3 then s.testStreet c c.fid.2 k
    else if c.fid.1 = 4 then s.testSquare c c.fid.2 0 k
    else s.testPort c c.fid.2 k

theorem State.testStreet_unstarted (s : State) (c : Cmd) (g : Nat) (k : TestFacts) :
    (s.testStreet c g k).unstarted c = false := by
  unfold State.testStreet
  split
  · exact State.ends_unstarted _ c _
  · exact State.progress_unstarted _ c (by simp)

theorem State.testSquare_unstarted (s : State) (c : Cmd) (q i : Nat) (k : TestFacts) :
    (s.testSquare c q i k).unstarted c = false := by
  unfold State.testSquare
  dsimp only
  split
  · split
    · exact State.ends_unstarted _ c _
    · exact State.progress_unstarted _ c (by simp)
  · exact State.progress_unstarted _ c (by simp)

theorem State.testPort_unstarted (s : State) (c : Cmd) (p : Nat) (k : TestFacts) :
    (s.testPort c p k).unstarted c = false := by
  unfold State.testPort
  repeat' split
  all_goals exact State.ends_unstarted _ c _

theorem State.selftestOf_unstarted (s : State) (c : Cmd) (k : TestFacts) : (s.selftestOf c k).unstarted c = false := by
  unfold State.selftestOf
  split
  · exact State.ends_unstarted _ c _
  · split
    · exact State.testStreet_unstarted s c _ k
    · split
      · exact State.testSquare_unstarted s c _ _ k
      · exact State.testPort_unstarted s c _ k

theorem selftest_begun {s0 s : State} {r : CmdRef} {c : Cmd} {k : TestFacts} (h : Begun s0 r 0x60 c s)
    (h71 : reserved71 c (namedBytes [(8, 1), (10, 3)]) = none) (h72 : issuer72 s c = none) (h73 : ptrs73 c 0 0 = none)
    (hfn : s.noFn c.fid = false) (hty : c.fid.1 = 3 ∨ c.fid.1 = 4 ∨ c.fid.1 = 5) (hmode : c.le 12 1 ≤ 1)
    (hheld : s.heldFn c c.fid = false) : exec (.selftest r k) s0 = .next (s.selftestOf c k) := by
  have hpass : firstOf
      [reserved71 c (namedBytes [(8, 1), (10, 3)]), issuer72 s c, ptrs73 c 0 0, unless_ (!s.noFn c.fid) 0x1010 0,
       unless_ (c.fid.1 == 3 || c.fid.1 == 4 || c.fid.1 == 5) 0x100A 8, unless_ (decide (c.le 12 1 ≤ 1)) 0x100A 12]
      = none := by
    have hty' : (c.fid.1 == 3 || c.fid.1 == 4 || c.fid.1 == 5) = true := by simpa [or_assoc] using hty
    simp [firstOf, unless_, h71, h72, h73, hfn, hty', hmode]
  rw [exec_selftest, execSelftest, State.onCmd_of_started h.cmd h.share]
  · rcases h.prog with hp | ⟨n, hp⟩ <;> simp only [hp, hpass, hheld] <;> rfl
  · rcases h.prog with hp | ⟨n, hp⟩ <;> simp only [hp, hpass, hheld] <;> exact State.selftestOf_unstarted s c k

/-! The states of a street, a square and a port. -/

theorem State.fst_street (s : State) {f : Fid} (h : f.1 = 3) : s.fst f = (s.street f.2).st := by simp [State.fst, h]

theorem State.fst_port (s : State) {f : Fid} (h : f.1 = 5) : s.fst f = (s.memPort f.2).st := by simp [State.fst, h]

theorem State.street_lt {s : State} {f : Fid} (h : f.1 = 3) (hfn : s.noFn f = false) : f.2 < 16 := by
  simp only [State.noFn, h, decide_eq_false_iff_not] at hfn
  omega

theorem State.selftestOf_faulted {s : State} {c : Cmd} {k : TestFacts} (hty : c.fid.1 = 3 ∨ c.fid.1 = 4)
    (hst : s.fst c.fid = .faulted) : s.selftestOf c k = s.ends c (Ans.of 0x2006) := by
  have hne : c.fid.1 ≠ 5 := by omega
  simp [State.selftestOf, test76, hne, hst, deny, Ans.of]

theorem State.selftestOf_street {s : State} {c : Cmd} {k : TestFacts} (hty : c.fid.1 = 3)
    (hst : s.fst c.fid = .stopped ∨ s.fst c.fid = .running) : s.selftestOf c k = s.testStreet c c.fid.2 k := by
  rcases hst with hst | hst <;> simp [State.selftestOf, test76, hty, hst]

theorem State.selftestOf_port {s : State} {c : Cmd} {k : TestFacts} (hty : c.fid.1 = 5) :
    s.selftestOf c k = s.testPort c c.fid.2 k := by
  simp [State.selftestOf, test76, hty]

/-- A STOPPED street is tested at once: it stays STOPPED, or goes FAULTED. -/
theorem State.testStreet_stopped {s : State} {g : Nat} (c : Cmd) (k : TestFacts) (h : (s.street g).st = .stopped) :
    s.testStreet c g k =
      (if k.ok then s else (s.setStreet g { s.street g with st := .faulted, evac := false }).nextEvac).ends c (testAns k) := by
  have hdue : s.testDue g = true := by simp [State.testDue, h]
  cases hk : k.ok <;> simp [State.testStreet, State.streetTested, hdue, h, hk]

/-- A RUNNING street is to be evacuated before its test. -/
theorem State.testStreet_running {s : State} {g : Nat} (c : Cmd) (k : TestFacts) (h : (s.street g).st = .running) :
    s.testStreet c g k = (s.evacuate g).progress c (.wait 0) := by
  simp [State.testStreet, State.testDue, h]

theorem State.evacBusy_false {s : State} : s.evacBusy = false ↔ ∀ g < 16, (s.street g).evac = false := by
  simp [State.evacBusy]

/-- With no street under evacuation, the evacuation begins (R320). -/
theorem State.evacuate_free {s : State} {g : Nat} (hg : g < 16) (h : (s.street g).st = .running)
    (hfree : ∀ i < 16, (s.street i).evac = false) :
    s.evacuate g =
      (s.setStreet g { s.street g with st := .draining, evac := true, evacDue := false }).raise (300 + g) := by
  simp [State.evacuate, State.evacBegins, hfree g hg, h, State.evacBusy_false.2 hfree]

/-- While another street is under evacuation, the street is due for its own (R320). -/
theorem State.evacuate_busy {s : State} {g : Nat} (hno : (s.street g).evac = false)
    (hbusy : ∃ i < 16, (s.street i).evac = true) :
    s.evacuate g = s.setStreet g { s.street g with evacDue := true } := by
  have hb : s.evacBusy = true := by simpa [State.evacBusy] using hbusy
  simp [State.evacuate, hno, hb]

/-! ### Calibration (R467, R478) -/

/-- A calibration pass that nothing else awaits: it counts, the lanes are handed back, and its temperature is kept. -/
theorem Calib.passed_once {x : Calib} {live : Bool} (u : Nat) (t : Byte) (hstop : x.stopped = false) (hag : x.again = false)
    (hlive : live = false ∨ x.passing = false) :
    (x.passed u t live).passes = min (x.passes + 1) 0xFFFF ∧ (x.passed u t live).lane = 0x7F
      ∧ (x.passed u t live).detour = false ∧ (x.passed u t live).tlast = t := by
  have hone : (live && x.passing) = false := by rcases hlive with h | h <;> simp [h]
  simp [Calib.passed, Calib.passEnds, Calib.next, hstop, hag, hone]

theorem MemPort.tempPick_eq (x : MemPort) (second : Bool) : x.tempPick second = x.temp0 ∨ x.tempPick second = x.temp1 := by
  unfold MemPort.tempPick
  split
  · exact .inr rfl
  · exact .inl rfl

theorem State.calibrated_cal (s : State) (live : Bool) (p : Nat) (u : Fin 2) :
    ((s.calibrated live p).memPort p).cal.get u =
      ((s.memPort p).cal.get u).passed u.val ((s.memPort p).tempPick (Config.openChoice s.free)) live := by
  have hport : (s.calibrated live p).memPort p = _ := spGet_spPut_self _ _ _ _
  rw [hport]
  match u with
  | 0 => rfl
  | 1 => rfl

/-- CALIBRATE of a port, once its checks have passed and no other command holds it. -/
theorem calibrate_begun {s0 s : State} {r : CmdRef} {c : Cmd} {k : TestFacts} (h : Begun s0 r 0x61 c s)
    (h71 : reserved71 c (namedBytes [(8, 1), (10, 2)]) = none) (h72 : issuer72 s c = none) (h73 : ptrs73 c 0 0 = none)
    (hfn : s.noFn c.fid = false) (hheld : s.heldFn c c.fid = false) (hty : c.fid.1 = 5) (hst : s.fst c.fid ≠ .faulted) :
    exec (.calibrate r k) s0 = .next
      (if k.ok then (s.calibrated false c.fid.2).ends c { Ans.of 0 with res0 := s.calLanes [c.fid.2] }
       else (s.portFails c.fid.2 5).ends c { testAns k with res1 := 0 }) := by
  have hpass : firstOf
      [reserved71 c (namedBytes [(8, 1), (10, 2)]), issuer72 s c, ptrs73 c 0 0, unless_ (!s.noFn c.fid) 0x1010 0,
       unless_ (c.fid.1 == 0 || c.fid.1 == 5) 0x100A 8] = none := by
    simp [firstOf, unless_, h71, h72, h73, hfn, hty]
  rw [exec_calibrate, execCalibrate, State.onCmd_of_started h.cmd h.share]
  · simp only [hpass, hheld]
    cases hk : k.ok <;> simp [hty, hst]
  · simp only [hpass, hheld]
    cases hk : k.ok <;> simp [hty, hst, State.ends_unstarted]

/-! ### LINK_TEST (R378, R475, R491) -/

/-- LINK_TEST of a STOPPED memory port whose pattern generator the management interface does not run. -/
theorem linkTest_begun {s0 s : State} {r : CmdRef} {c : Cmd} {lanes : List LaneResult} (h : Begun s0 r 0x62 c s)
    (h71 : reserved71 c (linkNamed false) = none) (h72 : issuer72 s c = none) (h73 : ptrs73 c 1 0 = none)
    (hfn : s.noFn c.fid = false) (hty : c.fid.1 = 5) (hpat : c.le 12 1 = 8 ∨ c.le 12 1 = 9) (hlo : 1 ≤ c.le 24 4)
    (hhi : c.le 24 4 ≤ 10000000) (hheld : s.heldFn c c.fid = false) (hst : s.fst c.fid = .stopped)
    (hpg : ((s.memPort c.fid.2).pg.pgctl.getLsbD 4 && (s.memPort c.fid.2).pg.byMgmt) = false) :
    let ls : List LaneResult := (testLanes false (c.le 16 8)).map (laneOf lanes)
    exec (.linkTest r lanes) s0 = .next
      (((s.setMemPort c.fid.2 { s.memPort c.fid.2 with
          pg := pgTested false (s.memPort c.fid.2).pg (c.le 12 1) (c.le 28 5) ls }).replies c c.ptr0 (ls.flatMap laneBytes)).ends c
        { Ans.of 0 with res0 := (ls.filter (fun x => !x.lock || x.errors != 0)).length }) := by
  intro ls
  have hpass : firstOf
      [reserved71 c (linkNamed false), issuer72 s c, ptrs73 c 1 0, unless_ (!s.noFn c.fid) 0x1010 0,
       unless_ (c.fid.1 == 5 || false) 0x100A 8, unless_ (c.le 12 1 == 8 || c.le 12 1 == 9) 0x100A 12,
       unless_ (decide (1 ≤ c.le 24 4) && decide (c.le 24 4 ≤ 10000000)) 0x100A 24] = none := by
    rcases hpat with hpat | hpat <;> simp [firstOf, unless_, h71, h72, h73, hfn, hty, hpat, hlo, hhi]
  have hhost : (c.fid.1 == 8) = false := by rw [hty]; rfl
  rw [exec_linkTest, execLinkTest, State.onCmd_of_started h.cmd h.share]
  · simp only [hhost, Bool.false_eq_true, if_false, hpass, hheld, hst, hpg, ne_eq, not_true_eq_false]
    rfl
  · simp only [hhost, Bool.false_eq_true, if_false, hpass, hheld, hst, hpg, ne_eq, not_true_eq_false]
    exact State.ends_unstarted _ c _

/-! ### O47 -/

/-- Settles O47: square clocks by the relock that is under way; SELFTEST, CALIBRATE and LINK_TEST past their checks,
by the kind of the function and its state. -/
theorem clocksAndTests : Obligations.ClocksAndTests := by
  unfold Obligations.ClocksAndTests
  refine ⟨fun sq s => ⟨fun _ h => ⟨squarePllLock_relock h, pllLockTimeout_relock h true, pllLockTimeout_fatal h⟩,
    fun h => ⟨squarePllLock_idle h, pllLockTimeout_idle h true⟩, pllLockLoss_serving, pllLockLoss_idle,
    fun _ _ hn h => runs_relock (hn ▸ h)⟩, ?_⟩
  intro r k lanes s0 s c is f a
  refine ⟨?_, ?_, ?_, ?_⟩
  · intro ⟨hcmd, hshare, hprog⟩ h71 h72 h73 hfn hmode hheld
    have hans : a = testAns k := by cases hk : k.ok <;> simp [a, testAns, hk]
    have hrun := fun hty => selftest_begun (k := k) ⟨hcmd, hshare, hprog⟩ h71 h72 h73 hfn hty hmode hheld
    rw [hans]
    refine ⟨fun hty hst hk => ?_, fun hty hst hk => ?_, fun hty hst hfree => ?_, fun hty hst hno hbusy => ?_,
      fun hty hst => ?_, fun hty hm hk => ?_, fun hty hm hst => ?_⟩
    · rw [hrun (.inl hty), State.selftestOf_street hty (.inl hst),
        State.testStreet_stopped c k (s.fst_street hty ▸ hst), if_pos hk]
    · rw [hrun (.inl hty), State.selftestOf_street hty (.inl hst),
        State.testStreet_stopped c k (s.fst_street hty ▸ hst), hk]
      rfl
    · have hst' : (s.street f.2).st = .running := s.fst_street hty ▸ hst
      rw [hrun (.inl hty), State.selftestOf_street hty (.inr hst), State.testStreet_running c k hst',
        State.evacuate_free (State.street_lt hty hfn) hst' hfree]
    · rw [hrun (.inl hty), State.selftestOf_street hty (.inr hst),
        State.testStreet_running c k (s.fst_street hty ▸ hst), State.evacuate_busy hno hbusy]
    · rw [hrun (hty.imp_right .inl), State.selftestOf_faulted hty hst]
    · rw [hrun (.inr (.inr hty)), State.selftestOf_port hty]
      simp [State.testPort, hm, hk, f]
    · rw [State.fst_port s hty] at hst
      rw [hrun (.inr (.inr hty)), State.selftestOf_port hty]
      simp [State.testPort, hm, hst, f]
  · intro ⟨hcmd, hshare, hprog⟩ h71 h72 h73 hfn hheld hty hst
    have hrun := calibrate_begun (k := k) ⟨hcmd, hshare, hprog⟩ h71 h72 h73 hfn hheld hty hst
    refine ⟨fun hk => ?_, fun hk => ?_⟩
    · rw [hrun, if_pos hk]
    · rw [hrun, if_neg (by simp [hk])]
      simp [a, testAns, hk, f]
  · intro ⟨hcmd, hshare, hprog⟩ hty h71 h72 h73 hfn hpat hlo hhi hheld hst hpg
    exact linkTest_begun ⟨hcmd, hshare, hprog⟩ h71 h72 h73 hfn hty hpat hlo hhi hheld hst hpg
  · intro p u live y x hd hsp hag hlive
    have hstop : x.stopped = false := by simp [Calib.stopped, hd, hsp]
    have hy : y = _ := s.calibrated_cal live p u
    obtain ⟨hpasses, hlane, hdetour, htemp⟩ :=
      Calib.passed_once u.val ((s.memPort p).tempPick (Config.openChoice s.free)) hstop hag hlive
    rw [hy]
    exact ⟨hpasses, hlane, hdetour, ((s.memPort p).tempPick_eq _).imp htemp.trans htemp.trans⟩

end Sys2Proof.Machine

/-! PROOFS. The issue of an instruction (02 R80 to R86, R195; 03 R115, Table 3-14; 10 R288): what the fetch, the checks
and the loads before its body change, and what they leave. Settles O38 and O39. -/

namespace Sys2Proof.Machine

/-! ### What a core and the device are beside what an issue changes -/

/-- A core without what fetch, the tile port and its clock change. -/
def Core.sansFetch (k : Core) : Core :=
  { k with fqAt := 0, fq := [], fetchAt := 0, portBusy := [], tgt := none, loopBuf := .empty, now := 0, sbuf := [] }

/-- A core without what the checks and loads of an instruction change. -/
def Core.sansIssue (k : Core) : Core :=
  { k.sansFetch with keyCache := [], free := 0, lbox := Letterbox.reset, ccTlb := [], psc := [] }

/-- The device without what the checks and loads of an instruction change. -/
def State.sansIssue (s : State) : State :=
  { s with mem := [], keyArr := [], dir := [], kerb := State.reset.kerb, tileKeys := [], sqKeys := [], banks := []
           newest := [], memPorts := [], free := 0 }

theorem Core.sansIssue_of_sansFetch {k j : Core} (h : j.sansFetch = k.sansFetch) : j.sansIssue = k.sansIssue := by
  unfold Core.sansIssue
  rw [h]

theorem Core.near_sansIssue {k j : Core} (h : k.near j) : j.sansIssue = k.sansIssue := by
  obtain ⟨_, _, _, _, rfl⟩ := h
  rfl

theorem State.near_sansIssue {s t : State} (h : s.near t) : t.sansIssue = s.sansIssue := by
  obtain ⟨_, _, _, _, _, _, rfl⟩ := h
  rfl

theorem Core.fields_of_sansFetch {k j : Core} (h : j.sansFetch = k.sansFetch) :
    j.bg = k.bg ∧ j.inflight = k.inflight ∧ j.keyCache = k.keyCache ∧ j.lbox = k.lbox :=
  ⟨(congrArg Core.bg h :), (congrArg Core.inflight h :), (congrArg Core.keyCache h :), (congrArg Core.lbox h :)⟩

theorem Core.bank_of_sansFetch {k j : Core} (h : j.sansFetch = k.sansFetch) : j.bank = k.bank := (congrArg Core.bank h :)

theorem Core.bank_of_sansIssue {k j : Core} (h : j.sansIssue = k.sansIssue) : j.bank = k.bank := (congrArg Core.bank h :)

/-- Cores that agree beside what an issue changes differ in those fields alone. -/
theorem Core.eq_of_sansIssue {k j : Core} (h : j.sansIssue = k.sansIssue) :
    j = { k with fqAt := j.fqAt, fq := j.fq, fetchAt := j.fetchAt, portBusy := j.portBusy, tgt := j.tgt
                 loopBuf := j.loopBuf, now := j.now, keyCache := j.keyCache, free := j.free, sbuf := j.sbuf
                 lbox := j.lbox, ccTlb := j.ccTlb, psc := j.psc } :=
  congrArg (fun i : Core => { i with
    fqAt := j.fqAt, fq := j.fq, fetchAt := j.fetchAt, portBusy := j.portBusy, tgt := j.tgt
    loopBuf := j.loopBuf, now := j.now, keyCache := j.keyCache, free := j.free, sbuf := j.sbuf
    lbox := j.lbox, ccTlb := j.ccTlb, psc := j.psc }) h

theorem State.eq_of_sansIssue {s t : State} (h : t.sansIssue = s.sansIssue) :
    t = { s with mem := t.mem, keyArr := t.keyArr, dir := t.dir, kerb := t.kerb, tileKeys := t.tileKeys
                 sqKeys := t.sqKeys, banks := t.banks, newest := t.newest, memPorts := t.memPorts, free := t.free } :=
  congrArg (fun u : State => { u with
    mem := t.mem, keyArr := t.keyArr, dir := t.dir, kerb := t.kerb, tileKeys := t.tileKeys, sqKeys := t.sqKeys
    banks := t.banks, newest := t.newest, memPorts := t.memPorts, free := t.free }) h

/-- What the store buffer, the key cache and the Letterbox of a core hold. -/
def Core.memSide (k : Core) : List StoreEnt × Sparse Byte × Letterbox := (k.sbuf, k.keyCache, k.lbox)

theorem Core.fields_of_memSide {k j : Core} (h : j.memSide = k.memSide) :
    j.sbuf = k.sbuf ∧ j.keyCache = k.keyCache ∧ j.lbox = k.lbox := by
  simpa only [Core.memSide, Prod.mk.injEq] using h

theorem Core.memSide_now (k : Core) (t : Nat) : ({ k with now := t } : Core).memSide = k.memSide := rfl

theorem Core.sansFetch_now (k : Core) (t : Nat) : ({ k with now := t } : Core).sansFetch = k.sansFetch := rfl

/-! ### Fetches and drains (R81, R195) -/

/-- The device once the entries `l` of a store buffer have reached the tile of engine `n`, in order. -/
def State.drainEnts (s : State) (n : Nat) (l : List StoreEnt) : State := l.foldl (fun u e => u.drainEnt n e) s

theorem State.drainEnts_append (s : State) (n : Nat) (l m : List StoreEnt) :
    s.drainEnts n (l ++ m) = (s.drainEnts n l).drainEnts n m := List.foldl_append

theorem wrN_near (s : State) (pa : Nat) (l : List Byte) : s.near (s.wrN pa l) := by
  induction l generalizing s pa with
  | nil => exact State.near_refl s
  | cons b r ih => exact State.near_trans (wr_near s pa b) (ih _ _)

theorem drainEnt_near (s : State) (n : Nat) (e : StoreEnt) : s.near (s.drainEnt n e) := wrN_near s _ _

theorem drainEnts_near (s : State) (n : Nat) (l : List StoreEnt) : s.near (s.drainEnts n l) := by
  induction l generalizing s with
  | nil => exact State.near_refl s
  | cons e r ih => exact State.near_trans (drainEnt_near s n e) (ih _)

theorem Core.fetchOne_sansFetch (k : Core) (x : Code) : (k.fetchOne x).sansFetch = k.sansFetch := by
  unfold Core.fetchOne
  split <;> rfl

theorem Core.fetchOne_sbuf (k : Core) (x : Code) : (k.fetchOne x).sbuf = k.sbuf := by
  unfold Core.fetchOne
  split <;> rfl

theorem Core.fetchNeed_frame (x : Code) (len n : Nat) (k : Core) :
    (k.fetchNeed x len n).sansFetch = k.sansFetch ∧ (k.fetchNeed x len n).sbuf = k.sbuf := by
  induction n generalizing k with
  | zero => exact ⟨rfl, rfl⟩
  | succ n ih =>
    unfold Core.fetchNeed
    split
    · exact ⟨rfl, rfl⟩
    · exact ⟨(ih _).1.trans (k.fetchOne_sansFetch x), (ih _).2.trans (k.fetchOne_sbuf x)⟩

theorem Core.fetchStart_frame (k : Core) (x : Code) (len : Nat) :
    (k.fetchStart x len).2.sansFetch = k.sansFetch ∧ (k.fetchStart x len).2.sbuf = k.sbuf := by
  unfold Core.fetchStart
  split
  · exact ⟨rfl, rfl⟩
  · dsimp only
    refine ⟨(Core.fetchNeed_frame x _ _ _).1.trans ?_, (Core.fetchNeed_frame x _ _ _).2.trans ?_⟩ <;> split <;> rfl

/-- Of a device and its core, the grants of the port below the instructions make drains and fetches alone: the
device's bytes change as the store buffer empties. -/
structure Ported (n : Nat) (s : State) (k : Core) (t : State) (j : Core) : Prop where
  dev : s.near t
  core : j.sansFetch = k.sansFetch
  bytes : t.drainEnts n j.sbuf = s.drainEnts n k.sbuf
  rest : j.sbuf <:+ k.sbuf

theorem Ported.refl (n : Nat) (s : State) (k : Core) : Ported n s k s k :=
  ⟨State.near_refl s, rfl, rfl, List.suffix_rfl⟩

theorem Ported.trans {n : Nat} {s t u : State} {k j l : Core} (h : Ported n s k t j) (g : Ported n t j u l) :
    Ported n s k u l :=
  ⟨State.near_trans h.dev g.dev, g.core.trans h.core, g.bytes.trans h.bytes, g.rest.trans h.rest⟩

theorem State.grant_ported (s : State) (c : CoreId) {k : Core} (hbg : k.bg = none) (g : Grant) (t : Nat) :
    Ported (engNo c) s k (s.grant c k g t).1 (s.grant c k g t).2 := by
  cases g with
  | fetch =>
    have hsbuf := k.fetchOne_sbuf (s.code c)
    exact ⟨State.near_refl s, k.fetchOne_sansFetch _, congrArg (s.drainEnts _) hsbuf, hsbuf ▸ List.suffix_rfl⟩
  | drain =>
    simp only [State.grant]
    cases hb : k.sbuf with
    | nil => exact Ported.refl _ s k
    | cons e r => exact ⟨drainEnt_near s _ e, rfl, by rw [hb]; rfl, by rw [hb]; exact List.suffix_cons e r⟩
  | fill =>
    simp only [State.grant, hbg]
    exact Ported.refl _ s k

theorem State.portGo_ported (c : CoreId) (upto n : Nat) (s : State) {k : Core} (hbg : k.bg = none) :
    Ported (engNo c) s k (State.portGo c upto n s k).1 (State.portGo c upto n s k).2 := by
  induction n generalizing s k with
  | zero => exact Ported.refl _ s k
  | succ n ih =>
    unfold State.portGo
    split
    · exact Ported.refl _ s k
    · next g t _ =>
      split
      · have h := s.grant_ported c hbg g t
        exact h.trans (ih _ ((Core.fields_of_sansFetch h.core).1.trans hbg))
      · exact Ported.refl _ s k

theorem State.portTo_ported (s : State) (c : CoreId) {k : Core} (hbg : k.bg = none) (upto : Nat) :
    Ported (engNo c) s k (s.portTo c k upto).1 (s.portTo c k upto).2 :=
  (State.portGo_ported c upto 24 s hbg).trans ⟨State.near_refl _, rfl, rfl, List.suffix_rfl⟩

/-! ### Results that land (R76, R77) -/

theorem Core.setBankAt_memSide (k : Core) (i : Fin 5) (b : Bank) : (k.setBankAt i b).memSide = k.memSide := by
  unfold Core.setBankAt
  split <;> rfl

theorem Core.specWrite_memSide (k : Core) (cc : Bool) (n : Nat) (v : W64) :
    (k.specWrite cc n v).memSide = k.memSide := by
  simp only [Core.specWrite, apply_ite Core.memSide]
  simp only [Core.memSide, ite_self]

theorem Core.land_memSide (k : Core) (cc : Bool) (f : InFlight) : (k.land cc f).memSide = k.memSide := by
  unfold Core.land
  split
  case h_1 => exact Core.specWrite_memSide _ _ _ _
  case h_3 =>
    dsimp only
    split
    · exact Core.setBankAt_memSide _ _ _
    · exact Core.setBankAt_memSide _ _ _
  case h_4 => rfl
  all_goals exact Core.setBankAt_memSide _ _ _

theorem Core.loopOff_memSide (k : Core) : k.loopOff.memSide = k.memSide := by
  unfold Core.loopOff
  split <;> rfl

theorem Core.settle_memSide (k : Core) (cc : Bool) (t : Nat) : (k.settle cc t).memSide = k.memSide := by
  have hland : ∀ (l : List InFlight) (j : Core), (l.foldl (fun (k : Core) f => k.land cc f) j).memSide = j.memSide := by
    intro l
    induction l with
    | nil => exact fun _ => rfl
    | cons f r ih => exact fun j => (ih _).trans (j.land_memSide cc f)
  exact (Core.loopOff_memSide _).trans (hland _ _)

/-- With nothing in flight nothing lands. -/
theorem Core.settle_idle {k : Core} (h : k.inflight = []) (cc : Bool) (t : Nat) : k.settle cc t = k.loopOff := by
  have hk : ({ k with inflight := [] } : Core) = k := by rw [← h]
  unfold Core.settle
  rw [h]
  exact congrArg Core.loopOff hk

theorem Core.settle_sansFetch {k : Core} (h : k.inflight = []) (cc : Bool) (t : Nat) :
    (k.settle cc t).sansFetch = k.sansFetch := by
  rw [Core.settle_idle h, Core.loopOff]
  split <;> rfl

/-! ### Cells of memory from square memory on -/

/-- The cells of a memory at and above the base of square memory: no byte of attached memory. A memory that is not in
canonical form may list an address twice, and what a write to it leaves then depends on the cells around it; on the
cells of attached memory, which lie below, it never does. -/
def beyond (m : List Host.Cell) : List Host.Cell := m.filter (fun c => decide (sqBase ≤ c.1))

theorem beyond_cons (a : Nat) (b : Byte) (m : List Host.Cell) :
    beyond ((a, b) :: m) = if sqBase ≤ a then (a, b) :: beyond m else beyond m := by
  simp only [beyond, List.filter_cons, decide_eq_true_eq]

theorem spGet?_beyond (m : List Host.Cell) (a : Nat) :
    spGet? (beyond m) a = if sqBase ≤ a then spGet? m a else none := by
  simpa [beyond] using spGet?_filter m (fun i => decide (sqBase ≤ i)) a

theorem beyond_spPut (m : List Host.Cell) (a : Nat) (b : Byte) :
    beyond (spPut m a b) = if sqBase ≤ a then spPut (beyond m) a b else beyond m := by
  induction m with
  | nil => simp only [spPut, beyond_cons]; rfl
  | cons e r ih =>
    obtain ⟨j, w⟩ := e
    rw [spPut, beyond_cons j w r]
    split
    · next hlt =>
      rw [beyond_cons a b, beyond_cons j w]
      split
      · rw [if_pos (by omega), spPut, if_pos hlt]
      · rfl
    · next hge =>
      split
      · next heq =>
        subst heq
        rw [beyond_cons a b]
        split
        · rw [spPut, if_neg hge, if_pos rfl]
        · rfl
      · next hne =>
        rw [beyond_cons j w, ih]
        split
        · rw [if_pos (by omega), if_pos (by omega), spPut, if_neg hge, if_neg hne]
        · rfl

theorem beyond_spDel (m : List Host.Cell) (a : Nat) :
    beyond (spDel m a) = if sqBase ≤ a then spDel (beyond m) a else beyond m := by
  induction m with
  | nil => simp only [spDel, beyond, List.filter_nil, ite_self]
  | cons e r ih =>
    obtain ⟨j, w⟩ := e
    rw [spDel, beyond_cons j w r]
    split
    · next heq =>
      subst heq
      split
      · rw [spDel, if_pos rfl]
      · rfl
    · next hne =>
      rw [beyond_cons j w, ih]
      by_cases hj : sqBase ≤ j
      · simp only [if_pos hj, spDel, if_neg hne]
        split <;> rfl
      · simp only [if_neg hj]

/-- What a write leaves from square memory on depends on those cells alone. -/
theorem beyond_memWr (m : List Host.Cell) (a : Nat) (b : Byte) :
    beyond (memWr m a b) = if sqBase ≤ a then memWr (beyond m) a b else beyond m := by
  unfold memWr cellPut
  split
  · exact beyond_spDel m a
  · exact beyond_spPut m a b

theorem memRd_memWr_ne (m : List Host.Cell) {a i : Nat} (b : Byte) (h : i ≠ a) : memRd (memWr m a b) i = memRd m i := by
  simp only [memRd, memWr, spGet, spGet?_cellPut_ne _ _ _ h]

theorem memRd_beyond (m : List Host.Cell) {a : Nat} (h : sqBase ≤ a) : memRd (beyond m) a = memRd m a := by
  simp only [memRd, spGet, spGet?_beyond, if_pos h]

/-! ### Bytes outside the key bytes at KABASE (R285, R288) -/

/-- Where the key bytes of the attached frames lie. -/
def State.isKeyAt (s : State) (q : Nat) : Prop := s.kabase.toNat ≤ q ∧ q < s.kabase.toNat + 2 ^ 28

/-- The key bytes at KABASE lie in attached memory, and none of them in the directory. -/
structure State.keysPlain (s : State) : Prop where
  attached : s.kabase.toNat + 2 ^ 28 ≤ sqBase
  noDir : ∀ f < 2 ^ 28, s.dirSlot (s.kabase.toNat + f) = none

theorem State.keysPlain.of_places {s t : State} (hs : s.keysPlain) (hl : t.layout = s.layout)
    (hb : t.kabase = s.kabase) : t.keysPlain := by
  refine ⟨hb ▸ hs.attached, fun f hf => ?_⟩
  have hd := hs.noDir f hf
  simpa only [State.dirSlot, hl, hb] using hd

/-- Two devices agree in every byte outside the key bytes at KABASE, and go on to agree whatever is then written from
square memory on. -/
structure State.sameData (s t : State) : Prop where
  layout : t.layout = s.layout
  kabase : t.kabase = s.kabase
  dir : t.dir = s.dir
  keyArr : ∀ q, ¬s.isKeyAt q → spGet? t.keyArr q = spGet? s.keyArr q
  mem : ∀ q < sqBase, ¬s.isKeyAt q → memRd t.mem q = memRd s.mem q
  far : beyond t.mem = beyond s.mem

/-- Devices with the same memory, key array and directory in the same places. -/
theorem State.sameData_of_eq {s t : State} (hl : t.layout = s.layout) (hb : t.kabase = s.kabase) (hd : t.dir = s.dir)
    (hk : t.keyArr = s.keyArr) (hm : t.mem = s.mem) : s.sameData t :=
  ⟨hl, hb, hd, fun _ _ => by rw [hk], fun _ _ _ => by rw [hm], by rw [hm]⟩

theorem State.sameData_refl (s : State) : s.sameData s := State.sameData_of_eq rfl rfl rfl rfl rfl

theorem State.sameData.isKeyAt {s t : State} (h : s.sameData t) (q : Nat) : t.isKeyAt q ↔ s.isKeyAt q := by
  simp only [State.isKeyAt, h.kabase]

theorem State.sameData.keysPlain {s t : State} (h : s.sameData t) (hs : s.keysPlain) : t.keysPlain :=
  hs.of_places h.layout h.kabase

theorem State.sameData.trans {s t u : State} (h : s.sameData t) (g : t.sameData u) : s.sameData u where
  layout := g.layout.trans h.layout
  kabase := g.kabase.trans h.kabase
  dir := g.dir.trans h.dir
  keyArr q hq := (g.keyArr q (mt (h.isKeyAt q).1 hq)).trans (h.keyArr q hq)
  mem q hlt hq := (g.mem q hlt (mt (h.isKeyAt q).1 hq)).trans (h.mem q hlt hq)
  far := g.far.trans h.far

theorem State.sameData.memRd_far {s t : State} (h : s.sameData t) {a : Nat} (ha : sqBase ≤ a) :
    memRd t.mem a = memRd s.mem a := by
  rw [← memRd_beyond _ ha, h.far, memRd_beyond _ ha]

/-- A byte that is no key byte reads the same. -/
theorem State.sameData.rd {s t : State} (h : s.sameData t) {q : Nat} (hq : ¬s.isKeyAt q) : t.rd q = s.rd q := by
  refine State.rd_congr (fun hatt => ?_) (fun hatt => h.memRd_far (sqBase_le_cellOf hatt))
  exact State.attRd_congr h.layout (fun _ => h.keyArr q hq) (fun _ _ _ => by rw [h.dir])
    (fun _ => h.mem q (pKind_attached.1 hatt) hq)

/-- A key byte written changes no other byte. -/
theorem State.setFrameKey_sameData {s : State} (hs : s.keysPlain) {f : Nat} (hf : f < 2 ^ 28) (b : Byte) :
    s.sameData (s.setFrameKey f b) := by
  have hlt : s.kabase.toNat + f < sqBase := by have := hs.attached; omega
  have hkey : s.isKeyAt (s.kabase.toNat + f) := ⟨by omega, by omega⟩
  have hne : ∀ q, ¬s.isKeyAt q → q ≠ s.kabase.toNat + f := fun q hq e => hq (e ▸ hkey)
  rw [State.setFrameKey, State.wr_attached b (pKind_attached.2 hlt)]
  cases hk : s.inKeys (s.kabase.toNat + f) with
  | true =>
    rw [State.attWr_inKeys b hk]
    exact ⟨rfl, rfl, rfl, fun q hq => spGet?_cellPut_ne _ _ _ (hne q hq), fun _ _ _ => rfl, rfl⟩
  | false =>
    rw [State.attWr_plain b hk (hs.noDir f hf)]
    exact ⟨rfl, rfl, rfl, fun _ _ => rfl, fun q _ hq => memRd_memWr_ne _ b (hne q hq),
      (beyond_memWr _ _ b).trans (if_neg (by omega))⟩

/-- The same byte written in memory from square memory on. -/
theorem State.sameData.memWr {s t : State} (h : s.sameData t) {a : Nat} (ha : sqBase ≤ a) (b : Byte) :
    State.sameData { s with mem := memWr s.mem a b } { t with mem := memWr t.mem a b } where
  layout := h.layout
  kabase := h.kabase
  dir := h.dir
  keyArr := h.keyArr
  mem q hlt hq := by
    have hne : q ≠ a := by omega
    exact (memRd_memWr_ne _ b hne).trans ((h.mem q hlt hq).trans (memRd_memWr_ne _ b hne).symm)
  far := by
    show beyond (Machine.memWr t.mem a b) = beyond (Machine.memWr s.mem a b)
    rw [beyond_memWr, beyond_memWr, h.far]

/-- The same byte written outside attached memory. -/
theorem State.sameData.wr {s t : State} (h : s.sameData t) {pa : Nat} (hpa : sqBase ≤ pa) (b : Byte) :
    (s.wr pa b).sameData (t.wr pa b) := by
  cases hk : pKind pa with
  | attached => exact absurd (pKind_attached.1 hk) (by omega)
  | square | kerb =>
    have g := h.memWr hpa b
    simp only [State.wr, hk]
    exact ⟨g.layout, g.kabase, g.dir, g.keyArr, g.mem, g.far⟩
  | tile n o k =>
    have ha : sqBase ≤ tilePa n o := cellOf_tile hk ▸ sqBase_le_cellOf (by simp [hk])
    rw [State.wr_tile b hk, State.wr_tile b hk, h.memRd_far ha]
    exact h.memWr ha _
  | reg | resv => simpa only [State.wr, hk] using h

theorem State.sameData.wrN {s t : State} (h : s.sameData t) {pa : Nat} (hpa : sqBase ≤ pa) (l : List Byte) :
    (s.wrN pa l).sameData (t.wrN pa l) := by
  induction l generalizing s t pa with
  | nil => exact h
  | cons b r ih => exact ih (h.wr hpa b) (by omega)

/-- The same store-buffer entry drained. -/
theorem State.sameData.drainEnt {s t : State} (h : s.sameData t) (n : Nat) (e : StoreEnt) :
    (s.drainEnt n e).sameData (t.drainEnt n e) := by
  have hbase : sqBase ≤ tileBase ∧ sqBase ≤ tileSetBase ∧ sqBase ≤ tileClrBase := by decide
  obtain ⟨h0, h1, h2⟩ := hbase
  refine h.wrN ?_ e.bytes
  cases e.kind <;> simp only [tilePa] <;> omega

theorem State.sameData.drainEnts {s t : State} (h : s.sameData t) (n : Nat) (l : List StoreEnt) :
    (s.drainEnts n l).sameData (t.drainEnts n l) := by
  induction l generalizing s t with
  | nil => exact h
  | cons e r ih => exact ih (h.drainEnt n e)

/-! ### What the checks of an issue write (R73, R288) -/

/-- A key cache holds frames of attached memory alone. -/
def framesOk (cache : Sparse Byte) : Prop := ∀ p ∈ cache, p.1 < 2 ^ 28

/-- A device and a key cache come to differ in key bytes at KABASE alone, and the cache holds frames of attached memory
as before. -/
def KeysOnly (s : State) (cache : Sparse Byte) (t : State) (cache' : Sparse Byte) : Prop :=
  s.keysPlain → framesOk cache → s.sameData t ∧ framesOk cache'

theorem KeysOnly.refl (s : State) (cache : Sparse Byte) : KeysOnly s cache s cache :=
  fun _ hc => ⟨s.sameData_refl, hc⟩

theorem KeysOnly.of_cache_eq (s : State) {a b : Sparse Byte} (h : b = a) : KeysOnly s a s b := h ▸ KeysOnly.refl s a

theorem KeysOnly.trans {s t u : State} {a b c : Sparse Byte} (h : KeysOnly s a t b) (g : KeysOnly t b u c) :
    KeysOnly s a u c := by
  intro hs ha
  obtain ⟨h1, hb⟩ := h hs ha
  obtain ⟨h2, hc⟩ := g (h1.keysPlain hs) hb
  exact ⟨h1.trans h2, hc⟩

theorem framesOk_spPut {cache : Sparse Byte} (h : framesOk cache) {f : Nat} (hf : f < 2 ^ 28) (b : Byte) :
    framesOk (spPut cache f b) := by
  intro p hp
  rcases mem_spPut hp with rfl | hp
  · exact hf
  · exact h p hp

theorem framesOk_spDel {cache : Sparse Byte} (h : framesOk cache) (f : Nat) : framesOk (spDel cache f) :=
  fun p hp => h p (mem_spDel hp)

theorem touchFrame_keysOnly (s : State) (cache : Sparse Byte) (v : Nat) {f : Nat} (hf : f < 2 ^ 28) (um : Byte) :
    KeysOnly s cache (touchFrame s cache v f um).1 (touchFrame s cache v f um).2 := by
  intro hs hc
  unfold touchFrame
  split
  · exact ⟨s.sameData_refl, framesOk_spPut hc hf _⟩
  · dsimp only
    split
    · exact ⟨s.sameData_refl, framesOk_spPut hc hf _⟩
    · split
      · next g x hg =>
        have hgc : (g, x) ∈ cache := List.mem_of_getElem? hg
        exact ⟨State.setFrameKey_sameData hs (hc _ hgc) _, framesOk_spPut (framesOk_spDel hc g) hf _⟩
      · exact ⟨s.sameData_refl, framesOk_spPut hc hf _⟩

/-- The frames among granules are those of attached memory. -/
def Gran.frameOk : Gran → Prop
  | .frame f => f < 2 ^ 28
  | _ => True

theorem granOf_frameOk {n : Nat} {l : Loc} {g : Gran} (h : granOf n l = some g) : g.frameOk := by
  cases l with
  | tile o k => simp only [granOf, Option.some.injEq] at h; subst h; trivial
  | phys pa =>
    cases hk : pKind pa with
    | attached =>
      simp only [granOf, hk, Option.some.injEq] at h
      subst h
      have := pKind_attached.1 hk
      simp only [sqBase] at this
      simp only [Gran.frameOk]
      omega
    | square | kerb | tile => simp only [granOf, hk, Option.some.injEq] at h; subst h; trivial
    | reg | resv => simp [granOf, hk] at h
  | lbox o => simp [granOf] at h
  | ev o => simp [granOf] at h
  | none => simp [granOf] at h

theorem granList_frameOk (n i : Nat) (prev : Option Gran) (l : List Loc) :
    ∀ p ∈ granList n i prev l, p.2.frameOk := by
  induction l generalizing i prev with
  | nil => simp [granList]
  | cons x r ih =>
    intro p hp
    unfold granList at hp
    dsimp only at hp
    split at hp
    · next g hg =>
      split at hp
      · exact ih _ _ p hp
      · rcases List.mem_cons.1 hp with rfl | hp
        · exact granOf_frameOk hg
        · exact ih _ _ p hp
    · exact ih _ _ p hp

theorem fetchKeys_keysOnly (v : Nat) (l : List Gran) (hl : ∀ g ∈ l, g.frameOk) (s : State) (cache : Sparse Byte) :
    KeysOnly s cache (fetchKeys v l s cache).1 (fetchKeys v l s cache).2 := by
  induction l generalizing s cache with
  | nil => exact KeysOnly.refl s cache
  | cons g r ih =>
    have hr := ih (fun x hx => hl x (List.mem_cons_of_mem g hx))
    cases g with
    | frame f => exact (touchFrame_keysOnly s cache v (hl _ List.mem_cons_self) 0).trans (hr _ _)
    | tile i => exact hr s cache
    | sq i => exact hr s cache

theorem touchKeys_keysOnly (um : Byte) (v : Nat) (l : List (Nat × Gran)) (hl : ∀ p ∈ l, p.2.frameOk) (s : State)
    (cache : Sparse Byte) : KeysOnly s cache (touchKeys um v l s cache).1 (touchKeys um v l s cache).2 := by
  induction l generalizing s cache with
  | nil => exact KeysOnly.refl s cache
  | cons p r ih =>
    have hr := ih (fun x hx => hl x (List.mem_cons_of_mem p hx))
    obtain ⟨i, g⟩ := p
    cases g with
    | frame f => exact (touchFrame_keysOnly s cache v (hl _ List.mem_cons_self) um).trans (hr _ _)
    | tile i =>
      refine KeysOnly.trans ?_ (hr _ cache)
      exact fun _ hc => ⟨State.sameData_of_eq rfl rfl rfl rfl rfl, hc⟩
    | sq i =>
      refine KeysOnly.trans ?_ (hr _ cache)
      exact fun _ hc => ⟨State.sameData_of_eq rfl rfl rfl rfl rfl, hc⟩

theorem keyCheck_keysOnly (s : State) (c : CoreId) (k : Core) (addr : Nat → Nat) (l : List Loc) (w : Bool) (fin : Nat)
    (e : Option HwErr) :
    KeysOnly s k.keyCache (keyCheck s c k addr l w fin e).1 (keyCheck s c k addr l w fin e).2.1.keyCache := by
  have hseen : ∀ last, ∀ g ∈ ((granList (engNo c) 0 none l).filter (fun p => decide (p.1 ≤ last))).map (fun p => p.2),
      g.frameOk := by
    intro last g hg
    obtain ⟨p, hp, rfl⟩ := List.mem_map.1 hg
    exact granList_frameOk _ _ _ _ p (List.mem_of_mem_filter hp)
  simp only [keyCheck]
  split
  · exact KeysOnly.refl _ _
  · split
    · exact KeysOnly.refl _ _
    · split <;> exact fetchKeys_keysOnly _ _ (hseen _) _ _

theorem chk9_keysOnly (s : State) (c : CoreId) (e : Option HwErr) (k : Core) (r : Req) (l : List Loc) :
    KeysOnly s k.keyCache (chk9 s c e k r l).1 (chk9 s c e k r l).2.1.keyCache := by
  simp only [chk9]
  split
  · exact KeysOnly.refl _ _
  · exact keyCheck_keysOnly _ _ _ _ _ _ _ _

theorem chk9All_keysOnly (c : CoreId) (e : Option HwErr) (l : List (Req × List Loc)) (s : State) (k : Core) :
    KeysOnly s k.keyCache (chk9All c e l s k).1 (chk9All c e l s k).2.1.keyCache := by
  induction l generalizing s k with
  | nil => exact KeysOnly.refl _ _
  | cons p rest ih =>
    obtain ⟨r, l⟩ := p
    have h1 := chk9_keysOnly s c e k r l
    simp only [chk9All]
    split
    · next h => rw [h] at h1; exact h1
    · next h => rw [h] at h1; exact h1.trans (ih _ _)

/-- A translation leaves the key cache. -/
theorem ccXlate_keyCache (k : Core) (s : State) (va : Nat) (u w f e : Bool) :
    (ccXlate k s va u w f e).1.keyCache = k.keyCache := by
  simp only [ccXlate]
  repeat' split
  all_goals rfl

theorem ccXlateL_keyCache (s : State) (c : CoreId) (w f e : Bool) (l : List Nat) (k : Core) :
    (ccXlateL s c w f e k l).1.keyCache = k.keyCache := by
  induction l generalizing k with
  | nil => rfl
  | cons va r ih =>
    have h1 := ccXlate_keyCache k s va (!k.sup) w f e
    simp only [ccXlateL]
    split
    · next h => rw [h] at h1; exact h1
    · next h => rw [h] at h1; exact h1
    · next h =>
      rw [h] at h1
      have h2 := (ih _).trans h1
      split <;> (next g => rw [g] at h2; exact h2)

theorem chk8_keyCache (s : State) (c : CoreId) (e : Option HwErr) (k : Core) (r : Req) :
    (chk8 s c e k r).1.keyCache = k.keyCache := by
  simp only [chk8]
  split
  · exact ccXlateL_keyCache _ _ _ _ _ _ _
  · split
    · split <;> rfl
    · rfl

theorem chk8All_keyCache (s : State) (c : CoreId) (e : Option HwErr) (l : List Req) (k : Core) :
    (chk8All s c e k l).1.keyCache = k.keyCache := by
  induction l generalizing k with
  | nil => rfl
  | cons r rs ih =>
    have h1 := chk8_keyCache s c e k r
    simp only [chk8All]
    split
    · next h => rw [h] at h1; exact h1
    · next h =>
      rw [h] at h1
      have h2 := (ih _).trans h1
      split <;> (next g => rw [g] at h2; exact h2)

theorem operandChecks_keysOnly (s : State) (c : CoreId) (k : Core) (rs : List Req) (e : Option HwErr) :
    KeysOnly s k.keyCache (operandChecks s c k rs e).s (operandChecks s c k rs e).k.keyCache := by
  simp only [operandChecks]
  split
  · exact KeysOnly.refl _ _
  · have h1 := chk8All_keyCache s c e rs k
    split
    · next h => rw [h] at h1; exact KeysOnly.of_cache_eq s h1
    · next k1 ls h =>
      rw [h] at h1
      have h2 := chk9All_keysOnly c e (rs.zip ls) s k1
      rw [show k1.keyCache = k.keyCache from h1] at h2
      split <;> (next g => rw [g] at h2; exact h2)

theorem stateFetchKeys_keysOnly (s : State) (c : CoreId) (k : Core) (addr : Nat → Nat) (l : List Loc)
    (e : Option HwErr) : KeysOnly s k.keyCache (s.fetchKeys c k addr l e).1 (s.fetchKeys c k addr l e).2.1.keyCache := by
  have h1 := keyCheck_keysOnly s c k addr l false 512 e
  simp only [State.fetchKeys]
  split
  · next h => rw [h] at h1; exact h1
  · next h => rw [h] at h1; exact h1.trans (touchKeys_keysOnly _ _ _ (granList_frameOk _ _ _ _) _ _)

theorem fetchCheck_keysOnly (s : State) (c : CoreId) (k : Core) (n : Nat) (b : Byte) (e : Option HwErr) :
    KeysOnly s k.keyCache (s.fetchCheck c k n b e).1 (s.fetchCheck c k n b e).2.1.keyCache := by
  simp only [State.fetchCheck]
  split
  · have h1 := ccXlateL_keyCache s c false true (e == some .walk)
      ((List.range n).map (fun i => ccVa k k.bank.fseg ((k.bank.pc.toNat + i) % 2 ^ 32))) k
    split
    · next h => rw [h] at h1; exact KeysOnly.of_cache_eq s h1
    · next k1 l h =>
      rw [h] at h1
      rw [← show k1.keyCache = k.keyCache from h1]
      exact stateFetchKeys_keysOnly _ _ _ _ _ _
  · split
    · exact KeysOnly.refl _ _
    · split
      · exact KeysOnly.refl _ _
      · exact stateFetchKeys_keysOnly _ _ _ _ _ _

theorem Work.touch_keysOnly (l : List (Req × List Loc)) (w : Work) :
    KeysOnly w.s w.k.keyCache (w.touch l).s (w.touch l).k.keyCache := by
  induction l generalizing w with
  | nil => exact KeysOnly.refl _ _
  | cons p rest ih =>
    obtain ⟨r, l⟩ := p
    unfold Work.touch
    refine KeysOnly.trans ?_ (ih _)
    exact touchKeys_keysOnly _ _ _ (granList_frameOk _ _ _ _) _ _

/-! ### Loads (R80, R86, R301) -/

/-- A core at work before and after loads: entries of its store buffer have drained, in order, which is what has changed
of the device. -/
structure Work.loaded (w v : Work) : Prop where
  c : v.c = w.c
  dev : w.s.near v.s
  core : v.k.sansIssue = w.k.sansIssue
  bytes : v.s.drainEnts (engNo w.c) v.k.sbuf = w.s.drainEnts (engNo w.c) w.k.sbuf

theorem Work.loaded_refl (w : Work) : w.loaded w := ⟨rfl, State.near_refl _, rfl, rfl⟩

theorem Work.loaded.trans {w v u : Work} (h : w.loaded v) (g : v.loaded u) : w.loaded u where
  c := g.c.trans h.c
  dev := State.near_trans h.dev g.dev
  core := g.core.trans h.core
  bytes := (h.c ▸ g.bytes).trans h.bytes

theorem Work.drain_loaded (w : Work) (m : Nat) : w.loaded (w.drain m) where
  c := rfl
  dev := drainEnts_near _ _ _
  core := rfl
  bytes := by
    show (w.s.drainEnts (engNo w.c) (w.k.sbuf.take m)).drainEnts (engNo w.c) (w.k.sbuf.drop m) = _
    rw [← State.drainEnts_append, List.take_append_drop]

theorem Work.loadTile_loaded (w : Work) (off n : Nat) :
    w.loaded (w.loadTile off n).1 ∧ (w.loadTile off n).1.k.lbox = w.k.lbox := by
  unfold Work.loadTile
  split
  · exact ⟨⟨rfl, State.near_refl _, rfl, rfl⟩, rfl⟩
  · next i _ =>
    split
    · exact ⟨⟨rfl, State.near_refl _, rfl, rfl⟩, rfl⟩
    · split
      · exact ⟨w.loaded_refl, rfl⟩
      · have h := w.drain_loaded (i + 1)
        exact ⟨⟨h.c, h.dev, h.core, h.bytes⟩, rfl⟩

theorem Work.fetchOp_loaded (w : Work) (l : List Loc) :
    w.loaded (w.fetchOp l).1 ∧ (w.fetchOp l).1.k.lbox = w.k.lbox := by
  unfold Work.fetchOp
  split
  · exact w.loadTile_loaded _ _
  · split
    · exact ⟨w.drain_loaded _, rfl⟩
    · exact ⟨w.loaded_refl, rfl⟩

theorem Work.fetchOps_loaded (l : List (Req × List Loc)) (w : Work) :
    w.loaded (w.fetchOps l).1 ∧ (w.fetchOps l).1.k.lbox = w.k.lbox := by
  induction l generalizing w with
  | nil => exact ⟨w.loaded_refl, rfl⟩
  | cons p rest ih =>
    obtain ⟨r, l⟩ := p
    unfold Work.fetchOps
    split
    · obtain ⟨h, hb⟩ := w.fetchOp_loaded l
      obtain ⟨g, gb⟩ := ih (w.fetchOp l).1
      exact ⟨h.trans g, gb.trans hb⟩
    · exact ih w

/-- A slot of the Letterbox is freed, or nothing changes. -/
theorem Work.freeSlot_loaded (w : Work) (l : List Loc) : w.loaded (w.freeSlot l) := by
  unfold Work.freeSlot
  split
  · exact ⟨rfl, State.near_refl _, rfl, rfl⟩
  · exact w.loaded_refl

/-- An access with no byte in the Letterbox frees no slot. -/
theorem Work.freeSlot_eq {w : Work} {l : List Loc} (h : ∀ x ∈ l, ∀ o, x ≠ .lbox o) : w.freeSlot l = w := by
  have hf : w.k.lbox.frees l = false := by
    simp only [Letterbox.frees, Bool.and_eq_false_iff, List.any_eq_false]
    refine .inr (fun x hx => ?_)
    cases x with
    | lbox o => exact absurd rfl (h _ hx o)
    | tile | phys | ev | none => simp
  simp [Work.freeSlot, hf]

theorem Work.freeSlots_loaded (l : List (Req × List Loc)) (w : Work) :
    w.loaded (l.foldl (fun w p => if p.1.read then w.freeSlot p.2 else w) w) := by
  induction l generalizing w with
  | nil => exact w.loaded_refl
  | cons p rest ih =>
    refine Work.loaded.trans ?_ (ih _)
    dsimp only
    split
    · exact w.freeSlot_loaded _
    · exact w.loaded_refl

theorem Work.freeSlots_eq (l : List (Req × List Loc)) (w : Work) (h : ∀ p ∈ l, ∀ x ∈ p.2, ∀ o, x ≠ .lbox o) :
    l.foldl (fun w p => if p.1.read then w.freeSlot p.2 else w) w = w := by
  induction l with
  | nil => rfl
  | cons p rest ih =>
    rw [List.foldl_cons, Work.freeSlot_eq (h p List.mem_cons_self), ite_self]
    exact ih (fun q hq => h q (List.mem_cons_of_mem p hq))

theorem Work.loads_loaded (w : Work) (l : List (Req × List Loc)) : w.loaded (w.loads l).1 :=
  (Work.fetchOps_loaded l w).1.trans (Work.freeSlots_loaded l _)

theorem Work.loads_lbox {w : Work} {l : List (Req × List Loc)} (h : ∀ p ∈ l, ∀ x ∈ p.2, ∀ o, x ≠ .lbox o) :
    (w.loads l).1.k.lbox = w.k.lbox := by
  show Core.lbox (List.foldl _ (w.fetchOps l).1 l).k = _
  rw [Work.freeSlots_eq l _ h]
  exact (Work.fetchOps_loaded l w).2

/-! ### A corrected error (R421) -/

/-- The devices differ at most in error records, in what the memory ports count and in the MODEL's counter. -/
def State.noted (s t : State) : Prop :=
  ∃ b n p f, t = { s with banks := b, newest := n, memPorts := p, free := f }

theorem State.noted_refl (s : State) : s.noted s := ⟨s.banks, s.newest, s.memPorts, s.free, rfl⟩

theorem State.noted.trans {s t u : State} (h : s.noted t) (g : t.noted u) : s.noted u := by
  obtain ⟨_, _, _, _, rfl⟩ := h
  obtain ⟨b, n, p, f, rfl⟩ := g
  exact ⟨b, n, p, f, rfl⟩

theorem State.noted.sansIssue {s t : State} (h : s.noted t) : t.sansIssue = s.sansIssue := by
  obtain ⟨_, _, _, _, rfl⟩ := h
  rfl

theorem State.noted.sameData {s t : State} (h : s.noted t) : s.sameData t := by
  obtain ⟨_, _, _, _, rfl⟩ := h
  exact State.sameData_of_eq rfl rfl rfl rfl rfl

theorem State.report_noted (s : State) (r : ErrRec) : s.noted (s.report r) := by
  unfold State.report
  dsimp only
  split
  · exact ⟨_, _, _, _, rfl⟩
  · split
    · exact ⟨_, _, _, _, rfl⟩
    · exact s.noted_refl

theorem State.symbolError_noted (s : State) (pa : Nat) : s.noted (s.symbolError pa) := by
  unfold State.symbolError
  split
  · exact ⟨_, _, _, _, rfl⟩
  · exact s.noted_refl

theorem State.noted.count {s t : State} (h : s.noted t) (f : Nat) : s.noted { t with free := f } := by
  obtain ⟨b, n, p, _, rfl⟩ := h
  exact ⟨b, n, p, f, rfl⟩

theorem State.corrected_noted (s : State) (utype uidx : Nat) (l : Loc) (addr : Nat) :
    s.noted (s.corrected utype uidx l addr) := by
  unfold State.corrected
  cases l with
  | phys pa => exact ((s.symbolError_noted pa).trans (State.report_noted _ _)).count _
  | tile | lbox | ev | none => exact (s.report_noted _).count _

/-! ### The way of an instruction to its body (Table 3-14) -/

/-- The cycle in which an instruction of the form `i` issues, with the core as it has waited for its bytes (R154,
R195). -/
def State.issueAt (s : State) (a : Issue) (i : Form) : Nat × Core :=
  let f : Nat × Core := (s.core a.core).fetchStart (s.code a.core) (a.pre.length + i.len)
  (if i.divider = 0 then f.1 else max f.1 f.2.divFree, f.2)

/-- The device in that cycle: what fetches and drains of earlier cycles have left. -/
def State.atIssue (s : State) (a : Issue) (i : Form) : State :=
  (s.portTo a.core (s.issueAt a i).2 (s.issueAt a i).1).1

/-- The core in that cycle, the results that are due landed. -/
def State.coreAtIssue (s : State) (a : Issue) (i : Form) : Core :=
  { (s.portTo a.core (s.issueAt a i).2 (s.issueAt a i).1).2.settle (isCc a.core) (s.issueAt a i).1 with
    now := (s.issueAt a i).1 }

/-- The device with the record of a corrected error, if one met the instruction `a` (R421). -/
def State.recorded (s : State) (a : Issue) (k : Core) (i : Form) (ls : List (List Loc)) : State :=
  if a.err = some .corrected then
    s.corrected (coreUnit a.core).1 (coreUnit a.core).2 (errPlace a.core k i ls).1 (errPlace a.core k i ls).2
  else s

/-- What an instruction that reached its body has passed: the fetch of its bytes, the checks on its operands, whose
bytes lie at `r.ls`, and the loads. -/
theorem State.issues_inr {s : State} {a : Issue} {form : State → Core → Form} {r : Ready}
    (h : s.issues a form = .inr r) :
    let i0 : Form := form s (s.core a.core)
    ∃ i len b s3 k3, (s.atIssue a i0).fetchCheck a.core (s.coreAtIssue a i0) len b a.err = (s3, k3, none) ∧
      let o : Checked := operandChecks s3 a.core k3 i.reqs a.err
      r.w = (Work.loads (Work.touch { s := o.s.recorded a o.k i r.ls, c := a.core, k := o.k, pen := 0 }
        (i.reqs.zip r.ls)) (i.reqs.zip r.ls)).1 := by
  intro i0
  unfold State.issues at h
  dsimp only at h
  split at h
  · cases h
  · split at h
    · cases h
    · next s3 k3 hf =>
      split at h
      · cases h
      · split at h
        · cases h
        · split at h
          · cases h
          · rcases ite_eq_iff.1 h with ⟨_, h⟩ | ⟨_, h⟩
            · cases h
            · cases h
              exact ⟨_, _, _, s3, k3, hf, rfl⟩

section
variable {s : State} {a : Issue} {i : Form} (hbg : (s.core a.core).bg = none)
include hbg

/-- Until an instruction issues, only drains change the device. -/
theorem State.portTo_issueAt :
    Ported (engNo a.core) s (s.core a.core) (s.atIssue a i)
      (s.portTo a.core (s.issueAt a i).2 (s.issueAt a i).1).2 := by
  have hframe : (s.issueAt a i).2.sansFetch = (s.core a.core).sansFetch
      ∧ (s.issueAt a i).2.sbuf = (s.core a.core).sbuf := Core.fetchStart_frame _ _ _
  obtain ⟨hcore, hsbuf⟩ := hframe
  have hbg' : (s.issueAt a i).2.bg = none := (Core.fields_of_sansFetch hcore).1.trans hbg
  have hstart : Ported (engNo a.core) s (s.core a.core) s (s.issueAt a i).2 :=
    ⟨State.near_refl s, hcore, by rw [hsbuf], by rw [hsbuf]⟩
  exact hstart.trans (s.portTo_ported a.core hbg' _)

theorem State.atIssue_near : s.near (s.atIssue a i) := (State.portTo_issueAt hbg).dev

/-- What is still in the store buffer at issue makes of the device what the whole of it would have made. -/
theorem State.coreAtIssue_frame :
    (s.atIssue a i).drainEnts (engNo a.core) (s.coreAtIssue a i).sbuf
        = s.drainEnts (engNo a.core) (s.core a.core).sbuf
      ∧ (s.coreAtIssue a i).sbuf <:+ (s.core a.core).sbuf
      ∧ (s.coreAtIssue a i).keyCache = (s.core a.core).keyCache ∧ (s.coreAtIssue a i).lbox = (s.core a.core).lbox := by
  have hport := State.portTo_issueAt (i := i) hbg
  have hside : (s.coreAtIssue a i).memSide = (s.portTo a.core (s.issueAt a i).2 (s.issueAt a i).1).2.memSide := by
    rw [State.coreAtIssue, Core.memSide_now, Core.settle_memSide]
  obtain ⟨hsbuf, hcache, hlbox⟩ := Core.fields_of_memSide hside
  obtain ⟨-, -, pcache, plbox⟩ := Core.fields_of_sansFetch hport.core
  exact ⟨by rw [hsbuf, hport.bytes], by rw [hsbuf]; exact hport.rest, hcache.trans pcache, hlbox.trans plbox⟩

/-- With no result in flight, only fetching changes the core until then. -/
theorem State.coreAtIssue_sansFetch (hfly : (s.core a.core).inflight = []) :
    (s.coreAtIssue a i).sansFetch = (s.core a.core).sansFetch := by
  have hport := (State.portTo_issueAt (i := i) hbg).core
  have hfly' := (Core.fields_of_sansFetch hport).2.1.trans hfly
  rw [State.coreAtIssue, Core.sansFetch_now, Core.settle_sansFetch hfly', hport]

end

theorem State.recorded_noted (s : State) (a : Issue) (k : Core) (i : Form) (ls : List (List Loc)) :
    s.noted (s.recorded a k i ls) := by
  unfold State.recorded
  split
  · exact s.corrected_noted _ _ _ _
  · exact s.noted_refl

theorem State.recorded_eq {a : Issue} (h : a.err ≠ some .corrected) (s : State) (k : Core) (i : Form)
    (ls : List (List Loc)) : s.recorded a k i ls = s := if_neg h

theorem State.near_places {s t : State} (h : s.near t) : t.layout = s.layout ∧ t.kabase = s.kabase := by
  obtain ⟨_, _, _, _, _, _, rfl⟩ := h
  exact ⟨rfl, rfl⟩

theorem State.near_records {s t : State} (h : s.near t) : t.banks = s.banks ∧ t.memPorts = s.memPorts := by
  obtain ⟨_, _, _, _, _, _, rfl⟩ := h
  exact ⟨rfl, rfl⟩

theorem Core.near_memSide {k j : Core} (h : k.near j) : j.sbuf = k.sbuf ∧ j.lbox = k.lbox := by
  obtain ⟨_, _, _, _, rfl⟩ := h
  exact ⟨rfl, rfl⟩

/-- The device and the core as the checks of an instruction left them, from those of its issue cycle. -/
structure ChecksLeave (a : Issue) (s : State) (k : Core) (w : Work) : Prop where
  c : w.c = a.core
  core : k.near w.k
  dev : w.s.sansIssue = s.sansIssue
  keys : KeysOnly s k.keyCache w.s w.k.keyCache
  records : a.err ≠ some .corrected → s.near w.s

/-- An instruction that reached its body has passed its checks, then made its loads. -/
theorem State.issues_checks {s : State} {a : Issue} {form : State → Core → Form} {r : Ready}
    (h : s.issues a form = .inr r) :
    ∃ (i0 : Form) (w : Work) (reqs : List Req), ChecksLeave a (s.atIssue a i0) (s.coreAtIssue a i0) w
      ∧ r.w = (w.loads (reqs.zip r.ls)).1 := by
  obtain ⟨i, len, b, s3, k3, hf, hw⟩ := State.issues_inr h
  refine ⟨form s (s.core a.core), _, i.reqs, ?_, hw⟩
  generalize s.atIssue a _ = s2 at hf ⊢
  generalize s.coreAtIssue a _ = k2 at hf ⊢
  obtain ⟨fs, fk⟩ := fetchCheck_near s2 a.core k2 len b a.err
  have fkeys := fetchCheck_keysOnly s2 a.core k2 len b a.err
  rw [hf] at fs fk fkeys
  obtain ⟨os, ok⟩ := operandChecks_near s3 a.core k3 i.reqs a.err
  have okeys := operandChecks_keysOnly s3 a.core k3 i.reqs a.err
  generalize operandChecks s3 a.core k3 i.reqs a.err = o at os ok okeys ⊢
  have hrec := o.s.recorded_noted a o.k i r.ls
  have hsame := fun he : a.err ≠ some .corrected => State.recorded_eq he o.s o.k i r.ls
  generalize o.s.recorded a o.k i r.ls = s4 at hrec hsame ⊢
  obtain ⟨tc, ts, tk⟩ := Work.touch_near (i.reqs.zip r.ls) { s := s4, c := a.core, k := o.k, pen := 0 }
  have tkeys := Work.touch_keysOnly (i.reqs.zip r.ls) { s := s4, c := a.core, k := o.k, pen := 0 }
  have s2o := State.near_trans fs os
  refine ⟨tc, Core.near_trans (Core.near_trans fk ok) tk, ?_, ?_, fun he => ?_⟩
  · exact (State.near_sansIssue ts).trans (hrec.sansIssue.trans (State.near_sansIssue s2o))
  · refine (fkeys.trans okeys).trans (KeysOnly.trans ?_ tkeys)
    exact fun _ hc => ⟨hrec.sameData, hc⟩
  · exact State.near_trans s2o (hsame he ▸ ts)

/-- Settles O38: fetches and drains, the checks, then the loads, each with what it leaves. -/
theorem issueFrame : Obligations.IssueFrame := by
  unfold Obligations.IssueFrame
  intro a form s r h k j n hbg
  obtain ⟨i0, w, reqs, hc, hw⟩ := State.issues_checks h
  have hl := w.loads_loaded (reqs.zip r.ls)
  rw [← hw] at hl
  have hnear := State.atIssue_near (i := i0) hbg
  obtain ⟨hbytes0, -, hcache0, hlbox0⟩ := State.coreAtIssue_frame (i := i0) hbg
  obtain ⟨hsbuf, hlbox⟩ := Core.near_memSide hc.core
  refine ⟨hl.c.trans hc.c, fun hfly => ?_, ?_, fun hcache hkab hdir q hq => ?_, fun he => ?_, fun hno => ?_⟩
  · refine Core.eq_of_sansIssue (hl.core.trans ((Core.near_sansIssue hc.core).trans ?_))
    exact Core.sansIssue_of_sansFetch (State.coreAtIssue_sansFetch hbg hfly)
  · exact State.eq_of_sansIssue ((State.near_sansIssue hl.dev).trans (hc.dev.trans (State.near_sansIssue hnear)))
  · obtain ⟨hlay, hka⟩ := State.near_places hnear
    have hplain : (s.atIssue a i0).keysPlain := State.keysPlain.of_places ⟨hkab, hdir⟩ hlay hka
    have hframes : framesOk (s.coreAtIssue a i0).keyCache := by rw [hcache0]; exact hcache
    have hdata := (hc.keys hplain hframes).1.drainEnts n w.k.sbuf
    have hload := hl.bytes
    rw [hc.c] at hload
    have hkey : ¬(((s.atIssue a i0).drainEnts n w.k.sbuf).isKeyAt q) := by
      rwa [State.isKeyAt, (State.near_places (drainEnts_near _ _ _)).2, hka]
    calc (r.w.s.drainEnts n j.sbuf).rd q
        = (w.s.drainEnts n w.k.sbuf).rd q := congrArg (fun u => u.rd q) hload
      _ = ((s.atIssue a i0).drainEnts n w.k.sbuf).rd q := hdata.rd hkey
      _ = (s.drainEnts n k.sbuf).rd q := by rw [hsbuf, hbytes0]
  · exact State.near_records (State.near_trans hnear (State.near_trans (hc.records he) hl.dev))
  · have hload := Work.loads_lbox (w := w) (l := reqs.zip r.ls) fun p hp => hno p.2 (List.of_mem_zip hp).2
    exact (congrArg (fun v : Work => v.k.lbox) hw).trans (hload.trans (hlbox.trans hlbox0))

/-! ### The checks with access key 0 in the own tile (R43, R51, R287) -/

/-- The devices differ at most in the key bytes of tile regions. -/
def State.keyed (s t : State) : Prop := ∃ tk, t = { s with tileKeys := tk }

theorem State.keyed_refl (s : State) : s.keyed s := ⟨s.tileKeys, rfl⟩

theorem State.keyed.trans {s t u : State} (h : s.keyed t) (g : t.keyed u) : s.keyed u := by
  obtain ⟨_, rfl⟩ := h
  obtain ⟨tk, rfl⟩ := g
  exact ⟨tk, rfl⟩

theorem State.keyed.rdN {s t : State} (h : s.keyed t) (pa n : Nat) : t.rdN pa n = s.rdN pa n := by
  obtain ⟨_, rfl⟩ := h
  induction n generalizing pa with
  | zero => rfl
  | succ n ih => exact congrArg _ (ih (pa + 1))

/-- The granules of bytes of the own tile are regions of it. -/
theorem granList_tile (n i : Nat) (prev : Option Gran) (l : List Loc) (hl : ∀ x ∈ l, ∃ o kd, x = .tile o kd) :
    ∀ p ∈ granList n i prev l, ∃ t, p.2 = .tile t := by
  induction l generalizing i prev with
  | nil => simp [granList]
  | cons x r ih =>
    obtain ⟨o, kd, rfl⟩ := hl x List.mem_cons_self
    have hr := fun j g => ih j g (fun y hy => hl y (List.mem_cons_of_mem _ hy))
    intro p hp
    by_cases hg : prev = some (.tile (n * 128 + o / 4096))
    · simp only [granList, granOf, hg, if_true] at hp
      exact hr _ _ p hp
    · simp only [granList, granOf, hg, if_false] at hp
      rcases List.mem_cons.1 hp with rfl | hp
      · exact ⟨_, rfl⟩
      · exact hr _ _ p hp

theorem fetchLocs_tile (a n : Nat) : ∀ x ∈ fetchLocs a n, ∃ o kd, x = .tile o kd := by
  intro x hx
  obtain ⟨i, -, rfl⟩ := List.mem_map.1 hx
  exact ⟨_, _, rfl⟩

theorem findIdx?_fetchLocs {f : Loc → Bool} (hf : ∀ o kd, f (.tile o kd) = false) (a n : Nat) :
    (fetchLocs a n).findIdx? f = none := by
  rw [List.findIdx?_eq_none_iff]
  intro x hx
  obtain ⟨o, kd, rfl⟩ := fetchLocs_tile a n x hx
  exact hf o kd

theorem fetchKeys_tile (v : Nat) (l : List Gran) (hl : ∀ g ∈ l, ∃ t, g = .tile t) (s : State) (cache : Sparse Byte) :
    fetchKeys v l s cache = (s, cache) := by
  induction l with
  | nil => rfl
  | cons g r ih =>
    obtain ⟨t, rfl⟩ := hl g List.mem_cons_self
    exact ih (fun x hx => hl x (List.mem_cons_of_mem _ hx))

theorem touchKeys_tile (um : Byte) (v : Nat) (l : List (Nat × Gran)) (hl : ∀ p ∈ l, ∃ t, p.2 = .tile t) (s : State)
    (cache : Sparse Byte) : s.keyed (touchKeys um v l s cache).1 := by
  induction l generalizing s with
  | nil => exact s.keyed_refl
  | cons p r ih =>
    obtain ⟨i, g⟩ := p
    obtain ⟨t, rfl⟩ : ∃ t, g = .tile t := hl (i, g) List.mem_cons_self
    refine State.keyed.trans ?_ (ih (fun x hx => hl x (List.mem_cons_of_mem _ hx)) _)
    exact ⟨_, rfl⟩

/-- Access key 0 passes every entry (Table 10-14). -/
theorem keyRefusal_zero (s : State) (cache : Sparse Byte) (w : Bool) (l : List (Nat × Gran)) :
    keyRefusal s cache 0 w l = none := by
  induction l with
  | nil => rfl
  | cons p r ih =>
    rw [keyRefusal, keyPermits, if_pos rfl, if_pos rfl, ih]

theorem keyCheck_tile {k : Core} (hk : k.key = 0) (s : State) (c : CoreId) (addr : Nat → Nat) (a n : Nat) (w : Bool)
    (fin : Nat) : keyCheck s c k addr (fetchLocs a n) w fin none = (s, k, none) := by
  have hseen : ∀ last, ∀ g ∈ ((granList (engNo c) 0 none (fetchLocs a n)).filter
      (fun p => decide (p.1 ≤ last))).map (fun p => p.2), ∃ t, g = .tile t := by
    intro last g hg
    obtain ⟨p, hp, rfl⟩ := List.mem_map.1 hg
    exact granList_tile _ _ _ _ (fetchLocs_tile a n) p (List.mem_of_mem_filter hp)
  rw [keyCheck, findIdx?_fetchLocs (fun _ _ => rfl)]
  simp only [hk, keyRefusal_zero, fetchKeys_tile _ _ (hseen _)]
  rfl

/-- A fetch inside the tile passes check 1 and sets USE of the regions that it reads. -/
theorem fetchCheck_tile {c : CoreId} (hc : isCc c = false) {k : Core} (hk : k.key = 0) {n : Nat} (hpos : 0 < n)
    (hn : k.bank.pc.toNat + n ≤ tileSize) (s : State) (b : Byte) :
    ∃ t j, s.keyed t ∧ k.near j ∧ s.fetchCheck c k n b none = (t, j, none) := by
  have hlo : ¬tileSize ≤ k.bank.pc.toNat := by omega
  have hhi : ¬tileSize < k.bank.pc.toNat + n := by omega
  have hkeys := touchKeys_tile (useMod false) (Config.keyVictim k.free) _
    (granList_tile (engNo c) 0 none _ (fetchLocs_tile k.bank.pc.toNat n)) s k.keyCache
  generalize ht : touchKeys (useMod false) (Config.keyVictim k.free) _ s k.keyCache = t at hkeys
  refine ⟨t.1, { k with keyCache := t.2, free := k.free + 1 }, hkeys, ⟨_, _, _, _, rfl⟩, ?_⟩
  simp only [State.fetchCheck, hc, hlo, hhi, State.fetchKeys, keyCheck_tile hk, ht, if_false, Bool.false_eq_true]

/-- An operand in the plain window of the own tile. -/
def Req.inTile (q : Req) : Prop := q.far = false ∧ q.align = 0 ∧ q.ea + q.n ≤ tileSize

/-- Where its bytes lie. -/
def Req.tileLocs (q : Req) : List Loc := fetchLocs q.ea q.n

theorem nearAddrs_tile {ea n : Nat} (h : ea + n ≤ tileSize) : nearAddrs ea n = (List.range n).map (fun i => ea + i) := by
  refine List.map_congr_left (fun i hi => Nat.mod_eq_of_lt ?_)
  have := List.mem_range.1 hi
  simp only [tileSize] at h
  omega

theorem nearWin_tile (n : Nat) {ea : Nat} (h : ea < tileSize) : nearWin n ea = 1 := if_pos h

theorem nearLoc_tile (n : Nat) {ea : Nat} (h : ea < tileSize) : nearLoc n ea = .tile ea .plain := by
  simp [nearLoc, nearWin_tile n h]

section
variable {c : CoreId} (hc : isCc c = false)
include hc

theorem chk7_tile {q : Req} (hq : q.inTile) (k : Core) : chk7 c k q = none := by
  obtain ⟨hfar, halign, hend⟩ := hq
  have hfind : (nearAddrs q.ea q.n).find? (fun a => nearWin (engNo c) a != nearWin (engNo c) q.ea) = none := by
    rw [nearAddrs_tile hend, List.find?_eq_none]
    intro x hx
    obtain ⟨i, hi, rfl⟩ := List.mem_map.1 hx
    have := List.mem_range.1 hi
    rw [nearWin_tile _ (by omega : q.ea + i < tileSize), nearWin_tile _ (by omega : q.ea < tileSize)]
    decide
  simp [chk7, halign, Req.virt, hfar, hc, hfind]

theorem chk8_tile {q : Req} (hq : q.inTile) (s : State) (k : Core) : chk8 s c none k q = (k, .ok q.tileLocs) := by
  obtain ⟨hfar, -, hend⟩ := hq
  have hloc : (nearAddrs q.ea q.n).map (nearLoc (engNo c)) = q.tileLocs := by
    rw [nearAddrs_tile hend, List.map_map]
    refine List.map_congr_left (fun i hi => nearLoc_tile _ ?_)
    have := List.mem_range.1 hi
    show q.ea + i < tileSize
    omega
  simp [chk8, hc, hfar, hloc]

theorem chk8All_tile (s : State) (k : Core) (qs : List Req) (hqs : ∀ q ∈ qs, q.inTile) :
    chk8All s c none k qs = (k, .ok (qs.map Req.tileLocs)) := by
  induction qs with
  | nil => rfl
  | cons q r ih =>
    simp only [chk8All, chk8_tile hc (hqs q List.mem_cons_self), ih (fun x hx => hqs x (List.mem_cons_of_mem q hx)),
      List.map_cons]

omit hc in
theorem chk9_tile {k : Core} (hk : k.key = 0) (q : Req) (s : State) :
    chk9 s c none k q q.tileLocs = (s, k, none) := by
  rw [chk9, Req.tileLocs, findIdx?_fetchLocs (fun _ _ => rfl), findIdx?_fetchLocs (fun _ _ => rfl)]
  simp only [Option.map_none, ite_self, Option.none_or]
  exact keyCheck_tile hk s c _ _ _ _ _

omit hc in
theorem chk9All_tile {k : Core} (hk : k.key = 0) (s : State) (qs : List Req) :
    chk9All c none (qs.zip (qs.map Req.tileLocs)) s k = (s, k, none) := by
  induction qs with
  | nil => rfl
  | cons q r ih =>
    simp only [List.map_cons, List.zip_cons_cons, chk9All, chk9_tile hk, ih]

/-- Operands in the own tile pass checks 7 to 9. -/
theorem operandChecks_tile {k : Core} (hk : k.key = 0) (s : State) (qs : List Req) (hqs : ∀ q ∈ qs, q.inTile) :
    operandChecks s c k qs none = ⟨s, k, .ok (qs.map Req.tileLocs)⟩ := by
  have h7 : firstExn (qs.map (chk7 c k)) = none := by
    rw [firstExn, List.findSome?_eq_none_iff]
    intro x hx
    obtain ⟨q, hq, rfl⟩ := List.mem_map.1 hx
    exact chk7_tile hc (hqs q hq) k
  simp only [operandChecks, h7, chk8All_tile hc s k qs hqs, chk9All_tile hk]

end

/-! ### Loads in the own tile -/

theorem Work.touch_tile (ops : List (Req × List Loc)) (hops : ∀ p ∈ ops, ∀ x ∈ p.2, ∃ o kd, x = .tile o kd) (w : Work) :
    w.s.keyed (w.touch ops).s := by
  induction ops generalizing w with
  | nil => exact w.s.keyed_refl
  | cons p rest ih =>
    obtain ⟨q, l⟩ := p
    unfold Work.touch
    refine State.keyed.trans ?_ (ih (fun x hx => hops x (List.mem_cons_of_mem _ hx)) _)
    exact touchKeys_tile _ _ _ (granList_tile _ _ _ _ (hops _ List.mem_cons_self)) _ _

/-- With an empty store buffer, an operand in the tile is read as it stands there. -/
theorem Work.fetchOp_tile {w : Work} (h : w.k.sbuf = []) (a n : Nat) :
    ∃ p, w.fetchOp (fetchLocs a n) = ({ w with port := p }, w.s.rdN (tilePa (engNo w.c) a) n) := by
  cases n with
  | zero => exact ⟨w.port, rfl⟩
  | succ n =>
    have hlen : (fetchLocs a (n + 1)).length = n + 1 := by simp [fetchLocs]
    have hcons : fetchLocs a (n + 1) = .tile a .plain :: (fetchLocs a (n + 1)).tail := by
      simp [fetchLocs, List.range_succ_eq_map]
    have hload : w.fetchOp (fetchLocs a (n + 1)) = w.loadTile a (fetchLocs a (n + 1)).length := by
      rw [hcons]
      rfl
    refine ⟨w.port + blocksOf a (n + 1), hload.trans ?_⟩
    rw [hlen, Work.loadTile, h]
    rfl

theorem Work.fetchOps_tile (qs : List Req) (w : Work) (h : w.k.sbuf = []) :
    (w.fetchOps (qs.zip (qs.map Req.tileLocs))).2
      = qs.map (fun q => if q.read then w.s.rdN (tilePa (engNo w.c) q.ea) q.n else []) := by
  induction qs generalizing w with
  | nil => rfl
  | cons q r ih =>
    obtain ⟨p, hp⟩ := Work.fetchOp_tile h q.ea q.n
    simp only [List.map_cons, List.zip_cons_cons, Work.fetchOps, Req.tileLocs, hp]
    split
    · exact congrArg _ (ih { w with port := p } h)
    · exact congrArg _ (ih w h)

theorem leaves_tile {l : List Loc} (h : ∀ x ∈ l, ∃ o kd, x = .tile o kd) : leaves l = false := by
  cases l with
  | nil => rfl
  | cons x r =>
    obtain ⟨o, kd, rfl⟩ := h x List.mem_cons_self
    rfl

theorem xfersAll_tile (c : CoreId) (k : Core) (ops : List (Req × List Loc))
    (hops : ∀ p ∈ ops, ∀ x ∈ p.2, ∃ o kd, x = .tile o kd) : xfersAll c k ops = [] := by
  rw [xfersAll, List.flatten_eq_nil_iff]
  intro l hl
  obtain ⟨p, hp, rfl⟩ := List.mem_map.1 hl
  simp [xfersOf, leaves_tile (hops p hp)]

/-! ### An instruction in its tile reaches its body -/

/-- Checks 2 to 6 depend on the core's bank alone. -/
theorem decodeExn_none {k j : Core} (hb : j.bank = k.bank) {pre : List Pfx} {i : Form} (hok : decodeOk k pre i = true)
    (hpriv : i.priv = false) : decodeExn j pre i = none := by
  have hok' : decodeOk j pre i = true := by simpa only [decodeOk, hb] using hok
  simp [decodeExn, hok', hpriv]

/-- An instruction without malfunction that passes each check reaches its body. -/
theorem State.issues_of_checks {s s3 : State} {k3 : Core} {a : Issue} {form : State → Core → Form} {i : Form}
    {o : Checked} {ls : List (List Loc)} (hcan : s.canIssue a.core = true) (herr : a.err = none)
    (h0 : form s (s.core a.core) = i) (h2 : form (s.atIssue a i) (s.coreAtIssue a i) = i)
    (hf : (s.atIssue a i).fetchCheck a.core (s.coreAtIssue a i) (a.pre.length + i.len) (firstByte a.pre i.op) none
      = (s3, k3, none))
    (hd : decodeExn k3 a.pre i = none) (ho : operandChecks s3 a.core k3 i.reqs none = o) (hls : o.ans = .ok ls)
    (hr : i.ready = true) :
    ∃ r, s.issues a form = .inr r ∧ r.far = xfersAll a.core o.k (i.reqs.zip ls) ∧ r.formed = none ∧ r.form = i
      ∧ r.len = a.pre.length + i.len ∧ r.ls = ls
      ∧ (r.w, r.bs)
        = (Work.touch { s := o.s, c := a.core, k := o.k, pen := 0 } (i.reqs.zip ls)).loads (i.reqs.zip ls) := by
  simp only [State.atIssue, State.coreAtIssue, State.issueAt] at h2 hf
  unfold State.issues
  simp only [hcan, h0, h2, herr, hf, hd, ho, hls, hr, mcBefore, Bool.not_true, Bool.false_eq_true, if_false]
  exact ⟨_, rfl, rfl, by simp, rfl, rfl, rfl, rfl⟩

/-- An engine may issue an instruction of the form `i`, of at least one byte, that is legal in its state and lies with
its operands in the plain window of the own tile, with access key 0. -/
structure IssuesInTile (a : Issue) (form : State → Core → Form) (s : State) (i : Form) : Prop where
  engine : isCc a.core = false
  noErr : a.err = none
  can : s.canIssue a.core = true
  stable : ∀ (u : State) (j : Core), u.arcade = s.arcade → j.sansFetch = (s.core a.core).sansFetch → form u j = i
  fly : (s.core a.core).inflight = []
  bg : (s.core a.core).bg = none
  key : (s.core a.core).key = 0
  bytes : 0 < a.pre.length + i.len
  fits : (s.core a.core).bank.pc.toNat + (a.pre.length + i.len) ≤ tileSize
  legal : decodeOk (s.core a.core) a.pre i = true
  user : i.priv = false
  ready : i.ready = true
  operands : ∀ q ∈ i.reqs, q.inTile

theorem State.near_arcade {s t : State} (h : s.near t) : t.arcade = s.arcade := by
  obtain ⟨_, _, _, _, _, _, rfl⟩ := h
  rfl

theorem mem_zip_tileLocs {qs : List Req} : ∀ p ∈ qs.zip (qs.map Req.tileLocs), ∀ x ∈ p.2, ∃ o kd, x = .tile o kd := by
  intro p hp
  obtain ⟨q, -, hq⟩ := List.mem_map.1 (List.of_mem_zip hp).2
  rw [← hq]
  exact fetchLocs_tile q.ea q.n

/-- Its way there: it passes the checks, which set key bits alone, and loads its operands. -/
theorem IssuesInTile.loads {a : Issue} {form : State → Core → Form} {s : State} {i : Form} (h : IssuesInTile a form s i) :
    ∃ (r : Ready) (w : Work), s.issues a form = .inr r ∧ r.far = [] ∧ r.formed = none ∧ r.form = i
      ∧ r.len = a.pre.length + i.len ∧ r.ls = i.reqs.map Req.tileLocs
      ∧ (r.w, r.bs) = w.loads (i.reqs.zip (i.reqs.map Req.tileLocs)) ∧ w.c = a.core ∧ (s.coreAtIssue a i).near w.k ∧ (s.atIssue a i).keyed w.s := by
  have harcade := State.near_arcade (State.atIssue_near (i := i) h.bg)
  have hsans := State.coreAtIssue_sansFetch (i := i) h.bg h.fly
  have hbank := Core.bank_of_sansFetch hsans
  have hkey : ∀ {j : Core}, j.bank = (s.core a.core).bank → j.key = 0 := fun hj => by rw [Core.key, hj]; exact h.key
  have hfits : (s.coreAtIssue a i).bank.pc.toNat + (a.pre.length + i.len) ≤ tileSize := by rw [hbank]; exact h.fits
  obtain ⟨s3, k3, hs3, hk3, hf⟩ :=
    fetchCheck_tile h.engine (hkey hbank) h.bytes hfits (s.atIssue a i) (firstByte a.pre i.op)
  have hbank3 : k3.bank = (s.core a.core).bank := (Core.near_bank hk3).trans hbank
  obtain ⟨r, hr, hfar, hformed, hform, hlen, hls, hw⟩ := State.issues_of_checks h.can h.noErr (h.stable _ _ rfl rfl)
    (h.stable _ _ harcade hsans) hf (decodeExn_none hbank3 h.legal h.user)
    (operandChecks_tile h.engine (hkey hbank3) s3 i.reqs h.operands) rfl h.ready
  obtain ⟨tc, -, tk⟩ :=
    Work.touch_near (i.reqs.zip (i.reqs.map Req.tileLocs)) { s := s3, c := a.core, k := k3, pen := 0 }
  have ts := Work.touch_tile (i.reqs.zip (i.reqs.map Req.tileLocs)) mem_zip_tileLocs
    { s := s3, c := a.core, k := k3, pen := 0 }
  exact ⟨r, _, hr, hfar.trans (xfersAll_tile _ _ _ mem_zip_tileLocs), hformed, hform, hlen, hls, hw, tc,
    Core.near_trans hk3 tk, hs3.trans ts⟩

/-- What O39 says holds of an instruction of at least one byte (R93): it reaches its body with the operands as they stand
in the tile. -/
theorem IssuesInTile.completes {a : Issue} {form : State → Core → Form} {s : State} {i : Form}
    (h : IssuesInTile a form s i) :
    ∃ r, s.issues a form = .inr r ∧ r.far = [] ∧ r.formed = none ∧ r.form = i ∧ r.len = a.pre.length + i.len
      ∧ r.w.k.bank = (s.core a.core).bank ∧ r.ls = i.reqs.map Req.tileLocs
      ∧ ((s.core a.core).sbuf = [] →
          r.bs = i.reqs.map (fun q => if q.read then s.rdN (tilePa (engNo a.core) q.ea) q.n else [])) := by
  obtain ⟨r, w, hr, hfar, hformed, hform, hlen, hls, hw, hc, hk, hs⟩ := h.loads
  have hbank : r.w.k.bank = (s.core a.core).bank := by
    have hload := (w.loads_loaded (i.reqs.zip (i.reqs.map Req.tileLocs))).core
    rw [← hw] at hload
    calc r.w.k.bank = w.k.bank := Core.bank_of_sansIssue hload
      _ = (s.coreAtIssue a i).bank := Core.near_bank hk
      _ = (s.core a.core).bank := Core.bank_of_sansFetch (State.coreAtIssue_sansFetch h.bg h.fly)
  refine ⟨r, hr, hfar, hformed, hform, hlen, hbank, hls, fun hempty => ?_⟩
  obtain ⟨hbytes, hsuf, -, -⟩ := State.coreAtIssue_frame (i := i) h.bg
  rw [hempty, List.suffix_nil] at hsuf
  rw [hsuf, hempty] at hbytes
  have hsame : s.atIssue a i = s := hbytes
  rw [hsame] at hs
  have hbs : r.bs = (w.fetchOps (i.reqs.zip (i.reqs.map Req.tileLocs))).2 := congrArg Prod.snd hw
  rw [hbs, Work.fetchOps_tile _ _ ((Core.near_memSide hk).1.trans hsuf), hc]
  simp only [hs.rdN]

/-! ### O39: an instruction of no bytes at the end of the tile -/

/-- R51: the fetch window of an engine ends with its tile. -/
theorem fetchCheck_past_tile {c : CoreId} (hc : isCc c = false) {k : Core} (h : tileSize ≤ k.bank.pc.toNat) (s : State)
    (len : Nat) (b : Byte) (e : Option HwErr) :
    s.fetchCheck c k len b e = (s, k, some (mkFault 2 0x02 k.bank.pc.toNat 0)) := by
  simp [State.fetchCheck, hc, h]

/-- No instruction of an engine reaches its body while the PC lies at or past the end of the tile. -/
theorem issues_past_tile {s : State} {a : Issue} {form : State → Core → Form} (hc : isCc a.core = false)
    (hfly : (s.core a.core).inflight = []) (hbg : (s.core a.core).bg = none)
    (hpc : tileSize ≤ (s.core a.core).bank.pc.toNat) (r : Ready) : s.issues a form ≠ .inr r := by
  intro h
  obtain ⟨i, len, b, s3, k3, hf, -⟩ := State.issues_inr h
  have hpc' : tileSize ≤ (s.coreAtIssue a (form s (s.core a.core))).bank.pc.toNat := by
    rw [Core.bank_of_sansFetch (State.coreAtIssue_sansFetch hbg hfly)]
    exact hpc
  have hfault := (fetchCheck_past_tile hc hpc' _ len b a.err).symm.trans hf
  exact nomatch congrArg (fun f => f.2.2) hfault

/-- Engine 0 of a running street, its PC one past the last byte of its tile. -/
def pcPastTile : State :=
  { State.reset with
    cores := [(0, { Core.reset with banks := Core.reset.banks.set 0 { Bank.reset with pc := 0x80000 } })]
    streets := [(0, { Street.reset with st := .running })] }

/-- Refutes O39: the statement asks only that the instruction ends within the tile, and so admits a form of no bytes with
the PC one past the tile, whose fetch check 1 refuses. Of one byte or more it holds (`IssuesInTile.completes`). -/
theorem not_issueCompletes : ¬ Obligations.IssueCompletes := by
  unfold Obligations.IssueCompletes
  intro h
  obtain ⟨r, hr, -⟩ := h { core := .eng 0, pre := [], err := none } (fun _ _ => Form.plain 0 0) pcPastTile 0
    (Form.plain 0 0) rfl rfl (by decide +kernel) (fun _ _ _ _ => rfl) (by decide +kernel) (by decide +kernel)
    (by decide +kernel) (by decide +kernel) (by decide +kernel) rfl rfl (by simp [Form.plain])
  exact issues_past_tile rfl (by decide +kernel) (by decide +kernel) (by decide +kernel) r hr

end Sys2Proof.Machine

/-! PROOFS. Decimal arithmetic (04 R119 to R140): packed fields and their values, the checks of the fields, results
posted to a field, and the instructions on ACC.D and on memory. Settles O7, O8, O9 and O10. -/

namespace Sys2Proof.Machine

/-! ### Packed fields (R119 to R122) -/

@[simp] theorem length_decDigits (n v : Nat) : (decDigits n v).length = n := by
  induction n generalizing v with
  | zero => rfl
  | succ n ih => simp [decDigits, ih]

theorem decDigits_le_nine {n v x : Nat} (h : x ∈ decDigits n v) : x ≤ 9 := by
  induction n generalizing v with
  | zero => exact nomatch h
  | succ n ih =>
    rcases List.mem_append.1 h with h | h
    · exact ih h
    · rw [List.mem_singleton.1 h]; omega

/-- The number that digits spell in front of a sign, by Horner's rule. -/
theorem digitsVal_concat (l : List Nat) (sign acc : Nat) :
    digitsVal (l ++ [sign]) acc = l.foldl (fun a x => a * 10 + x) acc := by
  induction l generalizing acc with
  | nil => rfl
  | cons x r ih =>
    have hstep : digitsVal (x :: (r ++ [sign])) acc = digitsVal (r ++ [sign]) (acc * 10 + x) :=
      digitsVal.eq_3 acc x _ (by simp)
    exact hstep.trans (ih _)

/-- Digits of a number spell it, modulo 10^n. -/
theorem foldl_decDigits (n v acc : Nat) :
    (decDigits n v).foldl (fun a x => a * 10 + x) acc = acc * 10 ^ n + v % 10 ^ n := by
  induction n generalizing v with
  | zero => simp [decDigits, Nat.mod_one]
  | succ n ih =>
    have hmod : v % 10 ^ (n + 1) = v % 10 + 10 * (v / 10 % 10 ^ n) := by rw [pow_succ', Nat.mod_mul]
    rw [decDigits, List.foldl_append, ih, hmod]
    simp only [List.foldl_cons, List.foldl_nil]
    ring

theorem length_ofNibbles : ∀ l : List Nat, (ofNibbles l).length = l.length / 2
  | [] | [_] => by simp [ofNibbles]
  | _ :: _ :: r => by simp only [ofNibbles, List.length_cons, length_ofNibbles r]; omega

theorem nibbles_ofNibbles : ∀ {l : List Nat}, l.length % 2 = 0 → (∀ x ∈ l, x < 16) → nibbles (ofNibbles l) = l
  | [], _, _ => rfl
  | [_], hl, _ => nomatch hl
  | h :: l :: r, hl, hx => by
    have hh : h < 16 := hx h (by simp)
    have hl' : l < 16 := hx l (by simp)
    have hbyte : (BitVec.ofNat 8 (h * 16 + l)).toNat = h * 16 + l := by
      rw [BitVec.toNat_ofNat]; omega
    have ih : nibbles (ofNibbles r) = r :=
      nibbles_ofNibbles (by rw [List.length_cons, List.length_cons] at hl; omega) (fun x hr => hx x (by simp [hr]))
    rw [ofNibbles, nibbles, hbyte, ih, show (h * 16 + l) / 16 = h by omega, show (h * 16 + l) % 16 = l by omega]

/-- R120: digits in front of a sign have no invalid nibble. -/
theorem badNibble_concat {l : List Nat} (hl : ∀ x ∈ l, x ≤ 9) {sign : Nat} (hs : isSign sign = true) (i : Nat) :
    badNibble i (l ++ [sign]) = none := by
  induction l generalizing i with
  | nil => simp [badNibble, hs]
  | cons x r ih =>
    have hstep : badNibble i (x :: (r ++ [sign])) = if x ≤ 9 then badNibble (i + 1) (r ++ [sign]) else some i :=
      badNibble.eq_3 i x _ (by simp)
    have hx : x ≤ 9 := hl x (by simp)
    exact hstep.trans ((if_pos hx).trans (ih (fun y hy => hl y (by simp [hy])) _))

/-- The sign that `pk` gives a value (Table 4-1). -/
def pkSign (v : Int) : Nat := if v < 0 then 0xD else 0xC

theorem isSign_pkSign (v : Int) : isSign (pkSign v) = true := by
  unfold pkSign
  split <;> rfl

theorem pkSign_eq_minus_iff (v : Int) : pkSign v = 0xD ↔ v < 0 := by simp [pkSign]

theorem length_pk (v : Int) {n : Nat} (hn : 0 < n) : (pk v n).length = n := by
  rw [pk, length_ofNibbles, List.length_append, length_decDigits, List.length_singleton]
  omega

theorem nibbles_pk (v : Int) {n : Nat} (hn : 0 < n) :
    nibbles (pk v n) = decDigits (2 * n - 1) v.natAbs ++ [pkSign v] := by
  refine nibbles_ofNibbles ?_ (fun x hx => ?_)
  · rw [List.length_append, length_decDigits, List.length_singleton]
    omega
  · rcases List.mem_append.1 hx with h | h
    · have hx9 : x ≤ 9 := decDigits_le_nine h
      omega
    · rw [List.mem_singleton.1 h]
      split <;> decide

/-- R122: `pk` keeps a value's sign and its digits modulo 10^(2n-1). -/
theorem pval_pk (v : Int) {n : Nat} (hn : 0 < n) :
    pval (pk v n)
      = if v < 0 then -((v.natAbs % 10 ^ (2 * n - 1) : Nat) : Int) else (v.natAbs % 10 ^ (2 * n - 1) : Nat) := by
  have hlast : (nibbles (pk v n)).getLast? = some (pkSign v) := by rw [nibbles_pk v hn, List.getLast?_concat]
  have hval : digitsVal (nibbles (pk v n)) 0 = v.natAbs % 10 ^ (2 * n - 1) := by
    rw [nibbles_pk v hn, digitsVal_concat, foldl_decDigits, Nat.zero_mul, Nat.zero_add]
  simp only [pval, hlast, hval, Option.some.injEq, pkSign_eq_minus_iff]

/-- Settles O10, from the nibbles that `pk` writes. -/
theorem packedRoundTrip : Obligations.PackedRoundTrip := by
  unfold Obligations.PackedRoundTrip
  intro v n hn hfits
  refine ⟨?_, length_pk v hn, ?_⟩
  · rw [pval_pk v hn, Nat.mod_eq_of_lt hfits]
    split <;> omega
  · rw [nibbles_pk v hn]
    exact badNibble_concat (fun _ => decDigits_le_nine) (isSign_pkSign v) 0

/-! ### The checks of packed operands (R125, R126) -/

section
variable {k : Core} {w : Work} {m : MOp} {l : List Byte} {bs : List (List Byte)} {i : Nat}

theorem checkPacked_good (opnd : Nat) (h : badNibble 0 (nibbles l) = none) : checkPacked k opnd l = none := by
  simp [checkPacked, h]

theorem checkPacked_bad (opnd : Nat) (h : badNibble 0 (nibbles l) = some i) :
    checkPacked k opnd l = some (dataExn k opnd i) := by
  simp [checkPacked, h]

@[simp] theorem checks_nil : checks [] = none := rfl
@[simp] theorem checks_none (r : List (Option Exn)) : checks (none :: r) = checks r := rfl
@[simp] theorem checks_some (x : Exn) (r : List (Option Exn)) : checks (some x :: r) = some (Eff.fail x) := rfl

theorem checkAcc_good (hd : badNibble 0 (nibbles w.k.bank.d) = none) :
    checks [checkPacked w.k 1 w.k.bank.d] = none := by
  rw [checkPacked_good 1 hd, checks_none, checks_nil]

theorem checkAcc_bad (r : List (Option Exn)) (hd : badNibble 0 (nibbles w.k.bank.d) = some i) :
    checks (checkPacked w.k 1 w.k.bank.d :: r)
      = some (Eff.fail (dataExn w.k 1 i)) := by
  rw [checkPacked_bad 1 hd, checks_some]

theorem checkAccM_good (hd : badNibble 0 (nibbles w.k.bank.d) = none)
    (ho : badNibble 0 (nibbles (dOperand m (op1 bs))) = none) : checkAccM m w bs = none := by
  rw [checkAccM, checkPacked_good 1 hd, checkPacked_good 2 ho, checks_none, checks_none, checks_nil]

theorem checkAccM_bad_acc (hd : badNibble 0 (nibbles w.k.bank.d) = some i) :
    checkAccM m w bs = some (Eff.fail (dataExn w.k 1 i)) := checkAcc_bad _ hd

theorem checkAccM_bad_operand (hd : badNibble 0 (nibbles w.k.bank.d) = none)
    (ho : badNibble 0 (nibbles (dOperand m (op1 bs))) = some i) :
    checkAccM m w bs = some (Eff.fail (dataExn w.k 2 i)) := by
  rw [checkAccM, checkPacked_good 1 hd, checkPacked_bad 2 ho, checks_none, checks_some]

theorem checkBoth_good (hx : badNibble 0 (nibbles (op1 bs)) = none) (hy : badNibble 0 (nibbles (op2 bs)) = none) :
    checkBoth w bs = none := by
  rw [checkBoth, checkPacked_good 1 hx, checkPacked_good 2 hy, checks_none, checks_none, checks_nil]

theorem checkBoth_bad_first (hx : badNibble 0 (nibbles (op1 bs)) = some i) :
    checkBoth w bs = some (Eff.fail (dataExn w.k 1 i)) := by
  rw [checkBoth, checkPacked_bad 1 hx, checks_some]

theorem checkBoth_bad_second (hx : badNibble 0 (nibbles (op1 bs)) = none)
    (hy : badNibble 0 (nibbles (op2 bs)) = some i) :
    checkBoth w bs = some (Eff.fail (dataExn w.k 2 i)) := by
  rw [checkBoth, checkPacked_good 1 hx, checkPacked_bad 2 hy, checks_none, checks_some]

end

/-! ### Results posted to a field (R131, R140) -/

/-- The effect of a result `v` with room for `digits` digits, the PSW being `psw`: its flags, beside them the register
writes `wr` and the stores `st`. A value that does not fit raises vector 8 when DOE is 1, else sets DV and DVS. -/
def postEff (psw : W64) (digits : Nat) (v : Int) (wr : List (Nat × RegWr)) (st : List StOp) (n : Nat) : Eff :=
  if v.natAbs < 10 ^ digits then Eff.of ((n, .psw mFlags (decFlags v false).word) :: wr) st n
  else if pswBit psw eDOE then Eff.fail (mkTrapless 8)
  else Eff.of ((n, .psw (mFlags ||| 1 <<< sDVS) ((decFlags v true).word ||| 1 <<< sDVS)) :: wr) st n

/-- A bit of the PSW, shifted as a number or as a word. -/
theorem natCast_one_shl (n : Nat) : ((1 <<< n : Nat) : W64) = (1 : W64) <<< n := by
  refine BitVec.eq_of_toNat_eq ?_
  simp [BitVec.toNat_shiftLeft]

/-- What `decPost` answers: a value that fits, one whose overflow traps, and one that drops its high digits. -/
theorem decPost_eq (k : Core) (v : Int) (n : Nat) :
    decPost k v n =
      if v.natAbs < 10 ^ (2 * n - 1) then some (.psw mFlags (decFlags v false).word, pk v n)
      else if pswBit k.bank.psw eDOE then none
      else some (.psw (mFlags ||| 1 <<< sDVS) ((decFlags v true).word ||| 1 <<< sDVS), pk v n) := by
  by_cases hfits : v.natAbs < 10 ^ (2 * n - 1)
  · simp [decPost, pfits, hfits]
  · rw [natCast_one_shl]
    cases hdoe : pswBit k.bank.psw eDOE <;> simp [decPost, pfits, hfits, hdoe]

theorem postAcc_eq (k : Core) (v : Int) (n : Nat) :
    postAcc k v n = postEff k.bank.psw 63 v [(n, wrD (pk v 32))] [] n := by
  unfold postAcc postEff
  rw [decPost_eq]
  split_ifs <;> rfl

theorem decCount_eq (m : MOp) : decCount m = if mImm m ∨ mLen m ≤ 16 then 4 else 7 := by
  simp [decCount]

/-! ### Bodies with a residue check -/

section
variable {pre : Work → List (List Byte) → Option Eff} {v : Work → List (List Byte) → Int}
  {f : Work → List (List Loc) → List (List Byte) → Eff} {w : Work} {ls : List (List Loc)} {bs : List (List Byte)}

/-- A condition of orders 2 and 3 of Table 4-5 ends the instruction without a residue check. -/
theorem decBody_stops {e : Eff} (h : pre w bs = some e) : decBody pre v f w ls bs = Done.of w e none := by
  simp [decBody, h]

theorem decBody_goes {e : Eff} (h : pre w bs = none) (he : f w ls bs = e) :
    decBody pre v f w ls bs = Done.of w e (some (v w bs)) := by
  simp [decBody, h, he]

end

/-! ### From the issue of an instruction to its end -/

/-- An instruction that has reached its body ends as that body answers. -/
theorem exec_of_body {s : State} {a : Issue} {form : State → Core → Form} {r : Ready} {c : Instr}
    {mk : State → Core → Insn} (hc : exec c s = s.run a mk) (hform : ∀ s k, (mk s k).toForm = form s k)
    (hr : s.issues a form = .inr r) {d : Done} (hd : (mk r.s r.k0).body r.w r.ls r.bs = d) :
    exec c s = .next (r.perform d) := by
  rw [hc, run_of_issues hr mk hform, hd]

@[simp] theorem mInsn_body (a : Issue) (op : Nat) (m : MOp) (cls : LenCls) (immOk : Bool) (k : Core) (rd wr : Bool)
    (body : Work → List (List Loc) → List (List Byte) → Done) :
    (mInsn a op m cls immOk k rd wr body).body = body := rfl

/-- An instruction on ACC.D and an operand of format M or L ends as its body answers. -/
theorem exec_of_decInsn {s : State} {a : Issue} {op : Nat} {m : MOp} {cls : LenCls} {r : Ready} {c : Instr}
    {body : Work → List (List Loc) → List (List Byte) → Done}
    (hc : exec c s = s.run a (fun _ k => decInsn a op m cls k body))
    (hr : s.issues a (fun _ k => { mForm a op m cls true k true false with micro := true, residue := true }) = .inr r)
    {d : Done} (hd : body r.w r.ls r.bs = d) : exec c s = .next (r.perform d) :=
  exec_of_body hc (fun _ _ => rfl) hr hd

/-- A microcoded instruction of format A ends as its body answers. -/
theorem exec_of_aInsn {s : State} {a : Issue} {op : Nat} {res : Bool} {r : Ready} {c : Instr}
    {body : Work → List (List Loc) → List (List Byte) → Done}
    (hc : exec c s = s.run a (fun _ _ => { aInsn a op body with micro := true, residue := res }))
    (hr : s.issues a (fun _ _ => { aForm a op with micro := true, residue := res }) = .inr r)
    {d : Done} (hd : body r.w r.ls r.bs = d) : exec c s = .next (r.perform d) :=
  exec_of_body hc (fun _ _ => rfl) hr hd

/-- A microcoded instruction of format B with a residue check ends as its body answers. -/
theorem exec_of_bInsn {s : State} {a : Issue} {op : Nat} {legal : Bool} {r : Ready} {c : Instr}
    {body : Work → List (List Loc) → List (List Byte) → Done}
    (hc : exec c s = s.run a (fun _ _ => { bInsn a op body with legal := legal, micro := true, residue := true }))
    (hr : s.issues a (fun _ _ => { bForm a op with legal := legal, micro := true, residue := true }) = .inr r)
    {d : Done} (hd : body r.w r.ls r.bs = d) : exec c s = .next (r.perform d) :=
  exec_of_body hc (fun _ _ => rfl) hr hd

/-- An SS instruction with a residue check ends as its body answers. -/
theorem exec_of_ssInsn {s : State} {a : Issue} {op : Nat} {o : SOp} {reqs : Core → List Req} {r : Ready} {c : Instr}
    {body : Core → Work → List (List Loc) → List (List Byte) → Done}
    (hc : exec c s = s.run a (fun _ k => { ssInsn a op o false k (reqs k) (body k) with residue := true }))
    (hr : s.issues a (fun _ k => { ssForm a op o false k (reqs k) with residue := true }) = .inr r)
    {d : Done} (hd : body r.k0 r.w r.ls r.bs = d) : exec c s = .next (r.perform d) :=
  exec_of_body hc (fun _ _ => rfl) hr hd

/-- A digit shift of a valid ACC.D posts the value that it makes. -/
theorem exec_of_dshInsn {s : State} {a : Issue} {op : Nat} {sel : Byte} {count : Nat} {f : Core → Int → Nat → Int}
    {r : Ready} {c : Instr} (hc : exec c s = s.run a (fun _ _ => dshInsn a op sel count f))
    (hr : s.issues a (fun _ _ => { bForm a op with legal := decide (sel.toNat < 64), micro := true, residue := true })
      = .inr r)
    (hd : badNibble 0 (nibbles r.w.k.bank.d) = none) {v : Int}
    (hv : f r.w.k (pval r.w.k.bank.d) (bits sel.toNat 0 6) = v) :
    exec c s = .next (r.perform
      (Done.of r.w (postEff r.w.k.bank.psw 63 v [(count, wrD (pk v 32))] [] count) (some v))) := by
  subst hv
  exact exec_of_bInsn hc hr (decBody_goes (checkAcc_good hd) (postAcc_eq _ _ _))

/-- PADD, PSUB and PSET post a value to operand 1 once their operands are valid. -/
theorem exec_of_packInsn {s : State} {a : Issue} {op : Nat} {o : SOp} {r : Ready} {c : Instr}
    {pre : Work → List (List Byte) → Option Eff} {f : List (List Byte) → Int}
    (hc : exec c s = s.run a (fun _ k => packInsn a op o k pre f))
    (hr : s.issues a (fun _ k => { ssForm a op o false k [ssReq1 a o k (ssN1 o) true true, ssReq2 a o k (ssN2 o)] with
      residue := true }) = .inr r)
    (hpre : pre r.w r.bs = none) :
    exec c s = .next (r.perform (Done.of r.w (postEff r.w.k.bank.psw (2 * ssN1 o - 1) (f r.bs) []
      [stTo r.w (ssReq1 a o r.k0 (ssN1 o) true true) r.ls (pk (f r.bs) (ssN1 o))] (ssCount o 4 7))
      (some (f r.bs)))) := by
  refine exec_of_ssInsn hc hr (decBody_goes hpre ?_)
  dsimp only
  unfold postEff
  rw [decPost_eq]
  split_ifs <;> rfl

/-- The checks of an instruction that reached its body saw the core of its issue cycle. -/
theorem State.issues_k0 {s : State} {a : Issue} {form : State → Core → Form} {r : Ready}
    (h : s.issues a form = .inr r) : r.k0 = s.coreAtIssue a (form s (s.core a.core)) := by
  unfold State.issues at h
  dsimp only at h
  split at h
  · cases h
  · split at h
    · cases h
    · split at h
      · cases h
      · split at h
        · cases h
        · split at h
          · cases h
          · rcases ite_eq_iff.1 h with ⟨_, h⟩ | ⟨_, h⟩
            · cases h
            · cases h
              rfl

/-- The checks and loads of an instruction leave its bank as it was at its checks. -/
theorem State.issues_bank {s : State} {a : Issue} {form : State → Core → Form} {r : Ready}
    (h : s.issues a form = .inr r) : r.w.k.bank = r.k0.bank := by
  obtain ⟨i, len, b, s3, k3, hf, hw⟩ := State.issues_inr h
  have hfetch := (fetchCheck_near (s.atIssue a (form s (s.core a.core))) a.core
    (s.coreAtIssue a (form s (s.core a.core))) len b a.err).2
  rw [hf, ← State.issues_k0 h] at hfetch
  have hoperands := (operandChecks_near s3 a.core k3 i.reqs a.err).2
  obtain ⟨-, -, htouch⟩ := Work.touch_near (i.reqs.zip r.ls)
    { s := (operandChecks s3 a.core k3 i.reqs a.err).s.recorded a (operandChecks s3 a.core k3 i.reqs a.err).k i r.ls
      c := a.core, k := (operandChecks s3 a.core k3 i.reqs a.err).k, pen := 0 }
  rw [hw]
  exact (Core.bank_of_sansIssue (Work.loads_loaded _ _).core).trans
    (Core.near_bank (Core.near_trans (Core.near_trans hfetch hoperands) htouch))

/-- The operand of a format M or L instruction depends on the core's bank alone. -/
theorem mReqs_congr {k j : Core} (h : j.bank = k.bank) (a : Issue) (m : MOp) (read write : Bool) :
    mReqs a m j read write = mReqs a m k read write := by
  simp [mReqs, h]

/-! ### O7 -/

/-- STD stores its bytes and says in DV whether digits were dropped, or raises vector 8 (R130). -/
theorem exec_std_eq {a : Issue} {m : MOp} {s : State} {r : Ready}
    (h : s.issues a (fun _ k => { mForm a 0x50 m .d false k false true with micro := true }) = .inr r) :
    exec (.std a m) s = .next (r.perform (Done.of r.w
      (if allZero (r.w.k.bank.d.take (32 - mLen m)) then
        Eff.of [(1, .psw mDV 0)]
          ((mReqs a m r.w.k false true).map (fun q => stTo r.w q r.ls (r.w.k.bank.d.drop (32 - mLen m)))) 1
      else if pswBit r.w.k.bank.psw eDOE then Eff.fail (mkTrapless 8)
      else Eff.of [(1, .psw (mDV ||| 1 <<< sDVS) (mDV ||| 1 <<< sDVS))]
        ((mReqs a m r.w.k false true).map (fun q => stTo r.w q r.ls (r.w.k.bank.d.drop (32 - mLen m)))) 1) none)) := by
  refine exec_of_body (exec_std a m s) (fun _ _ => rfl) h (congrArg (Done.of r.w · none) ?_)
  rw [← mReqs_congr (State.issues_bank h), natCast_one_shl]
  cases hz : allZero (r.w.k.bank.d.take (32 - mLen m)) <;> cases hdoe : pswBit r.w.k.bank.psw eDOE <;>
    simp [hz, hdoe]

/-- Settles O7: each instruction's body, after the checks of its fields. -/
theorem decimalAccumulator : Obligations.DecimalAccumulator := by
  unfold Obligations.DecimalAccumulator
  intro a m s r
  refine ⟨fun h hd ho => ?addd, fun h hd ho => ?subd, fun h hd ho => ?cmpd, fun h hd => ?dneg, fun h hd => ?dpref,
    fun h => ?tstd, fun h => ?clra, fun h hm => ?ldd, fun h hm ho => ?lddImm, fun h hz => ?std, fun h hz he => ?stdTrap,
    fun h hz he => ?stdDrop⟩
  case addd =>
    exact exec_of_decInsn (exec_addd a m s) h
      (decBody_goes (checkAccM_good hd ho) (by rw [postAcc_eq, decCount_eq]; rfl))
  case subd =>
    exact exec_of_decInsn (exec_subd a m s) h
      (decBody_goes (checkAccM_good hd ho) (by rw [postAcc_eq, decCount_eq]; rfl))
  case cmpd =>
    exact exec_of_decInsn (exec_cmpd a m s) h (decBody_goes (checkAccM_good hd ho) (by rw [decCount_eq]; rfl))
  case dneg => exact exec_of_aInsn (exec_dneg a s) h (decBody_goes (checkAcc_good hd) (postAcc_eq _ _ _))
  case dpref => exact exec_of_aInsn (exec_dpref a s) h (decBody_goes (checkAcc_good hd) (postAcc_eq _ _ _))
  case tstd => exact exec_of_aInsn (exec_tstd a s) h (by simp [pureBody])
  case clra => exact exec_of_aInsn (exec_clra a s) h rfl
  case ldd =>
    refine exec_of_body (exec_ldd a m s) (fun _ _ => rfl) h ?_
    simp [pureBody, hm]
  case lddImm =>
    refine exec_of_body (exec_ldd a m s) (fun _ _ => rfl) h ?_
    simp [pureBody, hm, checkPacked_good 2 ho]
  case std => exact (exec_std_eq h).trans (by rw [if_pos hz])
  case stdTrap => exact (exec_std_eq h).trans (by rw [if_neg (by simp [hz]), if_pos he])
  case stdDrop => exact (exec_std_eq h).trans (by rw [if_neg (by simp [hz]), if_neg (by simp [he])])

/-! ### O8 -/

theorem bits_zero_six (n : Nat) : bits n 0 6 = n % 64 := by simp [bits]

/-- R133: the quotient is truncated, and the remainder has the dividend's sign. -/
theorem tdiv_tmod_spec (x : Int) {y : Int} (hy : y ≠ 0) :
    x = x.tdiv y * y + x.tmod y ∧ (x.tmod y).natAbs < y.natAbs ∧ 0 ≤ x.tmod y * x := by
  refine ⟨(Int.tdiv_mul_add_tmod x y).symm, ?_, ?_⟩
  · rw [Int.natAbs_tmod]
    exact Nat.mod_lt _ (Int.natAbs_pos.2 hy)
  · rcases Int.le_total 0 x with hx | hx
    · exact Int.mul_nonneg (Int.tmod_nonneg y hx) hx
    · have hneg : 0 ≤ (-x).tmod y := Int.tmod_nonneg y (by omega)
      rw [Int.neg_tmod] at hneg
      exact Int.mul_nonneg_of_nonpos_of_nonpos (by omega) hx

/-- R138: the flags of ACC.Q are those of a value that it holds. -/
theorem ofInt_flags {v : Int} (hlo : -(2 ^ 63 : Int) ≤ v) (hhi : v < (2 ^ 63 : Int)) :
    (BitVec.ofInt 64 v == 0) = (v == 0) ∧ (BitVec.ofInt 64 v).msb = decide (v < 0) := by
  have hv : (BitVec.ofInt 64 v).toInt = v := BitVec.toInt_ofInt_eq_self (by decide) hlo hhi
  refine ⟨?_, by rw [BitVec.msb_eq_toInt, hv]⟩
  rw [Bool.eq_iff_iff, beq_iff_eq, beq_iff_eq, ← BitVec.toInt_inj, hv]
  rfl

/-- Settles O8: each instruction's body, after the checks of its fields and its conditions of order 3 (Table 4-5). -/
theorem decimalMultiplyDivideShift : Obligations.DecimalMultiplyDivideShift := by
  unfold Obligations.DecimalMultiplyDivideShift
  intro a m sel s r
  refine ⟨fun h hd ho hz => ?dmul, fun h hd ho hz => ?dmulWide, fun h hd ho hy => ?ddivZero, fun h hd ho hy => ?ddiv,
    fun h hd => ?dshl, fun h hd => ?dshr, fun h hd hn => ?dsrrZero, fun h hd hn => ?dsrr, fun h hd hlo hhi => ?cvdq,
    fun h hd hout he => ?cvdqTrap, fun h hd hout he => ?cvdqWrap, fun h => ?cvqd⟩
  case dmul =>
    exact exec_of_decInsn (exec_dmul a m s) h
      (decBody_goes (by simp [checkAccM_good hd ho, hz]) (postAcc_eq _ _ _))
  case dmulWide =>
    refine exec_of_decInsn (exec_dmul a m s) h (decBody_stops ?_)
    rw [natCast_one_shl]
    cases he : pswBit r.w.k.bank.psw eDOE <;> simp [checkAccM_good hd ho, hz, he]
  case ddivZero =>
    refine exec_of_decInsn (exec_ddiv a m s) h (decBody_stops ?_)
    rw [natCast_one_shl]
    have hy' : memVal m r.bs = 0 := hy
    cases he : pswBit r.w.k.bank.psw eZDE <;> simp [checkAccM_good hd ho, hy', he]
  case ddiv =>
    obtain ⟨hsum, hlt, hsign⟩ := tdiv_tmod_spec (pval r.w.k.bank.d) hy
    have hy' : memVal m r.bs ≠ 0 := hy
    exact ⟨_, _, hsum, hlt, hsign, exec_of_decInsn (exec_ddiv a m s) h
      (decBody_goes (by simp [checkAccM_good hd ho, hy']) rfl)⟩
  case dshl => exact exec_of_dshInsn (exec_dshl a sel s) h hd (by rw [bits_zero_six])
  case dshr => exact exec_of_dshInsn (exec_dshr a sel s) h hd (by rw [bits_zero_six]; rfl)
  case dsrrZero => exact exec_of_dshInsn (exec_dsrr a sel s) h hd (by rw [bits_zero_six]; exact if_pos hn)
  case dsrr => exact exec_of_dshInsn (exec_dsrr a sel s) h hd (by rw [bits_zero_six]; exact if_neg hn)
  case cvdq =>
    refine exec_of_aInsn (exec_cvdq a s) h (decBody_goes (checkAcc_good hd) ?_)
    obtain ⟨hz, hneg⟩ := ofInt_flags hlo hhi
    dsimp only
    rw [decide_eq_false (Int.not_lt.2 hlo), decide_eq_false (Int.not_le.2 hhi), hz, hneg]
    simp
  case cvdqTrap =>
    refine exec_of_aInsn (exec_cvdq a s) h (decBody_goes (checkAcc_good hd) ?_)
    dsimp only
    rw [← Bool.decide_or, decide_eq_true hout, he]
    rfl
  case cvdqWrap =>
    refine exec_of_aInsn (exec_cvdq a s) h (decBody_goes (checkAcc_good hd) ?_)
    dsimp only
    rw [← Bool.decide_or, decide_eq_true hout, he]
    rfl
  case cvqd => exact exec_of_aInsn (exec_cvqd a s) h (decBody_goes rfl rfl)

/-! ### O9 -/

section
variable {s : State} {a : Issue} {m : MOp} {r : Ready} {e : Eff}

/-- The checks of DMUL and DDIV come before their conditions of order 3 (Table 4-5). -/
theorem exec_dmul_stops
    (hr : s.issues a (fun _ k => { mForm a 0x54 m .d16 true k true false with micro := true, residue := true }) = .inr r)
    (he : checkAccM m r.w r.bs = some e) : exec (.dmul a m) s = .next (r.perform (Done.of r.w e none)) :=
  exec_of_decInsn (exec_dmul a m s) hr (decBody_stops (by simp only [he]))

theorem exec_ddiv_stops
    (hr : s.issues a (fun _ k => { mForm a 0x55 m .d16 true k true false with micro := true, residue := true }) = .inr r)
    (he : checkAccM m r.w r.bs = some e) : exec (.ddiv a m) s = .next (r.perform (Done.of r.w e none)) :=
  exec_of_decInsn (exec_ddiv a m s) hr (decBody_stops (by simp only [he]))

end

/-- Settles O9: the bodies of the packed instructions, then the first invalid field of every instruction that checks. -/
theorem decimalMemory : Obligations.DecimalMemory := by
  unfold Obligations.DecimalMemory
  refine ⟨fun a o s r => ?_, fun a m o sel s r i => ?_⟩
  · refine ⟨fun h hx hy => ?padd, fun h hx hy => ?psub, fun h hy => ?pset, fun h hx hy => ?pcmp, fun h => ?nmov⟩
    case padd => exact (exec_of_packInsn (exec_padd a o s) h (checkBoth_good hx hy) :)
    case psub => exact (exec_of_packInsn (exec_psub a o s) h (checkBoth_good hx hy) :)
    case pset =>
      exact (exec_of_packInsn (exec_pset a o s) h (by rw [checkPacked_good 2 hy, checks_none, checks_nil]) :)
    case pcmp => exact exec_of_ssInsn (exec_pcmp a o s) h (decBody_goes (checkBoth_good hx hy) rfl)
    case nmov => exact exec_of_body (exec_nmov a o s) (fun _ _ => rfl) h rfl
  · intro d y bad good raised mf bf af pf accM acc both
    refine ⟨?acc, ?accM, ?bothFirst, ?bothSecond, fun h hb => ?pset⟩
    case acc =>
      simp only [accM, acc, List.cons_append, List.nil_append, List.forall_mem_cons]
      exact ⟨fun h hb => exec_of_decInsn (exec_addd a m s) h (decBody_stops (checkAccM_bad_acc hb)),
        fun h hb => exec_of_decInsn (exec_subd a m s) h (decBody_stops (checkAccM_bad_acc hb)),
        fun h hb => exec_of_decInsn (exec_cmpd a m s) h (decBody_stops (checkAccM_bad_acc hb)),
        fun h hb => exec_dmul_stops h (checkAccM_bad_acc hb),
        fun h hb => exec_ddiv_stops h (checkAccM_bad_acc hb),
        fun h hb => exec_of_bInsn (exec_dshl a sel s) h (decBody_stops (checkAcc_bad _ hb)),
        fun h hb => exec_of_bInsn (exec_dshr a sel s) h (decBody_stops (checkAcc_bad _ hb)),
        fun h hb => exec_of_bInsn (exec_dsrr a sel s) h (decBody_stops (checkAcc_bad _ hb)),
        fun h hb => exec_of_aInsn (exec_dneg a s) h (decBody_stops (checkAcc_bad _ hb)),
        fun h hb => exec_of_aInsn (exec_dpref a s) h (decBody_stops (checkAcc_bad _ hb)),
        fun h hb => exec_of_aInsn (exec_cvdq a s) h (decBody_stops (checkAcc_bad _ hb)), List.forall_mem_nil _⟩
    case accM =>
      simp only [accM, List.forall_mem_cons]
      exact ⟨fun h hd hb => exec_of_decInsn (exec_addd a m s) h (decBody_stops (checkAccM_bad_operand hd hb)),
        fun h hd hb => exec_of_decInsn (exec_subd a m s) h (decBody_stops (checkAccM_bad_operand hd hb)),
        fun h hd hb => exec_of_decInsn (exec_cmpd a m s) h (decBody_stops (checkAccM_bad_operand hd hb)),
        fun h hd hb => exec_dmul_stops h (checkAccM_bad_operand hd hb),
        fun h hd hb => exec_ddiv_stops h (checkAccM_bad_operand hd hb),
        List.forall_mem_nil _⟩
    case bothFirst =>
      simp only [both, List.forall_mem_cons]
      exact ⟨fun h hb => exec_of_ssInsn (exec_padd a o s) h (decBody_stops (checkBoth_bad_first hb)),
        fun h hb => exec_of_ssInsn (exec_psub a o s) h (decBody_stops (checkBoth_bad_first hb)),
        fun h hb => exec_of_ssInsn (exec_pcmp a o s) h (decBody_stops (checkBoth_bad_first hb)),
        List.forall_mem_nil _⟩
    case bothSecond =>
      simp only [both, List.forall_mem_cons]
      exact ⟨fun h hx hb => exec_of_ssInsn (exec_padd a o s) h (decBody_stops (checkBoth_bad_second hx hb)),
        fun h hx hb => exec_of_ssInsn (exec_psub a o s) h (decBody_stops (checkBoth_bad_second hx hb)),
        fun h hx hb => exec_of_ssInsn (exec_pcmp a o s) h (decBody_stops (checkBoth_bad_second hx hb)),
        List.forall_mem_nil _⟩
    case pset =>
      exact exec_of_ssInsn (exec_pset a o s) h (decBody_stops (by rw [checkPacked_bad 2 hb, checks_some]; rfl))

end Sys2Proof.Machine

/-! PROOFS. Binary integers (05 R148 to R155, R192): sums and their flags, shifts, products and quotients, and loads and
stores. Settles O1 to O5. -/

namespace Sys2Proof.Machine

/-! ### Sums and their flags (R149) -/

/-- A value that ACC.Q does not hold. -/
def qOut (v : Int) : Bool := decide (v < -(2 ^ 63 : Int)) || decide ((2 ^ 63 : Int) ≤ v)

/-- The flags of an exact result `v` with its carry. -/
def qFlags (v : Int) (carry : Bool) : Flags :=
  { c := carry, v := qOut v, z := BitVec.ofInt 64 v == 0, n := decide ((BitVec.ofInt 64 v).toInt < 0), dv := false }

/-- The signs of two addends and of their sum say whether the sum fits. -/
theorem overflow_eq_qOut {x y : W64} {c v : Int} (h0 : 0 ≤ c) (h1 : c ≤ 1) (hv : x.toInt + y.toInt + c = v) :
    (x.msb == y.msb && (BitVec.ofInt 64 v).msb != x.msb) = qOut v := by
  have hx := x.toInt_lt
  have hx' := x.le_toInt
  have hy := y.toInt_lt
  have hy' := y.le_toInt
  rw [Bool.eq_iff_iff]
  simp only [BitVec.msb_eq_toInt, BitVec.toInt_ofInt, Int.bmod, qOut, Bool.and_eq_true, bne_iff_ne, beq_iff_eq,
    Bool.or_eq_true, decide_eq_true_eq, ne_eq, decide_eq_decide]
  split_ifs <;> omega

theorem toInt_not_eq (y : W64) : (~~~y).toInt = -y.toInt - 1 := by
  have hy := y.isLt
  simp only [BitVec.toInt_eq_toNat_cond, BitVec.toNat_not]
  split_ifs <;> omega

theorem addFlags_eq {x y : W64} {cin : Bool} {v : Int} (hv : x.toInt + y.toInt + cin.toNat = v) :
    addFlags x y cin = (BitVec.ofInt 64 v, qFlags v (decide (2 ^ 64 ≤ x.toNat + y.toNat + cin.toNat))) := by
  have hr : x + y + BitVec.ofNat 64 cin.toNat = BitVec.ofInt 64 v := by
    rw [← hv, BitVec.ofInt_add, BitVec.ofInt_add, BitVec.ofInt_toInt, BitVec.ofInt_toInt, BitVec.ofInt_natCast]
  have hov := overflow_eq_qOut (by omega) (by have := cin.toNat_lt; omega) hv
  rw [addFlags, hr, hov, BitVec.msb_eq_toInt, qFlags]

theorem subOf_eq {x y : W64} {cin : Bool} {v : Int} (hv : x.toInt - y.toInt - 1 + cin.toNat = v) :
    subOf x y cin = (BitVec.ofInt 64 v, qFlags v (decide (y.toNat + 1 ≤ x.toNat + cin.toNat))) := by
  have hsum : x.toInt + (~~~y).toInt + cin.toNat = v := by
    rw [toInt_not_eq]
    omega
  have hcarry : 2 ^ 64 ≤ x.toNat + (~~~y).toNat + cin.toNat ↔ y.toNat + 1 ≤ x.toNat + cin.toNat := by
    rw [BitVec.toNat_not]
    omega
  rw [subOf, addFlags_eq hsum, decide_eq_decide.2 hcarry]

/-- A subtraction without borrow in; its carry says that there is no borrow out. -/
theorem subOf_true (x y : W64) :
    subOf x y true
      = (BitVec.ofInt 64 (x.toInt - y.toInt), qFlags (x.toInt - y.toInt) (decide (y.toNat ≤ x.toNat))) := by
  rw [subOf_eq (v := x.toInt - y.toInt) (by simp)]
  simp

/-- A subtraction from 0 has no borrow out of 0 alone. -/
theorem subOf_zero (x : W64) :
    subOf 0 x true = (BitVec.ofInt 64 (-x.toInt), qFlags (-x.toInt) (decide (x = 0))) := by
  have hcarry : x.toNat ≤ 0 ↔ x = 0 := by rw [Nat.le_zero, BitVec.toNat_eq]; rfl
  rw [subOf_true, show (0 : W64).toInt = 0 from rfl, Int.zero_sub, show (0 : W64).toNat = 0 from rfl,
    decide_eq_decide.2 hcarry]

/-- The effect of an exact result `v` under R150: vector 10, or ACC.Q, the flags and the sticky bit. -/
def qEff (psw : W64) (v : Int) (carry : Bool) : Eff :=
  if qOut v ∧ pswBit psw eBOE then Eff.fail (mkTrapless 10)
  else
    let bvs : W64 := if qOut v then (1 : W64) <<< sBVS else 0
    Eff.of [(1, wrQ (BitVec.ofInt 64 v)), (1, .psw (mCVZN ||| bvs) ((qFlags v carry).word ||| bvs))] [] 1

theorem binEff_qFlags (w : Work) (v : Int) (carry : Bool) :
    binEff w (BitVec.ofInt 64 v) (qFlags v carry) true true = qEff w.k.bank.psw v carry := by
  simp [binEff, qEff, qFlags]

/-- An instruction that can neither raise vector 10 nor set PSW.BVS writes its flags alone beside its result. -/
theorem binEff_no_trap (w : Work) (r : W64) (f : Flags) (write : Bool) :
    binEff w r f write false
      = Eff.of ((if write then [(1, wrQ r)] else []) ++ [(1, .psw mCVZN f.word)]) [] 1 := by
  simp [binEff]

/-! ### From the issue of a binary instruction to its end -/

@[simp] theorem aInsn_body (a : Issue) (op : Nat) (body : Work → List (List Loc) → List (List Byte) → Done) :
    (aInsn a op body).body = body := rfl

@[simp] theorem bInsn_body (a : Issue) (op : Nat) (body : Work → List (List Loc) → List (List Byte) → Done) :
    (bInsn a op body).body = body := rfl

section
variable {s : State} {a : Issue} {op : Nat} {m : MOp} {r : Ready} {c : Instr}

/-- An instruction on ACC.Q and an operand ends as the flags of its result say. -/
theorem exec_of_arithInsn {signed write trap : Bool} {f : W64 → W64 → Bool → W64 × Flags}
    (hc : exec c s = s.run a (fun _ k => arithInsn a op m k signed write trap f))
    (hr : s.issues a (fun _ k => mForm a op m .q true k true false) = .inr r) {v : W64} {fl : Flags}
    (hf : f r.w.k.bank.q (qOperand m signed (op1 r.bs)) (r.w.k.bank.psw.getLsbD 0) = (v, fl)) :
    exec c s = .next (r.perform (Done.of r.w (binEff r.w v fl write trap) none)) := by
  refine exec_of_body hc (fun _ _ => rfl) hr ?_
  simp only [arithInsn, mInsn_body, pureBody, hf]

/-- An addition or subtraction of an operand writes its exact result, or raises vector 10 (R150). -/
theorem exec_of_sumInsn {f : W64 → W64 → Bool → W64 × Flags}
    (hc : exec c s = s.run a (fun _ k => arithInsn a op m k true true true f))
    (hr : s.issues a (fun _ k => mForm a op m .q true k true false) = .inr r) {v : Int} {carry : Bool}
    (hf : f r.w.k.bank.q (qOperand m true (op1 r.bs)) (r.w.k.bank.psw.getLsbD 0)
      = (BitVec.ofInt 64 v, qFlags v carry)) :
    exec c s = .next (r.perform (Done.of r.w (qEff r.w.k.bank.psw v carry) none)) := by
  rw [exec_of_arithInsn hc hr hf, binEff_qFlags]

end

/-! ### O1 -/

/-- Settles O1: each sum as an exact integer, a subtraction being the sum with the complement. -/
theorem binaryAddSubtract : Obligations.BinaryAddSubtract := by
  unfold Obligations.BinaryAddSubtract
  intro a m s r
  refine ⟨fun h => ?addq, fun h => ?adcq, fun h => ?subq, fun h => ?sbcq, fun h => ?cmpq, fun h => ?negq⟩
  case addq => exact exec_of_sumInsn (exec_addq a m s) h (addFlags_eq (by simp))
  case adcq => exact exec_of_sumInsn (exec_adcq a m s) h (addFlags_eq rfl)
  case subq => exact exec_of_sumInsn (exec_subq a m s) h (subOf_true _ _)
  case sbcq => exact exec_of_sumInsn (exec_sbcq a m s) h (subOf_eq rfl)
  case cmpq => exact (exec_of_arithInsn (exec_cmpq a m s) h (subOf_true _ _)).trans (by rw [binEff_no_trap]; rfl)
  case negq =>
    refine exec_of_body (exec_negq a s) (fun _ _ => rfl) h ?_
    simp only [aInsn_body, pureBody, subOf_zero, binEff_qFlags]
    rfl

/-! ### Logical instructions and shifts (R149) -/

theorem bne_zero_eq_decide (n : Nat) : (n != 0) = decide (n ≠ 0) := by
  rw [Bool.eq_iff_iff, bne_iff_ne, decide_eq_true_iff]

theorem shlQ_eq (x : W64) (n : Nat) :
    shlQ x n = (BitVec.ofNat 64 (x.toNat * 2 ^ n), decide (n ≠ 0) && x.getLsbD (64 - n)) := by
  have hres : x <<< n = BitVec.ofNat 64 (x.toNat * 2 ^ n) :=
    BitVec.eq_of_toNat_eq (by rw [BitVec.toNat_shiftLeft, BitVec.toNat_ofNat, Nat.shiftLeft_eq])
  rw [shlQ, hres, bne_zero_eq_decide]

theorem shrQ_eq (x : W64) (n : Nat) :
    shrQ x n = (BitVec.ofNat 64 (x.toNat / 2 ^ n), decide (n ≠ 0) && x.getLsbD (n - 1)) := by
  have hres : x >>> n = BitVec.ofNat 64 (x.toNat / 2 ^ n) := by
    refine BitVec.eq_of_toNat_eq ?_
    rw [BitVec.toNat_ushiftRight, BitVec.toNat_ofNat, Nat.shiftRight_eq_div_pow,
      Nat.mod_eq_of_lt (Nat.lt_of_le_of_lt (Nat.div_le_self _ _) x.isLt)]
  rw [shrQ, hres, bne_zero_eq_decide]

theorem sarQ_eq (x : W64) (n : Nat) :
    sarQ x n = (BitVec.ofInt 64 (x.toInt / (2 ^ n : Nat)), decide (n ≠ 0) && x.getLsbD (n - 1)) := by
  rw [sarQ, BitVec.sshiftRight_eq, Int.shiftRight_eq_div_pow, bne_zero_eq_decide]

/-- The effect of a result with its carry: V is 0. -/
def logicEff (v : W64) (carry : Bool) : Eff :=
  Eff.of [(1, wrQ v),
    (1, .psw mCVZN ({ c := carry, v := false, z := v == 0, n := v.getLsbD 63, dv := false } : Flags).word)] [] 1

theorem binEff_logicFlags (w : Work) (v : W64) (carry : Bool) :
    binEff w v (logicFlags v carry) true false = logicEff v carry := by
  rw [binEff_no_trap, logicFlags, BitVec.msb_eq_getLsbD_last]
  rfl

section
variable {s : State} {a : Issue} {op : Nat} {m : MOp} {sel : Byte} {r : Ready} {c : Instr}

/-- ANDQ, ORQ and XORQ. -/
theorem exec_of_logicInsn {g : W64 → W64 → W64}
    (hc : exec c s = s.run a (fun _ k =>
      arithInsn a op m k false true false (fun x y _ => (g x y, logicFlags (g x y) false))))
    (hr : s.issues a (fun _ k => mForm a op m .q true k true false) = .inr r) :
    exec c s = .next (r.perform (Done.of r.w
      (logicEff (g r.w.k.bank.q (qOperand m false (op1 r.bs))) false) none)) := by
  rw [exec_of_arithInsn hc hr rfl, binEff_logicFlags]

/-- A shift by the count of its selector's low six bits. -/
theorem exec_of_shiftInsn {f : W64 → Nat → W64 × Bool} (hc : exec c s = s.run a (fun _ _ => shiftInsn a op sel f))
    (hr : s.issues a (fun _ _ => { bForm a op with legal := decide (sel.toNat < 64) }) = .inr r) {v : W64}
    {carry : Bool} (hf : f r.w.k.bank.q (sel.toNat % 64) = (v, carry)) :
    exec c s = .next (r.perform (Done.of r.w (logicEff v carry) none)) := by
  refine exec_of_body hc (fun _ _ => rfl) hr ?_
  simp only [shiftInsn, bInsn_body, pureBody, bits_zero_six, hf, binEff_logicFlags]

end

/-! ### O2 -/

/-- Settles O2: each result with its carry. -/
theorem binaryLogicShift : Obligations.BinaryLogicShift := by
  unfold Obligations.BinaryLogicShift
  intro a m sel s r
  refine ⟨fun h => ?andq, fun h => ?orq, fun h => ?xorq, fun h => ?notq, fun h => ?shlq, fun h => ?shrq,
    fun h => ?sarq⟩
  case andq => exact exec_of_logicInsn (g := (· &&& ·)) (exec_andq a m s) h
  case orq => exact exec_of_logicInsn (g := (· ||| ·)) (exec_orq a m s) h
  case xorq => exact exec_of_logicInsn (g := (· ^^^ ·)) (exec_xorq a m s) h
  case notq =>
    exact exec_of_body (exec_notq a s) (fun _ _ => rfl) h
      (congrArg (Done.of r.w · none) (binEff_logicFlags r.w (~~~r.w.k.bank.q) false))
  case shlq => exact exec_of_shiftInsn (exec_shlq a sel s) h (shlQ_eq _ _)
  case shrq => exact exec_of_shiftInsn (exec_shrq a sel s) h (shrQ_eq _ _)
  case sarq => exact exec_of_shiftInsn (exec_sarq a sel s) h (sarQ_eq _ _)

/-! ### Loads and stores (R130, R151, R157, R192) -/

section
variable {m : MOp} {bs : List Byte}

theorem qOperand_imm (signed : Bool) (h : mImm m = true) : qOperand m signed bs = (mDisp m).signExtend 64 := by
  rw [qOperand, if_pos h]

theorem qOperand_mem_unsigned (h : mImm m = false) : qOperand m false bs = BitVec.ofNat 64 (beNat bs) := by
  simp [qOperand, h]

theorem qOperand_mem_signed (h : mImm m = false) :
    qOperand m true bs = BitVec.ofInt 64 (sext (8 * bs.length) (beNat bs)) := by
  simp [qOperand, h]

end

section
variable {s : State} {a : Issue} {op : Nat} {m : MOp} {r : Ready} {c : Instr}

/-- A load of ACC.Q writes its widened operand. -/
theorem exec_of_ldqInsn {signed : Bool} (hc : exec c s = s.run a (fun _ k => ldqInsn a op m k signed))
    (hr : s.issues a (fun _ k => mForm a op m .q true k true false) = .inr r) {v : W64}
    (hv : qOperand m signed (op1 r.bs) = v) :
    exec c s = .next (r.perform (Done.of r.w (Eff.of [(2, wrQ v)] [] 1) none)) :=
  exec_of_body hc (fun _ _ => rfl) hr (by rw [← hv]; rfl)

/-- A load of an index register from memory. -/
theorem exec_of_ldiInsn_mem {f : W32 → RegWr} (hc : exec c s = s.run a (fun _ k => ldiInsn a op m k f))
    (hr : s.issues a (fun _ k => mForm a op m .i true k true false) = .inr r) (hm : mImm m = false) :
    exec c s = .next (r.perform
      (Done.of r.w (Eff.of [(2, f (BitVec.ofNat 32 (beNat (op1 r.bs))))] [] 1) none)) :=
  exec_of_body hc (fun _ _ => rfl) hr (by simp [ldiInsn, pureBody, hm])

/-- A load of an index register with an immediate. -/
theorem exec_of_ldiInsn_imm {f : W32 → RegWr} (hc : exec c s = s.run a (fun _ k => ldiInsn a op m k f))
    (hr : s.issues a (fun _ k => mForm a op m .i true k true false) = .inr r) (hm : mImm m = true) :
    exec c s = .next (r.perform (Done.of r.w (Eff.of [(1, f (mDisp m))] [] 1) none)) :=
  exec_of_body hc (fun _ _ => rfl) hr (by simp [ldiInsn, pureBody, hm])

/-- A store writes the bytes that it takes from the core at its operand, and no register. -/
theorem mStore_body {form : State → Core → Form} (hr : s.issues a form = .inr r) (cls : LenCls)
    (f : Core → List Byte) :
    (mStore a op m cls r.k0 f).body r.w r.ls r.bs
      = Done.of r.w (Eff.of [] ((mReqs a m r.w.k false true).map (fun q => stTo r.w q r.ls (f r.w.k))) 1) none := by
  rw [mReqs_congr (State.issues_bank hr)]
  rfl

end

/-! ### O3 -/

/-- Settles O3: each load by its operand's mode, each store by its bytes. -/
theorem loadsAndStores : Obligations.LoadsAndStores := by
  unfold Obligations.LoadsAndStores
  intro a m sel s r
  refine ⟨fun h hm => ?ldq, fun h hm => ?ldqImm, fun h hm => ?ldqs, fun h hm => ?ldqsImm, fun h => ?ldiq,
    fun h => ?stq, fun h hm => ?ldix, fun h hm => ?ldixImm, fun h hm => ?ldiy, fun h hm => ?ldiyImm, fun h => ?stix,
    fun h => ?stiy, fun h => ?ldx, fun h => ?stx⟩
  case ldq => exact exec_of_ldqInsn (exec_ldq a m s) h (qOperand_mem_unsigned hm)
  case ldqImm => exact exec_of_ldqInsn (exec_ldq a m s) h (qOperand_imm _ hm)
  case ldqs => exact exec_of_ldqInsn (exec_ldqs a m s) h (qOperand_mem_signed hm)
  case ldqsImm => exact exec_of_ldqInsn (exec_ldqs a m s) h (qOperand_imm _ hm)
  case ldiq => exact exec_of_body (exec_ldiq a sel s) (fun _ _ => rfl) h rfl
  case stq => exact exec_of_body (exec_stq a m s) (fun _ _ => rfl) h (mStore_body h _ _)
  case ldix => exact exec_of_ldiInsn_mem (exec_ldix a m s) h hm
  case ldixImm => exact exec_of_ldiInsn_imm (exec_ldix a m s) h hm
  case ldiy => exact exec_of_ldiInsn_mem (exec_ldiy a m s) h hm
  case ldiyImm => exact exec_of_ldiInsn_imm (exec_ldiy a m s) h hm
  case stix => exact exec_of_body (exec_stix a m s) (fun _ _ => rfl) h (mStore_body h _ _)
  case stiy => exact exec_of_body (exec_stiy a m s) (fun _ _ => rfl) h (mStore_body h _ _)
  case ldx => exact exec_of_body (exec_ldx a m s) (fun _ _ => rfl) h rfl
  case stx =>
    exact exec_of_body (exec_stx a m s) (fun _ _ => rfl) h
      (mStore_body (op := 0x5F) h .x (fun k => beBytes 16 k.bank.x))

/-! ### Products (R152) -/

/-- A number of 128 bits is the two words that MPH and MPL take of it. -/
theorem toNat_append_halves {p : Nat} (hp : p < 2 ^ 128) :
    (BitVec.ofNat 64 (p / 2 ^ 64) ++ BitVec.ofNat 64 p).toNat = p := by
  rw [BitVec.toNat_append, ← Nat.shiftLeft_add_eq_or_of_lt (BitVec.isLt _), Nat.shiftLeft_eq, BitVec.toNat_ofNat,
    BitVec.toNat_ofNat]
  omega

theorem natAbs_toInt_le (x : W64) : x.toInt.natAbs ≤ 2 ^ 63 := by
  have := x.toInt_lt
  have := x.le_toInt
  omega

theorem toNat_mul_lt (x y : W64) : x.toNat * y.toNat < 2 ^ 128 :=
  (Nat.mul_lt_mul'' x.isLt y.isLt).trans_eq (by decide)

/-- The two words of a signed product, modulo 2^128, spell the product. -/
theorem toInt_append_halves {v : Int} (hv : v.natAbs < 2 ^ 127) :
    (BitVec.ofNat 64 (wrapInt 128 v / 2 ^ 64) ++ BitVec.ofNat 64 (wrapInt 128 v)).toInt = v := by
  have hp : wrapInt 128 v < 2 ^ 128 := by unfold wrapInt; omega
  rw [BitVec.toInt_eq_toNat_bmod, toNat_append_halves hp, wrapInt, Int.bmod]
  split_ifs <;> omega

/-! ### O4 -/

/-- Settles O4: the product has 128 bits, signed or unsigned. -/
theorem binaryMultiply : Obligations.BinaryMultiply := by
  unfold Obligations.BinaryMultiply
  intro a m s r
  refine ⟨fun h => ?mul, fun h => ?mulu⟩
  case mul =>
    refine ⟨_, _, toInt_append_halves ?_, exec_of_body (exec_mul a m s) (fun _ _ => rfl) h rfl⟩
    calc (r.w.k.bank.q.toInt * (qOperand m true (op1 r.bs)).toInt).natAbs
        = r.w.k.bank.q.toInt.natAbs * (qOperand m true (op1 r.bs)).toInt.natAbs := Int.natAbs_mul _ _
      _ ≤ 2 ^ 63 * 2 ^ 63 := Nat.mul_le_mul (natAbs_toInt_le _) (natAbs_toInt_le _)
      _ < 2 ^ 127 := by decide
  case mulu =>
    exact ⟨_, _, toNat_append_halves (toNat_mul_lt _ _), exec_of_body (exec_mulu a m s) (fun _ _ => rfl) h rfl⟩

/-! ### Quotients (R153) -/

/-- What a divide does to the registers once its conditions are decided. -/
def divEff (q r : W64) (sticky : List (Nat × RegWr)) : Eff := Eff.of ([(18, .dvq q), (18, .dvm r)] ++ sticky) [] 1

section
variable {s : State} {a : Issue} {op : Nat} {m : MOp} {r : Ready} {c : Instr} {signed : Bool}
  (hc : exec c s = s.run a (fun _ k => divInsn a op m k signed))
  (hr : s.issues a (fun _ k => { mForm a op m .q true k true false with divider := 18 }) = .inr r)
include hc hr

theorem exec_of_divInsn_trap {x : Exn}
    (hd : (divide r.w.k.bank.psw signed r.w.k.bank.q (qOperand m signed (op1 r.bs))).exn = some x) :
    exec c s = .next (r.perform (Done.of r.w (Eff.fail x) none)) :=
  exec_of_body hc (fun _ _ => rfl) hr (by simp [divInsn, pureBody, hd])

theorem exec_of_divInsn_sticky {p q rem : W64} {x : Option Exn}
    (hd : divide r.w.k.bank.psw signed r.w.k.bank.q (qOperand m signed (op1 r.bs))
      = { exn := x, sticky := p, q := q, r := rem }) (hx : x = none) (hp : ¬p = 0#64) :
    exec c s = .next (r.perform (Done.of r.w (divEff q rem [(1, .psw p p)]) none)) :=
  exec_of_body hc (fun _ _ => rfl) hr (by simp [divInsn, pureBody, hd, hx, hp, divEff])

theorem exec_of_divInsn_done {q rem : W64}
    (hd : divide r.w.k.bank.psw signed r.w.k.bank.q (qOperand m signed (op1 r.bs))
      = { exn := none, sticky := 0, q := q, r := rem }) :
    exec c s = .next (r.perform (Done.of r.w (divEff q rem []) none)) :=
  exec_of_body hc (fun _ _ => rfl) hr (by simp [divInsn, pureBody, hd, divEff])

end

section
variable {psw x y : W64} {signed : Bool}

theorem divide_zero (h : y = 0) :
    divide psw signed x y
      = { exn := if pswBit psw eZDE then some (mkTrapless 9) else none
          sticky := (1 : W64) <<< sZDS, q := 0, r := x } := by
  rw [divide, if_pos h]

theorem divide_overflow (hx : x.toInt = -(2 ^ 63 : Int)) (hy : y.toInt = -1) :
    divide psw true x y
      = { exn := if pswBit psw eBOE then some (mkTrapless 10) else none
          sticky := (1 : W64) <<< sBVS, q := BitVec.ofInt 64 (-(2 ^ 63 : Int)), r := 0 } := by
  have hy0 : y ≠ 0 := by rintro rfl; exact absurd hy (by decide)
  rw [divide, if_neg hy0, if_pos rfl, if_pos ⟨hx, hy⟩]

theorem divide_signed (hy : y ≠ 0) (hov : ¬(x.toInt = -(2 ^ 63 : Int) ∧ y.toInt = -1)) :
    divide psw true x y
      = { exn := none, sticky := 0, q := BitVec.ofInt 64 (x.toInt.tdiv y.toInt)
          r := BitVec.ofInt 64 (x.toInt.tmod y.toInt) } := by
  rw [divide, if_neg hy, if_pos rfl, if_neg hov]

theorem divide_unsigned (hy : y ≠ 0) :
    divide psw false x y
      = { exn := none, sticky := 0, q := BitVec.ofNat 64 (x.toNat / y.toNat)
          r := BitVec.ofNat 64 (x.toNat % y.toNat) } := by
  rw [divide, if_neg hy, if_neg Bool.false_ne_true]

/-- A value of magnitude up to 2^63, but 2^63 itself, is held by a word. -/
theorem toInt_ofInt_of_natAbs_le {v : Int} (h : v.natAbs ≤ 2 ^ 63) (hv : v ≠ 2 ^ 63) :
    (BitVec.ofInt 64 v).toInt = v :=
  BitVec.toInt_ofInt_eq_self (by decide) (by omega) (by omega)

theorem toNat_ofNat_of_le {v : Nat} (h : v ≤ x.toNat) : (BitVec.ofNat 64 v).toNat = v := by
  rw [BitVec.toNat_ofNat, Nat.mod_eq_of_lt (Nat.lt_of_le_of_lt h x.isLt)]

/-- A signed quotient but the one overflow is held by a word. -/
theorem toInt_ofInt_tdiv (hy0 : y.toInt ≠ 0) (hov : ¬(x.toInt = -(2 ^ 63 : Int) ∧ y.toInt = -1)) :
    (BitVec.ofInt 64 (x.toInt.tdiv y.toInt)).toInt = x.toInt.tdiv y.toInt := by
  have hx := natAbs_toInt_le x
  have habs : (x.toInt.tdiv y.toInt).natAbs = x.toInt.natAbs / y.toInt.natAbs := Int.natAbs_tdiv _ _
  refine toInt_ofInt_of_natAbs_le (habs ▸ (Nat.div_le_self _ _).trans hx) (fun hq => ?_)
  have hy : y.toInt.natAbs = 1 := by
    by_contra hne
    have hhalf : x.toInt.natAbs / y.toInt.natAbs ≤ x.toInt.natAbs / 2 := Nat.div_le_div_left (by omega) (by decide)
    omega
  rcases Int.natAbs_eq_iff.1 hy with hy | hy
  · rw [hy, Nat.cast_one, Int.tdiv_one] at hq
    have := x.toInt_lt
    omega
  · rw [hy, Nat.cast_one, Int.tdiv_neg, Int.tdiv_one] at hq
    exact hov ⟨by omega, hy⟩

theorem toInt_ofInt_tmod (hy : y.toInt ≠ 0) :
    (BitVec.ofInt 64 (x.toInt.tmod y.toInt)).toInt = x.toInt.tmod y.toInt := by
  have hlt := (tdiv_tmod_spec x.toInt hy).2.1
  have hle := natAbs_toInt_le y
  exact toInt_ofInt_of_natAbs_le (by omega) (by omega)

end

/-! ### O5 -/

/-- Settles O5: each clause by its condition of R153. -/
theorem binaryDivide : Obligations.BinaryDivide := by
  unfold Obligations.BinaryDivide
  intro a m s r
  refine ⟨fun h hy he => ?zeroTrap, fun h hy he => ?zero, fun h hx hy he => ?overflowTrap,
    fun h hx hy he => ?overflow, fun h hy hov => ?signed, fun h hy he => ?uzeroTrap, fun h hy he => ?uzero,
    fun h hy => ?unsigned⟩
  case zeroTrap => exact exec_of_divInsn_trap (exec_div a m s) h (by rw [divide_zero hy, if_pos he])
  case zero =>
    exact exec_of_divInsn_sticky (exec_div a m s) h (divide_zero hy) (if_neg (by simp [he])) (by decide)
  case overflowTrap => exact exec_of_divInsn_trap (exec_div a m s) h (by rw [divide_overflow hx hy, if_pos he])
  case overflow =>
    exact exec_of_divInsn_sticky (exec_div a m s) h (divide_overflow hx hy) (if_neg (by simp [he])) (by decide)
  case signed =>
    have hy0 : (qOperand m true (op1 r.bs)).toInt ≠ 0 := fun h0 => hy (BitVec.toInt_inj.1 h0)
    refine ⟨_, _, exec_of_divInsn_done (exec_div a m s) h (divide_signed hy hov), ?_⟩
    rw [toInt_ofInt_tdiv hy0 hov, toInt_ofInt_tmod hy0]
    exact tdiv_tmod_spec _ hy0
  case uzeroTrap => exact exec_of_divInsn_trap (exec_divu a m s) h (by rw [divide_zero hy, if_pos he])
  case uzero =>
    exact exec_of_divInsn_sticky (exec_divu a m s) h (divide_zero hy) (if_neg (by simp [he])) (by decide)
  case unsigned =>
    have hy0 : 0 < (qOperand m false (op1 r.bs)).toNat := Nat.pos_of_ne_zero fun h0 => hy (BitVec.eq_of_toNat_eq h0)
    refine ⟨_, _, exec_of_divInsn_done (exec_divu a m s) h (divide_unsigned hy), ?_⟩
    have hlt : r.w.k.bank.q.toNat % (qOperand m false (op1 r.bs)).toNat < (qOperand m false (op1 r.bs)).toNat :=
      Nat.mod_lt _ hy0
    rw [toNat_ofNat_of_le (Nat.div_le_self _ _), toNat_ofNat_of_le (Nat.mod_le _ _)]
    exact ⟨(Nat.div_add_mod' _ _).symm, hlt⟩

end Sys2Proof.Machine

/-! PROOFS. Floating-point instructions (05 R157 to R165): what each passes to the common end of R160. Settles O11 and
O12. -/

namespace Sys2Proof.Machine

section
variable {s : State} {a : Issue} {op : Nat} {m : MOp} {r : Ready} {c : Instr}

/-- An instruction on ACC.B and an operand that does not use the divider. -/
theorem exec_of_binInsn {f : Bank → Nat → Work → Eff} (hc : exec c s = s.run a (fun _ k => binInsn a op m k f))
    (hr : s.issues a (fun _ k => { mForm a op m .b false k true false with r3 := false, divider := 0 }) = .inr r) :
    exec c s = .next (r.perform (Done.of r.w (f r.w.k.bank (beNat (op1 r.bs)) r.w) none)) :=
  exec_of_body hc (fun _ _ => rfl) hr rfl

/-- An instruction on ACC.X and an operand, with its residue check (R165). -/
theorem exec_of_decXInsn {res : Nat → Nat → Option Int} {f : Bank → Nat → Work → Eff}
    (hc : exec c s = s.run a (fun _ k => decXInsn a op m k res f))
    (hr : s.issues a (fun _ k => { mForm a op m .x false k true false with r3 := false, residue := true }) = .inr r) :
    exec c s = .next (r.perform (Done.of r.w (f r.w.k.bank (beNat (op1 r.bs)) r.w)
      (res r.w.k.bank.x (beNat (op1 r.bs))))) :=
  exec_of_body hc (fun _ _ => rfl) hr rfl

/-- A conversion between ACC.D and ACC.X, with its residue check (R165), ends as its body answers. -/
theorem exec_of_cvInsn {body : Work → List (List Loc) → List (List Byte) → Done}
    (hc : exec c s = s.run a (fun _ _ => { aInsn a op body with r3 := false, residue := true }))
    (hr : s.issues a (fun _ _ => { aForm a op with r3 := false, residue := true }) = .inr r) {d : Done}
    (hd : body r.w r.ls r.bs = d) : exec c s = .next (r.perform d) :=
  exec_of_body hc (fun _ _ => rfl) hr hd

end

/-! ### O11 -/

/-- Settles O11: the statement's effect is `fpEff` of each operation's result. -/
theorem floatBinary64 : Obligations.FloatBinary64 := by
  unfold Obligations.FloatBinary64
  intro a m s r
  refine ⟨fun h => ?faddb, fun h => ?fsubb, fun h => ?fmulb, fun h => ?fdivb, fun h => ?fcmpb, fun h => ?bsqrt,
    fun h => ?cvqb, fun h => ?cvbq⟩
  case faddb => exact exec_of_binInsn (exec_faddb a m s) h
  case fsubb => exact exec_of_binInsn (exec_fsubb a m s) h
  case fmulb => exact exec_of_binInsn (exec_fmulb a m s) h
  case fdivb => exact exec_of_body (exec_fdivb a m s) (fun _ _ => rfl) h rfl
  case fcmpb => exact exec_of_binInsn (exec_fcmpb a m s) h
  case bsqrt => exact exec_of_body (exec_bsqrt a s) (fun _ _ => rfl) h rfl
  case cvqb => exact exec_of_body (exec_cvqb a s) (fun _ _ => rfl) h rfl
  case cvbq => exact exec_of_body (exec_cvbq a s) (fun _ _ => rfl) h rfl

/-! ### O12 -/

/-- Settles O12: as O11, with the value of each residue check; CVDX checks the fields of ACC.D first. -/
theorem floatDecimal128 : Obligations.FloatDecimal128 := by
  unfold Obligations.FloatDecimal128
  intro a m s r
  refine ⟨fun h => ?faddx, fun h => ?fsubx, fun h => ?fmulx, fun h => ?fdivx, fun h => ?fcmpx, fun h hd => ?cvdx,
    fun h i hd => ?cvdxStops, fun h => ?cvxd⟩
  case faddx => exact exec_of_decXInsn (exec_faddx a m s) h
  case fsubx => exact exec_of_decXInsn (exec_fsubx a m s) h
  case fmulx => exact exec_of_decXInsn (exec_fmulx a m s) h
  case fdivx => exact exec_of_decXInsn (exec_fdivx a m s) h
  case fcmpx => exact exec_of_body (exec_fcmpx a m s) (fun _ _ => rfl) h rfl
  case cvdx => exact exec_of_cvInsn (exec_cvdx a s) h (decBody_goes (checkAcc_good hd) rfl)
  case cvdxStops => exact exec_of_cvInsn (exec_cvdx a s) h (decBody_stops (checkAcc_bad _ hd))
  case cvxd => exact exec_of_cvInsn (exec_cvxd a s) h rfl

end Sys2Proof.Machine

/-! PROOFS. The decimal128 encoding (05 R156): declets and their digits, the fields of an encoding, and the round trip
of a finite number. Settles O13. -/

namespace Sys2Proof.Machine

/-! ### Declets -/

/-- A canonical declet has ten bits and spells the digits that it was made of. -/
theorem declet_spells : ∀ a < 10, ∀ e < 10, ∀ i < 10,
    declet a e i < 1024 ∧ decletDigits (declet a e i) = (a, e, i) := by decide +kernel

/-- The declet of the last three digits of a number. -/
theorem declet_last (c : Nat) :
    declet (c / 100 % 10) (c / 10 % 10) (c % 10) < 1024
      ∧ decletDigits (declet (c / 100 % 10) (c / 10 % 10) (c % 10)) = (c / 100 % 10, c / 10 % 10, c % 10) :=
  declet_spells _ (Nat.mod_lt _ (by decide)) _ (Nat.mod_lt _ (by decide)) _ (Nat.mod_lt _ (by decide))

theorem decletsOf_lt (n c : Nat) : decletsOf n c < 1024 ^ n := by
  induction n generalizing c with
  | zero => exact Nat.one_pos
  | succ n ih =>
    have hlast := (declet_last c).1
    have hrest := ih (c / 1000)
    rw [decletsOf, Nat.pow_succ]
    omega

/-- `n` canonical declets spell their number modulo 1000^n. -/
theorem decletsVal_decletsOf (n c : Nat) : decletsVal n (decletsOf n c) = c % 1000 ^ n := by
  induction n generalizing c with
  | zero => exact (Nat.mod_one c).symm
  | succ n ih =>
    obtain ⟨hlt, hdigits⟩ := declet_last c
    have hrest : decletsOf (n + 1) c / 1024 = decletsOf n (c / 1000) := by rw [decletsOf]; omega
    have hlast : decletsOf (n + 1) c % 1024 = declet (c / 100 % 10) (c / 10 % 10) (c % 10) := by rw [decletsOf]; omega
    have hmod : c % 1000 ^ (n + 1) = c % 1000 + 1000 * (c / 1000 % 1000 ^ n) := by rw [pow_succ', Nat.mod_mul]
    rw [decletsVal, hrest, hlast, hdigits, ih, hmod]
    dsimp only
    omega

/-! ### The fields of an encoding -/

/-- A number made of a sign bit, a combination field, an exponent continuation and a trailing significand gives them
back, and has 128 bits. -/
theorem decFields {n g x t : Nat} (hn : n < 2) (hg : g < 32) (hx : x < 4096) (ht : t < 2 ^ 110) {v : Nat}
    (hv : v = n * 2 ^ 127 + g * 2 ^ 122 + x * 2 ^ 110 + t) :
    v / 2 ^ 127 = n ∧ bits v 122 5 = g ∧ bits v 110 12 = x ∧ v % 2 ^ 110 = t ∧ v < 2 ^ 128 := by
  subst hv
  unfold bits
  refine ⟨?_, ?_, ?_, ?_, ?_⟩ <;> omega

/-- The combination field of the biased exponent's top bits `h` and the coefficient's top digit `d`. -/
def decComb (h d : Nat) : Nat := if 8 ≤ d then 24 + h * 2 + d % 2 else h * 8 + d

/-- A combination field is that of a finite number, and gives back the bits and the digit that it was made of. -/
theorem decComb_spells {h d : Nat} (hh : h < 3) (hd : d < 10) :
    decComb h d < 30
      ∧ (if 24 ≤ decComb h d then (decComb h d / 2 % 4, 8 + decComb h d % 2)
          else (decComb h d / 8, decComb h d % 8)) = (h, d) := by
  unfold decComb
  split_ifs <;> simp only [Prod.mk.injEq] <;> omega

theorem decEnc_eq_fields (neg : Bool) (c : Nat) (e : Int) :
    decEnc neg c e
      = neg.toNat * 2 ^ 127 + decComb ((e + 6176).toNat / 4096) (c / 10 ^ 33) * 2 ^ 122
        + (e + 6176).toNat % 4096 * 2 ^ 110 + decletsOf 11 (c % 10 ^ 33) := rfl

/-! ### O13 -/

/-- Settles O13: the fields of the encoding, then the digits of each. -/
theorem decimal128RoundTrip : Obligations.Decimal128RoundTrip := by
  unfold Obligations.Decimal128RoundTrip
  intro neg c e hc hlo hhi
  have hb : (e + 6176).toNat < 12288 := by omega
  obtain ⟨hg, hcomb⟩ := decComb_spells (h := (e + 6176).toNat / 4096) (d := c / 10 ^ 33) (by omega) (by omega)
  obtain ⟨hsign, hgv, hxv, htv, hv⟩ := decFields neg.toNat_lt (Nat.lt_trans hg (by decide))
    (Nat.mod_lt _ (by decide)) (decletsOf_lt 11 _) (decEnc_eq_fields neg c e)
  refine ⟨?_, hv⟩
  have hneg : bit (decEnc neg c e) 127 = neg := by
    rw [bit, hsign]
    cases neg <;> rfl
  have hcoef : c / 10 ^ 33 * 10 ^ 33 + c % 10 ^ 33 % 1000 ^ 11 = c := by omega
  have hexp : (((e + 6176).toNat / 4096 * 4096 + (e + 6176).toNat % 4096 : Nat) : Int) - 6176 = e := by omega
  simp only [decOf, hneg, hgv, hxv, htv, decletsVal_decletsOf]
  rw [if_neg (by omega), if_neg (by omega), hcomb]
  simp only [hcoef, hexp]

end Sys2Proof.Machine

/-! PROOFS. String, translate and edit instructions (06 R172 to R186): bytes and where they first differ, bytes stored one
at a time, the pattern that FMT and FMTM edit, and one step of a long instruction. Settles O14, O15 and O16. -/

namespace Sys2Proof.Machine

/-! ### Bytes of an operand -/

theorem byteAt_of_lt {l : List Byte} {i : Nat} (h : i < l.length) : byteAt l i = l[i] := by
  simp [byteAt, h]

theorem byteAt_mem_take {l : List Byte} {i j : Nat} (hj : j < i) (hi : i < l.length) : byteAt l j ∈ l.take i := by
  rw [byteAt_of_lt (hj.trans hi)]
  exact List.mem_take_iff_getElem.2 ⟨j, by omega, rfl⟩

/-- The first byte that meets a condition. -/
theorem findIdx?_of_byteAt {p : Byte → Bool} {l : List Byte} {i : Nat} (hi : i < l.length)
    (hp : p (byteAt l i) = true) (hbefore : ∀ j < i, p (byteAt l j) = false) : l.findIdx? p = some i := by
  rw [byteAt_of_lt hi] at hp
  refine List.findIdx?_eq_some_iff_getElem.2 ⟨hi, hp, fun j hj => ?_⟩
  have hlt := hbefore j hj
  rw [byteAt_of_lt (hj.trans hi)] at hlt
  simp [hlt]

/-! ### Where two operands first differ (R174, R186) -/

@[simp] theorem firstDiff_self (l : List Byte) (i : Nat) : firstDiff i l l = none := by
  induction l generalizing i with
  | nil => rfl
  | cons u l ih => rw [firstDiff, if_pos rfl, ih]

theorem firstDiff_from_of_take {i : Nat} {x y : List Byte} (hx : i < x.length) (hy : i < y.length)
    (hsame : x.take i = y.take i) (hdiff : byteAt x i ≠ byteAt y i) {j : Nat} : firstDiff j x y = some (j + i) := by
  induction x generalizing i j y with
  | nil => exact absurd hx (Nat.not_lt_zero i)
  | cons u x ih =>
    cases y with
    | nil => exact absurd hy (Nat.not_lt_zero i)
    | cons v y =>
      cases i with
      | zero => exact if_neg hdiff
      | succ i =>
        obtain ⟨huv, hsame⟩ := List.cons.inj hsame
        rw [firstDiff, if_pos huv, ih (Nat.lt_of_succ_lt_succ hx) (Nat.lt_of_succ_lt_succ hy) hsame hdiff]
        congr 1
        omega

theorem firstDiff_of_take {i : Nat} {x y : List Byte} (hx : i < x.length) (hy : i < y.length)
    (hsame : x.take i = y.take i) (hdiff : byteAt x i ≠ byteAt y i) : firstDiff 0 x y = some i := by
  rw [firstDiff_from_of_take hx hy hsame hdiff, Nat.zero_add]

theorem diffFlags_self (l : List Byte) :
    diffFlags l l = { c := true, v := false, z := true, n := false, dv := false } := by
  simp [diffFlags]

/-- The flags of operands that first differ at byte `i`: C says that operand 1 is the greater, N that it is the less. -/
theorem diffFlags_of_firstDiff {x y : List Byte} {i : Nat} (h : firstDiff 0 x y = some i)
    (hdiff : byteAt x i ≠ byteAt y i) :
    diffFlags x y
      = { c := decide ((byteAt y i).toNat < (byteAt x i).toNat), v := false, z := false
          n := decide ((byteAt x i).toNat < (byteAt y i).toNat), dv := false } := by
  have hne : (byteAt x i).toNat ≠ (byteAt y i).toNat := fun he => hdiff (BitVec.eq_of_toNat_eq he)
  have hgt : (!decide ((byteAt x i).toNat < (byteAt y i).toNat))
      = decide ((byteAt y i).toNat < (byteAt x i).toNat) := by
    rw [← decide_not, decide_eq_decide]
    omega
  simp only [diffFlags, h, hgt]

/-! ### Bytes stored one at a time (R172) -/

/-- A byte read at the location `x` once `v` has been stored at `l`, where it was `b`. -/
def seenByte (n : Nat) (l : Loc) (v : Byte) (x : Loc) (b : Byte) : Byte :=
  match locCell n l, locCell n x with
  | some (a, st), some (a', _) => if a = a' then st b v else b
  | _, _ => b

theorem seen_eq_zipWith (n : Nat) (l : Loc) (v : Byte) (ls : List Loc) (bs : List Byte) :
    seen n l v ls bs = List.zipWith (seenByte n l v) ls bs := by
  induction ls generalizing bs with
  | nil => rfl
  | cons x ls ih =>
    cases bs with
    | nil => rfl
    | cons b bs => exact congrArg (seenByte n l v x b :: ·) (ih bs)

/-- Two locations that lie in no cell in common. -/
def LocsApart (n : Nat) (l x : Loc) : Prop :=
  ∀ p, locCell n l = some p → ∀ q, locCell n x = some q → p.1 ≠ q.1

theorem seenByte_of_apart {n : Nat} {l x : Loc} (h : LocsApart n l x) (v b : Byte) : seenByte n l v x b = b := by
  unfold seenByte
  split
  · next hl hx => exact if_neg (h _ hl _ hx)
  · rfl

/-- A store leaves the bytes that lie apart from it. -/
theorem seen_of_apart {n : Nat} {l : Loc} {ls : List Loc} {bs : List Byte} (h : ∀ x ∈ ls, LocsApart n l x)
    (hlen : bs.length = ls.length) (v : Byte) : seen n l v ls bs = bs := by
  rw [seen_eq_zipWith]
  refine List.ext_getElem (by simp [hlen]) fun i h1 h2 => ?_
  rw [List.getElem_zipWith, seenByte_of_apart (h _ (List.getElem_mem _))]

/-- A plain store is what the byte at its own location reads as. -/
theorem byteAt_seen_tile {n o i : Nat} {ls : List Loc} {bs : List Byte} (hl : ls[i]? = some (.tile o .plain))
    (hi : i < bs.length) (v : Byte) : byteAt (seen n (.tile o .plain) v ls bs) i = v := by
  have hself (b : Byte) : seenByte n (.tile o .plain) v (.tile o .plain) b = v := if_pos rfl
  simp [byteAt, seen_eq_zipWith, List.getElem?_zipWith, hl, hi, hself]

/-- Where no two bytes concerned lie in one cell, each byte from `pre` on is `f` of the operands as they were. -/
theorem byByte_of_apart {n : Nat} {f : Byte → Nat → List Byte → Byte} {l2 : List Loc} {b2 : List Byte}
    (hlen2 : b2.length = l2.length) {rest : List Loc} {brest : List Byte} (hlen : brest.length = rest.length)
    (hrest : rest.Pairwise (LocsApart n)) (h2 : ∀ l ∈ rest, ∀ x ∈ l2, LocsApart n l x) {pre : List Loc}
    {bpre : List Byte} (hpre : bpre.length = pre.length) :
    byByte n f (pre ++ rest) l2 pre.length rest (bpre ++ brest) b2
      = (List.range rest.length).map (fun i => f (byteAt brest i) (pre.length + i) b2) := by
  induction rest generalizing brest pre bpre with
  | nil => rfl
  | cons l rest ih =>
    obtain ⟨hl, hrest⟩ := List.pairwise_cons.1 hrest
    obtain ⟨b, brest, rfl⟩ := List.exists_cons_of_length_eq_add_one hlen
    have hhead : byteAt (bpre ++ b :: brest) pre.length = b := by simp [byteAt, hpre]
    have hseen (v : Byte) : seen n l v (pre ++ l :: rest) (bpre ++ b :: brest)
        = (List.zipWith (seenByte n l v) pre bpre ++ [seenByte n l v l b]) ++ brest := by
      have htail := seen_of_apart hl (Nat.succ.inj hlen) v
      rw [seen_eq_zipWith] at htail ⊢
      rw [List.zipWith_append hpre.symm, List.zipWith_cons_cons, htail, List.append_assoc, List.singleton_append]
    have ih := ih (brest := brest) (pre := pre ++ [l]) (bpre := List.zipWith (seenByte n l (f b pre.length b2)) pre bpre
      ++ [seenByte n l (f b pre.length b2) l b]) (Nat.succ.inj hlen) hrest
      (fun x hx => h2 x (List.mem_cons_of_mem _ hx)) (by simp [hpre])
    simp only [List.append_assoc, List.singleton_append, List.length_append, List.length_singleton] at ih
    simp only [byByte, hhead, hseen, seen_of_apart (h2 l List.mem_cons_self) hlen2, List.append_assoc,
      List.singleton_append, ih, List.length_cons, List.range_succ_eq_map, List.map_cons, List.map_map]
    simp [byteAt, Function.comp_def, Nat.add_assoc, Nat.add_comm 1]

/-- Locations whose cells are all different lie apart, within a list and from one list to the other. -/
theorem locsApart_of_nodup {n : Nat} {l1 l2 : List Loc}
    (h : (((l1 ++ l2).filterMap (locCell n)).map (fun p => p.1)).Nodup) :
    l1.Pairwise (LocsApart n) ∧ ∀ l ∈ l1, ∀ x ∈ l2, LocsApart n l x := by
  rw [List.Nodup, List.pairwise_map, List.pairwise_filterMap, List.pairwise_append] at h
  exact ⟨h.1, h.2.2⟩

/-- `len` bytes of the own tile from offset `o` on. -/
def tileLocs (o len : Nat) : List Loc := (List.range len).map (fun i => Loc.tile (o + i) .plain)

theorem tileLocs_succ (o len : Nat) : tileLocs o (len + 1) = .tile o .plain :: tileLocs (o + 1) len := by
  simp [tileLocs, List.range_succ_eq_map, Function.comp_def, Nat.add_assoc, Nat.add_comm 1]

theorem tileLocs_getElem? {o len i : Nat} (h : i < len) : (tileLocs o len)[i]? = some (.tile (o + i) .plain) := by
  simp [tileLocs, h]

/-- A move one byte upward over itself, once it has come to byte `i`, stores that byte from there on (R174). -/
theorem byByte_move_up (n off len : Nat) (l1 : List Loc) {i m : Nat} (him : i + m = len) {b2 : List Byte}
    (hlen : b2.length = len) {v : Byte} (hv : m ≠ 0 → byteAt b2 i = v) :
    byByte n (fun _ i t => byteAt t i) l1 (tileLocs off len) i (tileLocs (off + 1 + i) m) [] b2
      = List.replicate m v := by
  induction m generalizing i b2 with
  | zero => rfl
  | succ m ih =>
    have hnone (l : Loc) : seen n l v l1 [] = [] := by rw [seen_eq_zipWith, List.zipWith_nil_right]
    have hnext : m ≠ 0 → byteAt (seen n (.tile (off + 1 + i) .plain) v (tileLocs off len) b2) (i + 1) = v := by
      intro hm
      have hat : (tileLocs off len)[i + 1]? = some (.tile (off + 1 + i) .plain) := by
        rw [tileLocs_getElem? (by omega), Nat.add_right_comm, Nat.add_assoc]
      exact byteAt_seen_tile hat (by omega) v
    have hlen' : (seen n (.tile (off + 1 + i) .plain) v (tileLocs off len) b2).length = len := by
      simp [seen_eq_zipWith, tileLocs, hlen]
    rw [tileLocs_succ, byByte, hv (Nat.succ_ne_zero m), hnone, List.replicate_succ, Nat.add_assoc _ i 1,
      ih (by omega) hlen' hnext]

/-! ### From the issue of a byte instruction to its end -/

section
variable {s : State} {a : Issue} {op : Nat} {o : SOp} {one : Bool} {r : Ready} {c : Instr}

/-- An SS instruction without a residue check ends as its effect says. -/
theorem exec_of_bytesInsn {reqs : Core → List Req} {f : Core → Work → List (List Loc) → List (List Byte) → Eff}
    (hc : exec c s = s.run a (fun _ k => ssInsn a op o one k (reqs k) (pureBody (f k))))
    (hr : s.issues a (fun _ k => ssForm a op o one k (reqs k)) = .inr r) {e : Eff} (he : f r.k0 r.w r.ls r.bs = e) :
    exec c s = .next (r.perform (Done.of r.w e none)) :=
  exec_of_body hc (fun _ _ => rfl) hr (congrArg (Done.of r.w · none) he)

end

/-! ### O14 -/

/-- BXSR ends at the first byte of operand 1 whose translation is not 0. -/
theorem findIdx?_translated {x y : List Byte} {i : Nat} (hi : i < x.length)
    (hbefore : ∀ u ∈ x.take i, byteAt y u.toNat = 0) (hhit : byteAt y (byteAt x i).toNat ≠ 0) :
    x.findIdx? (fun u => byteAt y u.toNat != 0) = some i :=
  findIdx?_of_byteAt hi (bne_iff_ne.2 hhit) fun _ hj => by simp [hbefore _ (byteAt_mem_take hj hi)]

/-- Settles O14: each instruction's effect, then the two laws of bytes stored one at a time. -/
theorem byteStrings : Obligations.ByteStrings := by
  unfold Obligations.ByteStrings
  refine ⟨fun a o s r => ?_, fun n f l1 l2 b1 b2 => ⟨fun hapart h1 h2 => ?_, fun off len hlen => ?_⟩⟩
  · refine ⟨fun h => ?bmov, fun h hxy => ?bcmpSame, fun h i hx hy hsame hdiff => ?bcmp, fun h => ?band, fun h => ?bor,
      fun h => ?bxor, fun h => ?bxlt, fun h hnone => ?bxsrNone, fun h i hi hbefore hhit => ?bxsr, fun h => ?ztop,
      fun h => ?ptoz⟩
    case bmov => exact exec_of_bytesInsn (exec_bmov a o s) h rfl
    case bcmpSame => exact exec_of_bytesInsn (exec_bcmp a o s) h (by rw [hxy, diffFlags_self]; rfl)
    case bcmp =>
      have hfirst := firstDiff_of_take hx hy hsame hdiff
      exact exec_of_bytesInsn (exec_bcmp a o s) h (by rw [diffFlags_of_firstDiff hfirst hdiff]; rfl)
    case band => exact exec_of_bytesInsn (exec_band a o s) h rfl
    case bor => exact exec_of_bytesInsn (exec_bor a o s) h rfl
    case bxor => exact exec_of_bytesInsn (exec_bxor a o s) h rfl
    case bxlt => exact exec_of_bytesInsn (exec_bxlt a o s) h rfl
    case bxsrNone =>
      have hmiss : (op1 r.bs).findIdx? (fun u => byteAt (op2 r.bs) u.toNat != 0) = none :=
        List.findIdx?_eq_none_iff.2 fun u hu => by simp [hnone u hu]
      exact exec_of_bytesInsn (exec_bxsr a o s) h (by simp only [hmiss])
    case bxsr => exact exec_of_bytesInsn (exec_bxsr a o s) h (by simp only [findIdx?_translated hi hbefore hhit])
    case ztop => exact exec_of_bytesInsn (exec_ztop a o s) h rfl
    case ptoz => exact exec_of_bytesInsn (exec_ptoz a o s) h rfl
  · obtain ⟨hpair, hcross⟩ := locsApart_of_nodup hapart
    have h := byByte_of_apart (f := f) h2 h1 hpair hcross (pre := []) (bpre := []) rfl
    simpa using h
  · exact byByte_move_up n off len _ (Nat.zero_add len) hlen (fun _ => rfl)

/-! ### Editing (R177 to R179) -/

/-- Where FMTM (`float`) places the float character: before the first significant character, on a fill character. -/
def floatAt (float : Bool) (fill : Byte) (ed : List Byte × Option Nat) : Option Nat :=
  match ed.2 with
  | some (j + 1) => if float && byteAt ed.1 j == fill then some j else none
  | _ => none

section
variable {fill : Byte} {ed : List Byte × Option Nat} {j : Nat}

theorem floatAt_false : floatAt false fill ed = none := by
  unfold floatAt
  split <;> rfl

theorem floatAt_true (hj : ed.2 = some (j + 1)) (hfill : byteAt ed.1 j = fill) : floatAt true fill ed = some j := by
  simp [floatAt, hj, hfill]

theorem floatAt_none {float : Bool} (h : ∀ j, ed.2 = some (j + 1) → byteAt ed.1 j ≠ fill) :
    floatAt float fill ed = none := by
  unfold floatAt
  split
  · next j hj => simp [h j hj]
  · rfl

end

/-- The pattern `pat` edited for the value `v` (Table 6-3), and the position of its first significant character. -/
def editedPattern (fill : Byte) (pat : List Byte) (v : Int) : List Byte × Option Nat :=
  editGo fill (decide (v < 0)) 0 false none pat (decDigits (digitPlaces pat) v.natAbs)

/-- The effect of editing `v` into `ed`, with the float character at `pos`, and with `dv` where digits were dropped. -/
def editEff (o : SOp) (b : Bank) (v : Int) (dv : Bool) (ed : List Byte × Option Nat) (pos : Option Nat)
    (put : List Byte → StOp) : Eff :=
  let n : Nat := 6 * ((ssN1 o + 7) / 8)
  let dvs : W64 := if dv then (1 : W64) <<< sDVS else 0
  let f : Flags := { c := pos.isSome, v := false, z := v == 0, n := decide (v < 0), dv := dv }
  Eff.of ((n, .psw (mFlags ||| dvs) (f.word ||| dvs)) ::
      pos.toList.map (fun j => (n, .ix (ssEa1 o b + BitVec.ofNat 32 j))))
    [put (pos.elim ed.1 (fun j => patch ed.1 j [b.accByte 22]))] n

section
variable {s : State} {a : Issue} {op : Nat} {o : SOp} {float : Bool} {r : Ready} {c : Instr}
  (hc : exec c s = s.run a (fun _ k => fmtInsn a op o k float))
  (hr : s.issues a (fun _ k => ssForm a op o false k [ssReq1 a o k (ssN1 o) true true, ssReq2 a o k (ssN2 o)]) = .inr r)
include hc hr

theorem exec_of_fmtInsn_bad {i : Nat} (hbad : badNibble 0 (nibbles (op2 r.bs)) = some i) :
    exec c s = .next (r.perform (Done.of r.w (Eff.fail (dataExn r.w.k 2 i)) none)) :=
  exec_of_bytesInsn hc hr (by simp only [checkPacked_bad 2 hbad])

variable (hgood : badNibble 0 (nibbles (op2 r.bs)) = none)
include hgood

theorem exec_of_fmtInsn_trap (hover : ¬(pval (op2 r.bs)).natAbs < 10 ^ digitPlaces (op1 r.bs))
    (hdoe : pswBit r.w.k.bank.psw eDOE = true) :
    exec c s = .next (r.perform (Done.of r.w (Eff.fail (mkTrapless 8)) none)) :=
  exec_of_bytesInsn hc hr (by simp [checkPacked_good 2 hgood, Nat.not_lt.1 hover, hdoe])

/-- FMT and FMTM of a valid field that do not trap. -/
theorem exec_of_fmtInsn_done {dv : Bool}
    (hdv : decide (10 ^ digitPlaces (op1 r.bs) ≤ (pval (op2 r.bs)).natAbs) = dv)
    (hdoe : (dv && pswBit r.w.k.bank.psw eDOE) = false) {ed : List Byte × Option Nat}
    (hed : editedPattern (r.w.k.bank.accByte 23) (op1 r.bs) (pval (op2 r.bs)) = ed) {pos : Option Nat}
    (hpos : floatAt float (r.w.k.bank.accByte 23) ed = pos) :
    exec c s = .next (r.perform (Done.of r.w (editEff o r.w.k.bank (pval (op2 r.bs)) dv ed pos
      (stTo r.w (ssReq1 a o r.k0 (ssN1 o) true true) r.ls)) none)) := by
  refine exec_of_bytesInsn hc hr ?_
  subst hpos hed
  unfold editedPattern editEff floatAt
  simp only [checkPacked_good 2 hgood, hdv, hdoe, Bool.false_eq_true, if_false]
  obtain ⟨out, first⟩ := editGo (r.w.k.bank.accByte 23) (decide (pval (op2 r.bs) < 0)) 0 false none (op1 r.bs)
    (decDigits (digitPlaces (op1 r.bs)) (pval (op2 r.bs)).natAbs)
  rcases first with _ | _ | j
  · rfl
  · rfl
  · cases hfloat : float && byteAt out j == r.w.k.bank.accByte 23 <;> simp [hfloat]

end

/-! ### O15 -/

/-- Settles O15: the checks of the field, then what FMT and FMTM edit. -/
theorem editing : Obligations.Editing := by
  unfold Obligations.Editing
  intro a o s r
  refine ⟨fun i hbad => ⟨fun h => ?fmtBad, fun h => ?fmtmBad⟩,
    fun hgood hover hdoe => ⟨fun h => ?fmtTrap, fun h => ?fmtmTrap⟩, fun h hgood hfits => ?fmt,
    fun h hgood hover hdoe => ?fmtDrop, fun h hgood hfits j hj hfill => ?fmtmFloat, fun h hgood hfits hno => ?fmtm⟩
  case fmtBad => exact exec_of_fmtInsn_bad (exec_fmt a o s) h hbad
  case fmtmBad => exact exec_of_fmtInsn_bad (exec_fmtm a o s) h hbad
  case fmtTrap => exact exec_of_fmtInsn_trap (exec_fmt a o s) h hgood hover hdoe
  case fmtmTrap => exact exec_of_fmtInsn_trap (exec_fmtm a o s) h hgood hover hdoe
  case fmt =>
    exact (exec_of_fmtInsn_done (exec_fmt a o s) h hgood (decide_eq_false (Nat.not_le.2 hfits)) rfl rfl
      floatAt_false).trans (by simp [editEff, editedPattern])
  case fmtDrop =>
    exact (exec_of_fmtInsn_done (exec_fmt a o s) h hgood (decide_eq_true (Nat.not_lt.1 hover)) hdoe rfl
      floatAt_false).trans (by rw [natCast_one_shl]; simp [editEff, editedPattern])
  case fmtmFloat =>
    exact (exec_of_fmtInsn_done (exec_fmtm a o s) h hgood (decide_eq_false (Nat.not_le.2 hfits)) rfl rfl
      (floatAt_true hj hfill)).trans (by simp [editEff, editedPattern])
  case fmtm =>
    exact (exec_of_fmtInsn_done (exec_fmtm a o s) h hgood (decide_eq_false (Nat.not_le.2 hfits)) rfl rfl
      (floatAt_none hno)).trans (by simp [editEff, editedPattern])

/-! ### Long instructions (R180 to R186) -/

/-- A step takes all of the length where the length is at most what a step can take. -/
theorem longLen_le_stepLen (b : Bank) (most : Nat) : b.longLen ≤ b.stepLen most ↔ b.longLen ≤ most := by
  rw [Bank.stepLen, le_min_iff, and_iff_right le_rfl]

theorem stepLen_of_lt {b : Bank} {most : Nat} (h : most < b.longLen) : b.stepLen most = most :=
  Nat.min_eq_right h.le

theorem stepLen_of_longLen_zero {b : Bank} (h : b.longLen = 0) (most : Nat) : b.stepLen most = 0 := by
  rw [Bank.stepLen, h, Nat.zero_min]

theorem stepLen_ne_zero {b : Bank} {most : Nat} (h : b.longLen ≠ 0) (hmost : most ≠ 0) : b.stepLen most ≠ 0 := by
  unfold Bank.stepLen
  omega

/-- SCAN stops at a byte that is equal to the sought one, or with NE at one that is not (R186). -/
theorem scan_test_iff (u v : Byte) (ne : Bool) : ((u == v) != ne) = true ↔ (u = v ↔ ne = false) := by
  cases ne <;> simp

theorem scan_hits {x : List Byte} {i : Nat} (hi : i < x.length) {v : Byte} {ne : Bool}
    (hhit : byteAt x i = v ↔ ne = false) (hbefore : ∀ j < i, ¬(byteAt x j = v ↔ ne = false)) :
    x.findIdx? (fun u => (u == v) != ne) = some i :=
  findIdx?_of_byteAt hi ((scan_test_iff _ _ _).2 hhit) fun j hj =>
    Bool.eq_false_iff.2 fun ht => hbefore j hj ((scan_test_iff _ _ _).1 ht)

theorem scan_misses {x : List Byte} {v : Byte} {ne : Bool} (hmiss : ∀ u ∈ x, ¬(u = v ↔ ne = false)) :
    x.findIdx? (fun u => (u == v) != ne) = none :=
  List.findIdx?_eq_none_iff.2 fun u hu => Bool.eq_false_iff.2 fun ht => hmiss u hu ((scan_test_iff _ _ _).1 ht)

/-- The form of a step of a long instruction. -/
def longForm (a : Issue) (op : Nat) (reqs : Core → List Req) : State → Core → Form := fun _ k =>
  { aForm a op with
    r3 := false, slotBar := true, reqs := if k.bank.longLen = 0 then [] else reqs k, ss := true, micro := true }

section
variable {s : State} {a : Issue} {op : Nat} {r : Ready} {c : Instr}

/-- A step of a long instruction ends as its effect says. -/
theorem exec_of_longInsn {reqs : Core → List Req} {f : Core → Work → List (List Loc) → List (List Byte) → Eff}
    (hc : exec c s = s.run a (fun _ k => longInsn a op k (reqs k) (f k)))
    (hr : s.issues a (longForm a op reqs) = .inr r) {e : Eff} (he : f r.k0 r.w r.ls r.bs = e) :
    exec c s = .next (r.perform (Done.of r.w e none)) :=
  exec_of_body hc (fun _ _ => rfl) hr (congrArg (Done.of r.w · none) he)

/-- A step of LCMP, whose bytes first differ at `hit`. -/
theorem exec_lcmp_eq
    (hr : s.issues a (longForm a 0x1B (fun k => [longReq true k.bank.f1 k (k.bank.stepLen 16) true false,
      longReq false k.bank.f2 k (k.bank.stepLen 16) true false])) = .inr r) {hit : Option Nat}
    (hhit : firstDiff 0 (op1 r.bs) (op2 r.bs) = hit) {fin : Bool}
    (hfin : (hit.isSome || decide (r.w.k.bank.longLen ≤ 16)) = fin) {go : Nat}
    (hgo : hit.getD (r.w.k.bank.stepLen 16) = go) :
    exec (.lcmp a) s = .next (r.perform (Done.of r.w (longEff
      ([longQ (r.w.k.bank.longLen - go), .ix (r.w.k.bank.ix + BitVec.ofNat 32 go),
          .iy (r.w.k.bank.iy + BitVec.ofNat 32 go)]
        ++ if fin then [.psw mCVZN (diffFlags (op1 r.bs) (op2 r.bs)).word] else []) [] 4 fin) none)) :=
  exec_of_longInsn (exec_lcmp a s) hr (by simp only [longLen_le_stepLen, hhit, hgo, hfin])

/-- A step of SCAN that stops at byte `hit`. -/
theorem exec_scan_eq
    (hr : s.issues a (longForm a 0x1C (fun k => [longReq true k.bank.f1 k (k.bank.stepLen 16) true false])) = .inr r)
    {hit : Option Nat}
    (hhit : (op1 r.bs).findIdx? (fun u => (u == r.w.k.bank.accByte 23) != r.w.k.bank.ne) = hit) {fin : Bool}
    (hfin : (hit.isSome || decide (r.w.k.bank.longLen ≤ 16)) = fin) {go : Nat}
    (hgo : hit.getD (r.w.k.bank.stepLen 16) = go) :
    exec (.scan a) s = .next (r.perform (Done.of r.w (longEff
      ([longQ (r.w.k.bank.longLen - go), .ix (r.w.k.bank.ix + BitVec.ofNat 32 go)]
        ++ if fin then
            [.psw mCVZN ({ c := false, v := false, z := hit.isNone, n := false, dv := false } : Flags).word]
          else []) [] 3 fin) none)) :=
  exec_of_longInsn (exec_scan a s) hr (by simp only [longLen_le_stepLen, hhit, hgo, hfin])

end

/-! ### O16 -/

/-- Settles O16: the effect of each step, by what it finds and whether it takes all of the length. -/
theorem longSteps : Obligations.LongSteps := by
  unfold Obligations.LongSteps
  intro a s r
  refine ⟨fun h h0 => ?lmovEmpty, fun h h0 => ?lmov, fun h hxy hle => ?lcmpEnd, fun h hxy hlt => ?lcmpGo,
    fun h i hx hy hsame hdiff => ?lcmpHit, fun h i hi hhit hbefore => ?scanHit, fun h hmiss hle => ?scanEnd,
    fun h hmiss hlt => ?scanGo, fun h h0 => ?lxltEmpty, fun h h0 => ?lxlt⟩
  case lmovEmpty =>
    have hend : decide (r.w.k.bank.longLen ≤ 0) = true := decide_eq_true (Nat.le_of_eq h0)
    exact exec_of_longInsn (exec_lmov a s) h (by simp only [stepLen_of_longLen_zero h0, hend, if_true]; rfl)
  case lmov =>
    exact exec_of_longInsn (exec_lmov a s) h
      (by simp only [stepLen_ne_zero h0 (most := 16) (by decide), longLen_le_stepLen]; rfl)
  case lcmpEnd =>
    exact (exec_lcmp_eq h (hit := none) (by rw [hxy, firstDiff_self]) (decide_eq_true hle) rfl).trans
      (by rw [hxy, diffFlags_self]; rfl)
  case lcmpGo =>
    exact exec_lcmp_eq h (hit := none) (by rw [hxy, firstDiff_self]) (decide_eq_false (Nat.not_le.2 hlt))
      (stepLen_of_lt hlt)
  case lcmpHit =>
    have hfirst := firstDiff_of_take hx hy hsame hdiff
    exact (exec_lcmp_eq h hfirst rfl rfl).trans (by rw [diffFlags_of_firstDiff hfirst hdiff]; rfl)
  case scanHit => exact exec_scan_eq h (scan_hits hi hhit hbefore) rfl rfl
  case scanEnd => exact exec_scan_eq h (scan_misses hmiss) (decide_eq_true hle) rfl
  case scanGo => exact exec_scan_eq h (scan_misses hmiss) (decide_eq_false (Nat.not_le.2 hlt)) (stepLen_of_lt hlt)
  case lxltEmpty =>
    have hend : decide (r.w.k.bank.longLen ≤ 0) = true := decide_eq_true (Nat.le_of_eq h0)
    exact exec_of_longInsn (exec_lxlt a s) h (by simp only [stepLen_of_longLen_zero h0, hend, if_true]; rfl)
  case lxlt =>
    exact exec_of_longInsn (exec_lxlt a s) h
      (by simp only [stepLen_ne_zero h0 (most := 8) (by decide), longLen_le_stepLen]; rfl)

end Sys2Proof.Machine

/-! PROOFS. Instructions on the index registers (07 R192): each writes one register, modulo 2^32, and no flag.
Settles O6. -/

namespace Sys2Proof.Machine

/-! ### From the issue of an index-register instruction to its end -/

/-- What the body of an instruction answers whose one result is the write `x`, a cycle later: `ixInsn` by definition. -/
def ixDone (w : Work) (x : RegWr) : Done := Done.of w (Eff.of [(1, x)] [] 1) none

/-! ### Index registers modulo 2^32 (R192) -/

theorem ofInt_natCast_toNat (v : W32) : BitVec.ofInt 32 v.toNat = v := by
  rw [BitVec.ofInt_natCast, BitVec.ofNat_toNat, BitVec.setWidth_eq]

theorem add_one_eq_ofInt (v : W32) : v + 1 = BitVec.ofInt 32 (v.toNat + 1) := by
  rw [BitVec.ofInt_add, ofInt_natCast_toNat]
  rfl

theorem sub_one_eq_ofInt (v : W32) : v - 1 = BitVec.ofInt 32 (v.toNat - 1) := by
  rw [Int.sub_eq_add_neg, BitVec.ofInt_add, ofInt_natCast_toNat, BitVec.sub_eq_add_neg]
  rfl

theorem add_signExtend_eq_ofInt (v : W32) (sel : Byte) :
    v + sel.signExtend 32 = BitVec.ofInt 32 (v.toInt + sel.toInt) := by
  rw [BitVec.ofInt_add, BitVec.ofInt_toInt]
  rfl

/-! ### O6 -/

/-- Settles O6: each instruction as the write of its register. -/
theorem indexRegisters : Obligations.IndexRegisters := by
  unfold Obligations.IndexRegisters
  intro a m sel s r
  refine ⟨fun h => ?incx, fun h => ?decx, fun h => ?incy, fun h => ?decy, fun h => ?txy, fun h => ?tyx,
    fun h => ?addix, fun h => ?addiy, fun h => ?leax, fun h => ?leay⟩
  case incx =>
    exact exec_of_body (exec_incx a s) (fun _ _ => rfl) h (congrArg (ixDone r.w <| .ix ·) (add_one_eq_ofInt _))
  case decx =>
    exact exec_of_body (exec_decx a s) (fun _ _ => rfl) h (congrArg (ixDone r.w <| .ix ·) (sub_one_eq_ofInt _))
  case incy =>
    exact exec_of_body (exec_incy a s) (fun _ _ => rfl) h (congrArg (ixDone r.w <| .iy ·) (add_one_eq_ofInt _))
  case decy =>
    exact exec_of_body (exec_decy a s) (fun _ _ => rfl) h (congrArg (ixDone r.w <| .iy ·) (sub_one_eq_ofInt _))
  case txy =>
    exact exec_of_body (exec_txy a s) (fun _ _ => rfl) h (congrArg (ixDone r.w <| .iy ·) (ofInt_natCast_toNat _).symm)
  case tyx =>
    exact exec_of_body (exec_tyx a s) (fun _ _ => rfl) h (congrArg (ixDone r.w <| .ix ·) (ofInt_natCast_toNat _).symm)
  case addix =>
    exact exec_of_body (exec_addix a sel s) (fun _ _ => rfl) h
      (congrArg (ixDone r.w <| .ix ·) (add_signExtend_eq_ofInt _ _))
  case addiy =>
    exact exec_of_body (exec_addiy a sel s) (fun _ _ => rfl) h
      (congrArg (ixDone r.w <| .iy ·) (add_signExtend_eq_ofInt _ _))
  case leax =>
    exact exec_of_body (exec_leax a m s) (fun _ _ => rfl) h (congrArg (ixDone r.w <| .ix ·) BitVec.ofInt_toInt.symm)
  case leay =>
    exact exec_of_body (exec_leay a m s) (fun _ _ => rfl) h (congrArg (ixDone r.w <| .iy ·) BitVec.ofInt_toInt.symm)

end Sys2Proof.Machine

/-! PROOFS. Accesses outside the tile and posted stores (02 R92, 07 R197, R198, 08 R203, R218, 15 R411, R416): what
their responses, acknowledgements and time-outs leave. Settles O31 and O32. -/

namespace Sys2Proof.Machine

/-! ### The core that an update leaves -/

@[simp] theorem State.core_setCore (s : State) (c : CoreId) (k : Core) : (s.setCore c k).core c = k :=
  spGet_spPut_self _ _ _ _

@[simp] theorem State.channel_setChannel (s : State) (k : Nat) (x : Channel) : (s.setChannel k x).channel k = x :=
  spGet_spPut_self _ _ _ _

/-! ### Banks (R204) -/

@[simp] theorem Core.bankAt_setBankAt (k : Core) (i : Fin 5) (b : Bank) : (k.setBankAt i b).bankAt i = b := by
  unfold Core.setBankAt Core.bankAt
  split
  · exact Vector.getElem_set_self _
  · rfl

theorem Core.bankAt_loopOff (k : Core) (i : Fin 5) : k.loopOff.bankAt i = k.bankAt i := by
  unfold Core.loopOff
  split <;> rfl

theorem testBit_bits (v lo n j : Nat) : (bits v lo n).testBit j = (decide (j < n) && v.testBit (lo + j)) := by
  rw [bits, Nat.testBit_mod_two_pow, Nat.testBit_div_two_pow, Nat.add_comm]

/-- The number in a field of a word, once the field has been written. -/
theorem bits_setField {w : Nat} (x : BitVec w) {lo n : Nat} (h : lo + n ≤ w) (v : Nat) :
    bits (setField x lo n v).toNat lo n = v % 2 ^ n := by
  refine Nat.eq_of_testBit_eq (fun j => ?_)
  rw [testBit_bits, Nat.testBit_mod_two_pow]
  by_cases hj : j < n
  · have hw : lo + j < w := by omega
    rw [BitVec.testBit_toNat]
    simp only [setField, BitVec.getLsbD_or, BitVec.getLsbD_and, BitVec.getLsbD_not, BitVec.getLsbD_ofNat]
    simp [hj, hw, Nat.testBit_mul_two_pow]
  · simp [hj]

/-- ACC.Q written reads back (R48). -/
theorem Bank.q_write_wrQ (b : Bank) (v : W64) : (b.write (wrQ v)).q = v := by
  show BitVec.ofNat 64 (bits (setField b.acc 0 64 v.toNat).toNat 0 64) = v
  rw [bits_setField _ (by decide), Nat.mod_eq_of_lt v.isLt, BitVec.ofNat_toNat, BitVec.setWidth_eq]

/-! ### What the end of an access leaves of the core (R197) -/

/-- What a core awaits, what it has retired, what it has decided and what is in flight, with its clock. -/
def Core.farSide (k : Core) : List FarWait × Nat × Option Exn × List InFlight × Nat :=
  (k.waits, k.retired, k.exn, k.inflight, k.now)

theorem Core.fields_of_farSide {k j : Core} (h : j.farSide = k.farSide) :
    j.waits = k.waits ∧ j.retired = k.retired ∧ j.exn = k.exn ∧ j.inflight = k.inflight ∧ j.now = k.now := by
  simpa only [Core.farSide, Prod.mk.injEq] using h

theorem Core.waits_of_farSide {k j : Core} (h : j.farSide = k.farSide) : j.waits = k.waits := by
  obtain ⟨hwaits, -⟩ := Core.fields_of_farSide h
  exact hwaits

theorem Core.inflight_of_farSide {k j : Core} (h : j.farSide = k.farSide) : j.inflight = k.inflight := by
  obtain ⟨-, -, -, hinfl, -⟩ := Core.fields_of_farSide h
  exact hinfl

theorem Core.now_of_farSide {k j : Core} (h : j.farSide = k.farSide) : j.now = k.now := by
  obtain ⟨-, -, -, -, hnow⟩ := Core.fields_of_farSide h
  exact hnow

theorem Core.setBankAt_farSide (k : Core) (i : Fin 5) (b : Bank) : (k.setBankAt i b).farSide = k.farSide := by
  unfold Core.setBankAt
  split <;> rfl

theorem Core.specWrite_farSide (k : Core) (cc : Bool) (n : Nat) (v : W64) :
    (k.specWrite cc n v).farSide = k.farSide := by
  simp only [Core.specWrite, apply_ite Core.farSide]
  simp only [Core.farSide, ite_self]

theorem Core.land_farSide (k : Core) (cc : Bool) (f : InFlight) : (k.land cc f).farSide = k.farSide := by
  unfold Core.land
  split
  case h_1 => exact Core.specWrite_farSide _ _ _ _
  case h_3 =>
    dsimp only
    split
    · exact Core.setBankAt_farSide _ _ _
    · exact Core.setBankAt_farSide _ _ _
  case h_4 => rfl
  all_goals exact Core.setBankAt_farSide _ _ _

/-- A result for ACC.Q lands in its bank. -/
theorem Core.land_wrQ (k : Core) (cc : Bool) (i : Fin 5) (t : Nat) (v : W64) :
    k.land cc { bank := i, due := t, wr := wrQ v } = k.setBankAt i ((k.bankAt i).write (wrQ v)) := rfl

theorem Core.loopOff_farSide (k : Core) : k.loopOff.farSide = k.farSide := by
  unfold Core.loopOff
  split <;> rfl

/-- Results that take effect leave the others in flight. -/
theorem Core.settle_farSide (k : Core) (cc : Bool) (t : Nat) :
    (k.settle cc t).farSide = { k with inflight := k.inflight.filter (fun f => !decide (f.due ≤ t)) }.farSide := by
  have hland : ∀ (l : List InFlight) (j : Core), (l.foldl (fun (k : Core) f => k.land cc f) j).farSide = j.farSide := by
    intro l
    induction l with
    | nil => exact fun _ => rfl
    | cons f r ih => exact fun j => (ih _).trans (j.land_farSide cc f)
  exact (Core.loopOff_farSide _).trans (hland _ _)

/-- The one result in flight lands when its cycle has come (R190). -/
theorem Core.settle_single {k : Core} {f : InFlight} (h : k.inflight = [f]) (cc : Bool) {t : Nat} (ht : f.due ≤ t) :
    k.settle cc t = (({ k with inflight := [] } : Core).land cc f).loopOff := by
  simp [Core.settle, h, ht, sortDue, insertDue]

theorem Core.fetchOne_farSide (k : Core) (x : Code) : (k.fetchOne x).farSide = k.farSide := by
  unfold Core.fetchOne
  split <;> rfl

theorem State.fillBlock_farSide (s : State) (c : CoreId) (k : Core) (b : BgFill) (t : Nat) :
    (s.fillBlock c k b t).2.farSide = k.farSide := by
  unfold State.fillBlock
  dsimp only
  split
  · rfl
  · split
    · rfl
    · split
      · rfl
      · exact Core.setBankAt_farSide _ _ _

theorem State.grant_farSide (s : State) (c : CoreId) (k : Core) (g : Grant) (t : Nat) :
    (s.grant c k g t).2.farSide = k.farSide := by
  cases g with
  | fetch => exact k.fetchOne_farSide _
  | drain =>
    simp only [State.grant]
    split <;> rfl
  | fill =>
    simp only [State.grant]
    split
    · exact s.fillBlock_farSide c k _ t
    · rfl

theorem State.portGo_farSide (c : CoreId) (upto n : Nat) (s : State) (k : Core) :
    (State.portGo c upto n s k).2.farSide = k.farSide := by
  induction n generalizing s k with
  | zero => rfl
  | succ n ih =>
    unfold State.portGo
    split
    · rfl
    · next g t _ =>
      split
      · exact (ih _ _).trans (s.grant_farSide c k g t)
      · rfl

theorem State.portTo_farSide (s : State) (c : CoreId) (k : Core) (upto : Nat) :
    (s.portTo c k upto).2.farSide = k.farSide := State.portGo_farSide c upto 24 s k

theorem Core.fetchFrom_farSide (k : Core) (a : W32) (code : List (Nat × Byte)) :
    (k.fetchFrom a code).farSide = k.farSide := by
  unfold Core.fetchFrom
  split <;> rfl

/-- A loop body that is fetched again costs a control core a cycle, and leaves the rest (R64). -/
theorem Core.fetchBack_farSide (k : Core) (x : Code) :
    ∃ t, k.now ≤ t ∧ (k.fetchBack x).farSide = { k with now := t }.farSide := by
  unfold Core.fetchBack
  split
  · exact ⟨k.now + 1, Nat.le_succ _, rfl⟩
  · exact ⟨k.now, Nat.le_refl _, Core.fetchFrom_farSide _ _ _⟩

/-- Stores into the own tile go to the store buffer. -/
theorem Work.storeTile_farSide (w : Work) (kind : StKind) (off : Nat) (bs : List Byte) :
    (w.storeTile kind off bs).c = w.c ∧ (w.storeTile kind off bs).k.farSide = w.k.farSide := by
  unfold Work.storeTile
  generalize sbEntries kind _ _ off bs = es
  dsimp only
  induction es generalizing w with
  | nil => exact ⟨rfl, rfl⟩
  | cons e r ih =>
    rw [List.foldl_cons, (ih _).1, (ih _).2]
    split <;> exact ⟨rfl, rfl⟩

theorem Work.store_farSide (w : Work) (pc : W32) (o : StOp) :
    (w.store pc o).c = w.c ∧ (w.store pc o).k.farSide = w.k.farSide := by
  unfold Work.store
  split
  · exact w.storeTile_farSide _ _ _
  all_goals exact ⟨rfl, rfl⟩

theorem Work.stores_farSide (w : Work) (pc : W32) (l : List StOp) :
    (w.stores pc l).c = w.c ∧ (w.stores pc l).k.farSide = w.k.farSide := by
  unfold Work.stores
  induction l generalizing w with
  | nil => exact ⟨rfl, rfl⟩
  | cons o r ih => exact ⟨(ih _).1.trans (w.store_farSide pc o).1, (ih _).2.trans (w.store_farSide pc o).2⟩

/-! ### An access that completes (R197) -/

/-- The cycles from issue to the end of an access. -/
def FarWait.span (wt : FarWait) : Nat := wt.eff.count + wt.got

/-- The results of an access, as its last transfer puts them in flight. -/
def FarWait.results (wt : FarWait) : List InFlight :=
  wt.eff.wr.map (fun p =>
    { bank := p.2.bankOf wt.bank, due := wt.issued + if p.1 ≤ 2 then wt.span else p.1 + wt.got, wr := p.2 })

/-- A core at work as an access completes, before the port below the instructions catches up: its stores made, its results in
flight, its clock at the end of the access. -/
def Work.farFlown (w : Work) (wt : FarWait) : Work :=
  let v : Work := { w with count := wt.issued + wt.span - w.k.now }.stores wt.pc wt.eff.st
  let k : Core :=
    { v.k with inflight := v.k.inflight ++ wt.results, now := max v.k.now (wt.issued + wt.span + v.pen)
               divFree := if wt.divider = 0 then v.k.divFree else wt.issued + wt.divider + wt.got }
  { v with k := if wt.back then k.fetchBack (v.s.code w.c) else k }

theorem Work.farFlown_farSide (w : Work) (wt : FarWait) :
    (w.farFlown wt).c = w.c ∧ ∃ t, wt.issued + wt.span ≤ t
      ∧ (w.farFlown wt).k.farSide = { w.k with inflight := w.k.inflight ++ wt.results, now := t }.farSide := by
  obtain ⟨hc, hk⟩ := Work.stores_farSide { w with count := wt.issued + wt.span - w.k.now } wt.pc wt.eff.st
  refine ⟨hc, ?_⟩
  obtain ⟨hwaits, hret, hexn, hinfl, -⟩ := Core.fields_of_farSide hk
  unfold Work.farFlown
  dsimp only
  split
  · obtain ⟨t, ht, hfar⟩ := Core.fetchBack_farSide _ _
    refine ⟨t, Nat.le_trans (by dsimp only; omega) ht, hfar.trans ?_⟩
    simp only [Core.farSide, hwaits, hret, hexn, hinfl]
  · refine ⟨_, ?_, by simp only [Core.farSide, hwaits, hret, hexn, hinfl]; rfl⟩
    omega

theorem Core.fly_results (k : Core) (wt : FarWait) :
    k.fly wt.bank wt.issued (wt.eff.wr.map (fun p => (if p.1 ≤ 2 then wt.span else p.1 + wt.got, p.2)))
      = { k with inflight := k.inflight ++ wt.results } := by
  rw [Core.fly, List.map_map]
  rfl

/-- The access of the current bank completes: the port catches up with its end, and its instruction retires. -/
theorem Work.farDone_eq {w : Work} {wt : FarWait} (h : wt.bank = w.k.curIx) :
    w.farDone wt =
      { w.farFlown wt with
        s := ((w.farFlown wt).s.portTo w.c (w.farFlown wt).k (w.farFlown wt).k.now).1
        k := (((w.farFlown wt).s.portTo w.c (w.farFlown wt).k (w.farFlown wt).k.now).2.settle (isCc w.c)
              ((w.farFlown wt).s.portTo w.c (w.farFlown wt).k (w.farFlown wt).k.now).2.now).retire
              (wt.te && wt.bank != 4) } := by
  have hcur : (wt.bank == w.k.curIx) = true := beq_iff_eq.2 h
  have hspan : wt.eff.count + wt.got = wt.span := rfl
  unfold Work.farDone
  simp only [hcur, hspan, if_true, Bool.true_and, Core.fly_results]
  rfl

/-- What the last transfer of an access leaves of the core: every result due has landed, and the instruction has
retired. -/
theorem Work.farDone_core (w : Work) {wt : FarWait} (h : wt.bank = w.k.curIx) :
    ∃ (j : Core) (te : Bool), (w.farDone wt).put.core w.c = (j.settle (isCc w.c) j.now).retire te
      ∧ wt.issued + wt.span ≤ j.now
      ∧ j.farSide = { w.k with inflight := w.k.inflight ++ wt.results, now := j.now }.farSide := by
  obtain ⟨hc, t, ht, hfar⟩ := w.farFlown_farSide wt
  have hport := (State.portTo_farSide (w.farFlown wt).s w.c (w.farFlown wt).k (w.farFlown wt).k.now).trans hfar
  have hnow := Core.now_of_farSide hport
  refine ⟨((w.farFlown wt).s.portTo w.c (w.farFlown wt).k (w.farFlown wt).k.now).2, wt.te && wt.bank != 4, ?_, ?_, ?_⟩
  · rw [Work.farDone_eq h, Work.put, ← hc, State.core_setCore]
  · exact hnow ▸ ht
  · rw [hport, hnow]

/-- A core that awaits the accesses `l`. -/
def Core.awaits (k : Core) (l : List FarWait) : Core := { k with waits := l }

section
variable {s : State} {c : CoreId} {k : Core} {wt : FarWait} {rest : List FarWait} {x : Xfer} {xs : List Xfer}
  {cyc : Nat}

theorem State.farEnd_done (h : wt.eff.exn = none) :
    s.farEnd c k wt = (Work.farDone { s := s, c := c, k := k, pen := 0 } wt).put := by
  simp only [State.farEnd, h]

theorem State.farEnd_fault {y : Exn} (h : wt.eff.exn = some y) (hk : k.waiting wt = true) :
    s.farEnd c k wt = s.setCore c { k.rewind wt with
      exn := some y, exnFar := true, now := max k.now (wt.issued + wt.at_ + wt.got) } := by
  simp only [State.farEnd, h, hk, if_true]

@[simp] theorem Core.retire_waits (k : Core) (te : Bool) : (k.retire te).waits = k.waits := rfl
@[simp] theorem Core.retire_retired (k : Core) (te : Bool) : (k.retire te).retired = k.retired + 1 := rfl
@[simp] theorem Core.retire_exn (k : Core) (te : Bool) : (k.retire te).exn = k.exn := rfl
@[simp] theorem Core.retire_inflight (k : Core) (te : Bool) : (k.retire te).inflight = k.inflight := rfl
@[simp] theorem Core.retire_bankAt (k : Core) (te : Bool) (i : Fin 5) : (k.retire te).bankAt i = k.bankAt i := rfl

/-- An access of the current bank that completes retires its instruction. -/
theorem State.farEnd_retires (h : wt.eff.exn = none) (hb : wt.bank = k.curIx) :
    ((s.farEnd c k wt).core c).waits = k.waits ∧ ((s.farEnd c k wt).core c).retired = k.retired + 1
      ∧ ((s.farEnd c k wt).core c).exn = k.exn := by
  obtain ⟨j, te, hcore, -, hfar⟩ := Work.farDone_core { s := s, c := c, k := k, pen := 0 } hb
  obtain ⟨hwaits, hret, hexn, -, -⟩ := Core.fields_of_farSide hfar
  obtain ⟨hwaits', hret', hexn', -, -⟩ := Core.fields_of_farSide (j.settle_farSide (isCc c) j.now)
  rw [State.farEnd_done h, hcore, Core.retire_waits, Core.retire_retired, Core.retire_exn, hwaits', hret', hexn']
  exact ⟨hwaits, congrArg (· + 1) hret, hexn⟩

/-- A load of ACC.Q has its data as it completes (R190). -/
theorem State.farEnd_loads (h : wt.eff.exn = none) (hb : wt.bank = k.curIx) (hk : k.inflight = []) {v : W64}
    (hwr : wt.eff.wr = [(2, wrQ v)]) :
    (((s.farEnd c k wt).core c).bankAt wt.bank).q = v ∧ ((s.farEnd c k wt).core c).inflight = [] := by
  obtain ⟨j, te, hcore, hnow, hfar⟩ := Work.farDone_core { s := s, c := c, k := k, pen := 0 } hb
  have hinfl : j.inflight = [{ bank := wt.bank, due := wt.issued + wt.span, wr := wrQ v }] := by
    rw [Core.inflight_of_farSide hfar]
    simp only [hk, FarWait.results, hwr]
    rfl
  rw [State.farEnd_done h, hcore, Core.settle_single hinfl (isCc c) hnow, Core.retire_bankAt, Core.retire_inflight,
    Core.bankAt_loopOff, Core.land_wrQ, Core.bankAt_setBankAt, Bank.q_write_wrQ]
  refine ⟨rfl, ?_⟩
  rw [Core.inflight_of_farSide (Core.loopOff_farSide _), Core.inflight_of_farSide (Core.setBankAt_farSide _ _ _)]

/-! ### An access that fails (R203, R411, R416) -/

/-- The machine check of a request that got no response, with the address as the instruction formed it. -/
structure Exn.isTimeout (y : Exn) (cls : BitVec 2) (ea : W64) : Prop where
  vec : y.vec = 1
  sub : y.sub = 0x21
  cls : y.cls = cls
  faddr : y.faddr = ea

theorem mcAt_isTimeout (s : State) (c : CoreId) (k : Core) (cls : BitVec 2) (hop : BitVec 4) (l : Loc) (ea : W64)
    (pc : W32) : (mcAt s c k cls hop 0x21 l ea.toNat pc).isTimeout cls ea :=
  ⟨rfl, rfl, rfl, (BitVec.ofNat_toNat 64 ea).trans (BitVec.setWidth_eq ea)⟩

theorem Core.waiting_eq_true (hb : wt.bank = k.curIx) (hh : ∀ u h, k.hold ≠ some (.fall u h)) :
    k.waiting wt = true := by
  unfold Core.waiting
  split
  · next u h heq => exact absurd heq (hh u h)
  · simp [hb]

theorem Core.rewind_farSide (k : Core) (wt : FarWait) : (k.rewind wt).farSide = k.farSide :=
  Core.setBankAt_farSide _ _ _

theorem Core.rewind_pc (k : Core) (wt : FarWait) : ((k.rewind wt).bankAt wt.bank).pc = wt.pc := by
  rw [Core.rewind, Core.bankAt_setBankAt]

/-- A transfer without a response is a machine check on its instruction, whose PC is restored. -/
theorem State.farFail_timeout (hk : k.waiting wt = true) :
    ∃ (y : Exn) (t : Nat), y.isTimeout 0 x.ea
      ∧ s.farFail c k wt x cyc .timeout
        = s.setCore c { k.rewind wt with exn := some y, exnFar := true, now := t } := by
  refine ⟨_, max k.now (wt.issued + wt.arrived x cyc), mcAt_isTimeout s c k 0 0xE
    (match x.pa with | some pa => .phys pa | none => .lbox 0) x.ea wt.pc, ?_⟩
  unfold State.farFail
  rw [if_pos hk]
  rfl

/-! ### Responses to the oldest access (R92, R197) -/

theorem State.any_heldPa_eq_false {o : Option Nat} (h : ∀ pa, o = some pa → s.heldPa pa = false) :
    o.any s.heldPa = false := by
  cases o with
  | none => rfl
  | some pa => exact h pa rfl

theorem State.respAt_ok {o : Option Nat} (h : ∀ pa, o = some pa → s.portDown pa = none) :
    s.respAt o .ok = .ok := by
  cases o with
  | none => rfl
  | some pa => simp [State.respAt, h pa rfl]

section
variable (hw : (s.core c).waits = wt :: rest) (hx : wt.xfers = x :: xs) (hheld : x.pa.any s.heldPa = false)
include hw hx hheld

theorem State.farResponse_last (hxs : xs = []) (hr : s.respAt x.pa .ok = .ok) :
    s.farResponse c cyc .ok = s.farEnd c ((s.core c).awaits rest) (wt.take x [] cyc) := by
  subst hxs
  simp [State.farResponse, hw, hx, hheld, hr, Core.awaits]

theorem State.farResponse_more (hxs : xs ≠ []) (hr : s.respAt x.pa .ok = .ok) :
    s.farResponse c cyc .ok = s.setCore c ((s.core c).awaits (wt.take x xs cyc :: rest)) := by
  simp [State.farResponse, hw, hx, hheld, hr, hxs, Core.awaits]

theorem State.farResponse_timeout :
    s.farResponse c cyc .timeout = s.farFail c ((s.core c).awaits rest) wt x cyc .timeout := by
  simp [State.farResponse, hw, hx, hheld, State.respAt, Core.awaits]

/-- The last transfer of an access without an exception retires its instruction. -/
theorem State.farResponse_retires (hxs : xs = []) (hr : s.respAt x.pa .ok = .ok) (he : wt.eff.exn = none)
    (hb : wt.bank = (s.core c).curIx) :
    ((s.farResponse c cyc .ok).core c).waits = rest
      ∧ ((s.farResponse c cyc .ok).core c).retired = (s.core c).retired + 1
      ∧ ((s.farResponse c cyc .ok).core c).exn = (s.core c).exn := by
  rw [State.farResponse_last hw hx hheld hxs hr]
  exact State.farEnd_retires (k := (s.core c).awaits rest) (wt := wt.take x [] cyc) he hb

/-- The last transfer of a load of ACC.Q brings its data. -/
theorem State.farResponse_loads (hxs : xs = []) (hr : s.respAt x.pa .ok = .ok) (he : wt.eff.exn = none)
    (hb : wt.bank = (s.core c).curIx) (hin : (s.core c).inflight = []) {v : W64} (hwr : wt.eff.wr = [(2, wrQ v)]) :
    (((s.farResponse c cyc .ok).core c).bankAt wt.bank).q = v ∧ ((s.farResponse c cyc .ok).core c).inflight = [] := by
  rw [State.farResponse_last hw hx hheld hxs hr]
  exact State.farEnd_loads (k := (s.core c).awaits rest) (wt := wt.take x [] cyc) he hb hin hwr

/-- The last transfer of an access whose effect is an exception decides it, at the PC of its instruction. -/
theorem State.farResponse_faults (hxs : xs = []) (hr : s.respAt x.pa .ok = .ok) {y : Exn} (he : wt.eff.exn = some y)
    (hb : wt.bank = (s.core c).curIx) (hh : ∀ u h, (s.core c).hold ≠ some (.fall u h)) :
    ((s.farResponse c cyc .ok).core c).waits = rest ∧ ((s.farResponse c cyc .ok).core c).exn = some y
      ∧ (((s.farResponse c cyc .ok).core c).bankAt wt.bank).pc = wt.pc := by
  have hwait := Core.waiting_eq_true (k := (s.core c).awaits rest) (wt := wt.take x [] cyc) hb hh
  rw [State.farResponse_last hw hx hheld hxs hr, State.farEnd_fault (wt := wt.take x [] cyc) he hwait,
    State.core_setCore]
  exact ⟨Core.waits_of_farSide (Core.rewind_farSide ((s.core c).awaits rest) _), rfl,
    Core.rewind_pc ((s.core c).awaits rest) (wt.take x [] cyc)⟩

/-- A transfer of the oldest access without a response. -/
theorem State.farResponse_timeout_fields (hb : wt.bank = (s.core c).curIx)
    (hh : ∀ u h, (s.core c).hold ≠ some (.fall u h)) :
    ((s.farResponse c cyc .timeout).core c).waits = rest
      ∧ (((s.farResponse c cyc .timeout).core c).bankAt wt.bank).pc = wt.pc
      ∧ ((s.farResponse c cyc .timeout).core c).retired = (s.core c).retired
      ∧ ∃ y, ((s.farResponse c cyc .timeout).core c).exn = some y
        ∧ ((s.farResponse c cyc .timeout).core c).exnFar = true ∧ y.isTimeout 0 x.ea := by
  obtain ⟨y, t, hy, hfail⟩ := State.farFail_timeout (s := s) (c := c) (cyc := cyc) (x := x)
    (Core.waiting_eq_true (k := (s.core c).awaits rest) hb hh)
  obtain ⟨hwaits, hret, -, -, -⟩ := Core.fields_of_farSide (Core.rewind_farSide ((s.core c).awaits rest) wt)
  rw [State.farResponse_timeout hw hx hheld, hfail, State.core_setCore]
  exact ⟨hwaits, Core.rewind_pc ((s.core c).awaits rest) wt, hret, y, rfl, rfl, hy⟩

end

theorem exec_farLoadResponse_eq (r : Resp) : exec (.farLoadResponse c cyc r) s = .next (s.farResponse c cyc r) := rfl

theorem exec_requestTimeout_waits (hw : (s.core c).waits = wt :: rest) :
    exec (.requestTimeout (.core c)) s = .next (s.farResponse c 0 .timeout) := by
  simp [execRequestTimeout, hw]

theorem exec_requestTimeout_posted (hw : (s.core c).waits = []) :
    exec (.requestTimeout (.core c)) s = .next (s.postedAck c .timeout) := by
  simp [execRequestTimeout, hw]

end

/-! ### Writes beside a core -/

theorem State.rd_setCore (s : State) (c : CoreId) (k : Core) (q : Nat) : (s.setCore c k).rd q = s.rd q := rfl

theorem State.attWr_setCore (s : State) (c : CoreId) (k : Core) (pa : Nat) (b : Byte) :
    (s.setCore c k).attWr pa b = (s.attWr pa b).setCore c k := by
  have hk' : (s.setCore c k).inKeys pa = s.inKeys pa := rfl
  have hs' : (s.setCore c k).dirSlot pa = s.dirSlot pa := rfl
  have hd' : ∀ i, (s.setCore c k).entryPatched i pa b = s.entryPatched i pa b := fun _ => rfl
  cases hk : s.inKeys pa with
  | true => rw [State.attWr_inKeys b hk, State.attWr_inKeys b (hk'.trans hk)]; rfl
  | false =>
    cases hs : s.dirSlot pa with
    | none => rw [State.attWr_plain b hk hs, State.attWr_plain b (hk'.trans hk) (hs'.trans hs)]; rfl
    | some i =>
      cases hd : dirOfImage (s.entryPatched i pa b) with
      | some d =>
        rw [State.attWr_entry_some hk hs hd,
          State.attWr_entry_some (hk'.trans hk) (hs'.trans hs) ((congrArg dirOfImage (hd' i)).trans hd)]
        generalize List.replicate 32 memDefault = z
        rfl
      | none =>
        rw [State.attWr_entry_none hk hs hd,
          State.attWr_entry_none (hk'.trans hk) (hs'.trans hs) ((congrArg dirOfImage (hd' i)).trans hd)]
        rfl

theorem State.wr_setCore (s : State) (c : CoreId) (k : Core) (pa : Nat) (b : Byte) :
    (s.setCore c k).wr pa b = (s.wr pa b).setCore c k := by
  cases hpa : pKind pa with
  | attached =>
    rw [State.wr_attached b hpa, State.wr_attached b hpa, State.attWr_setCore]
  | tile n o kind => rw [State.wr_tile b hpa, State.wr_tile b hpa]; rfl
  | square | kerb => simp only [State.wr, hpa]; rfl
  | reg | resv => simp only [State.wr, hpa]

theorem State.wrCells_setCore (l : List (Nat × Byte)) (s : State) (c : CoreId) (k : Core) :
    l.foldl (fun t x => t.wr x.1 x.2) (s.setCore c k) = (l.foldl (fun t x => t.wr x.1 x.2) s).setCore c k := by
  induction l generalizing s with
  | nil => rfl
  | cons x r ih => rw [List.foldl_cons, List.foldl_cons, State.wr_setCore, ih]

/-! ### Stores to the event window (R232, R234) -/

/-- The posted stores of a core and the machine checks that they raise. -/
def Core.ackSide (k : Core) : List Posted × Option Exn × Option Exn := (k.posted, k.asyncMc, k.entryMc)

theorem Core.fields_of_ackSide {k j : Core} (h : j.ackSide = k.ackSide) :
    j.posted = k.posted ∧ j.asyncMc = k.asyncMc ∧ j.entryMc = k.entryMc := by
  simpa only [Core.ackSide, Prod.mk.injEq] using h

theorem Core.evStore_frame (k : Core) (off : Nat) (b : Byte) :
    (k.evStore off b).ackSide = k.ackSide ∧ (k.evStore off b).hold = k.hold := by
  unfold Core.evStore
  dsimp only
  repeat' split
  all_goals exact ⟨rfl, rfl⟩

theorem Core.evStores_frame (l : List (Nat × Byte)) (k : Core) :
    (l.foldl (fun (k : Core) p => k.evStore p.1 p.2) k).ackSide = k.ackSide
      ∧ (l.foldl (fun (k : Core) p => k.evStore p.1 p.2) k).hold = k.hold := by
  induction l generalizing k with
  | nil => exact ⟨rfl, rfl⟩
  | cons p r ih => exact ⟨(ih _).1.trans (k.evStore_frame p.1 p.2).1, (ih _).2.trans (k.evStore_frame p.1 p.2).2⟩

theorem Core.wake_frame (k : Core) :
    k.wake.ackSide = k.ackSide ∧ (k.wake.hold = k.hold ∨ k.hold = some .wait ∧ k.wake.hold = none) := by
  unfold Core.wake
  split
  · next h => exact ⟨rfl, .inr ⟨h.1, rfl⟩⟩
  · exact ⟨rfl, .inl rfl⟩

/-- A store to the event window leaves the posted stores of the core; of its holds it ends that of WAIT at most. -/
theorem State.evWrite_frame (s : State) (c : CoreId) (l : List (Nat × Byte)) :
    ((s.evWrite c l).core c).ackSide = (s.core c).ackSide
      ∧ (((s.evWrite c l).core c).hold = (s.core c).hold
        ∨ (s.core c).hold = some .wait ∧ ((s.evWrite c l).core c).hold = none) := by
  obtain ⟨hside, hhold⟩ := Core.evStores_frame l (s.core c)
  obtain ⟨wside, whold⟩ := Core.wake_frame (l.foldl (fun (k : Core) p => k.evStore p.1 p.2) (s.core c))
  rw [hside] at wside
  rw [hhold] at whold
  have hcore : ∀ j : Core, (if l.any (fun p => decide (0x10 ≤ p.1 ∧ p.1 < 0x18)) then
      (s.setCore c j).raise (sigSource c) else s.setCore c j).core c = j := by
    intro j
    split
    · exact State.core_setCore s c j
    · exact State.core_setCore s c j
  unfold State.evWrite
  split
  · exact ⟨rfl, .inl rfl⟩
  · dsimp only
    rw [hcore]
    exact ⟨wside, whold⟩

theorem State.rd_evWrite (s : State) (c : CoreId) (l : List (Nat × Byte)) (q : Nat) :
    (s.evWrite c l).rd q = s.rd q := by
  unfold State.evWrite
  split
  · rfl
  · dsimp only
    split <;> rfl

/-! ### Acknowledgements (R198, R218) -/

/-- With no switch and no invalidation to go on with, the last acknowledgement ends the hold of a DRAIN. -/
theorem Work.postedEnd_eq {w : Work} (hinv : ∀ key scope addr ten, w.k.hold ≠ some (.inval key scope addr ten))
    (hfall : ∀ u h, w.k.hold ≠ some (.fall u h)) :
    w.postedEnd = if w.k.posted = [] ∧ w.k.hold = some .drain then w.holdOver else w := by
  unfold Work.postedEnd
  by_cases hp : w.k.posted = []
  · rw [if_pos hp]
    split
    · next h => rw [if_pos ⟨hp, h⟩]
    · next h => exact absurd h (hinv _ _ _ _)
    · next h => exact absurd h (hfall _ _)
    · next h _ _ => rw [if_neg (fun hd => h hd.2)]
  · rw [if_neg hp, if_neg (fun hd => hp hd.1)]

theorem Work.postedEnd_put {w : Work} (hinv : ∀ key scope addr ten, w.k.hold ≠ some (.inval key scope addr ten))
    (hfall : ∀ u h, w.k.hold ≠ some (.fall u h)) :
    ∃ j : Core, w.postedEnd.put = w.s.setCore w.c j ∧ j.ackSide = w.k.ackSide
      ∧ j.hold = if w.k.posted = [] ∧ w.k.hold = some .drain then none else w.k.hold := by
  rw [Work.postedEnd_eq hinv hfall]
  split
  · exact ⟨_, rfl, rfl, rfl⟩
  · exact ⟨_, rfl, rfl, rfl⟩

section
variable {s : State} {c : CoreId} {p : Posted} {rest : List Posted}

theorem State.postedAck_nil {r : Resp} (hp : (s.core c).posted = []) : s.postedAck c r = s := by
  simp [State.postedAck, hp]

theorem Core.acked_posted {k : Core} (hp : k.posted = p :: rest) : (k.acked p).posted = rest := by
  simp [Core.acked, hp]

theorem Core.acked_hold (k : Core) (p : Posted) : (k.acked p).hold = k.hold := rfl

theorem Core.postFails_frame (k : Core) (entry : Bool) (x : Exn) :
    (k.postFails entry x).posted = k.posted ∧ (k.postFails entry x).hold = k.hold := by
  unfold Core.postFails
  split <;> exact ⟨rfl, rfl⟩

theorem Core.postFails_exn {k : Core} (ha : k.asyncMc = none) (he : k.entryMc = none) (entry : Bool) (x : Exn) :
    (if entry then (k.postFails entry x).entryMc else (k.postFails entry x).asyncMc) = some x := by
  cases entry with
  | true => simp [Core.postFails, he]
  | false => simp [Core.postFails, ha]

/-- A store to memory and to the event window is performed beside the core. -/
theorem State.performed_setCore (n : Fin 128) (k : Core) :
    (s.setCore (.eng n) k).performed (.eng n) p
      = ((p.cells.foldl (fun t x => t.wr x.1 x.2) s).setCore (.eng n) k).evWrite (.eng n) p.events :=
  congrArg (State.evWrite · (.eng n) p.events) (State.wrCells_setCore p.cells s (.eng n) k)

section
variable (hp : (s.core c).posted = p :: rest) (hheld : p.cells.any (fun x => s.heldPa x.1) = false)
include hp hheld

theorem State.postedAck_ok (hr : s.respAt ((p.cells.head?).map (fun x => x.1)) .ok = .ok) :
    s.postedAck c .ok = (Work.postedEnd {
      s := (s.setCore c ((s.core c).acked p)).performed c p, c := c
      k := ((s.setCore c ((s.core c).acked p)).performed c p).core c, pen := 0 }).put := by
  simp [State.postedAck, hp, hheld, hr]

/-- A posted store without a response is a machine check of the core, or of the entry that waits for it. -/
theorem State.postedAck_timeout :
    ∃ x : Exn, x.isTimeout 3 p.ea ∧ s.postedAck c .timeout = (Work.postedEnd {
      s := s, c := c, k := ((s.core c).acked p).postFails (s.entryWaits c) x, pen := 0 }).put := by
  refine ⟨_, mcAt_isTimeout s c ((s.core c).acked p) 3 0xE
    (match (p.cells.head?).map (fun x => x.1) with | some a => .phys a | none => .none) p.ea p.pc, ?_⟩
  simp only [State.postedAck, hp, hheld, State.respAt, Bool.false_eq_true, if_false]
  rfl

variable (hinv : ∀ key scope addr ten, (s.core c).hold ≠ some (.inval key scope addr ten))
  (hfall : ∀ u h, (s.core c).hold ≠ some (.fall u h))
include hinv hfall

/-- The oldest posted store without a response: it is no longer awaited, and nothing is written. -/
theorem State.postedAck_timeout_fields :
    ((s.postedAck c .timeout).core c).posted = rest ∧ (s.postedAck c .timeout).mem = s.mem
      ∧ ((s.core c).asyncMc = none → (s.core c).entryMc = none → ∃ x : Exn, x.isTimeout 3 p.ea
        ∧ (if s.entryWaits c then ((s.postedAck c .timeout).core c).entryMc
            else ((s.postedAck c .timeout).core c).asyncMc) = some x) := by
  obtain ⟨x, hx, hack⟩ := State.postedAck_timeout hp hheld
  obtain ⟨hpost, hhold⟩ := Core.postFails_frame ((s.core c).acked p) (s.entryWaits c) x
  rw [Core.acked_hold] at hhold
  obtain ⟨j, hput, hside, -⟩ := Work.postedEnd_put
    (w := { s := s, c := c, k := ((s.core c).acked p).postFails (s.entryWaits c) x, pen := 0 })
    (by simpa only [hhold] using hinv) (by simpa only [hhold] using hfall)
  obtain ⟨hj, hja, hje⟩ := Core.fields_of_ackSide hside
  rw [hack, hput, State.core_setCore, hja, hje]
  exact ⟨hj.trans (hpost.trans (Core.acked_posted hp)), rfl, fun ha he =>
    ⟨x, hx, Core.postFails_exn (k := (s.core c).acked p) ha he _ _⟩⟩

/-- The oldest posted store acknowledged: it reaches the unit it goes to, and the last one ends a DRAIN. -/
theorem State.postedAck_ok_fields {n : Fin 128} (hc : c = .eng n)
    (hr : s.respAt ((p.cells.head?).map (fun x => x.1)) .ok = .ok) :
    ((s.postedAck c .ok).core c).posted = rest
      ∧ (∀ q, (s.postedAck c .ok).rd q = (p.cells.foldl (fun t x => t.wr x.1 x.2) s).rd q)
      ∧ (rest = [] → (s.core c).hold = some .drain → ((s.postedAck c .ok).core c).hold = none)
      ∧ (rest ≠ [] → p.events = [] → ((s.postedAck c .ok).core c).hold = (s.core c).hold)
      ∧ ((s.postedAck c .ok).core c).asyncMc = (s.core c).asyncMc := by
  subst hc
  have hack := State.postedAck_ok hp hheld hr
  rw [State.performed_setCore] at hack
  generalize hv : (p.cells.foldl (fun t x => t.wr x.1 x.2) s).setCore (.eng n) ((s.core (.eng n)).acked p) = v at hack
  have hvk : v.core (.eng n) = (s.core (.eng n)).acked p := hv ▸ State.core_setCore _ _ _
  obtain ⟨hside, hhold⟩ := v.evWrite_frame (.eng n) p.events
  rw [hvk] at hside hhold
  rw [Core.acked_hold] at hhold
  obtain ⟨hpost, ha, -⟩ := Core.fields_of_ackSide hside
  rw [Core.acked_posted hp] at hpost
  have hne : ∀ y, (s.core (.eng n)).hold ≠ some y → ((v.evWrite (.eng n) p.events).core (.eng n)).hold ≠ some y := by
    intro y hy
    rcases hhold with h | ⟨-, h⟩
    · rwa [h]
    · simp [h]
  obtain ⟨j, hput, jside, jhold⟩ := Work.postedEnd_put
    (w := { s := v.evWrite (.eng n) p.events, c := .eng n, k := (v.evWrite (.eng n) p.events).core (.eng n), pen := 0 })
    (fun _ _ _ _ => hne _ (hinv _ _ _ _)) (fun _ _ => hne _ (hfall _ _))
  obtain ⟨hj, hja, -⟩ := Core.fields_of_ackSide jside
  rw [hack, hput, State.core_setCore]
  refine ⟨hj.trans hpost, fun q => ?rd, fun hrest hd => ?drain, fun hrest he => ?hold, hja.trans ha⟩
  case rd => rw [State.rd_setCore, State.rd_evWrite, ← hv, State.rd_setCore]
  case drain =>
    have hdrain : ((v.evWrite (.eng n) p.events).core (.eng n)).hold = some .drain := by
      rcases hhold with h | ⟨h, -⟩
      · exact h.trans hd
      · simp [hd] at h
    exact jhold.trans (if_pos ⟨hpost.trans hrest, hdrain⟩)
  case hold =>
    have hsame : v.evWrite (.eng n) p.events = v := by rw [he]; rfl
    refine (jhold.trans (if_neg (fun h => hrest (hpost.symm.trans h.1)))).trans ?_
    rw [hsame, hvk, Core.acked_hold]

end

end

/-! ### Tram requests without a response (R400, R401, R411) -/

/-- A channel that meets a malfunction ends in ERROR. -/
theorem tramFail_error (s : State) (k : Nat) (side : BitVec 2) (sub : Byte) (addr : W64) (fetch dstat : Bool)
    (mal : Byte) :
    ((tramFail s k side 0x30 sub addr fetch dstat mal).channel k).st = .error
      ∧ ((tramFail s k side 0x30 sub addr fetch dstat mal).channel k).code = 0x30
      ∧ ((tramFail s k side 0x30 sub addr fetch dstat mal).channel k).fn = .faulted := by
  have hchan : ∀ (u : State) (x : Channel) (i j : Nat), (((u.setChannel k x).raise i).raiseErr j).channel k = x :=
    fun u x _ _ => State.channel_setChannel u k x
  unfold tramFail
  rw [if_neg (by decide : ¬(0x30 : Byte) = 0x02)]
  dsimp only
  rw [hchan]
  exact ⟨rfl, rfl, rfl⟩

/-- The request that a channel waits for gets no response, in whichever phase. -/
theorem exec_requestTimeout_tram {s : State} {q : Fin 4} {k : Nat} (h : s.tramWaiting q.val = some k) :
    ∃ side addr fetch dstat,
      exec (.requestTimeout (.tram q)) s = .next (tramFail s k side 0x30 0 addr fetch dstat 0x21) := by
  simp only [exec_requestTimeout, execRequestTimeout, h]
  split
  · exact ⟨_, _, _, _, rfl⟩
  · exact ⟨_, _, _, _, rfl⟩
  · exact ⟨_, _, _, _, rfl⟩

/-! ### O31 -/

/-- Settles O31: the last transfer of the oldest access ends it, a transfer without a response is the machine check of
its instruction. -/
theorem farResponses : Obligations.FarResponses := by
  unfold Obligations.FarResponses
  refine ⟨?oldest, ?retires, ?failed, ?posted, ?tram, ?idleCore, ?idleTram⟩
  case oldest =>
    intro c cyc s wt rest x xs k hw hb hx hheld hhold
    refine ⟨fun hr hxs he _ hin v hwr => ?load, fun hr hxs y he => ?fault, fun hr hxs hdepth => ?more,
      fun r cmd hcmd => ?timeout⟩
    case load =>
      obtain ⟨hwaits, hret, hexn⟩ := State.farResponse_retires (cyc := cyc) hw hx hheld hxs hr he hb
      obtain ⟨hq, hfly⟩ := State.farResponse_loads (cyc := cyc) hw hx hheld hxs hr he hb hin hwr
      exact ⟨_, exec_farLoadResponse_eq .ok, hwaits, hret, hq, hfly, hexn⟩
    case fault => exact ⟨_, exec_farLoadResponse_eq .ok, State.farResponse_faults hw hx hheld hxs hr he hb hhold⟩
    case more =>
      have htake : wt.take x xs cyc = { wt with xfers := xs, got := max wt.got (cyc - 1) } := by
        simp only [FarWait.take, hdepth]
      rw [exec_farLoadResponse_eq, State.farResponse_more hw hx hheld hxs hr, htake]
      rfl
    case timeout =>
      have hexec : ∃ n, exec cmd s = .next (s.farResponse c n .timeout) := by
        simp only [List.mem_cons, Prod.mk.injEq, List.not_mem_nil, or_false] at hcmd
        obtain ⟨-, rfl⟩ | ⟨-, rfl⟩ := hcmd
        · exact ⟨cyc, rfl⟩
        · exact ⟨0, exec_requestTimeout_waits hw⟩
      obtain ⟨n, hexec⟩ := hexec
      obtain ⟨hwaits, hpc, hret, y, hy, hfar, ht⟩ := State.farResponse_timeout_fields (cyc := n) hw hx hheld hb hhold
      exact ⟨_, hexec, hwaits, hpc, hret, y, hy, hfar, ht.vec, ht.sub, ht.cls, ht.faddr⟩
  case retires =>
    intro c cyc s wt rest x hw hb hx he hpa
    exact ⟨_, exec_farLoadResponse_eq .ok, State.farResponse_retires hw hx
      (State.any_heldPa_eq_false (fun pa h => (hpa pa h).1)) rfl (State.respAt_ok (fun pa h => (hpa pa h).2)) he hb⟩
  case failed =>
    intro c s wt rest x xs hw hb hx hpa hhold
    obtain ⟨hwaits, -, -, y, hy, -, ht⟩ :=
      State.farResponse_timeout_fields (cyc := 0) hw hx (State.any_heldPa_eq_false hpa) hb hhold
    exact ⟨_, exec_requestTimeout_waits hw, hwaits, y, hy, ht.vec, ht.sub⟩
  case posted =>
    intro c s p rest hw hp hheld hhold ha he
    obtain ⟨hposted, -, hx⟩ := State.postedAck_timeout_fields hp (List.any_eq_false.2 (by simpa using hheld))
      (by simp [hhold]) (by simp [hhold])
    obtain ⟨x, ht, hx⟩ := hx ha he
    refine ⟨_, exec_requestTimeout_posted hw, hposted, x, ?_, ht.vec, ht.sub⟩
    split at hx
    · exact .inr hx
    · exact .inl hx
  case tram =>
    intro q s k hk
    obtain ⟨side, addr, fetch, dstat, hexec⟩ := exec_requestTimeout_tram hk
    exact ⟨_, hexec, tramFail_error s k side 0 addr fetch dstat 0x21⟩
  case idleCore =>
    intro c s hw hp
    rw [exec_requestTimeout_posted hw, State.postedAck_nil hp]
  case idleTram =>
    intro q s hq
    simp only [exec_requestTimeout, execRequestTimeout, hq]

/-! ### O32 -/

/-- Settles O32: an acknowledgement performs the store and goes on with a DRAIN; a failure is a machine check. -/
theorem postedStores : Obligations.PostedStores := by
  unfold Obligations.PostedStores
  intro n s p rest c k pa hp hinv hfall hheld
  refine ⟨fun hr => ?acked, ?failed⟩
  case acked =>
    exact ⟨_, rfl, State.postedAck_ok_fields hp hheld hinv hfall rfl hr⟩
  case failed =>
    obtain ⟨hposted, hmem, hx⟩ := State.postedAck_timeout_fields hp hheld hinv hfall
    refine ⟨_, rfl, hposted, hmem, fun ha he => ?_⟩
    obtain ⟨x, ht, hx⟩ := hx ha he
    exact ⟨x, hx, ht.vec, ht.cls, ht.sub, ht.faddr⟩

end Sys2Proof.Machine

/-! PROOFS. The state after reset (Tables 2-1, 2-3, 8-2, 10-3, 11-10, 13-9, 14-2, 16-3, 16-15). Settles O35. -/

namespace Sys2Proof.Machine

/-! ### O35 -/

/-- Settles O35: each unit that no command has written yet is as its table gives it, and a control core beside an
engine in TCTL alone. -/
theorem resetValues : Obligations.ResetValues := by
  unfold Obligations.ResetValues
  intro s
  have hcore : ∀ c : CoreId, s.core c = if isCc c then Core.resetCc else Core.reset := fun _ => rfl
  refine ⟨fun c => ?core, fun _ => ?street, fun _ => ?square, fun _ => ?channel, fun _ => ?memPort, fun _ => ?hostPort,
    rfl, ?boot, ?kerb, rfl, ?fuses⟩
  case core =>
    rw [hcore]
    cases isCc c <;> decide
  case street => exact ⟨rfl, rfl⟩
  case square => exact ⟨rfl, rfl, rfl⟩
  case channel => exact ⟨rfl, by rw [show s.channel _ = Channel.reset from rfl]; decide, rfl, rfl⟩
  case memPort => exact ⟨rfl, rfl, rfl⟩
  case hostPort => exact ⟨rfl, rfl, rfl⟩
  case boot => decide
  case kerb => decide
  case fuses => unfold State.fusesOk; decide

end Sys2Proof.Machine

/-! PROOFS. Traps and the opcodes that the map leaves unassigned (08 R216, 03 R113, R118). Settles O20. -/

namespace Sys2Proof.Machine

/-! ### Traps and unassigned opcodes -/

/-- Checks 3 and 4 refuse an instruction that is not legal, once check 1 has passed (R115). -/
theorem decodeExn_illegal {i : Form} (h : i.legal = false) (k : Core) (pre : List Pfx) :
    decodeExn k pre i = some (mkFault 2 0x01 k.bank.pc.toNat (firstByte pre i.op).toNat) := by
  simp [decodeExn, decodeOk, h]

/-- An instruction that does not use the divider issues as soon as its bytes have been fetched (R195). -/
theorem State.issueAt_of_divider {i : Form} (h : i.divider = 0) (s : State) (a : Issue) :
    s.issueAt a i = (s.core a.core).fetchStart (s.code a.core) (a.pre.length + i.len) := by
  simp only [State.issueAt, h, if_true]

/-- An instruction that is not legal in its issue cycle, and whose bytes check 1 passes, decides the fault of its opcode
byte. -/
theorem State.issues_illegal {s : State} {a : Issue} {form : State → Core → Form} {i0 i : Form}
    (hcan : s.canIssue a.core = true) (h0 : form s (s.core a.core) = i0)
    (hi : form (s.atIssue a i0) (s.coreAtIssue a i0) = i) (hlegal : i.legal = false) {s1 : State} {k3 : Core}
    (hf : (s.atIssue a i0).fetchCheck a.core (s.coreAtIssue a i0) (a.pre.length + i0.len) (firstByte a.pre i.op) a.err
      = (s1, k3, none)) :
    s.issues a form = .inl (s1.setCore a.core
      (k3.fault (mkFault 2 0x01 k3.bank.pc.toNat (firstByte a.pre i.op).toNat) (a.pre.length + i0.len))) := by
  simp only [State.atIssue, State.coreAtIssue, State.issueAt] at hi hf
  simp only [State.issues, hcan, h0, hi, hf, decodeExn_illegal hlegal, Bool.not_true, Bool.false_eq_true, if_false]

/-! ### O20 -/

/-- Settles O20: TRAP and SVC by their bodies; an unassigned opcode is never legal. -/
theorem trapsAndUnassigned : Obligations.TrapsAndUnassigned := by
  unfold Obligations.TrapsAndUnassigned
  intro a sel b s r x trap
  refine ⟨fun h => exec_of_body (exec_trap a sel s) (fun _ _ => rfl) h rfl,
    fun h => exec_of_body (exec_svc a sel s) (fun _ _ => rfl) h rfl, ?_⟩
  intro hcan n f p k2 first s1 k3 hf
  rw [exec_unassignedOpcode, execUnassignedOpcode, State.run, State.issue, State.issues_illegal hcan rfl rfl rfl]
  · rfl
  · rw [State.atIssue, State.coreAtIssue, State.issueAt_of_divider rfl]
    exact hf

end Sys2Proof.Machine

/-! PROOFS. Register groups (08 R223, R224, R236): the bytes of a group's slot, what loading them gives back, and the
instructions that move groups and halves of a bank. Settles O23 and O24. -/

namespace Sys2Proof.Machine

/-! ### Numbers in byte strings -/

theorem beNat_append_singleton (l : List Byte) (b : Byte) : beNat (l ++ [b]) = beNat l * 256 + b.toNat := by
  simp [beNat]

theorem beNat_reverse (l : List Byte) : beNat l.reverse = leNat l := by
  induction l with
  | nil => rfl
  | cons b r ih => rw [List.reverse_cons, beNat_append_singleton, ih, leNat]; omega

theorem leNat_leBytes (n v : Nat) : leNat (leBytes n v) = v % 256 ^ n := by
  induction n generalizing v with
  | zero => simp [leBytes, leNat, Nat.mod_one]
  | succ n ih => rw [leBytes, leNat, ih, BitVec.toNat_ofNat, Nat.pow_succ' (m := 256), Nat.mod_mul (x := v) (a := 256)]

/-- A number reads back from its bytes. -/
theorem beNat_beBytes {n v : Nat} (h : v < 256 ^ n) : beNat (beBytes n v) = v := by
  rw [beBytes, beNat_reverse, leNat_leBytes, Nat.mod_eq_of_lt h]

theorem beAt_append_left {l m : List Byte} {off n : Nat} (h : off + n ≤ l.length) :
    beAt (l ++ m) off n = beAt l off n := by
  rw [beAt, beAt, slice, slice, List.drop_append_of_le_length (by omega),
    List.take_append_of_le_length (by rw [List.length_drop]; omega)]

theorem beAt_append_right {l m : List Byte} {off n : Nat} (h : l.length ≤ off) :
    beAt (l ++ m) off n = beAt m (off - l.length) n := by
  rw [beAt, beAt, slice, slice, List.drop_append, List.drop_eq_nil_of_le h, List.nil_append]

theorem beAt_beBytes {n v : Nat} (h : v < 256 ^ n) : beAt (beBytes n v) 0 n = v := by
  rw [beAt, slice, List.drop_zero, List.take_of_length_le (by rw [length_beBytes]), beNat_beBytes h]

/-- The number at the head of a string of numbers. -/
theorem beAt_beBytes_append {n v : Nat} (h : v < 256 ^ n) (m : List Byte) : beAt (beBytes n v ++ m) 0 n = v := by
  rw [beAt_append_left (by rw [length_beBytes]; omega), beAt_beBytes h]

theorem fit_eq_append {n : Nat} {l : List Byte} (h : l.length ≤ n) : fit n l = l ++ zeros (n - l.length) := by
  rw [fit, List.take_of_length_le]
  rw [List.length_append, length_zeros]
  omega

/-- The bytes of a string that `fit` fills up are those of the string. -/
theorem beAt_fit {n : Nat} {l : List Byte} (hl : l.length ≤ n) {off m : Nat} (h : off + m ≤ l.length) :
    beAt (fit n l) off m = beAt l off m := by
  rw [fit_eq_append hl, beAt_append_left h]

theorem length_flatten_map_beBytes (w : Nat) (f : Nat → Nat) (l : List Nat) :
    ((l.map (fun i => beBytes w (f i))).flatten).length = l.length * w := by
  induction l with
  | nil => simp
  | cons i r ih => simp [ih, Nat.succ_mul, Nat.add_comm]

/-- An entry of a table of numbers of `w` bytes. -/
theorem beAt_flatten_map_beBytes {w : Nat} {f : Nat → Nat} (hf : ∀ i, f i < 256 ^ w) (l : List Nat) {j : Nat}
    (hj : j < l.length) : beAt ((l.map (fun i => beBytes w (f i))).flatten) (w * j) w = f l[j] := by
  induction l generalizing j with
  | nil => exact absurd hj (Nat.not_lt_zero j)
  | cons i r ih =>
    rw [List.map_cons, List.flatten_cons]
    cases j with
    | zero => exact beAt_beBytes_append (hf i) _
    | succ j =>
      have hoff : w * (j + 1) - w = w * j := by rw [Nat.mul_succ]; omega
      rw [beAt_append_right (by rw [length_beBytes, Nat.mul_succ]; omega), length_beBytes, hoff]
      exact ih (Nat.lt_of_succ_lt_succ hj)

/-- The number of a word fits its bytes. -/
theorem toNat_lt_pow_bytes {w : Nat} (v : BitVec w) {n : Nat} (h : 8 * n = w) : v.toNat < 256 ^ n := by
  subst h
  have hv := v.isLt
  rwa [Nat.pow_mul] at hv

/-- A word reads back from the head of a byte string. -/
theorem ofNat_beAt_head {w n : Nat} (v : BitVec w) (h : 8 * n = w) (m : List Byte) :
    BitVec.ofNat w (beAt (beBytes n v.toNat ++ m) 0 n) = v := by
  rw [beAt_beBytes_append (toNat_lt_pow_bytes v h), BitVec.ofNat_toNat, BitVec.setWidth_eq]

/-- What stands behind a number in a byte string. -/
theorem beAt_beBytes_append_right {k off : Nat} (h : k ≤ off) (v n : Nat) (m : List Byte) :
    beAt (beBytes k v ++ m) off n = beAt m (off - k) n := by
  rw [beAt_append_right (by rw [length_beBytes]; exact h), length_beBytes]

/-! ### Fields of the accumulator (R48) -/

theorem accGet_accPut (acc : BitVec 256) {off n : Nat} (h : off + n ≤ 32) (v : Nat) :
    accGet (accPut acc off n v) off n = v % 2 ^ (8 * n) := by
  rw [accGet, accPut, bits_setField _ (by omega)]

theorem accGet_lt (acc : BitVec 256) (off n : Nat) : accGet acc off n < 2 ^ (8 * n) :=
  Nat.mod_lt _ (Nat.two_pow_pos _)

/-- All 32 bytes of ACC, written from its number. -/
theorem accPut_full (acc b : BitVec 256) : accPut acc 0 32 b.toNat = b := by
  have hb := b.isLt
  have hput := accGet_accPut acc (off := 0) (n := 32) (by omega) b.toNat
  have hw := (accPut acc 0 32 b.toNat).isLt
  simp only [accGet, bits] at hput
  apply BitVec.eq_of_toNat_eq
  omega

/-! ### Return-stack entries written one by one -/

/-- An entry after writes of several: what they write to it, if one of them does, else what it was. -/
theorem Bank.rse_get_foldl_write {g : Nat → Fin 16} {v : Nat → W32} {i : Fin 16} {x : W32} (l : List Nat)
    (hv : ∀ j ∈ l, g j = i → v j = x) (c : Bank) (h : (∃ j ∈ l, g j = i) ∨ c.rse.get i = x) :
    ((l.map (fun j => RegWr.rse (g j) (v j))).foldl Bank.write c).rse.get i = x := by
  induction l generalizing c with
  | nil => simpa using h
  | cons j r ih =>
    rw [List.map_cons, List.foldl_cons]
    refine ih (fun k hk => hv k (List.mem_cons_of_mem j hk)) _ ?_
    have hget : (c.write (.rse (g j) (v j))).rse.get i = if g j = i then v j else c.rse.get i := by
      rw [Bank.write, Vector.get_eq_getElem, Vector.getElem_set, Vector.get_eq_getElem]
      simp only [Fin.ext_iff]
    rw [hget]
    by_cases hj : g j = i
    · exact .inr (by rw [if_pos hj]; exact hv j List.mem_cons_self hj)
    · rcases h with ⟨k, hk, hki⟩ | h
      · rcases List.mem_cons.1 hk with rfl | hk
        · exact absurd hki hj
        · exact .inl ⟨k, hk, hki⟩
      · exact .inr (by rw [if_neg hj]; exact h)

/-! ### Register groups (R223, Table 8-8) -/

/-- The entries of a bank's return stack from entry `o` on, as the bytes of a slot. -/
def Bank.rseBytes (b : Bank) (o : Nat) : List Byte :=
  (((List.range 8).map (fun i => i + o)).map (fun i => beBytes 4 (b.rseAt i).toNat)).flatten

theorem groupSlot_seven (b : Bank) : groupSlot b 7 = fit 32 (beBytes 32 b.acc.toNat) := rfl

theorem groupSlot_two (b : Bank) : groupSlot b 2 = fit 32 (b.rseBytes 0) := by
  simp only [groupSlot, Bank.rseBytes, Nat.add_zero, List.map_id']

theorem groupSlot_one (b : Bank) : groupSlot b 1 = fit 32 (b.rseBytes 8) := rfl

theorem groupSlot_zero (b : Bank) : groupSlot b 0 = fit 32 (zeros 16 ++ beBytes 16 (accGet b.acc 16 16)) := rfl

theorem Bank.length_rseBytes (b : Bank) (o : Nat) : (b.rseBytes o).length = 32 := by
  rw [Bank.rseBytes, length_flatten_map_beBytes 4 (fun i => (b.rseAt i).toNat)]
  simp

theorem Bank.ofNat_beAt_rseBytes (b : Bank) (o : Nat) {j : Nat} (hj : j < 8) :
    BitVec.ofNat 32 (beAt (fit 32 (b.rseBytes o)) (4 * j) 4) = b.rseAt (j + o) := by
  have hlen := b.length_rseBytes o
  rw [beAt_fit (by omega) (by omega), Bank.rseBytes, beAt_flatten_map_beBytes (f := fun i => (b.rseAt i).toNat)
    (fun i => toNat_lt_pow_bytes _ rfl) _ (by simpa using hj)]
  simp

/-- The writes of eight return-stack entries from entry `o` on, as a slot gives them. -/
def rseLoad (o : Nat) (l : List Byte) : List RegWr :=
  (List.range 8).map (fun j => RegWr.rse (Fin.ofNat 16 (j + o)) (BitVec.ofNat 32 (beAt l (4 * j) 4)))

theorem groupLoad_two (c : Bank) (l : List Byte) : groupLoad c 2 l = rseLoad 0 l := rfl

theorem groupLoad_one (c : Bank) (l : List Byte) : groupLoad c 1 l = rseLoad 8 l := rfl

/-- Loading eight entries from entry `o` on gives them back. -/
theorem Bank.rse_get_loaded (b c : Bank) {o : Nat} (ho : o + 8 ≤ 16) {i : Fin 16} (hi : o ≤ i.val ∧ i.val < o + 8) :
    ((rseLoad o (fit 32 (b.rseBytes o))).foldl Bank.write c).rse.get i = b.rse.get i := by
  have hfin : ∀ j < 8, Fin.ofNat 16 (j + o) = i ↔ j + o = i.val := by
    intro j hj
    rw [Fin.ext_iff, Fin.val_ofNat, Nat.mod_eq_of_lt (by omega)]
  refine Bank.rse_get_foldl_write _ (fun j hj hji => ?_) c (.inl ⟨i.val - o, ?_, ?_⟩)
  · rw [b.ofNat_beAt_rseBytes o (List.mem_range.1 hj), Bank.rseAt, hji]
  · exact List.mem_range.2 (by omega)
  · exact (hfin _ (by omega)).2 (by omega)

theorem rspWritten_toNat {v : BitVec 5} (h : v.toNat ≤ 16) : rspWritten v.toNat = v := by
  rw [rspWritten, Nat.mod_eq_of_lt v.isLt, Nat.min_eq_left h, BitVec.ofNat_toNat, BitVec.setWidth_eq]

/-! ### O24 -/

/-- Settles O24: each number of a slot reads back from its place. -/
theorem groupRoundTrip : Obligations.GroupRoundTrip := by
  unfold Obligations.GroupRoundTrip
  intro b c g _ _ hrsp t
  refine ⟨?acc, ?index, ?product, ?quotient, ?rsp, ?rse, ?low⟩
  case acc =>
    rintro rfl
    show accPut c.acc 0 32 (beAt (groupSlot b 7) 0 32) = b.acc
    rw [groupSlot_seven, beAt_fit (by simp) (by simp), beAt_beBytes (toNat_lt_pow_bytes b.acc rfl), accPut_full]
  case index =>
    rintro rfl
    simp [t, groupLoad, groupSlot, Bank.write, fit_eq_append, ofNat_beAt_head, beAt_beBytes_append_right]
  case product =>
    rintro rfl
    simp [t, groupLoad, groupSlot, Bank.write, fit_eq_append, ofNat_beAt_head, beAt_beBytes_append_right]
  case quotient =>
    rintro rfl
    simp [t, groupLoad, groupSlot, Bank.write, fit_eq_append, ofNat_beAt_head, beAt_beBytes_append_right]
  case rsp =>
    rintro rfl
    have hlt : b.rsp.toNat < 256 ^ 1 := by omega
    simp [t, groupLoad, groupSlot, Bank.write, fit_eq_append, beAt_beBytes_append_right, beAt_beBytes_append hlt,
      rspWritten_toNat hrsp]
  case rse =>
    rintro i (⟨rfl, hi⟩ | ⟨rfl, hi⟩)
    · simp only [t, groupLoad_two, groupSlot_two]
      exact b.rse_get_loaded c (by omega) ⟨by omega, by omega⟩
    · simp only [t, groupLoad_one, groupSlot_one]
      exact b.rse_get_loaded c (by omega) ⟨by omega, by omega⟩
  case low =>
    rintro rfl
    have hlt : accGet b.acc 16 16 < 256 ^ 16 := accGet_lt b.acc 16 16
    show accGet (accPut c.acc 16 16 (beAt (groupSlot b 0) 16 16)) 16 16 = _
    rw [accGet_accPut _ (by omega), groupSlot_zero, beAt_fit (by simp) (by simp), beAt_append_right (by simp),
      length_zeros, beAt_beBytes hlt, Nat.mod_eq_of_lt (accGet_lt b.acc 16 16)]

/-! ### The slots that an LMM loads (R224) -/

/-- In a list that names each key once, the entry of a key is the one that a search finds. -/
theorem find?_key_eq_some {α : Type} {l : List (Nat × α)} (h : (l.map (fun p => p.1)).Nodup) {p : Nat × α} (hp : p ∈ l) :
    l.find? (fun q => q.1 == p.1) = some p := by
  induction l with
  | nil => cases hp
  | cons q r ih =>
    rw [List.map_cons, List.nodup_cons] at h
    obtain ⟨hq, hr⟩ := h
    rw [List.find?_cons]
    rcases List.mem_cons.1 hp with rfl | hp
    · simp
    · have hne : (q.1 == p.1) = false := beq_false_of_ne fun e => hq (e ▸ List.mem_map_of_mem (f := fun p => p.1) hp)
      rw [hne, ih hr hp]

/-- The groups of a mask, each with its 32 bytes of the operand (R223). -/
def groupSlots (mask : Byte) (l : List Byte) : List (Nat × List Byte) :=
  (groupsOf mask).zip ((List.range (groupsOf mask).length).map (fun i => slice l (32 * i) 32))

theorem groupSlots_keys (mask : Byte) (l : List Byte) : ((groupSlots mask l).map (fun p => p.1)).Nodup := by
  have hgroups : (groupsOf mask).Nodup := List.Nodup.filter _ (by decide)
  rw [groupSlots, List.map_fst_zip (by simp)]
  exact hgroups

/-- User state may not write the PSW that the slots of an LMM hold (R54, R224). -/
def slotsRefused (k : Core) (slots : List (Nat × List Byte)) : Prop :=
  ∃ p ∈ slots, p.1 = 3 ∧ pswRefused k (BitVec.ofNat 64 (beAt p.2 0 8)) = true

/-- LMM looks for the PSW in the first slot of its group; there is one such slot at most. -/
theorem slotsRefused_iff (k : Core) (mask : Byte) (l : List Byte) :
    slotsRefused k (groupSlots mask l) ↔
      (((groupSlots mask l).find? (fun p => p.1 == 3)).map (fun p => p.2)).map
        (fun l => pswRefused k (BitVec.ofNat 64 (beAt l 0 8))) = some true := by
  rw [Option.map_map, Option.map_eq_some_iff]
  constructor
  · rintro ⟨p, hp, h3, href⟩
    exact ⟨p, h3 ▸ find?_key_eq_some (groupSlots_keys mask l) hp, href⟩
  · rintro ⟨p, hp, href⟩
    exact ⟨p, List.mem_of_find?_eq_some hp, by simpa using List.find?_some hp, href⟩

/-- The cycles of an LMM (R223, R56). -/
def lmmCount (mask : Byte) : Nat :=
  if mask.getLsbD 3 then max 5 (2 + 2 * (groupsOf mask).length) else 2 + 2 * (groupsOf mask).length

/-- What LMM makes of the slots that its operand holds. -/
def lmmEff (k : Core) (mask : Byte) (slots : List (Nat × List Byte)) : Eff :=
  match ((slots.find? (fun p => p.1 == 3)).map (fun p => p.2)).map
      (fun l => pswRefused k (BitVec.ofNat 64 (beAt l 0 8))) with
  | some true => Eff.fail (mkFault 3 0 k.bank.pc.toNat 0)
  | _ =>
    Eff.of (((slots.map (fun p => groupLoad k.bank p.1 p.2)).flatten).map (fun w => (lmmCount mask, w))) []
      (lmmCount mask)

theorem lmmEff_refused {k : Core} {mask : Byte} {l : List Byte} (h : slotsRefused k (groupSlots mask l)) :
    lmmEff k mask (groupSlots mask l) = Eff.fail (mkFault 3 0 k.bank.pc.toNat 0) := by
  rw [lmmEff, (slotsRefused_iff k mask l).1 h]

theorem lmmEff_loads {k : Core} {mask : Byte} {l : List Byte} (h : ¬slotsRefused k (groupSlots mask l)) :
    lmmEff k mask (groupSlots mask l) =
      Eff.of ((((groupSlots mask l).map (fun p => groupLoad k.bank p.1 p.2)).flatten).map
        (fun w => (lmmCount mask, w))) [] (lmmCount mask) := by
  unfold lmmEff
  split
  · next heq => exact absurd ((slotsRefused_iff k mask l).2 heq) h
  · rfl

/-- An LMM that has reached its body ends as its slots say. -/
theorem exec_lmm_of_eff {a : Issue} {b1 : Byte} {d : W16} {s : State} {r : Ready}
    (h : s.issues a (fun _ k => { Form.plain 0x73 4 with
      legal := b1 != 0 && !isCc a.core, pfx := pfxOk (.ml false) a.pre, reqs := [mmReq a b1 d k false], ss := true })
        = .inr r) {e : Eff} (he : lmmEff r.w.k b1 (groupSlots b1 (op1 r.bs)) = e) :
    exec (.lmm a b1 d) s = .next (r.perform (Done.of r.w e none)) := by
  subst he
  exact exec_of_body (exec_lmm a b1 d s) (fun _ _ => rfl) h rfl

/-! ### O23 -/

/-- Settles O23: each instruction by its body. -/
theorem groupMoves : Obligations.GroupMoves := by
  unfold Obligations.GroupMoves
  intro a b1 d s r b gs req mm sv ends slots refused n
  refine ⟨fun h => ?smm, fun h hok => ?lmm, fun h hno => ?lmmRefused, fun h => ?saveh, fun h hhalf => ?loadh,
    fun h hhalf => ?loadhWrong⟩
  case smm => exact exec_of_body (exec_smm a b1 d s) (fun _ _ => rfl) h rfl
  case lmm => exact exec_lmm_of_eff h (lmmEff_loads hok)
  case lmmRefused => exact exec_lmm_of_eff h (lmmEff_refused hno)
  case saveh => exact exec_of_body (exec_saveh a b1 d s) (fun _ _ => rfl) h rfl
  case loadh =>
    exact exec_of_body (exec_loadh a b1 d s) (fun _ _ => rfl) h
      (congrArg (Done.of r.w · none) (if_neg (not_not_intro hhalf)))
  case loadhWrong =>
    exact exec_of_body (exec_loadh a b1 d s) (fun _ _ => rfl) h
      (congrArg (Done.of r.w · none) (if_pos hhalf))

end Sys2Proof.Machine

/-! PROOFS. Event records, timers, SIGOUT and the Letterbox (08 R231 to R234, R523; 11 R301, R405). Settles O33. -/

namespace Sys2Proof.Machine

/-! ### Records that a core receives (R233) -/

/-- A number that gathers the powers of two that `p` selects has the bits of those. -/
theorem testBit_foldl_or_two_pow (p : Nat → Bool) (l : List Nat) (a j : Nat) :
    (l.foldl (fun a i => if p i then a ||| 2 ^ i else a) a).testBit j = (a.testBit j || (l.contains j && p j)) := by
  induction l generalizing a with
  | nil => simp
  | cons i r ih =>
    rw [List.foldl_cons, ih]
    by_cases hij : i = j
    · subst hij
      cases hp : p i <;> simp
    · have hji : ¬j = i := fun e => hij e.symm
      cases hp : p i <;> simp [hij, hji]

/-- Whether a slot of a core is routed to a source. -/
def Core.routes (k : Core) (src i : Nat) : Bool :=
  (spGet (⟨0, false⟩ : Route) k.evroute i).v && decide ((spGet (⟨0, false⟩ : Route) k.evroute i).src.toNat = src)

theorem Core.getLsbD_routed (k : Core) (src : Nat) {i : Nat} (hi : i < 32) :
    (k.routed src).getLsbD i = k.routes src i := by
  have hfold := testBit_foldl_or_two_pow (k.routes src) (List.range 32) 0 i
  simp only [Core.routed, BitVec.getLsbD_ofNat, hi, decide_true, Bool.true_and]
  exact hfold.trans (by simp [hi])

theorem Core.wake_eq {k : Core} (h : k.hold ≠ some .wait) : k.wake = k := if_neg (fun hw => h hw.1)

theorem State.core_see (s : State) (dest src : Nat) (c : CoreId) : (s.see dest src).core c = s.core c := rfl

/-- A record received is no longer waiting. -/
theorem State.waiting_see {s : State} {dest src : Nat} {errs : Bool} (h : s.waiting dest src errs ≠ 0) :
    (s.see dest src).waiting dest src errs + 1 = s.waiting dest src errs := by
  simp only [State.waiting, State.see, spGet_spPut_self] at h ⊢
  omega

/-- A record that waits for a core reaches it, but for that of an engine whose square is being relocked. -/
theorem State.eventTo_eq {s : State} {c : CoreId} {src : Nat} (ho : outsideSrc src = false)
    (hw : s.waiting (coreIx c) src true ≠ 0) (hh : (s.core c).hold ≠ some .wait)
    (hr : isCc c = true ∨ (s.square (coreSquare c)).relock = none) :
    s.eventTo c src = (s.see (coreIx c) src).setCore c
      { s.core c with evpend := (s.core c).evpend ||| (s.core c).routed src } := by
  have hrelock : (!isCc c && (s.square (coreSquare c)).relock.isSome) = false := by
    rcases hr with h | h <;> simp [h]
  have hwake : Core.wake { s.core c with evpend := (s.core c).evpend ||| (s.core c).routed src } = _ := Core.wake_eq hh
  simp only [State.eventTo, hrelock, State.arrive, ho, hw, if_false, Bool.false_eq_true, State.core_see, hwake]

/-! ### What a drain of the store buffer leaves (R85) -/

/-- The store buffer empties into the tile, and the core's clock moves on. -/
theorem State.drained_eq (s : State) (c : CoreId) :
    ∃ (u : State) (k : Core), s.drained c = u.setCore c k ∧ s.near u ∧ k.lbox = (s.core c).lbox := by
  have h := (Work.mk s c (s.core c) 0 0 0 0).drain_loaded (s.core c).sbuf.length
  exact ⟨_, _, rfl, h.dev, rfl⟩

theorem State.near_raised {s t : State} (h : s.near t) : t.raised = s.raised := by
  obtain ⟨_, _, _, _, _, _, rfl⟩ := h
  rfl

theorem State.drained_raised (s : State) (c : CoreId) : (s.drained c).raised = s.raised := by
  obtain ⟨u, k, hu, hn, -⟩ := s.drained_eq c
  rw [hu, State.setCore_raised, State.near_raised hn]

theorem State.drained_lbox (s : State) (c : CoreId) : ((s.drained c).core c).lbox = (s.core c).lbox := by
  obtain ⟨u, k, hu, -, hl⟩ := s.drained_eq c
  rw [hu, State.core_setCore, hl]

theorem State.raise_self (s : State) (src : Nat) : spGet 0 (s.raise src).raised src = spGet 0 s.raised src + 1 :=
  spGet_spPut_self _ _ _ _

theorem State.square_raise (s : State) (src q : Nat) : (s.raise src).square q = s.square q := rfl

/-! ### The Letterbox (R301) -/

/-- The slot at TAIL is the last of the full ones once it has been written. -/
theorem Letterbox.slot_tail (l : Letterbox) (x : List Byte) (w : List (List Byte)) (h : l.slots.length < 16) :
    Letterbox.slot { l with slots := l.slots ++ [x], waiting := w } ((l.head.val + l.slots.length) % 16) = x := by
  have hh := l.head.isLt
  have htail : ((l.head.val + l.slots.length) % 16 + 16 - l.head.val) % 16 = l.slots.length := by omega
  simp [Letterbox.slot, htail]

section
variable {s : State} {n : Fin 128} {x : List Byte} {r : List (List Byte)}

theorem exec_letterboxWrite_full {e : Option HwErr} (h : (s.core (.eng n)).lbox.slots.length = 16) :
    exec (.letterboxWrite ⟨n, e⟩) s = .next s := by
  simp only [exec_letterboxWrite, execLetterboxWrite, h]
  split <;> simp

variable (hx : (s.core (.eng n)).lbox.waiting = x :: r) (hlen : (s.core (.eng n)).lbox.slots.length < 16)
  (hheld : s.heldPa (tilePa n.val 0) = false)
include hx hlen hheld

/-- The oldest waiting write takes the slot at TAIL. -/
theorem exec_letterboxWrite_fills (hh : (s.core (.eng n)).hold ≠ some .wait) :
    exec (.letterboxWrite ⟨n, none⟩) s = .next (s.setCore (.eng n) { s.core (.eng n) with
      lbox := { (s.core (.eng n)).lbox with slots := (s.core (.eng n)).lbox.slots ++ [fit 64 x], waiting := r } }) := by
  have hwake : ∀ l : Letterbox, Core.wake { s.core (.eng n) with lbox := l } = { s.core (.eng n) with lbox := l } :=
    fun _ => Core.wake_eq hh
  simp [execLetterboxWrite, hx, hlen, hheld, letterRec, hwake]

/-- A write that a check discards on the way leaves the Letterbox. -/
theorem exec_letterboxWrite_discards {e : HwErr} {y : ErrRec} (he : letterRec s n (some e) = some y) :
    exec (.letterboxWrite ⟨n, some e⟩) s = .next { s.report y with free := s.free + 1 } := by
  simp [execLetterboxWrite, hx, hlen, hheld, he]

end

theorem State.noted.core {s t : State} (h : s.noted t) (c : CoreId) : t.core c = s.core c := by
  obtain ⟨_, _, _, _, rfl⟩ := h
  rfl

theorem Letterbox.free_cons {l : Letterbox} {y : List Byte} {r : List (List Byte)} (h : l.slots = y :: r) :
    l.free = { l with head := l.head + 1, slots := r } := by
  simp only [Letterbox.free, h]

/-! ### O33 -/

/-- Settles O33: each happening by what it leaves. -/
theorem eventsTimersLetterbox : Obligations.EventsTimersLetterbox := by
  unfold Obligations.EventsTimersLetterbox
  refine ⟨⟨?record, ?timer, ?sigout⟩, fun n s => ⟨fun x r hx hlen hheld hh => ⟨?fills, ?discards⟩, ?full, ?read⟩⟩
  case record =>
    intro c src s ho hw hh hr
    refine ⟨_, rfl, fun i hi => ?_, ?_⟩
    · rw [State.eventTo_eq ho hw hh hr, State.core_setCore, BitVec.getLsbD_or, Core.getLsbD_routed _ _ hi, Core.routes]
      simp
    · rw [State.eventTo_eq ho hw hh hr]
      exact State.waiting_see hw
  case timer =>
    intro m s q y hrun hper
    refine ⟨_, if_pos ⟨hrun, hper⟩, State.raise_self _ _, ?_⟩
    rw [State.square_raise, State.square_setSquare_self]
    exact spGet_spPut_self _ _ _ _
  case sigout =>
    intro c s hrun
    refine ⟨_, if_pos hrun, ?_, rfl⟩
    show spGet 0 ((s.drained c).raise (sigSource c)).raised (sigSource c) = spGet 0 s.raised (sigSource c) + 1
    rw [State.raise_self, State.drained_raised]
  case fills =>
    refine ⟨_, exec_letterboxWrite_fills hx hlen hheld hh, ?_, ?_⟩
    · rw [State.core_setCore]
    · rw [State.core_setCore]
      exact Letterbox.slot_tail _ _ _ hlen
  case discards =>
    intro e he
    obtain ⟨y, hy⟩ : ∃ y, letterRec s n (some e) = some y := by
      rcases List.mem_pair.1 he with rfl | rfl
      · exact ⟨_, rfl⟩
      · exact ⟨_, rfl⟩
    exact ⟨_, exec_letterboxWrite_discards hx hlen hheld hy, ((s.report_noted y).count _).core _⟩
  case full => exact fun e _ hlen => exec_letterboxWrite_full hlen
  case read =>
    intro y r hrun hfatal hs
    have hfree : ((s.drained (.eng n)).core (.eng n)).lbox.free
        = { (s.core (.eng n)).lbox with head := (s.core (.eng n)).lbox.head + 1, slots := r } := by
      rw [State.drained_lbox, Letterbox.free_cons hs]
    simp only [exec_letterboxSlotRead, execLetterboxSlotRead, hrun, hfatal, hfree, Bool.not_false, and_self, if_true]

end Sys2Proof.Machine

/-! PROOFS. Entry of an exception (08 R203, R215 to R220, R227 to R230, R416): what the port below the instructions changes
of a core, the descriptor that an entry finds, the bank that it leaves, the order of items, and escalation. Settles O22. -/

namespace Sys2Proof.Machine

/-! ### The port below the instructions, background fills among its grants (R81, R195, R212) -/

/-- A core without what the grants of the port below the instructions change of it. -/
def Core.sansPort (k : Core) : Core :=
  { k with fqAt := 0, fq := [], fetchAt := 0, portBusy := [], tgt := none, sbuf := [], bg := none, asyncCtx := none
           banks := Core.reset.banks, res := Core.reset.res }

theorem Core.fetchOne_sansPort (k : Core) (x : Code) : (k.fetchOne x).sansPort = k.sansPort := by
  unfold Core.fetchOne
  split <;> rfl

/-- A task bank written. -/
theorem Core.setBankAt_castSucc (k : Core) (i : Fin 4) (b : Bank) :
    k.setBankAt i.castSucc b = { k with banks := k.banks.set i.val b i.isLt } :=
  dif_pos (show i.castSucc.val < 4 from i.isLt)

/-- A task bank read. -/
theorem Core.bankAt_castSucc (k : Core) (i : Fin 4) : k.bankAt i.castSucc = k.banks.get i :=
  dif_pos (show i.castSucc.val < 4 from i.isLt)

theorem Core.setBankAt_castSucc_sansPort (k : Core) (i : Fin 4) (b : Bank) :
    (k.setBankAt i.castSucc b).sansPort = k.sansPort := by
  rw [Core.setBankAt_castSucc]
  rfl

theorem State.touchArea_near (s : State) (n a len : Nat) (write : Bool) : s.near (s.touchArea n a len write) :=
  touchKeys_near _ _ _ _ _

theorem State.fillBlock_frame (s : State) (c : CoreId) (k : Core) (b : BgFill) (t : Nat) :
    s.near (s.fillBlock c k b t).1 ∧ (s.fillBlock c k b t).2.sansPort = k.sansPort := by
  unfold State.fillBlock
  dsimp only
  split
  · exact ⟨s.near_refl, rfl⟩
  · split
    · exact ⟨s.touchArea_near _ _ _ _, rfl⟩
    · split
      · exact ⟨s.touchArea_near _ _ _ _, rfl⟩
      · exact ⟨s.touchArea_near _ _ _ _, Core.setBankAt_castSucc_sansPort _ _ _⟩

theorem State.grant_frame (s : State) (c : CoreId) (k : Core) (g : Grant) (t : Nat) :
    s.near (s.grant c k g t).1 ∧ (s.grant c k g t).2.sansPort = k.sansPort := by
  cases g with
  | fetch => exact ⟨s.near_refl, k.fetchOne_sansPort _⟩
  | drain =>
    simp only [State.grant]
    split
    · exact ⟨drainEnt_near s _ _, rfl⟩
    · exact ⟨s.near_refl, rfl⟩
  | fill =>
    simp only [State.grant]
    split
    · exact s.fillBlock_frame c k _ t
    · exact ⟨s.near_refl, rfl⟩

theorem State.portGo_frame (c : CoreId) (upto n : Nat) (s : State) (k : Core) :
    s.near (State.portGo c upto n s k).1 ∧ (State.portGo c upto n s k).2.sansPort = k.sansPort := by
  induction n generalizing s k with
  | zero => exact ⟨s.near_refl, rfl⟩
  | succ n ih =>
    unfold State.portGo
    split
    · exact ⟨s.near_refl, rfl⟩
    · next g t _ =>
      split
      · obtain ⟨hs, hk⟩ := s.grant_frame c k g t
        obtain ⟨gs, gk⟩ := ih (s.grant c k g t).1 (s.grant c k g t).2
        exact ⟨State.near_trans hs gs, gk.trans hk⟩
      · exact ⟨s.near_refl, rfl⟩

theorem State.portTo_frame (s : State) (c : CoreId) (k : Core) (upto : Nat) :
    s.near (s.portTo c k upto).1 ∧ (s.portTo c k upto).2.sansPort = k.sansPort :=
  State.portGo_frame c upto 24 s k

theorem Work.idle_frame (w : Work) (upto : Nat) :
    (w.idle upto).c = w.c ∧ (w.idle upto).pen = w.pen ∧ w.s.near (w.idle upto).s
      ∧ (w.idle upto).k.sansPort = w.k.sansPort := by
  obtain ⟨hs, hk⟩ := w.s.portTo_frame w.c w.k upto
  exact ⟨rfl, rfl, hs, hk⟩

theorem Work.at_frame (w : Work) (boundary : Bool) :
    (w.at boundary).c = w.c ∧ ∃ t, (w.at boundary).k.sansPort = { w.k with now := t }.sansPort := by
  obtain ⟨hc, -, -, hk⟩ := Work.idle_frame { w with k := { w.k with
    now := max (if boundary then w.nextAt else w.k.now) w.k.ackAt } } (max (if boundary then w.nextAt else w.k.now) w.k.ackAt)
  exact ⟨hc, _, hk⟩

/-! ### Fields of a word -/

theorem getLsbD_setField {w : Nat} (x : BitVec w) (lo n v : Nat) {j : Nat} (hj : j < w) :
    (setField x lo n v).getLsbD j
      = if lo ≤ j ∧ j < lo + n then v.testBit (j - lo) else x.getLsbD j := by
  simp only [setField, BitVec.getLsbD_or, BitVec.getLsbD_and, BitVec.getLsbD_not, BitVec.getLsbD_ofNat, hj,
    Nat.testBit_mul_two_pow, Nat.testBit_mod_two_pow, Nat.testBit_two_pow_sub_one, decide_true, Bool.true_and]
  by_cases hlo : lo ≤ j
  · by_cases hn : j < lo + n
    · have hsub : j - lo < n := by omega
      simp [hlo, hn, hsub]
    · have hsub : ¬j - lo < n := by omega
      simp [hn, hsub]
  · simp [hlo]

theorem getLsbD_setBit {w : Nat} (x : BitVec w) (i : Nat) (b : Bool) {j : Nat} (hj : j < w) :
    (setBit x i b).getLsbD j = if j = i then b else x.getLsbD j := by
  rw [setBit, getLsbD_setField x i 1 b.toNat hj]
  by_cases h : j = i
  · subst h
    cases b <;> simp
  · rw [if_neg (by omega), if_neg h]

/-- PSW of a handler: the bits that its descriptor gives, and DS, IE and TE 0 (R218 step 6). -/
theorem handlerPsw_bits (p : W64) (d : Descr) :
    (handlerPsw p d).getLsbD 12 = d.sup ∧ (handlerPsw p d).getLsbD 9 = d.cm ∧ (handlerPsw p d).getLsbD 8 = false
      ∧ (handlerPsw p d).getLsbD 10 = false ∧ (handlerPsw p d).getLsbD 11 = false
      ∧ (handlerPsw p d).extractLsb' 16 4 = d.key := by
  unfold handlerPsw
  refine ⟨?_, ?_, ?_, ?_, ?_, ?_⟩
  case refine_6 =>
    refine BitVec.eq_of_getLsbD_eq (fun i hi => ?_)
    rw [BitVec.getLsbD_extractLsb', getLsbD_setField _ _ _ _ (by omega), if_pos (by omega), Nat.add_sub_cancel_left, BitVec.testBit_toNat]
    simp [hi]
  all_goals
    rw [getLsbD_setField _ _ _ _ (by decide), if_neg (by decide)]
    simp only [getLsbD_setBit, Nat.reduceLT, Nat.reduceEqDiff, if_true, if_false]

theorem Exn.toNat_cause (x : Exn) : x.cause.toNat = x.vec.toNat + x.cls.toNat * 64 + x.sub.toNat * 256 := by
  have hv := x.vec.isLt
  have hc := x.cls.isLt
  have hs := x.sub.isLt
  rw [Exn.cause, BitVec.toNat_ofNat, Nat.mod_eq_of_lt (by omega)]

/-! ### Reads beside error records -/

/-- A byte written beside error records. -/
theorem State.noted.wr {s t : State} (h : s.noted t) (pa : Nat) (b : Byte) : (s.wr pa b).noted (t.wr pa b) := by
  obtain ⟨bk, n, p, f, rfl⟩ := h
  generalize ht : ({ s with banks := bk, newest := n, memPorts := p, free := f } : State) = t
  have hk' : t.inKeys pa = s.inKeys pa := by rw [← ht]; rfl
  have hs' : t.dirSlot pa = s.dirSlot pa := by rw [← ht]; rfl
  have hd' : ∀ i, t.entryPatched i pa b = s.entryPatched i pa b := fun i => by rw [← ht]; rfl
  cases hpa : pKind pa with
  | attached =>
    rw [State.wr_attached b hpa, State.wr_attached b hpa]
    cases hk : s.inKeys pa with
    | true =>
      rw [State.attWr_inKeys b hk, State.attWr_inKeys b (hk'.trans hk), ← ht]
      exact ⟨bk, n, p, f, rfl⟩
    | false =>
      cases hs : s.dirSlot pa with
      | none =>
        rw [State.attWr_plain b hk hs, State.attWr_plain b (hk'.trans hk) (hs'.trans hs), ← ht]
        exact ⟨bk, n, p, f, rfl⟩
      | some i =>
        cases hd : dirOfImage (s.entryPatched i pa b) with
        | some d =>
          rw [State.attWr_entry_some hk hs hd,
            State.attWr_entry_some (hk'.trans hk) (hs'.trans hs) ((congrArg dirOfImage (hd' i)).trans hd), ← ht]
          generalize List.replicate 32 memDefault = z
          exact ⟨bk, n, p, f, rfl⟩
        | none =>
          rw [State.attWr_entry_none hk hs hd,
            State.attWr_entry_none (hk'.trans hk) (hs'.trans hs) ((congrArg dirOfImage (hd' i)).trans hd), hd', ← ht]
          exact ⟨bk, n, p, f, rfl⟩
  | tile m o kind =>
    rw [State.wr_tile b hpa, State.wr_tile b hpa, ← ht]
    exact ⟨bk, n, p, f, rfl⟩
  | square | kerb | reg | resv =>
    simp only [State.wr, hpa, ← ht]
    exact ⟨bk, n, p, f, rfl⟩

theorem State.noted.wrN {s t : State} (h : s.noted t) (pa : Nat) (l : List Byte) : (s.wrN pa l).noted (t.wrN pa l) := by
  induction l generalizing s t pa with
  | nil => exact h
  | cons b r ih => exact ih (h.wr pa b) _

theorem State.noted.drainEnts {s t : State} (h : s.noted t) (n : Nat) (l : List StoreEnt) :
    (s.drainEnts n l).noted (t.drainEnts n l) := by
  induction l generalizing s t with
  | nil => exact h
  | cons e r ih => exact ih (h.wrN _ _)

theorem State.noted.rd {s t : State} (h : s.noted t) (q : Nat) : t.rd q = s.rd q := by
  obtain ⟨_, _, _, _, rfl⟩ := h
  rfl

theorem State.noted.rdN {s t : State} (h : s.noted t) (pa n : Nat) : t.rdN pa n = s.rdN pa n := by
  induction n generalizing pa with
  | zero => rfl
  | succ n ih => rw [State.rdN, State.rdN, h.rd, ih]

/-! ### Descriptors (R215) -/

/-- Two cores at work find the same descriptors: the same core with the same table and the same bytes to find there,
those in the store buffer among them. -/
structure Work.descrAlike (w v : Work) : Prop where
  c : v.c = w.c
  dtb : v.k.dtb = w.k.dtb
  sbuf : v.k.sbuf = w.k.sbuf
  dev : w.s.noted v.s

theorem Work.descrAlike.loadTile {w v : Work} (h : w.descrAlike v) (a n : Nat) :
    (v.loadTile a n).2 = (w.loadTile a n).2 := by
  have hdrain : ∀ m, (v.drain m).s.rdN (tilePa (engNo v.c) a) n = (w.drain m).s.rdN (tilePa (engNo w.c) a) n := by
    intro m
    have hs := (h.dev.drainEnts (engNo w.c) (w.k.sbuf.take m)).rdN (tilePa (engNo w.c) a) n
    simp only [Work.drain, h.c, h.sbuf]
    exact hs
  unfold Work.loadTile
  rw [h.sbuf]
  split
  · simp only [Work.readTile, h.c, h.dev.rdN]
  · next i _ =>
    split
    · simp only [Work.readTile, h.c, h.dev.rdN]
    · split
      · rfl
      · exact hdrain (i + 1)

theorem Work.descrAlike.descr {w v : Work} (h : w.descrAlike v) (x : BitVec 6) : (v.descr x).2 = (w.descr x).2 := by
  unfold Work.descr
  rw [h.c, h.dtb]
  split
  · simp only [h.dev.rdN]
  · simp only [h.loadTile]

/-- The read of a descriptor changes of the core the store buffer at most. -/
theorem Work.descr_frame (w : Work) (x : BitVec 6) :
    (w.descr x).1.c = w.c ∧ (w.descr x).1.k.sansFetch = w.k.sansFetch := by
  have hload : ∀ a n, (w.loadTile a n).1.c = w.c ∧ (w.loadTile a n).1.k.sansFetch = w.k.sansFetch := by
    intro a n
    unfold Work.loadTile
    split
    · exact ⟨rfl, rfl⟩
    · split
      · exact ⟨rfl, rfl⟩
      · split <;> exact ⟨rfl, rfl⟩
  unfold Work.descr
  split
  · exact ⟨rfl, rfl⟩
  · exact hload _ _

/-! ### Leaving the task bank (R218 step 1, R220) -/

/-- The interrupted bank as an entry leaves it: at its PC, or, after a fault in a delay slot, at its branch with DS
1. -/
def Core.leftBank (k : Core) (fault : Bool) : Bank :=
  match (if fault then k.bank.slot else none) with
  | some (bpc, _) => { k.bank with pc := bpc, psw := setBit k.bank.psw 8 true, slot := none }
  | none => { k.bank with psw := setBit k.bank.psw 8 false, slot := none }

/-- XBT as an entry leaves it. -/
def Core.leftXbt (k : Core) (fault : Bool) : W32 :=
  match (if fault then k.bank.slot else none) with
  | some (_, next) => next.getD k.bank.pc
  | none => k.xbt

theorem Core.curIx_of_task {k : Core} (h : k.inShadow = false) : k.curIx = k.cur.castSucc := by simp [Core.curIx, h]

theorem Core.setBank_of_task {k : Core} (h : k.inShadow = false) (b : Bank) :
    k.setBank b = { k with banks := k.banks.set k.cur.val b k.cur.isLt } := by
  rw [Core.setBank, Core.curIx_of_task h, Core.setBankAt_castSucc]

theorem Core.leave_eq {k : Core} (h : k.inShadow = false) (fault : Bool) :
    k.leave fault = { k with
      banks := k.banks.set k.cur.val (k.leftBank fault) k.cur.isLt, xbt := k.leftXbt fault, xtask := k.task
      trapHeld := k.trap.or k.trapHeld, ctxHeld := k.asyncCtx.or k.ctxHeld, trap := none, asyncCtx := none
      oneStep := false, fq := [], loopBuf := .empty, tgt := none } := by
  unfold Core.leave Core.leftBank Core.leftXbt
  dsimp only
  generalize (if fault = true then k.bank.slot else none) = held
  cases held with
  | none => simp only [Core.setBank_of_task h]
  | some p => simp only [Core.setBank_of_task h]

/-- An item taken changes of the core what it takes, and the fault that is then raised again (R230). -/
theorem Core.clearItem_eq (k : Core) (it : Item) : ∃ mc tr te cx ev, k.clearItem it = { k with
    exn := none, exnFar := false, entryMc := none, asyncMc := mc, trap := tr, tracePend := te, asyncCtx := cx
    evpend := ev } := by
  cases it <;> exact ⟨_, _, _, _, _, rfl⟩

/-! ### Entering a handler (R217, R218, R416) -/

theorem Core.mcStore_eq (k : Core) (r : ErrRec) : ∃ m, k.mcStore r = { k with mcr := m } := by
  unfold Core.mcStore
  split
  · exact ⟨_, rfl⟩
  · exact ⟨_, rfl⟩

/-- The fault registers, and what the machine-check record of an entry leaves. -/
theorem Work.faultRegs_eq (w : Work) (x : Exn) (cause : W32) :
    (w.faultRegs x cause).c = w.c ∧ w.s.noted (w.faultRegs x cause).s ∧ ∃ m, (w.faultRegs x cause).k
      = { w.k with fcause := cause, faddr := x.faddr, finfo := x.finfo, mcr := m } := by
  unfold Work.faultRegs
  dsimp only
  split
  · next r _ =>
    obtain ⟨m, hm⟩ := Core.mcStore_eq { w.k with fcause := cause, faddr := x.faddr, finfo := x.finfo } r
    exact ⟨rfl, w.s.report_noted r, m, hm⟩
  · exact ⟨rfl, w.s.noted_refl, w.k.mcr, rfl⟩

theorem Core.fetchFrom_sansFetch (k : Core) (a : W32) (code : List (Nat × Byte)) :
    (k.fetchFrom a code).sansFetch = k.sansFetch := by
  unfold Core.fetchFrom
  split <;> rfl

/-- The shadow bank as the handler of a descriptor begins. -/
def Bank.handling (b : Bank) (d : Descr) (psw : W64) (iy : W32) : Bank :=
  { b with pc := d.handler, iy := iy, psw := handlerPsw psw d, slot := none }

theorem Work.handler_frame (w : Work) (d : Descr) (psw : W64) (iy : W32) :
    (w.handler d psw iy).c = w.c ∧ (w.handler d psw iy).k.sansFetch
      = { w.k with shadow := w.k.shadow.handling d psw iy, inShadow := true }.sansFetch :=
  ⟨rfl, (Core.fetchFrom_sansFetch _ _ _).trans rfl⟩

/-- A core as the handler of `x` begins by the descriptor `d`. -/
def Core.entered (k : Core) (x : Exn) (d : Descr) (mcr : Vector W64 4) (psw : W64) : Core :=
  { k with fcause := x.cause, faddr := x.faddr, finfo := x.finfo, mcr := mcr, inShadow := true
           shadow := k.shadow.handling d psw (if d.se then k.esp else d.stack) }

/-- An exception whose descriptor is valid is entered: the fault registers, the shadow bank, and the rest of the core as
it stood (R218 steps 4 to 6). -/
theorem Work.enter_eq {w : Work} {x : Exn} {d : Descr} (hd : (w.descr x.vec).2 = d) (hv : d.v = true) :
    (w.enter x none).c = w.c ∧ ∃ m psw, (w.enter x none).k.sansFetch = (w.k.entered x d m psw).sansFetch := by
  obtain ⟨hc, hk⟩ := w.descr_frame x.vec
  have henter : w.enter x none = ((w.descr x.vec).1.faultRegs x x.cause).handler d
      ((w.descr x.vec).1.faultRegs x x.cause).k.xpsw
      (if d.se then ((w.descr x.vec).1.faultRegs x x.cause).k.esp else d.stack) := by
    subst hd
    simp only [Work.enter, hv, reduceCtorEq, if_false, Bool.not_true, Bool.false_eq_true]
  generalize (w.descr x.vec).1 = u at hc hk henter
  obtain ⟨fc, -, m, fk⟩ := u.faultRegs_eq x x.cause
  generalize u.faultRegs x x.cause = v at fc fk henter
  obtain ⟨gc, gk⟩ := v.handler_frame d v.k.xpsw (if d.se then v.k.esp else d.stack)
  rw [henter]
  refine ⟨gc.trans (fc.trans hc), m, v.k.xpsw, gk.trans ?_⟩
  calc ({ v.k with shadow := v.k.shadow.handling d v.k.xpsw (if d.se then v.k.esp else d.stack), inShadow := true }
        : Core).sansFetch
      = (u.k.sansFetch.entered x d m v.k.xpsw).sansFetch := by
        generalize v.k.xpsw = p
        rw [fk]
        rfl
    _ = (w.k.entered x d m v.k.xpsw).sansFetch := by
        rw [hk]
        rfl

/-! ### An item taken from a task bank (R216 to R220) -/

/-- Whether an item is taken at a boundary that it brings about itself. -/
def Item.async : Item → Bool
  | .mc _ => true
  | .ctx _ => true
  | .event _ => true
  | _ => false

/-- Whether an item is the fault of the instruction at PC. -/
def Item.isFault : Item → Bool
  | .fault _ => true
  | _ => false

/-- A core as the entry of an item leaves its task bank. -/
def Core.left (k : Core) (it : Item) : Core := { (k.clearItem it).leave it.isFault with hold := none }

/-- What the handler of an item finds of the interrupted task. -/
structure Core.LeftAs (k j : Core) (fault : Bool) : Prop where
  dtb : j.dtb = k.dtb
  sbuf : j.sbuf = k.sbuf
  esp : j.esp = k.esp
  escalated : j.escalated = k.escalated
  xtask : j.xtask = k.task
  xbt : j.xbt = k.leftXbt fault
  exn : j.exn = none
  bank : j.banks.get k.cur = k.leftBank fault

theorem Core.left_as {k : Core} (h : k.inShadow = false) (it : Item) : k.LeftAs (k.left it) it.isFault := by
  obtain ⟨mc, tr, te, cx, ev, he⟩ := k.clearItem_eq it
  have hshadow : (k.clearItem it).inShadow = false := by rw [he]; exact h
  rw [Core.left, Core.leave_eq hshadow, he]
  refine ⟨rfl, rfl, rfl, rfl, rfl, rfl, rfl, ?_⟩
  rw [Vector.get_eq_getElem]
  exact Vector.getElem_set_self _

theorem Core.leftBank_frame (k : Core) (fault : Bool) :
    (k.leftBank fault).acc = k.bank.acc ∧ (k.leftBank fault).ix = k.bank.ix ∧ (k.leftBank fault).iy = k.bank.iy := by
  unfold Core.leftBank
  split <;> exact ⟨rfl, rfl, rfl⟩

/-- A fault in a delay slot: the branch's PC with DS 1, and XBT. -/
theorem Core.left_in_slot {k : Core} {bpc : W32} {next : Option W32} (h : k.bank.slot = some (bpc, next)) :
    (k.leftBank true).pc = bpc ∧ k.leftXbt true = next.getD k.bank.pc ∧ (k.leftBank true).psw.getLsbD 8 = true := by
  simp only [Core.leftBank, Core.leftXbt, h, if_true, true_and]
  rw [getLsbD_setBit _ _ _ (by decide), if_pos rfl]

/-- Outside a delay slot: the PC as it stands, with DS 0. -/
theorem Core.left_at_pc {k : Core} (h : k.bank.slot = none) (fault : Bool) :
    (k.leftBank fault).pc = k.bank.pc ∧ (k.leftBank fault).psw.getLsbD 8 = false := by
  simp only [Core.leftBank, h, ite_self, true_and]
  rw [getLsbD_setBit _ _ _ (by decide), if_pos rfl]

/-- An item taken is entered from the bank that it leaves. -/
theorem Work.take_eq {w : Work} (h : w.k.entryMc = none) (it : Item) :
    w.take it none = Work.enter { w.at it.async with k := (w.at it.async).k.left it } (w.k.itemExn it) none := by
  unfold Work.take
  rw [h]
  cases it <;> rfl

theorem Work.at_inShadow (w : Work) (boundary : Bool) : (w.at boundary).k.inShadow = w.k.inShadow := by
  obtain ⟨-, t, hk⟩ := w.at_frame boundary
  exact (congrArg Core.inShadow hk :)

/-- The entry of an item from a task bank, its descriptor valid. -/
theorem Work.take_enters {w : Work} {it : Item} {d : Descr} (hs : w.k.inShadow = false) (he : w.k.entryMc = none)
    (hd : ((w.at it.async).descr (w.k.itemExn it).vec).2 = d) (hv : d.v = true) :
    (w.take it none).c = w.c ∧ ∃ m psw, (w.take it none).k.sansFetch
      = (((w.at it.async).k.left it).entered (w.k.itemExn it) d m psw).sansFetch := by
  have hleft := Core.left_as ((w.at_inShadow it.async).trans hs) it
  have hlike : (w.at it.async).descrAlike { w.at it.async with k := (w.at it.async).k.left it } :=
    ⟨rfl, hleft.dtb, hleft.sbuf, State.noted_refl _⟩
  obtain ⟨hc, henter⟩ := Work.enter_eq ((hlike.descr _).trans hd) hv
  obtain ⟨hat, -⟩ := w.at_frame it.async
  rw [Work.take_eq he]
  exact ⟨hc.trans hat, henter⟩

theorem Work.core_put {w : Work} {c : CoreId} (h : w.c = c) : w.put.core c = w.k := by
  subst h
  exact State.core_setCore _ _ _

/-- A core at work as EXCEPTION_ENTRY finds it: the results due have landed. -/
def State.atEntry (s : State) (c : CoreId) : Work :=
  let w : Work := Work.idle { s := s, c := c, k := s.core c, pen := 0 } (s.core c).now
  { w with k := w.k.settle (isCc c) w.k.now }

theorem exec_exceptionEntry_eq {s : State} {c : CoreId} (h : s.canEnter c = true) (err : Option HwErr) :
    exec (.exceptionEntry c err) s = .next ((s.atEntry c).entry err).put := by
  simp only [exec_exceptionEntry, execExceptionEntry, h, if_true, State.atEntry]

theorem Work.entry_task {w : Work} {it : Item} (hs : w.k.inShadow = false) (hp : w.k.pick = some it)
    (err : Option HwErr) : w.entry err = w.take it err := by
  simp only [Work.entry, hs, hp, Bool.false_eq_true, if_false]

/-! ### Priorities (R203, R230) -/

/-- Outside a delay slot an item of ranks 2 to 6 goes before a fault that will be raised again. -/
theorem Core.pick_eq {k : Core} (hslot : k.bank.slot = none) (hone : k.oneStep = false) : k.pick =
    (k.item (if k.exnFar then none else k.takeable)).or (k.exn.map Item.fault) := by
  simp only [Core.pick, hslot, hone, Option.isSome_none, Bool.or_self, Bool.false_eq_true, if_false]
  cases k.item (if k.exnFar then none else k.takeable) <;> rfl

theorem Core.takeable_some {k : Core} {i : Nat} (h : k.takeable = some i) :
    k.evpend.getLsbD i = true ∧ k.evmask.getLsbD i = true ∧ pswBit k.bank.psw 10 = true := by
  unfold Core.takeable at h
  split at h
  · cases h
  · next hc =>
    have hi := List.find?_some h
    simp only [Bool.and_eq_true] at hi
    simp only [Bool.or_eq_true, Bool.not_eq_true', not_or, Bool.not_eq_false] at hc
    exact ⟨hi.1.1, hi.1.2, hc.2⟩

/-! ### Escalation (R227 to R229) -/

/-- A core as an escalation for `x` records it. -/
def Core.escalating (k : Core) (x : Exn) (pc cause : W32) (sub : Nat) (mcr : Vector W64 4) : Core :=
  { k with escpc := pc, escpsw := k.shadow.psw, esccause := cause, hold := none, fcause := BitVec.ofNat 32 (sub * 256)
           faddr := x.faddr, finfo := x.finfo, mcr := mcr }

/-- A core as the handler of vector 0 begins by the descriptor `d` (R227). -/
def Core.escalatedTo (k : Core) (d : Descr) (psw : W64) : Core :=
  { k with shadow := k.shadow.handling d psw k.esp, inShadow := true, escalated := true }

section
variable {w : Work} {d : Descr} (hesc : w.k.escalated = false) (hd : (w.descr 0).2 = d) (x : Exn) (pc cause : W32)
  (sub : Nat)
include hesc hd

/-- An escalation reads the descriptor of vector 0 once it has recorded the handler's state. -/
theorem Work.escalate_eq : ∃ (v : Work) (m : Vector W64 4), v.c = w.c
    ∧ v.k.sansFetch = (w.k.escalating x pc cause sub m).sansFetch
    ∧ w.escalate x pc cause sub false
      = if d.v then
          { v.handler d v.k.xpsw v.k.esp with k := { (v.handler d v.k.xpsw v.k.esp).k with escalated := true } }
        else v.halt := by
  let w1 : Work := { w with k := { w.k with escpc := pc, escpsw := w.k.shadow.psw, esccause := cause, hold := none } }
  obtain ⟨fc, fs, m, fk⟩ := w1.faultRegs_eq x (BitVec.ofNat 32 (sub * 256))
  have hlike : w.descrAlike (w1.faultRegs x (BitVec.ofNat 32 (sub * 256))) := ⟨fc, by rw [fk], by rw [fk], fs⟩
  have hesc' : w.escalate x pc cause sub false
      = if d.v then
          let v : Work := ((w1.faultRegs x (BitVec.ofNat 32 (sub * 256))).descr 0).1
          { v.handler d v.k.xpsw v.k.esp with k := { (v.handler d v.k.xpsw v.k.esp).k with escalated := true } }
        else ((w1.faultRegs x (BitVec.ofNat 32 (sub * 256))).descr 0).1.halt := by
    rw [← hd, ← hlike.descr 0]
    unfold Work.escalate
    simp only [hesc, Bool.false_eq_true, if_false, Bool.false_or, w1]
    cases hv : (Work.descr _ 0).2.v <;> rfl
  generalize w1.faultRegs x (BitVec.ofNat 32 (sub * 256)) = u at fc fk hesc'
  obtain ⟨dc, dk⟩ := u.descr_frame 0
  exact ⟨(u.descr 0).1, m, dc.trans fc, dk.trans (by rw [fk]; rfl), hesc'⟩

/-- The handler of vector 0 begins. -/
theorem Work.escalate_valid (hv : d.v = true) : (w.escalate x pc cause sub false).c = w.c
    ∧ ∃ m psw, (w.escalate x pc cause sub false).k.sansFetch
      = ((w.k.escalating x pc cause sub m).escalatedTo d psw).sansFetch := by
  obtain ⟨v, m, hc, hk, he⟩ := w.escalate_eq hesc hd x pc cause sub
  obtain ⟨gc, gk⟩ := v.handler_frame d v.k.xpsw v.k.esp
  rw [he, if_pos hv]
  refine ⟨gc.trans hc, m, v.k.xpsw, ?_⟩
  calc ({ (v.handler d v.k.xpsw v.k.esp).k with escalated := true } : Core).sansFetch
      = ({ (v.handler d v.k.xpsw v.k.esp).k.sansFetch with escalated := true } : Core).sansFetch := rfl
    _ = (v.k.sansFetch.escalatedTo d v.k.xpsw).sansFetch := by rw [gk]; rfl
    _ = ((w.k.escalating x pc cause sub m).escalatedTo d v.k.xpsw).sansFetch := by rw [hk]; rfl

/-- Without a valid descriptor the core halts. -/
theorem Work.escalate_invalid (hv : d.v = false) : (w.escalate x pc cause sub false).c = w.c
    ∧ ∃ m, (w.escalate x pc cause sub false).k.sansFetch
      = { w.k.escalating x pc cause sub m with halted := true }.sansFetch := by
  obtain ⟨v, m, hc, hk, he⟩ := w.escalate_eq hesc hd x pc cause sub
  rw [he, if_neg (by simp [hv])]
  exact ⟨hc, m, congrArg (fun j : Core => ({ j with halted := true } : Core)) hk⟩

end

/-- A second escalation halts the core. -/
theorem Work.escalate_again {w : Work} (h : w.k.escalated = true) (x : Exn) (pc cause : W32) (sub : Nat) (bad : Bool) :
    w.escalate x pc cause sub bad = w.halt := by
  simp only [Work.escalate, h, if_true]

/-- A core at work whose fault in the shadow bank is taken. -/
def Work.shadowTaken (w : Work) : Work :=
  { w with k := { w.k with exn := none, exnFar := false, entryMc := none, trap := none, oneStep := false } }

theorem Work.shadowTaken_descr (w : Work) (v : BitVec 6) : (w.shadowTaken.descr v).2 = (w.descr v).2 :=
  Work.descrAlike.descr (w := w) (v := w.shadowTaken) ⟨rfl, rfl, rfl, State.noted_refl _⟩ v

/-- A fault in the shadow bank escalates, with the state of its handler. -/
theorem Work.entry_shadow {w : Work} {x : Exn} (hs : w.k.inShadow = true) (hx : w.k.exn = some x)
    (he : w.k.entryMc = none) : w.entry none
      = (w.at false).shadowTaken.escalate x (w.at false).k.shadow.pc ((w.at false).k.fcause &&& 0xFFFF) 0 false := by
  simp only [Work.entry, hs, if_true, Core.shadowExn, hx, he, Option.isNone_some, Bool.false_and, Bool.false_eq_true, if_false]
  rfl

/-! ### O22 -/

/-- A register that fetching does not touch. -/
theorem Core.field_of_sansFetch {α : Type} {k j : Core} (h : j.sansFetch = k.sansFetch) (f : Core → α)
    (hf : ∀ i : Core, f i.sansFetch = f i) : f j = f k := by
  rw [← hf j, h, hf k]

/-- What an entry of an item from a task bank leaves (R216 to R220). -/
theorem Work.take_fields {w : Work} {it : Item} {d : Descr} (hs : w.k.inShadow = false) (he : w.k.entryMc = none)
    (hd : ((w.at it.async).descr (w.k.itemExn it).vec).2 = d) (hv : d.v = true) :
    (w.take it none).c = w.c ∧
      let k : Core := (w.at it.async).k
      let x : Exn := w.k.itemExn it
      let j : Core := (w.take it none).k
      j.fcause = x.cause ∧ j.faddr = x.faddr ∧ j.finfo = x.finfo ∧ j.inShadow = true ∧ j.xtask = k.task
        ∧ j.escalated = k.escalated ∧ (∃ (b : Bank) (psw : W64), j.shadow = b.handling d psw (if d.se then k.esp else d.stack))
        ∧ j.exn = none ∧ j.xbt = k.leftXbt it.isFault ∧ j.bankAt k.curIx = k.leftBank it.isFault := by
  obtain ⟨hc, m, psw, hj⟩ := Work.take_enters hs he hd hv
  have htask := (w.at_inShadow it.async).trans hs
  have hleft := Core.left_as htask it
  refine ⟨hc, ?_⟩
  intro k x j
  have hf {α : Type} := Core.field_of_sansFetch (α := α) hj
  refine ⟨hf Core.fcause (fun _ => rfl), hf Core.faddr (fun _ => rfl), hf Core.finfo (fun _ => rfl),
    hf Core.inShadow (fun _ => rfl), (hf Core.xtask (fun _ => rfl)).trans hleft.xtask,
    (hf Core.escalated (fun _ => rfl)).trans hleft.escalated, ⟨((w.at it.async).k.left it).shadow, psw, ?shadow⟩,
    (hf Core.exn (fun _ => rfl)).trans hleft.exn, (hf Core.xbt (fun _ => rfl)).trans hleft.xbt, ?bank⟩
  case shadow =>
    rw [← hleft.esp]
    exact hf Core.shadow (fun _ => rfl)
  case bank =>
    rw [Core.curIx_of_task htask, Core.bankAt_castSucc]
    exact (hf (fun j => j.banks.get k.cur) (fun _ => rfl)).trans hleft.bank

section
variable {w : Work} {x : Exn} {d : Descr} (hs : w.k.inShadow = true) (hx : w.k.exn = some x) (he : w.k.entryMc = none)
include hs hx he

/-- What a first escalation leaves (R227, R228). -/
theorem Work.entry_escalates (hesc : (w.at false).k.escalated = false) (hd : ((w.at false).descr 0).2 = d) :
    (w.entry none).c = w.c ∧
      let k : Core := (w.at false).k
      let j : Core := (w.entry none).k
      j.escpc = k.shadow.pc ∧ j.fcause = 0
        ∧ (d.v = true → j.escpsw = k.shadow.psw ∧ j.esccause = k.fcause &&& 0xFFFF ∧ j.faddr = x.faddr
            ∧ j.escalated = true ∧ j.shadow.pc = d.handler ∧ j.shadow.iy = k.esp ∧ j.halted = k.halted)
        ∧ (d.v = false → j.halted = true) := by
  rw [Work.entry_shadow hs hx he]
  have hat : (w.at false).c = w.c := (w.at_frame false).1
  generalize w.at false = v at hat hesc hd
  have hd' := (v.shadowTaken_descr 0).trans hd
  cases hv : d.v with
  | true =>
    obtain ⟨hc, m, psw, hk⟩ := Work.escalate_valid (w := v.shadowTaken) hesc hd' x v.k.shadow.pc
      (v.k.fcause &&& 0xFFFF) 0 hv
    have hf {α : Type} := Core.field_of_sansFetch (α := α) hk
    exact ⟨hc.trans hat, hf Core.escpc (fun _ => rfl), hf Core.fcause (fun _ => rfl), fun _ =>
      ⟨hf Core.escpsw (fun _ => rfl), hf Core.esccause (fun _ => rfl), hf Core.faddr (fun _ => rfl),
        hf Core.escalated (fun _ => rfl), hf (fun j => j.shadow.pc) (fun _ => rfl),
        hf (fun j => j.shadow.iy) (fun _ => rfl), hf Core.halted (fun _ => rfl)⟩, nofun⟩
  | false =>
    obtain ⟨hc, m, hk⟩ := Work.escalate_invalid (w := v.shadowTaken) hesc hd' x v.k.shadow.pc
      (v.k.fcause &&& 0xFFFF) 0 hv
    have hf {α : Type} := Core.field_of_sansFetch (α := α) hk
    exact ⟨hc.trans hat, hf Core.escpc (fun _ => rfl), hf Core.fcause (fun _ => rfl), nofun, fun _ =>
      hf Core.halted (fun _ => rfl)⟩

/-- A second escalation halts the core (R229). -/
theorem Work.entry_halts (hesc : (w.at false).k.escalated = true) :
    (w.entry none).c = w.c ∧ (w.entry none).k.halted = true ∧ (w.entry none).k.shadow = (w.at false).k.shadow := by
  rw [Work.entry_shadow hs hx he, Work.escalate_again (w := (w.at false).shadowTaken) hesc]
  exact ⟨(w.at_frame false).1, rfl, rfl⟩

end

/-- Settles O22: the entry of an item from a task bank, the order of items at a boundary, and the escalation of a fault
in the shadow bank. -/
theorem exceptionEntry : Obligations.ExceptionEntry := by
  unfold Obligations.ExceptionEntry
  refine ⟨?entry, ?order, ?escalation⟩
  case entry =>
    intro c s it w0 w asy k x d hcan hs he hp hv
    have hasync : asy = it.async := by cases it <;> rfl
    have hexec : exec (.exceptionEntry c none) s = .next (w.take it none).put := by
      rw [← Work.entry_task hs hp]
      exact exec_exceptionEntry_eq hcan none
    have hd : ((w.at it.async).descr (w.k.itemExn it).vec).2 = d := by rw [← hasync]
    obtain ⟨hc, hcause, haddr, hinfo, hshadow, hxtask, hesc, ⟨b, psw, hb⟩, hexn, hxbt, hbank⟩ :=
      Work.take_fields hs he hd hv
    rw [← hasync] at hxtask hesc hb hxbt hbank
    refine ⟨_, hexec, ?_⟩
    rw [Work.core_put (c := c) hc, hcause, hb]
    obtain ⟨hacc, hix, hiy⟩ := k.leftBank_frame it.isFault
    refine ⟨x.toNat_cause, haddr, hinfo, hshadow, hxtask, hesc, rfl, rfl, handlerPsw_bits psw d, hexn, ?inSlot, ?atPc, ?_⟩
    case inSlot =>
      rintro y rfl bpc next hslot
      obtain ⟨hpc, hnext, hds⟩ := Core.left_in_slot hslot
      exact ⟨(congrArg Bank.pc hbank).trans hpc, hxbt.trans hnext, (congrArg (fun b => b.psw.getLsbD 8) hbank).trans hds⟩
    case atPc =>
      intro hslot
      obtain ⟨hpc, hds⟩ := Core.left_at_pc hslot it.isFault
      exact ⟨(congrArg Bank.pc hbank).trans hpc, (congrArg (fun b => b.psw.getLsbD 8) hbank).trans hds⟩
    exact ⟨(congrArg Bank.acc hbank).trans hacc, (congrArg Bank.ix hbank).trans hix, (congrArg Bank.iy hbank).trans hiy⟩
  case order =>
    intro k hslot hone
    have hpick := Core.pick_eq hslot hone
    refine ⟨fun x hmc => ?_, fun x hmc htrap => ?_, fun hmc htrap htrace => ?_, fun x hmc htrap htrace hctx => ?_,
      fun i hmc htrap htrace hctx hfar hi => ⟨?_, Core.takeable_some hi⟩, fun x hmc htrap htrace hctx hexn hi => ?_⟩
    · simp [hpick, Core.item, hmc]
    · simp [hpick, Core.item, hmc, htrap]
    · simp [hpick, Core.item, hmc, htrap, htrace]
    · simp [hpick, Core.item, hmc, htrap, htrace, hctx]
    · simp [hpick, Core.item, hmc, htrap, htrace, hctx, hfar, hi]
    · rcases hi with hi | hi <;> simp [hpick, Core.item, hmc, htrap, htrace, hctx, hexn, hi]
  case escalation =>
    intro c s x w0 w k d hcan hs hx he
    have hexec : exec (.exceptionEntry c none) s = .next (w.entry none).put := exec_exceptionEntry_eq hcan none
    refine ⟨fun hesc hv => ⟨_, hexec, ?valid⟩, fun hesc hv => ⟨_, hexec, ?invalid⟩, fun hesc => ⟨_, hexec, ?again⟩⟩
    case valid =>
      obtain ⟨hc, hpc, hcause, hvalid, -⟩ := Work.entry_escalates hs hx he hesc rfl
      obtain ⟨hpsw, hecause, hrest⟩ := hvalid hv
      obtain ⟨haddr, hrest⟩ := hrest
      rw [Work.core_put (c := c) hc]
      exact ⟨hpc, hpsw, hecause, hcause, haddr, hrest⟩
    case invalid =>
      obtain ⟨hc, hpc, hcause, -, hinvalid⟩ := Work.entry_escalates hs hx he hesc rfl
      rw [Work.core_put (c := c) hc]
      exact ⟨hinvalid hv, hpc, hcause⟩
    case again =>
      obtain ⟨hc, hhalted, hshadow⟩ := Work.entry_halts hs hx he hesc
      rw [Work.core_put (c := c) hc]
      exact ⟨hhalted, hshadow⟩

end Sys2Proof.Machine

/-! PROOFS. Task switches and return (08 R209 to R214, R221, R225, R226, R235): what SWITCH and RETX make of a core, and
how an instruction without operands, results and stores ends. Settles O21. -/

namespace Sys2Proof.Machine

/-! ### An instruction that waits for something of its own (R209, R210) -/

/-- What an instruction that reached its body has passed, and the device and the core that its form was made of. -/
theorem State.issues_passed {s : State} {a : Issue} {form : State → Core → Form} {r : Ready}
    (h : s.issues a form = .inr r) :
    let i0 : Form := form s (s.core a.core)
    let i : Form := form (s.atIssue a i0) (s.coreAtIssue a i0)
    s.canIssue a.core = true ∧ r.s = s.atIssue a i0 ∧ r.k0 = s.coreAtIssue a i0 ∧ ∃ s3 k3 ls,
      (s.atIssue a i0).fetchCheck a.core (s.coreAtIssue a i0) (a.pre.length + i0.len) (firstByte a.pre i.op) a.err
        = (s3, k3, none)
      ∧ decodeExn k3 a.pre i = none
      ∧ let o : Checked := operandChecks s3 a.core k3 i.reqs a.err
        o.ans = .ok ls ∧ mcBefore o.s a.core o.k a.err i ls = none := by
  intro i0 i
  unfold State.issues at h
  dsimp only at h
  split at h
  · cases h
  · next hcan =>
    split at h
    · cases h
    · next s3 k3 hf =>
      split at h
      · cases h
      · next hd =>
        split at h
        · cases h
        · next ls ho =>
          split at h
          · cases h
          · next hm =>
            rcases ite_eq_iff.1 h with ⟨_, h⟩ | ⟨_, h⟩
            · cases h
            · cases h
              exact ⟨by simpa using hcan, rfl, rfl, s3, k3, ls, hf, hd, ho, hm⟩

/-- An instruction that could reach its body but for what it waits for leaves the state as it is. -/
theorem State.issues_unready {s : State} {a : Issue} {form : State → Core → Form} {r : Ready}
    (h : s.issues a form = .inr r) {ready : State → Core → Bool} (hready : ready r.s r.k0 = false) :
    s.issues a (fun u k => { form u k with ready := ready u k }) = .inl s := by
  obtain ⟨hcan, hs, hk, s3, k3, ls, hf, hd, ho, hm⟩ := State.issues_passed h
  rw [hs, hk] at hready
  generalize hi : form (s.atIssue a _) (s.coreAtIssue a _) = i at hf hd ho hm
  simp only [State.atIssue, State.coreAtIssue, State.issueAt] at hi hf hready
  have hd' : ∀ b, decodeExn k3 a.pre { i with ready := b } = none := fun _ => hd
  have hm' : ∀ b, mcBefore (operandChecks s3 a.core k3 i.reqs a.err).s a.core
      (operandChecks s3 a.core k3 i.reqs a.err).k a.err { i with ready := b } ls = none := fun _ => hm
  simp only [State.issues, hcan, hi, hf, hd', ho, hm', hready, Bool.not_true, Bool.false_eq_true, if_false,
    Bool.not_false, if_true]

/-- A command whose instruction waits for something of its own leaves the state as it is. -/
theorem exec_of_unready {s : State} {a : Issue} {form : State → Core → Form} {r : Ready} {c : Instr}
    {mk : State → Core → Insn} {ready : State → Core → Bool} (hc : exec c s = s.run a mk)
    (hform : ∀ u k, (mk u k).toForm = { form u k with ready := ready u k }) (h : s.issues a form = .inr r)
    (hready : ready r.s r.k0 = false) : exec c s = .next s := by
  have hmk : (fun u k => (mk u k).toForm) = fun u k => { form u k with ready := ready u k } := by
    funext u k
    exact hform u k
  rw [hc, State.run, State.issue, hmk, State.issues_unready h hready]

/-! ### What results leave of the running task (R76, R77) -/

/-- Which bank is current, in what order banks were, and the loop buffer. -/
def Core.runSide (k : Core) : Fin 4 × List (Fin 4) × LoopBuf := (k.cur, k.lru, k.loopBuf)

theorem Core.setBankAt_runSide (k : Core) (i : Fin 5) (b : Bank) : (k.setBankAt i b).runSide = k.runSide := by
  unfold Core.setBankAt
  split <;> rfl

theorem Core.specWrite_runSide (k : Core) (cc : Bool) (n : Nat) (v : W64) :
    (k.specWrite cc n v).runSide = k.runSide := by
  simp only [Core.specWrite, apply_ite Core.runSide]
  simp only [Core.runSide, ite_self]

theorem Core.land_runSide (k : Core) (cc : Bool) (f : InFlight) : (k.land cc f).runSide = k.runSide := by
  unfold Core.land
  split
  case h_1 => exact Core.specWrite_runSide _ _ _ _
  case h_3 =>
    dsimp only
    split
    · exact Core.setBankAt_runSide _ _ _
    · exact Core.setBankAt_runSide _ _ _
  case h_4 => rfl
  all_goals exact Core.setBankAt_runSide _ _ _

/-- Once the loop buffer is empty, results that land leave the running task and the buffer. -/
theorem Core.settle_runSide {k : Core} (h : k.loopBuf = .empty) (cc : Bool) (t : Nat) :
    (k.settle cc t).runSide = k.runSide := by
  have hland : ∀ (l : List InFlight) (j : Core), (l.foldl (fun (k : Core) f => k.land cc f) j).runSide = j.runSide := by
    intro l
    induction l with
    | nil => exact fun _ => rfl
    | cons f r ih => exact fun j => (ih _).trans (j.land_runSide cc f)
  have hoff : ∀ j : Core, j.runSide = k.runSide → j.loopOff.runSide = k.runSide := by
    intro j hj
    unfold Core.loopOff
    split
    · simp only [Core.runSide, Prod.mk.injEq] at hj ⊢
      exact ⟨hj.1, hj.2.1, h.symm⟩
    · exact hj
  exact hoff _ (hland _ _)

theorem le_foldl_max_due (l : List InFlight) (t : Nat) : t ≤ l.foldl (fun a f => max a f.due) t := by
  induction l generalizing t with
  | nil => exact Nat.le_refl t
  | cons f r ih => exact Nat.le_trans (Nat.le_max_left t f.due) (ih _)

theorem Core.landAll_frame {k : Core} (h : k.loopBuf = .empty) (cc : Bool) (i : Fin 5) :
    (k.landAll cc i).runSide = k.runSide ∧ k.now ≤ (k.landAll cc i).now := by
  unfold Core.landAll
  have hdue := le_foldl_max_due (k.inflight.filter (fun f => f.bank == i)) k.now
  generalize (k.inflight.filter (fun f => f.bank == i)).foldl (fun a f => max a f.due) k.now = t at hdue ⊢
  exact ⟨Core.settle_runSide h cc t, hdue⟩

theorem Core.fetchFrom_runSide (k : Core) (a : W32) (code : List (Nat × Byte)) :
    (k.fetchFrom a code).runSide = k.runSide ∧ (k.fetchFrom a code).now = k.now := by
  unfold Core.fetchFrom
  split <;> exact ⟨rfl, rfl⟩

theorem State.near_cores {s t : State} (h : s.near t) : t.cores = s.cores := by
  obtain ⟨_, _, _, _, _, _, rfl⟩ := h
  rfl

/-! ### SWITCH to a resident task (R209, R214) -/

theorem Core.runTask_frame (k : Core) (x : Code) (i : Fin 4) (at_ : Nat) :
    (k.runTask x i at_).runSide = (i, lruFront i k.lru, .empty) ∧ at_ ≤ (k.runTask x i at_).now := by
  let k1 : Core := { k with cur := i, lru := lruFront i k.lru, loopBuf := .empty, now := at_ }
  obtain ⟨hl, hn⟩ := Core.landAll_frame (k := k1) rfl x.cc i.castSucc
  obtain ⟨hf, hfn⟩ := (k1.landAll x.cc i.castSucc).fetchFrom_runSide (k1.landAll x.cc i.castSucc).bank.pc
    (x.target ((k1.landAll x.cc i.castSucc).now - 1) (k1.landAll x.cc i.castSucc).bank.pc)
  exact ⟨hf.trans hl, Nat.le_trans hn (Nat.le_of_eq hfn.symm)⟩

/-- A core at work that has switched to the task in bank `i` by a SWITCH issued in cycle `s0`. -/
def Work.switched (w : Work) (i : Fin 4) (s0 : Nat) : Work :=
  let at_ : Nat := s0 + 2 + w.pen + w.k.ackWait s0
  let v : Work := w.idle (at_ - 1)
  { v with k := v.k.runTask (v.s.code w.c) i at_ }

theorem Work.switchTo_resident {w : Work} {t : BitVec 6} {i : Fin 4} (hs : w.k.inShadow = false)
    (hb : w.k.bankOf? t = some i) (s0 : Nat) : w.switchTo t s0 = .ok (w.switched i s0) := by
  simp only [Work.switchTo, Work.resident, hb, hs, Bool.false_eq_true, if_false]
  rfl

theorem Work.switched_frame (w : Work) (i : Fin 4) (s0 : Nat) :
    (w.switched i s0).k.runSide = (i, lruFront i w.k.lru, .empty) ∧ s0 + 2 + w.pen ≤ (w.switched i s0).k.now
      ∧ (w.switched i s0).s.cores = w.s.cores ∧ (w.switched i s0).c = w.c := by
  obtain ⟨hc, -, hs, hk⟩ := w.idle_frame (s0 + 2 + w.pen + w.k.ackWait s0 - 1)
  have hlru : (w.idle (s0 + 2 + w.pen + w.k.ackWait s0 - 1)).k.lru = w.k.lru := (congrArg Core.lru hk :)
  obtain ⟨hrun, hnow⟩ := Core.runTask_frame (w.idle (s0 + 2 + w.pen + w.k.ackWait s0 - 1)).k
    ((w.idle (s0 + 2 + w.pen + w.k.ackWait s0 - 1)).s.code w.c) i (s0 + 2 + w.pen + w.k.ackWait s0)
  rw [hlru] at hrun
  exact ⟨hrun, Nat.le_trans (Nat.le_add_right _ _) hnow, State.near_cores hs, hc⟩

/-- What the body of SWITCH makes of a core at work: `switchInsn` by definition. -/
def switchBody (t : BitVec 6) (w : Work) : Work × Eff :=
  if w.k.task = t then (w, Eff.of [] [] 2)
  else if isCc w.c then (w, Eff.fail (ctxFault 0 0x03 0 t))
  else
    match { w with k := if w.k.inShadow then w.k else w.k.seqEnd 2 [] : Work }.switchTo t w.k.now with
    | .error x => (w, Eff.fail x)
    | .ok w1 => (w1, { Eff.of [] [] 2 with act := if w.k.inShadow then .seq else .moved })

theorem switchInsn_body (a : Issue) (sel : Byte) (k : Core) :
    (switchInsn a sel k).body = workBody (switchBody (sel.truncate 6)) := rfl

/-- The end of an instruction that has placed the PC itself, after `n` cycles of its count. -/
def movedEff (n : Nat) : Eff := { exn := none, wr := [], st := [], count := n, act := .moved }

/-- Setting a bank changes the banks alone. -/
theorem Core.setBankAt_eq (k : Core) (i : Fin 5) (b : Bank) :
    k.setBankAt i b = { k with banks := if h : i.val < 4 then k.banks.set i.val b h else k.banks
                               shadow := if i.val < 4 then k.shadow else b } := by
  unfold Core.setBankAt
  split <;> rfl

theorem Core.setBankAt_inShadow (k : Core) (i : Fin 5) (b : Bank) : (k.setBankAt i b).inShadow = k.inShadow := by
  rw [Core.setBankAt_eq]

theorem Core.capture_sansFetch (k : Core) (code : List Byte) : (k.capture code).sansFetch = k.sansFetch := by
  unfold Core.capture
  split
  · dsimp only
    split <;> rfl
  · rfl

theorem Core.seqEnd_inShadow (k : Core) (len : Nat) (code : List Byte) : (k.seqEnd len code).inShadow = k.inShadow := by
  have hbank : ∀ b, ((k.capture code).setBank b).inShadow = k.inShadow := fun b =>
    (Core.setBankAt_inShadow _ _ b).trans (congrArg Core.inShadow (k.capture_sansFetch code) :)
  unfold Core.seqEnd
  dsimp only
  split
  · split
    · exact hbank _
    · split <;> exact hbank _
  · exact hbank _

section
variable {t : BitVec 6} {w : Work}

theorem switchBody_same (h : w.k.task = t) : switchBody t w = (w, Eff.of [] [] 2) := if_pos h

theorem switchBody_cc (h : w.k.task ≠ t) (hc : isCc w.c = true) :
    switchBody t w = (w, Eff.fail (ctxFault 0 0x03 0 t)) := by
  rw [switchBody, if_neg h, if_pos hc]

theorem switchBody_resident (h : w.k.task ≠ t) (hc : isCc w.c = false) (hs : w.k.inShadow = false) {i : Fin 4}
    (hb : (w.k.seqEnd 2 []).bankOf? t = some i) :
    switchBody t w = (Work.switched { w with k := w.k.seqEnd 2 [] } i w.k.now, movedEff 2) := by
  have hshadow : (w.k.seqEnd 2 []).inShadow = false := (w.k.seqEnd_inShadow 2 []).trans hs
  simp only [switchBody, h, hc, hs, if_false, Bool.false_eq_true]
  generalize w.k.seqEnd 2 [] = j at hb hshadow ⊢
  rw [Work.switchTo_resident (w := { w with k := j }) hshadow hb w.k.now]
  rfl

end


/-! ### The end of an instruction that loads, stores and writes nothing (R61, R76) -/

theorem Core.fetchBack_sansFetch (k : Core) (x : Code) : (k.fetchBack x).sansFetch = k.sansFetch := by
  unfold Core.fetchBack
  split
  · rfl
  · exact k.fetchFrom_sansFetch _ _

theorem Core.release_sansFetch (k : Core) (len : Nat) : (k.release len).sansFetch = k.sansFetch := by
  unfold Core.release
  split <;> rfl

theorem Core.setBankAt_sansFetch (k : Core) (i : Fin 5) (b : Bank) :
    (k.setBankAt i b).sansFetch = k.sansFetch.setBankAt i b := by
  rw [Core.setBankAt_eq, Core.setBankAt_eq]
  rfl

/-- A core whose PC has moved on by `len` bytes. -/
def Core.pcOn (k : Core) (len : Nat) : Core := k.setBank { k.bank with pc := k.bank.pc + BitVec.ofNat 32 len }

theorem Core.pcOn_sansFetch (k : Core) (len : Nat) : (k.pcOn len).sansFetch = k.sansFetch.pcOn len :=
  k.setBankAt_sansFetch _ _

theorem Core.seqEnd_sansFetch {k : Core} {len : Nat} (h : k.bank.atLoopEnd len = false) (code : List Byte) :
    (k.seqEnd len code).sansFetch = (k.pcOn len).sansFetch := by
  have hcode := k.capture_sansFetch code
  have hix : (k.capture code).curIx = k.curIx := (congrArg Core.curIx hcode :)
  rw [Core.seqEnd, h, if_neg Bool.false_ne_true, Core.pcOn_sansFetch, Core.setBank, Core.setBankAt_sansFetch, hcode,
    hix]
  rfl

/-- The core once the instruction has ended with `act`, one of the two acts that change no more than the PC. -/
def Core.endedBy (k : Core) (len : Nat) : Act → Core
  | .seq => k.pcOn len
  | _ => k

/-- An end that moves nothing, or that moves the PC on outside a delay slot and not at the end of a loop. -/
def Core.plainEnd (k : Core) (len : Nat) (act : Act) : Prop :=
  act = .moved ∨ act = .seq ∧ k.bank.slot = none ∧ k.bank.atLoopEnd len = false

theorem Core.endedBy_idle (k : Core) (len : Nat) (act : Act) :
    (k.endedBy len act).bg = k.bg ∧ (k.endedBy len act).inflight = k.inflight := by
  unfold Core.endedBy Core.pcOn Core.setBank
  split
  · rw [Core.setBankAt_eq]
    exact ⟨rfl, rfl⟩
  · exact ⟨rfl, rfl⟩

/-- A core that has counted an instruction: the divider is free from cycle `d` on; `p` says that trace is pending. -/
def Core.counted (k : Core) (d : Nat) (p : Bool) : Core :=
  { k with divFree := d, tracePend := p, retired := k.retired + 1, oneStep := false }

/-- Ending an instruction and counting it do not depend on each other. -/
theorem Core.endedBy_retire (k : Core) (n d len : Nat) (act : Act) (te : Bool) :
    (({ k with now := n, divFree := d }.endedBy len act).retire te).sansFetch
      = ((k.counted d (k.tracePend || te)).endedBy len act).sansFetch := by
  unfold Core.endedBy Core.pcOn Core.setBank
  split
  · rw [Core.setBankAt_eq, Core.setBankAt_eq]
    rfl
  · rfl

theorem Core.retire_sansFetch (k : Core) (te : Bool) : (k.retire te).sansFetch = k.sansFetch.retire te := rfl

theorem Core.endedBy_sansFetch {k j : Core} (h : j.sansFetch = k.sansFetch) (len : Nat) (act : Act) :
    (j.endedBy len act).sansFetch = (k.endedBy len act).sansFetch := by
  unfold Core.endedBy
  split
  · rw [Core.pcOn_sansFetch, Core.pcOn_sansFetch, h]
  · exact h

theorem Core.advance_sansFetch {k : Core} {len : Nat} {act : Act} (h : k.plainEnd len act) (x : Code) (t : Nat)
    (code : List Byte) (fetched : List (Nat × Byte)) :
    (k.advance x len t code fetched act).sansFetch = (k.endedBy len act).sansFetch := by
  rcases h with rfl | ⟨rfl, hslot, hloop⟩
  · rfl
  · simp only [Core.advance, hslot]
    exact Core.seqEnd_sansFetch hloop code

section
variable {k : Core} {len : Nat} {act : Act} (hbg : k.bg = none) (hact : k.plainEnd len act)
include hbg hact

theorem State.endOf_core (s : State) (c : CoreId) (t : Nat) (own : List (Nat × Nat)) :
    (s.endOf c k len t own act).2.sansFetch = (k.endedBy len act).sansFetch := by
  unfold State.endOf
  dsimp only
  generalize k.portBusy ++ _ ++ own = busy
  have hport := (State.portTo_ported s c (k := { k with portBusy := busy }) hbg (t + 1)).core
  generalize s.portTo c { k with portBusy := busy } (t + 1) = p at hport ⊢
  have hleft : ∀ j : Core, j.sansFetch = p.2.sansFetch →
      (j.advance (s.code c) len t ((List.range len).map fun i => k.codeByte (s.code c) (k.bank.pc.toNat + i))
        (k.fetchesOf (s.code c) t act) act).sansFetch = (k.endedBy len act).sansFetch := by
    intro j hj
    have hk : j.sansFetch = k.sansFetch := hj.trans hport
    have hact' : j.plainEnd len act := by
      rw [Core.plainEnd, Core.bank_of_sansFetch hk]
      exact hact
    exact (Core.advance_sansFetch hact' _ _ _ _).trans (Core.endedBy_sansFetch hk len act)
  refine hleft _ ?_
  split
  · rfl
  · rfl
  · split
    · rfl
    · exact Core.release_sansFetch _ _

end

/-- The core behind its last fetches, once the instruction has ended; `stall` says that a loop-back is fetched. -/
def State.endedCore (s : State) (c : CoreId) (k : Core) (len t : Nat) (own : List (Nat × Nat)) (act : Act)
    (stall : Bool) : Core :=
  let p : State × Core := s.endOf c k len t own act
  let j : Core := if stall then p.2.fetchBack (p.1.code c) else p.2
  (p.1.portTo c j j.now).2

theorem State.endedCore_sansFetch {k : Core} {len : Nat} {act : Act} (hbg : k.bg = none) (hact : k.plainEnd len act)
    (s : State) (c : CoreId) (t : Nat) (own : List (Nat × Nat)) (stall : Bool) :
    (s.endedCore c k len t own act stall).sansFetch = (k.endedBy len act).sansFetch := by
  have hend := State.endOf_core hbg hact s c t own
  obtain ⟨hbg', -⟩ := k.endedBy_idle len act
  rw [hbg] at hbg'
  unfold State.endedCore
  dsimp only
  generalize s.endOf c k len t own act = p at hend ⊢
  have hj : (if stall then p.2.fetchBack (p.1.code c) else p.2).sansFetch = (k.endedBy len act).sansFetch := by
    split
    · exact (Core.fetchBack_sansFetch _ _).trans hend
    · exact hend
  generalize (if stall then p.2.fetchBack (p.1.code c) else p.2) = j at hj ⊢
  exact (State.portTo_ported _ c ((Core.fields_of_sansFetch hj).1.trans hbg') _).core.trans hj

theorem Core.fly_nil (k : Core) (bank : Fin 5) (t : Nat) : k.fly bank t [] = k := by
  simp only [Core.fly, List.map_nil, List.append_nil]

/-- `finish` of an effect without results and stores, in terms of the core it leaves. -/
theorem Work.finish_endedCore {w : Work} {eff : Eff} (hwr : eff.wr = []) (hst : eff.st = []) (k : Core) (i : Form)
    (len t split : Nat) (busy : List (Nat × Nat)) :
    ∃ n d own stall te, (w.finish k i len t split eff busy).core w.c
      = (let j : Core := w.s.endedCore w.c { w.k with now := n, divFree := d } len t own eff.act stall
         (j.settle (isCc w.c) j.now).retire te) := by
  obtain ⟨exn, wr, st, count, act⟩ := eff
  subst hwr hst
  unfold Work.finish
  simp only [List.map_nil, Core.fly_nil]
  exact ⟨_, _, _, _, _, Work.core_put rfl⟩

/-- What the end of such an instruction leaves of its core: the PC, the count of instructions, trace and the divider. -/
theorem Work.finish_core {w : Work} {len : Nat} {eff : Eff} (hbg : w.k.bg = none) (hfly : w.k.inflight = [])
    (hwr : eff.wr = []) (hst : eff.st = []) (hact : w.k.plainEnd len eff.act) (k : Core) (i : Form) (t split : Nat)
    (busy : List (Nat × Nat)) :
    ∃ d p, ((w.finish k i len t split eff busy).core w.c).sansFetch
      = ((w.k.counted d p).endedBy len eff.act).sansFetch := by
  obtain ⟨n, d, own, stall, te, hj⟩ := Work.finish_endedCore (w := w) hwr hst k i len t split busy
  have hend := State.endedCore_sansFetch (k := { w.k with now := n, divFree := d }) hbg hact w.s w.c t own stall
  rw [hj]
  generalize w.s.endedCore w.c _ len t own eff.act stall = j at hend ⊢
  have hfly' : j.inflight = [] :=
    ((congrArg Core.inflight hend :).trans (Core.endedBy_idle _ len eff.act).2).trans hfly
  refine ⟨d, w.k.tracePend || te, ?_⟩
  rw [Core.retire_sansFetch, Core.settle_sansFetch hfly', hend, ← Core.retire_sansFetch, Core.endedBy_retire]

section
variable {a : Issue} {sel : Byte} {s : State} {r : Ready}

/-- The form of SWITCH beside what it waits for. -/
def switchForm (a : Issue) (sel : Byte) (waits : Bool) (k : Core) : Form :=
  { bForm a 0x22 with
    legal := decide (sel.toNat < 64), r3 := false, priv := !k.sup, slotBar := true
    ready := !waits || k.task == sel.truncate 6 || (k.posted.isEmpty && !k.victimBusy (sel.truncate 6)) }

theorem exec_switch_of_body (h : s.issues a (fun _ k => switchForm a sel true k) = .inr r) {p : Work × Eff}
    (hp : switchBody (sel.truncate 6) r.w = p) :
    exec (.switch a sel) s = .next (r.perform (Done.of p.1 p.2 none)) :=
  exec_of_body (exec_switch a sel s) (fun _ _ => rfl) h (by rw [switchInsn_body, workBody, hp])

/-- SWITCH to a resident task makes its bank current in its own PC (R209, R214). -/
theorem exec_switch_resident (h : s.issues a (fun _ k => switchForm a sel true k) = .inr r)
    (htask : r.w.k.task ≠ sel.truncate 6) (hc : isCc r.w.c = false) (hs : r.w.k.inShadow = false) {i : Fin 4}
    (hb : (r.w.k.seqEnd 2 []).bankOf? (sel.truncate 6) = some i) :
    ∃ w1 : Work, exec (.switch a sel) s = .next (r.perform (Done.of w1 (movedEff 2) none))
      ∧ w1.k.cur = i ∧ r.w.k.now + 2 + r.w.pen ≤ w1.k.now ∧ w1.k.loopBuf = .empty ∧ w1.s.cores = r.w.s.cores
      ∧ w1.k.lru = i :: (r.w.k.seqEnd 2 []).lru.filter (fun j => j != i) := by
  have hbody := exec_switch_of_body h (switchBody_resident htask hc hs hb)
  obtain ⟨hrun, hnow, hcores, -⟩ := Work.switched_frame { r.w with k := r.w.k.seqEnd 2 [] } i r.w.k.now
  generalize Work.switched { r.w with k := r.w.k.seqEnd 2 [] } i r.w.k.now = v at hbody hrun hnow hcores
  simp only [Core.runSide, Prod.mk.injEq] at hrun
  obtain ⟨hcur, hlru, hbuf⟩ := hrun
  exact ⟨v, hbody, hcur, hnow, hbuf, hcores, hlru⟩

/-- SWITCH waits for posted stores, and while the bank that it spills awaits a load (R209, R210). -/
theorem exec_switch_waits (h : s.issues a (fun _ k => switchForm a sel false k) = .inr r)
    (htask : r.k0.task ≠ sel.truncate 6) (hbusy : r.k0.posted ≠ [] ∨ r.k0.victimBusy (sel.truncate 6) = true) :
    exec (.switch a sel) s = .next s := by
  refine exec_of_unready (ready := fun _ k => k.switchReady (sel.truncate 6)) (exec_switch a sel s) (fun _ _ => rfl) h
    ?_
  rcases hbusy with hposted | hvictim
  · simp [Core.switchReady, htask, hposted]
  · simp [Core.switchReady, htask, hvictim]

/-- TEVICT waits while the bank of its task awaits a load (R210). -/
theorem exec_tevict_waits (hc : isCc a.core = false) (h : s.issues a (fun _ k => (mtsInsn a 0x27 k).toForm) = .inr r)
    (hbusy : r.k0.taskBusy (r.k0.bank.q.truncate 6) = true) {c : Instr} (hcmd : c ∈ [Instr.tevict a, .mts a 0x27]) :
    exec c s = .next s := by
  have hrun : exec c s = s.run a (fun _ k => mtsWaits a 0x27 k) := by
    simp only [List.mem_cons, List.not_mem_nil, or_false] at hcmd
    rcases hcmd with rfl | rfl <;> rfl
  refine exec_of_unready (ready := fun _ k => !(!isCc a.core && k.taskBusy (k.bank.q.truncate 6))) hrun
    (fun _ _ => rfl) h ?_
  simp [hc, hbusy]

end

/-! ### RETX to a resident task with nothing pending (R221, R225) -/

/-- A core to whose returning task belongs again what the entry left pending (R226). -/
def Core.unheld (k : Core) : Core :=
  { k with trap := k.trapHeld, asyncCtx := k.ctxHeld, trapHeld := none, ctxHeld := none }

theorem Core.item_none {k : Core} (hmc : k.asyncMc = none) (htrap : k.trap = none) (hctx : k.asyncCtx = none)
    (htrace : k.tracePend = false) : k.item none = none := by
  simp [Core.item, hmc, htrap, hctx, htrace]

theorem Work.retx_return {w : Work} {i : Fin 4} (hc : isCc w.c = false) (hb : w.k.bankOf? w.k.xtask = some i)
    (hnone : w.k.unheld.item (w.k.unheld.takeableIn i) = none) (err : Option HwErr) :
    w.retx err = .ok (Work.return { w with k := w.k.unheld } i 0 false) := by
  simp only [Work.retx, hc, Bool.false_eq_true, if_false, Work.resident, hb]
  change (match w.k.unheld.item (w.k.unheld.takeableIn i) with | none => _ | some it => _) = _
  rw [hnone]
  rfl

/-- What the body of RETX makes of a core at work: `retxInsn` by definition. -/
def retxBody (err : Option HwErr) (w : Work) : Work × Eff :=
  match w.retx err with
  | .error x => (w, Eff.fail x)
  | .ok w1 => (w1, movedEff 0)

theorem retxInsn_body (a : Issue) (k : Core) : (retxInsn a k).body = workBody (retxBody a.err) := rfl

theorem Core.landAll_idle {k : Core} (hfly : k.inflight = []) (hbuf : k.loopBuf = .empty) (cc : Bool) (i : Fin 5) :
    k.landAll cc i = k := by
  have hoff : k.loopOff = k := by
    unfold Core.loopOff
    split
    · rw [← hbuf]
    · rfl
  simp only [Core.landAll, hfly, List.filter_nil, List.foldl_nil]
  rw [Core.settle_idle hfly, hoff]

/-- A core that fetches from `a`, with `code` fetched already; `g` is the target fetched behind it. -/
def Core.fetching (k : Core) (a : W32) (code : List (Nat × Byte)) (g : Option TgtFetch) (n : Nat) : Core :=
  { k with fqAt := a, fq := code, tgt := g, fetchAt := n }

/-- Outside a captured loop body a fetch at a target begins. -/
theorem Core.fetchFrom_outside {k : Core} (hbuf : k.loopBuf = .empty) (a : W32) (code : List (Nat × Byte))
    (g : Option TgtFetch) : ∃ n, ({ k.fetchFrom a code with tgt := g } : Core) = k.fetching a code g n := by
  have hout : k.inBuffer a = false := by simp [Core.inBuffer, Core.captured, hbuf]
  rw [Core.fetchFrom, hout, if_neg Bool.false_ne_true]
  exact ⟨_, rfl⟩

theorem Core.landAll_fetching {k : Core} (hfly : k.inflight = []) (hbuf : k.loopBuf = .empty) (a : W32)
    (code : List (Nat × Byte)) (g : Option TgtFetch) (n : Nat) (cc : Bool) (i : Fin 5) :
    (k.fetching a code g n).landAll cc i = k.fetching a code g n :=
  Core.landAll_idle (k := k.fetching a code g n) hfly hbuf cc i

/-- The bank in which a task runs again at `pc` after RETX: in its delay slot when DS was 1 (R221). -/
def Core.returnBank (k : Core) (i : Fin 4) (pc : W32) : Bank :=
  let b : Bank := k.banks.get i
  if pswBit b.psw 8 then { b with psw := setBit b.psw 8 false, pc := pc, slot := some (b.pc, some k.xbt) }
  else { b with slot := none }

/-- A core that RETX has given back to the task in bank `i`, four cycles later. -/
def Core.returning (k : Core) (i : Fin 4) : Core :=
  { k with inShadow := false, escalated := false, cur := i, lru := lruFront i k.lru, oneStep := false
           loopBuf := .empty, fq := [], now := k.now + 4 }

/-- The same with the bank `b` in which the task runs again. -/
def Core.returned (k : Core) (i : Fin 4) (b : Bank) : Core := (k.returning i).setBankAt i.castSucc b

/-- Where the task in bank `i` goes on: behind its delay slot's branch when DS was 1. -/
def Work.returnPc (w : Work) (i : Fin 4) : W32 :=
  let b : Bank := w.k.banks.get i
  if pswBit b.psw 8 then b.pc + BitVec.ofNat 32 (w.s.slotLen w.c ((w.k.returning i).setBank b) b.pc) else b.pc

theorem Work.return_eq {w : Work} (hc : isCc w.c = false) (i : Fin 4) : ∃ g,
    w.return i 0 false = { w with k := Core.landAll { (w.k.returned i (w.k.returnBank i (w.returnPc i))).fetchFrom
      (w.returnPc i) ((w.s.code w.c).target w.k.now (w.returnPc i)) with tgt := g } (isCc w.c) i.castSucc }
      ∧ (pswBit (w.k.banks.get i).psw 8 = false → g = none) := by
  have hcode : ∀ l : List (Nat × Byte), (if (w.s.code w.c).cc = true then [] else l) = l := fun l => by
    rw [show (w.s.code w.c).cc = false from hc]
    rfl
  refine ⟨if pswBit (w.k.banks.get i).psw 8 then some { addr := w.k.xbt, start := 0, code := [], slotIn := false }
    else none, ?_, fun h => by rw [h]; rfl⟩
  rw [← hcode ((w.s.code w.c).target w.k.now (w.returnPc i))]
  rfl

/-- What a return with nothing in flight and nothing pending leaves (R221, R225). -/
theorem Work.return_frame {w : Work} (hfly : w.k.inflight = []) (hc : isCc w.c = false) (i : Fin 4) :
    let v : Work := w.return i 0 false
    let pc : W32 := w.returnPc i
    v.s = w.s ∧ v.c = w.c ∧ v.k.sansFetch = (w.k.returned i (w.k.returnBank i pc)).sansFetch
      ∧ v.k.loopBuf = .empty ∧ v.k.now = w.k.now + 4 ∧ v.k.fqAt = pc ∧ v.k.fq = (w.s.code w.c).target w.k.now pc
      ∧ (pswBit (w.k.banks.get i).psw 8 = false → v.k.tgt = none) := by
  obtain ⟨g, hv, hg⟩ := w.return_eq hc i
  rw [hv]
  generalize hk : w.k.returned i (w.k.returnBank i (w.returnPc i)) = k
  have hbank : k.loopBuf = .empty ∧ k.inflight = w.k.inflight ∧ k.now = w.k.now + 4 := by
    rw [← hk, Core.returned, Core.setBankAt_eq]
    exact ⟨rfl, rfl, rfl⟩
  obtain ⟨hbuf, hfly', hnow⟩ := hbank
  obtain ⟨n, hf⟩ := Core.fetchFrom_outside hbuf (w.returnPc i) ((w.s.code w.c).target w.k.now (w.returnPc i)) g
  rw [hf, Core.landAll_fetching (hfly'.trans hfly) hbuf]
  exact ⟨rfl, rfl, (congrArg Core.sansFetch hk.symm :), hbuf, hnow, rfl, rfl, hg⟩

theorem Core.bankAt_setBankAt_ne (k : Core) {i j : Fin 5} (h : j ≠ i) (b : Bank) :
    (k.setBankAt i b).bankAt j = k.bankAt j := by
  have hval : i.val ≠ j.val := fun e => h (Fin.ext e.symm)
  unfold Core.bankAt Core.setBankAt
  split
  · split
    · next hi => exact Vector.getElem_set_ne hi _ hval
    · rfl
  · split
    · rfl
    · omega

/-- The registers of a core that RETX has given back to the task in bank `i`. -/
theorem Core.returned_fields (k : Core) (i : Fin 4) (b : Bank) :
    let j : Core := k.returned i b
    j.inShadow = false ∧ j.escalated = false ∧ j.cur = i ∧ j.bank = b ∧ j.lru = i :: k.lru.filter (fun j => j != i)
      ∧ j.oneStep = false ∧ (∀ n : Fin 5, n ≠ i.castSucc → j.bankAt n = k.bankAt n) ∧ j.res = k.res
      ∧ j.retired = k.retired ∧ j.bg = k.bg ∧ j.inflight = k.inflight := by
  have hcur : (k.returned i b).curIx = i.castSucc := by
    rw [Core.returned, Core.setBankAt_castSucc]
    rfl
  have hbank : (k.returned i b).bank = b := by
    rw [Core.bank, hcur]
    exact Core.bankAt_setBankAt _ _ _
  have hother : ∀ n : Fin 5, n ≠ i.castSucc → (k.returned i b).bankAt n = k.bankAt n := fun n hn =>
    Core.bankAt_setBankAt_ne _ hn b
  generalize hj : k.returned i b = j at hbank hother
  rw [Core.returned, Core.setBankAt_castSucc] at hj
  subst hj
  exact ⟨rfl, rfl, rfl, hbank, rfl, rfl, hother, rfl, rfl, rfl, rfl⟩

section
variable {a : Issue} {s : State} {r : Ready}

/-- The form of RETX. -/
def retxForm (a : Issue) (k : Core) : Form :=
  { aForm a 0x03 with legal := k.inShadow, priv := !k.sup, slotBar := true, ready := !k.returnWaits }

theorem exec_retx_of_body (h : s.issues a (fun _ k => retxForm a k) = .inr r) {p : Work × Eff}
    (hp : retxBody a.err r.w = p) : exec (.retx a) s = .next (r.perform (Done.of p.1 p.2 none)) :=
  exec_of_body (exec_retx a s) (fun _ _ => rfl) h (by rw [retxInsn_body, workBody, hp])

end

/-- The body of RETX with XTASK resident and nothing pending. -/
theorem retxBody_resident {w : Work} {i : Fin 4} (hc : isCc w.c = false) (hb : w.k.bankOf? w.k.xtask = some i)
    (hmc : w.k.asyncMc = none) (htrap : w.k.trapHeld = none) (hctx : w.k.ctxHeld = none)
    (htrace : w.k.tracePend = false) (hevent : w.k.unheld.takeableIn i = none) (err : Option HwErr) :
    retxBody err w = (Work.return { w with k := w.k.unheld } i 0 false, movedEff 0) := by
  have hnone : w.k.unheld.item (w.k.unheld.takeableIn i) = none := by
    rw [hevent]
    exact Core.item_none hmc htrap hctx htrace
  simp only [retxBody, Work.retx_return hc hb hnone]

/-- RETX to a resident task that is not in a delay slot, with nothing pending (R221, R225). -/
theorem exec_retx_resident {a : Issue} {s : State} {r : Ready} (h : s.issues a (fun _ k => retxForm a k) = .inr r)
    {k : Core} (hk : r.w.k.unheld = k) {i : Fin 4} (hc : isCc r.w.c = false) (hb : k.bankOf? k.xtask = some i)
    (hmc : k.asyncMc = none) (htrap : k.trap = none) (hctx : k.asyncCtx = none) (htrace : k.tracePend = false)
    (hevent : k.takeableIn i = none) (hds : pswBit (k.banks.get i).psw 8 = false) (hfly : k.inflight = []) :
    ∃ w1 : Work, exec (.retx a) s = .next (r.perform (Done.of w1 (movedEff 0) none))
      ∧ w1.s = r.w.s ∧ w1.k.inShadow = false ∧ w1.k.escalated = false ∧ w1.k.cur = i
      ∧ w1.k.bank = { k.banks.get i with slot := none } ∧ w1.k.lru = i :: k.lru.filter (fun j => j != i)
      ∧ w1.k.oneStep = false ∧ w1.k.loopBuf = .empty ∧ w1.k.now = k.now + 4 ∧ w1.k.tgt = none
      ∧ w1.k.fqAt = (k.banks.get i).pc ∧ w1.k.fq = (r.w.s.code r.w.c).target k.now (k.banks.get i).pc
      ∧ (∀ j : Fin 5, j ≠ i.castSucc → w1.k.bankAt j = r.w.k.bankAt j) := by
  subst hk
  have hbody := exec_retx_of_body h (retxBody_resident hc hb hmc htrap hctx htrace hevent a.err)
  generalize hw : ({ r.w with k := r.w.k.unheld } : Work) = w at hbody
  have hwk : w.k = r.w.k.unheld := hw ▸ rfl
  have hws : w.s = r.w.s := hw ▸ rfl
  have hwc : w.c = r.w.c := hw ▸ rfl
  have hpc : w.returnPc i = (r.w.k.unheld.banks.get i).pc := by
    rw [Work.returnPc, hwk, hds]
    rfl
  have hbank : w.k.returnBank i (w.returnPc i) = { r.w.k.unheld.banks.get i with slot := none } := by
    rw [Core.returnBank, hwk, hds]
    rfl
  obtain ⟨hs, -, hsans, hbuf, hnow, hat, hfq, htgt⟩ :=
    Work.return_frame (w := w) ((congrArg Core.inflight hwk).trans hfly) (hwc ▸ hc) i
  rw [hpc] at hat hfq
  rw [hbank] at hsans
  obtain ⟨fshadow, fesc, fcur, fbank, flru, fstep, fother, -⟩ :=
    w.k.returned_fields i { r.w.k.unheld.banks.get i with slot := none }
  generalize w.k.returned i { r.w.k.unheld.banks.get i with slot := none } = j at *
  generalize Work.return w i 0 false = v at *
  rw [hwk] at fother flru hnow hfq htgt
  rw [hws, hwc] at hfq
  exact ⟨v, hbody, hs.trans hws, (congrArg Core.inShadow hsans :).trans fshadow,
    (congrArg Core.escalated hsans :).trans fesc, (congrArg Core.cur hsans :).trans fcur,
    (Core.bank_of_sansFetch hsans).trans fbank, (congrArg Core.lru hsans :).trans flru,
    (congrArg Core.oneStep hsans :).trans fstep, hbuf, hnow, htgt hds, hat, hfq,
    fun n hn => (congrArg (Core.bankAt · n) hsans :).trans (fother n hn)⟩

/-! ### An instruction without operands completes -/

/-- An instruction without operands reaches its body with the core as it was, fetching and the clock apart. -/
theorem IssuesInTile.reaches {a : Issue} {form : State → Core → Form} {s : State} {i : Form}
    (h : IssuesInTile a form s i) (hreqs : i.reqs = []) :
    ∃ r, s.issues a form = .inr r ∧ r.far = [] ∧ r.len = a.pre.length + i.len ∧ r.w.c = a.core
      ∧ r.w.k.sansIssue = (s.core a.core).sansIssue := by
  obtain ⟨r, w, hr, hfar, -, -, hlen, -, hw, hc, hk, -⟩ := h.loads
  rw [hreqs] at hw
  have hrw : r.w = w := congrArg Prod.fst hw
  refine ⟨r, hr, hfar, hlen, hrw ▸ hc, ?_⟩
  rw [hrw]
  exact (Core.near_sansIssue hk).trans (Core.sansIssue_of_sansFetch (State.coreAtIssue_sansFetch h.bg h.fly))

theorem Ready.perform_finish {r : Ready} (hfar : r.far = []) (w : Work) {eff : Eff} (hexn : eff.exn = none) :
    r.perform (Done.of w eff none) = w.finish r.k r.form r.len r.t r.split eff [] := by
  obtain ⟨exn, wr, st, count, act⟩ := eff
  subst hexn
  simp only [Ready.perform, Done.of, hfar, List.append_nil]
  rfl

/-- What an instruction leaves whose body ends with `eff` on the core at work `w`, when the effect names no result and
no store. -/
theorem Ready.perform_core {r : Ready} {w : Work} {eff : Eff} (hfar : r.far = []) (hexn : eff.exn = none)
    (hwr : eff.wr = []) (hst : eff.st = []) (hbg : w.k.bg = none) (hfly : w.k.inflight = [])
    (hact : w.k.plainEnd r.len eff.act) :
    ∃ d p, ((r.perform (Done.of w eff none)).core w.c).sansFetch
      = ((w.k.counted d p).endedBy r.len eff.act).sansFetch := by
  rw [Ready.perform_finish hfar w hexn]
  exact Work.finish_core hbg hfly hwr hst hact _ _ _ _ _

theorem Core.pcOn_fields (k : Core) (len : Nat) :
    (k.pcOn len).task = k.task ∧ (k.pcOn len).retired = k.retired ∧ (k.pcOn len).lru = k.lru
      ∧ (k.pcOn len).res = k.res ∧ (k.pcOn len).inShadow = k.inShadow ∧ (k.pcOn len).bg = k.bg
      ∧ (k.pcOn len).inflight = k.inflight
      ∧ (k.pcOn len).bankAt k.curIx = { k.bank with pc := k.bank.pc + BitVec.ofNat 32 len }
      ∧ (∀ n, n ≠ k.curIx → (k.pcOn len).bankAt n = k.bankAt n) := by
  have hset : (k.pcOn len).bankAt k.curIx = { k.bank with pc := k.bank.pc + BitVec.ofNat 32 len } :=
    Core.bankAt_setBankAt _ _ _
  have hother : ∀ n, n ≠ k.curIx → (k.pcOn len).bankAt n = k.bankAt n := fun n hn => Core.bankAt_setBankAt_ne _ hn _
  generalize hj : k.pcOn len = j at hset hother
  rw [Core.pcOn, Core.setBank, Core.setBankAt_eq] at hj
  subst hj
  exact ⟨rfl, rfl, rfl, rfl, rfl, rfl, rfl, hset, hother⟩

theorem Core.pcOn_bank (k : Core) (len : Nat) :
    (k.pcOn len).bank = { k.bank with pc := k.bank.pc + BitVec.ofNat 32 len } := by
  obtain ⟨-, -, -, -, -, -, -, hbank, -⟩ := k.pcOn_fields len
  have hix : (k.pcOn len).curIx = k.curIx := by
    rw [Core.pcOn, Core.setBank, Core.setBankAt_eq]
    rfl
  rw [Core.bank, hix, hbank]

/-! ### SWITCH completes (R209) -/

section
variable {a : Issue} {sel : Byte} {s : State}

/-- An engine in supervisor state issues SWITCH outside a delay slot when nothing delays it. -/
theorem switch_issues {c : CoreId} (hc : isCc c = false) (ha : a.core = c) (hpre : a.pre = []) (herr : a.err = none)
    (hcan : s.canIssue c = true) (hfly : (s.core c).inflight = []) (hbg : (s.core c).bg = none)
    (hkey : (s.core c).key = 0) (hsup : (s.core c).sup = true) (hslot : (s.core c).bank.slot = none)
    (hpc : (s.core c).bank.pc.toNat + 2 ≤ 0x80000) (hsel : sel.toNat < 64) (hcm : (s.core c).cm = false)
    (hready : (s.core c).switchReady (sel.truncate 6) = true) :
    ∃ r, s.issues a (fun _ k => switchForm a sel true k) = .inr r ∧ r.far = [] ∧ r.len = 2 ∧ r.w.c = c
      ∧ r.w.k.sansIssue = (s.core c).sansIssue := by
  subst ha
  have hissue : IssuesInTile a (fun _ k => switchForm a sel true k) s (switchForm a sel true (s.core a.core)) :=
    { engine := hc, noErr := herr, can := hcan, fly := hfly, bg := hbg, key := hkey
      stable := fun _ _ _ h => (congrArg (switchForm a sel true) h :)
      bytes := by simp [switchForm, bForm, Form.plain]
      fits := by simpa [switchForm, bForm, Form.plain, hpre, tileSize] using hpc
      legal := by
        have hbit : pswBit (s.core a.core).bank.psw 9 = false := hcm
        simp [decodeOk, switchForm, bForm, Form.plain, hbit, hslot, hsel, hpre, pfxOk]
      user := by simp [switchForm, hsup]
      ready := by simpa [switchForm, Core.switchReady] using hready
      operands := fun _ h => nomatch h }
  obtain ⟨r, hr, hfar, hlen, hw⟩ := hissue.reaches rfl
  exact ⟨r, hr, hfar, by rw [hlen, hpre]; rfl, hw⟩

end

/-- The bank that holds a task. -/
theorem Core.res_of_bankOf? {k : Core} {t : BitVec 6} {i : Fin 4} (h : k.bankOf? t = some i) :
    k.res.get i = some t := by
  simpa using List.find?_some h

/-- The task in a bank other than the running one's is another task. -/
theorem Core.cur_ne_of_bankOf? {k : Core} {t : BitVec 6} {i : Fin 4} (hs : k.inShadow = false) (ht : k.task ≠ t)
    (h : k.bankOf? t = some i) : k.cur ≠ i := by
  rintro rfl
  refine ht ?_
  rw [Core.task, hs, Core.res_of_bankOf? h]
  rfl

/-- An engine in the supervisor state of its shadow bank issues RETX outside a delay slot when nothing delays it. -/
theorem retx_issues {a : Issue} {s : State} {c : CoreId} (hc : isCc c = false) (ha : a.core = c) (hpre : a.pre = [])
    (herr : a.err = none) (hcan : s.canIssue c = true) (hfly : (s.core c).inflight = []) (hbg : (s.core c).bg = none)
    (hkey : (s.core c).key = 0) (hsup : (s.core c).sup = true) (hslot : (s.core c).bank.slot = none)
    (hpc : (s.core c).bank.pc.toNat + 2 ≤ 0x80000) (hshadow : (s.core c).inShadow = true)
    (hposted : (s.core c).posted = []) :
    ∃ r, s.issues a (fun _ k => retxForm a k) = .inr r ∧ r.far = [] ∧ r.len = 1 ∧ r.w.c = c
      ∧ r.w.k.sansIssue = (s.core c).sansIssue := by
  subst ha
  have hissue : IssuesInTile a (fun _ k => retxForm a k) s (retxForm a (s.core a.core)) :=
    { engine := hc, noErr := herr, can := hcan, fly := hfly, bg := hbg, key := hkey
      stable := fun _ _ _ h => (congrArg (retxForm a) h :)
      bytes := by simp [retxForm, aForm, Form.plain]
      fits := by
        simp only [retxForm, aForm, Form.plain, hpre, tileSize, List.length_nil]
        omega
      legal := by simp [decodeOk, retxForm, aForm, Form.plain, hslot, hpre, hshadow, pfxOk]
      user := by simp [retxForm, hsup]
      ready := by simp [retxForm, Core.returnWaits, hposted]
      operands := fun _ h => nomatch h }
  obtain ⟨r, hr, hfar, hlen, hw⟩ := hissue.reaches rfl
  exact ⟨r, hr, hfar, by rw [hlen, hpre]; rfl, hw⟩

/-- An issue begins no background fill and puts nothing in flight. -/
theorem Core.idle_of_sansIssue {k j : Core} (h : j.sansIssue = k.sansIssue) (hbg : k.bg = none)
    (hfly : k.inflight = []) : j.bg = none ∧ j.inflight = [] :=
  ⟨(congrArg Core.bg h :).trans hbg, (congrArg Core.inflight h :).trans hfly⟩

/-- A core on which the task in bank `i` runs. -/
def Core.running (k : Core) (i : Fin 4) : Core := { k with cur := i, lru := lruFront i k.lru }

theorem Core.landAll_sansFetch {k : Core} (hfly : k.inflight = []) (cc : Bool) (i : Fin 5) :
    (k.landAll cc i).sansFetch = k.sansFetch := by
  unfold Core.landAll
  exact (Core.sansFetch_now _ _).trans (Core.settle_sansFetch hfly cc _)

theorem Core.runTask_sansFetch {k : Core} (hfly : k.inflight = []) (x : Code) (i : Fin 4) (at_ : Nat) :
    (k.runTask x i at_).sansFetch = (k.running i).sansFetch := by
  let k1 : Core := { k with cur := i, lru := lruFront i k.lru, loopBuf := .empty, now := at_ }
  have hland : (k1.landAll x.cc i.castSucc).sansFetch = (k.running i).sansFetch :=
    Core.landAll_sansFetch (k := k1) hfly x.cc i.castSucc
  exact (Core.fetchFrom_sansFetch _ _ _).trans hland

/-- With nothing in flight a switch changes which task runs, fetching apart. -/
theorem Work.switched_sansFetch {w : Work} (hbg : w.k.bg = none) (hfly : w.k.inflight = []) (i : Fin 4) (s0 : Nat) :
    (w.switched i s0).k.sansFetch = (w.k.running i).sansFetch := by
  unfold Work.switched
  dsimp only
  generalize s0 + 2 + w.pen + w.k.ackWait s0 = n
  have hidle : (w.idle (n - 1)).k.sansFetch = w.k.sansFetch := (State.portTo_ported w.s w.c hbg (n - 1)).core
  generalize w.idle (n - 1) = v at hidle ⊢
  have hfly' : v.k.inflight = [] := (congrArg Core.inflight hidle :).trans hfly
  exact (Core.runTask_sansFetch hfly' _ i n).trans (congrArg (fun k : Core => (k.running i).sansFetch) hidle :)

theorem Core.bankOf?_of_res {k j : Core} (h : j.res = k.res) (t : BitVec 6) : j.bankOf? t = k.bankOf? t := by
  rw [Core.bankOf?, Core.bankOf?, h]

/-- What the body of SWITCH to a resident task makes of a core with nothing in flight. -/
theorem switchBody_resident_core {w : Work} {t : BitVec 6} {i : Fin 4} (hbg : w.k.bg = none) (hfly : w.k.inflight = [])
    (hloop : w.k.bank.atLoopEnd 2 = false) (ht : w.k.task ≠ t) (hc : isCc w.c = false) (hs : w.k.inShadow = false)
    (hb : w.k.bankOf? t = some i) :
    ∃ v : Work, switchBody t w = (v, movedEff 2) ∧ v.c = w.c ∧ v.k.sansFetch = ((w.k.pcOn 2).running i).sansFetch
      ∧ v.k.bg = none ∧ v.k.inflight = [] := by
  have hend := Core.seqEnd_sansFetch hloop []
  obtain ⟨-, -, -, pres, -, pbg, pfly, -⟩ := w.k.pcOn_fields 2
  generalize w.k.pcOn 2 = j at hend pres pbg pfly ⊢
  have hb' : (w.k.seqEnd 2 []).bankOf? t = some i :=
    (Core.bankOf?_of_res ((congrArg Core.res hend :).trans pres) t).trans hb
  have hbody := switchBody_resident ht hc hs hb'
  have hbg' : (w.k.seqEnd 2 []).bg = none := ((congrArg Core.bg hend :).trans pbg).trans hbg
  have hfly' : (w.k.seqEnd 2 []).inflight = [] := ((congrArg Core.inflight hend :).trans pfly).trans hfly
  have hrun := Work.switched_sansFetch (w := { w with k := w.k.seqEnd 2 [] }) hbg' hfly' i w.k.now
  obtain ⟨-, -, -, hvc⟩ := Work.switched_frame { w with k := w.k.seqEnd 2 [] } i w.k.now
  generalize Work.switched { w with k := w.k.seqEnd 2 [] } i w.k.now = v at hbody hrun hvc
  have hv : v.k.sansFetch = (j.running i).sansFetch :=
    hrun.trans (congrArg (fun k : Core => (k.running i).sansFetch) hend :)
  exact ⟨v, hbody, hvc, hv, ((congrArg Core.bg hv :).trans pbg).trans hbg,
    ((congrArg Core.inflight hv :).trans pfly).trans hfly⟩

/-- The registers of a core that has gone on to the task in bank `i`, another than the running one. -/
theorem Core.switched_fields {k : Core} {t : BitVec 6} {i : Fin 4} (hs : k.inShadow = false) (ht : k.task ≠ t)
    (hb : k.bankOf? t = some i) (d : Nat) (p : Bool) :
    let j : Core := ((k.pcOn 2).running i).counted d p
    j.cur = i ∧ j.task = t ∧ j.bank = k.banks.get i ∧ j.retired = k.retired + 1
      ∧ j.bankAt k.curIx = { k.bank with pc := k.bank.pc + 2 } := by
  have hne : i.castSucc ≠ k.curIx := by
    rw [Core.curIx_of_task hs]
    exact fun e => Core.cur_ne_of_bankOf? hs ht hb (Fin.castSucc_injective _ e).symm
  obtain ⟨-, pret, -, pres, pshadow, -, -, pset, pother⟩ := k.pcOn_fields 2
  have pbank := (pother _ hne).trans (k.bankAt_castSucc i)
  generalize k.pcOn 2 = j at pret pres pshadow pset pbank ⊢
  have hshadow : ((j.running i).counted d p).inShadow = false := pshadow.trans hs
  have htask : ((j.running i).counted d p).task = (j.res.get i).getD 0 := by
    rw [Core.task, hshadow]
    rfl
  refine ⟨rfl, ?_, ?_, congrArg (· + 1) pret, pset⟩
  · rw [htask, pres, Core.res_of_bankOf? hb]
    rfl
  · rw [Core.bank, Core.curIx_of_task hshadow]
    exact pbank

section
variable {a : Issue} {sel : Byte} {s : State} {r : Ready} {k : Core}
  (h : s.issues a (fun _ k => switchForm a sel true k) = .inr r) (hfar : r.far = [])
  (hk : r.w.k.sansIssue = k.sansIssue) (hbg : k.bg = none) (hfly : k.inflight = [])
include h hfar hk hbg hfly

/-- SWITCH to the running task counts as an instruction and moves the PC on. -/
theorem exec_switch_same_core (hlen : r.len = 2) (htask : k.task = sel.truncate 6) (hslot : k.bank.slot = none)
    (hloop : k.bank.atLoopEnd 2 = false) :
    ∃ t : State, exec (.switch a sel) s = .next t ∧ (t.core r.w.c).task = k.task
      ∧ (t.core r.w.c).retired = k.retired + 1 ∧ (t.core r.w.c).bank = { k.bank with pc := k.bank.pc + 2 } := by
  have hbank := Core.bank_of_sansIssue hk
  have htask' : r.w.k.task = k.task := (congrArg Core.task hk :)
  have hret : r.w.k.retired = k.retired := (congrArg Core.retired hk :)
  obtain ⟨hbg', hfly'⟩ := Core.idle_of_sansIssue hk hbg hfly
  have hplain : r.w.k.plainEnd r.len Act.seq := by
    rw [Core.plainEnd, hbank, hlen]
    exact .inr ⟨rfl, hslot, hloop⟩
  obtain ⟨d, p, hcore⟩ := Ready.perform_core (w := r.w) (eff := Eff.of [] [] 2) hfar rfl rfl rfl hbg' hfly' hplain
  refine ⟨_, exec_switch_of_body h (switchBody_same (htask'.trans htask)), ?_⟩
  dsimp only
  generalize (r.perform (Done.of r.w (Eff.of [] [] 2) none)).core r.w.c = j at hcore ⊢
  rw [hlen] at hcore
  change j.sansFetch = ((r.w.k.counted d p).pcOn 2).sansFetch at hcore
  obtain ⟨ptask, pret, -⟩ := (r.w.k.counted d p).pcOn_fields 2
  have pbank := (r.w.k.counted d p).pcOn_bank 2
  rw [show (r.w.k.counted d p).bank = k.bank from hbank] at pbank
  exact ⟨(congrArg Core.task hcore :).trans (ptask.trans htask'),
    (congrArg Core.retired hcore :).trans (pret.trans (congrArg (· + 1) hret)),
    (Core.bank_of_sansFetch hcore).trans pbank⟩

/-- SWITCH to a resident task counts as an instruction, moves the interrupted task's PC on and lets the other run. -/
theorem exec_switch_resident_core {i : Fin 4} (hc : isCc r.w.c = false) (hs : k.inShadow = false)
    (htask : k.task ≠ sel.truncate 6) (hloop : k.bank.atLoopEnd 2 = false)
    (hb : k.bankOf? (sel.truncate 6) = some i) :
    ∃ t : State, exec (.switch a sel) s = .next t ∧ (t.core r.w.c).cur = i ∧ (t.core r.w.c).task = sel.truncate 6
      ∧ (t.core r.w.c).bank = k.banks.get i ∧ (t.core r.w.c).retired = k.retired + 1
      ∧ (t.core r.w.c).bankAt k.curIx = { k.bank with pc := k.bank.pc + 2 } := by
  have hbank := Core.bank_of_sansIssue hk
  have htask' : r.w.k.task = k.task := (congrArg Core.task hk :)
  obtain ⟨hbg', hfly'⟩ := Core.idle_of_sansIssue hk hbg hfly
  have hloop' : r.w.k.bank.atLoopEnd 2 = false := by rw [hbank]; exact hloop
  have hs' : r.w.k.inShadow = false := (congrArg Core.inShadow hk :).trans hs
  have ht' : r.w.k.task ≠ sel.truncate 6 := fun e => htask (htask'.symm.trans e)
  have hb' : r.w.k.bankOf? (sel.truncate 6) = some i := (Core.bankOf?_of_res (congrArg Core.res hk :) _).trans hb
  obtain ⟨v, hbody, hvc, hv, hvbg, hvfly⟩ := switchBody_resident_core hbg' hfly' hloop' ht' hc hs' hb'
  obtain ⟨d, p, hcore⟩ := Ready.perform_core (w := v) (eff := movedEff 2) hfar rfl rfl rfl hvbg hvfly (.inl rfl)
  obtain ⟨fcur, ftask, fbank, fret, fold⟩ := Core.switched_fields hs' ht' hb' d p
  refine ⟨_, exec_switch_of_body h hbody, ?_⟩
  rw [hvc] at hcore
  dsimp only
  generalize (r.perform (Done.of v (movedEff 2) none)).core r.w.c = j at hcore ⊢
  have hj : j.sansFetch = (((r.w.k.pcOn 2).running i).counted d p).sansFetch :=
    hcore.trans (congrArg (fun k : Core => (k.counted d p).sansFetch) hv :)
  generalize ((r.w.k.pcOn 2).running i).counted d p = j' at *
  have hix : r.w.k.curIx = k.curIx := (congrArg Core.curIx hk :)
  rw [hbank, hix] at fold
  exact ⟨(congrArg Core.cur hj :).trans fcur, (congrArg Core.task hj :).trans ftask,
    ((Core.bank_of_sansFetch hj).trans fbank).trans (congrArg (fun k : Core => k.banks.get i) hk :),
    ((congrArg Core.retired hj :).trans fret).trans (congrArg (fun k : Core => k.retired + 1) hk :),
    (congrArg (Core.bankAt · k.curIx) hj :).trans fold⟩

end

/-! ### RETX completes (R221, R225) -/

/-- What the body of RETX to a resident task makes of a core with nothing in flight and nothing pending. -/
theorem retxBody_resident_core {w : Work} {i : Fin 4} (hbg : w.k.bg = none) (hfly : w.k.inflight = [])
    (hc : isCc w.c = false) (hb : w.k.bankOf? w.k.xtask = some i) (hmc : w.k.asyncMc = none)
    (htrap : w.k.trapHeld = none) (hctx : w.k.ctxHeld = none) (htrace : w.k.tracePend = false)
    (hevent : w.k.takeableIn i = none) (err : Option HwErr) :
    ∃ (v : Work) (pc : W32), retxBody err w = (v, movedEff 0) ∧ v.c = w.c
      ∧ v.k.sansFetch = (w.k.unheld.returned i (w.k.returnBank i pc)).sansFetch
      ∧ v.k.bg = none ∧ v.k.inflight = [] := by
  have hbody := retxBody_resident hc hb hmc htrap hctx htrace hevent err
  obtain ⟨-, hvc, hv, -⟩ := Work.return_frame (w := { w with k := w.k.unheld }) hfly hc i
  obtain ⟨-, -, -, -, -, -, -, -, -, rbg, rfly⟩ := w.k.unheld.returned_fields i
    (w.k.unheld.returnBank i (Work.returnPc { w with k := w.k.unheld } i))
  generalize Work.returnPc { w with k := w.k.unheld } i = pc at hv rbg rfly
  generalize Work.return { w with k := w.k.unheld } i 0 false = v at hbody hvc hv
  exact ⟨v, pc, hbody, hvc, hv, ((congrArg Core.bg hv :).trans rbg).trans hbg,
    ((congrArg Core.inflight hv :).trans rfly).trans hfly⟩

/-- The bank in which a task that was not in a delay slot runs again. -/
theorem Core.returnBank_of_ds0 {k : Core} {i : Fin 4} (h : pswBit (k.banks.get i).psw 8 = false) (pc : W32) :
    k.returnBank i pc = { k.banks.get i with slot := none } := by
  rw [Core.returnBank, h]
  rfl

/-- The bank in which a task runs again in its delay slot. -/
theorem Core.returnBank_of_ds1 {k : Core} {i : Fin 4} (h : pswBit (k.banks.get i).psw 8 = true) (pc : W32) :
    (k.returnBank i pc).slot = some ((k.banks.get i).pc, some k.xbt) ∧ pswBit (k.returnBank i pc).psw 8 = false := by
  rw [Core.returnBank, h]
  refine ⟨rfl, ?_⟩
  change (setBit (k.banks.get i).psw 8 false).getLsbD 8 = false
  rw [getLsbD_setBit _ _ _ (by decide), if_pos rfl]

theorem Core.takeable_sansIssue (k : Core) : k.sansIssue.takeable = k.takeable := rfl

theorem Core.takeableIn_of_sansIssue {k j : Core} (h : j.sansIssue = k.sansIssue) (i : Fin 4) :
    j.takeableIn i = k.takeableIn i := by
  have hin : ∀ l : Core, l.takeableIn i = ({ l.sansIssue with inShadow := false, cur := i } : Core).takeable := fun l =>
    (Core.takeable_sansIssue { l with inShadow := false, cur := i }).symm
  rw [hin, hin, h]

/-- RETX to a resident task with nothing pending counts as an instruction and lets the task run again. -/
theorem exec_retx_resident_core {a : Issue} {s : State} {r : Ready} {k : Core} {i : Fin 4}
    (h : s.issues a (fun _ k => retxForm a k) = .inr r) (hfar : r.far = []) (hk : r.w.k.sansIssue = k.sansIssue)
    (hbg : k.bg = none) (hfly : k.inflight = []) (hc : isCc r.w.c = false) (hmc : k.asyncMc = none)
    (htrap : k.trapHeld = none) (hctx : k.ctxHeld = none) (htrace : k.tracePend = false)
    (hb : k.bankOf? k.xtask = some i) (hevent : k.takeableIn i = none) :
    ∃ t : State, exec (.retx a) s = .next t ∧ (t.core r.w.c).inShadow = false ∧ (t.core r.w.c).cur = i
      ∧ (t.core r.w.c).task = k.xtask ∧ (t.core r.w.c).retired = k.retired + 1 ∧ (t.core r.w.c).escalated = false
      ∧ (pswBit (k.banks.get i).psw 8 = false → (t.core r.w.c).bank = { k.banks.get i with slot := none })
      ∧ (pswBit (k.banks.get i).psw 8 = true → (t.core r.w.c).bank.slot = some ((k.banks.get i).pc, some k.xbt)
        ∧ pswBit (t.core r.w.c).bank.psw 8 = false) := by
  obtain ⟨hbg', hfly'⟩ := Core.idle_of_sansIssue hk hbg hfly
  have hres : r.w.k.res = k.res := (congrArg Core.res hk :)
  have hxtask : r.w.k.xtask = k.xtask := (congrArg Core.xtask hk :)
  have hb' : r.w.k.bankOf? r.w.k.xtask = some i := by rw [hxtask, Core.bankOf?_of_res hres, hb]
  have hevent' : r.w.k.takeableIn i = none := (Core.takeableIn_of_sansIssue hk i).trans hevent
  have hbank (pc : W32) : r.w.k.returnBank i pc = k.returnBank i pc := (congrArg (Core.returnBank · i pc) hk :)
  have hret : r.w.k.retired = k.retired := (congrArg Core.retired hk :)
  obtain ⟨v, pc, hbody, hvc, hv, hvbg, hvfly⟩ := retxBody_resident_core hbg' hfly' hc hb'
    ((congrArg Core.asyncMc hk :).trans hmc) ((congrArg Core.trapHeld hk :).trans htrap)
    ((congrArg Core.ctxHeld hk :).trans hctx) ((congrArg Core.tracePend hk :).trans htrace) hevent' a.err
  obtain ⟨d, p, hcore⟩ := Ready.perform_core (w := v) (eff := movedEff 0) hfar rfl rfl rfl hvbg hvfly (.inl rfl)
  obtain ⟨fshadow, fesc, fcur, fbank, -, -, -, fres, fret, -⟩ :=
    r.w.k.unheld.returned_fields i (r.w.k.returnBank i pc)
  refine ⟨_, exec_retx_of_body h hbody, ?_⟩
  rw [hvc] at hcore
  dsimp only
  generalize (r.perform (Done.of v (movedEff 0) none)).core r.w.c = j at hcore ⊢
  generalize r.w.k.unheld.returned i (r.w.k.returnBank i pc) = j' at *
  have hj : j.sansFetch = (j'.counted d p).sansFetch :=
    hcore.trans (congrArg (fun k : Core => (k.counted d p).sansFetch) hv :)
  have hjbank : j.bank = k.returnBank i pc := ((Core.bank_of_sansFetch hj).trans fbank).trans (hbank pc)
  have hjshadow : j.inShadow = false := (congrArg Core.inShadow hj :).trans fshadow
  have hjcur : j.cur = i := (congrArg Core.cur hj :).trans fcur
  have hjres : j.res = k.res := ((congrArg Core.res hj :).trans fres).trans hres
  refine ⟨hjshadow, hjcur, ?_, (congrArg Core.retired hj :).trans (congrArg (· + 1) (fret.trans hret)),
    (congrArg Core.escalated hj :).trans fesc, fun hds => ?_, fun hds => ?_⟩
  · rw [Core.task, hjshadow, hjres, hjcur, Core.res_of_bankOf? hb]
    rfl
  · rw [hjbank, Core.returnBank_of_ds0 hds]
  · rw [hjbank]
    exact Core.returnBank_of_ds1 hds pc

/-! ### O21 -/

/-- Settles O21: the bodies of SWITCH and RETX on a core at work, and what the end of such an instruction changes of the
core besides. -/
theorem taskSwitches : Obligations.TaskSwitches := by
  unfold Obligations.TaskSwitches
  refine ⟨fun a sel s r => ⟨fun h ht => ?_, fun h ht hc => ?_, fun h ht hc hs i hb => ?_, fun h ht hbusy => ?_,
    fun hc h hbusy c hcmd => ?_⟩, fun a s r i h hc hb hmc htrap hctx htrace hevent hds hfly => ?_, ?_⟩
  · exact (exec_switch_of_body h (switchBody_same ht) :)
  · exact (exec_switch_of_body h (switchBody_cc ht hc) :)
  · exact exec_switch_resident h ht hc hs hb
  · exact exec_switch_waits h ht hbusy
  · exact exec_tevict_waits hc h hbusy hcmd
  · exact exec_retx_resident h rfl hc hb hmc htrap hctx htrace hevent hds hfly
  · intro a sel s n i c k ha hpre herr hcan hfly hbg hkey hsup hslot hpc
    have hswitch := fun hsel hcm hready =>
      switch_issues (sel := sel) (c := c) rfl ha hpre herr hcan hfly hbg hkey hsup hslot hpc hsel hcm hready
    refine ⟨fun hsel hcm ht hloop => ?_, fun hsel hcm hs ht hposted hloop hb => ?_,
      fun hs hposted hmc htrap hctx htrace hb hevent hloop => ?_⟩
    · obtain ⟨r, h, hfar, hlen, hc, hk⟩ := hswitch hsel hcm (by simp [Core.switchReady, k, ht])
      have := exec_switch_same_core h hfar hk hbg hfly hlen ht hslot hloop
      rwa [hc] at this
    · have hready : k.switchReady (sel.truncate 6) = true := by simp [Core.switchReady, Core.victimBusy, hposted, hb]
      obtain ⟨r, h, hfar, -, hc, hk⟩ := hswitch hsel hcm hready
      have := exec_switch_resident_core h hfar hk hbg hfly (hc ▸ rfl) hs ht hloop hb
      rwa [hc] at this
    · obtain ⟨r, h, hfar, -, hc, hk⟩ :=
        retx_issues (c := c) rfl ha hpre herr hcan hfly hbg hkey hsup hslot hpc hs hposted
      have := exec_retx_resident_core h hfar hk hbg hfly (hc ▸ rfl) hmc htrap hctx htrace hb hevent
      rwa [hc] at this

end Sys2Proof.Machine

/-! PROOFS. The Arcade (09 R246 to R250): how the body of an Arcade instruction answers the end of its routine, and the
entry that the instruction finds at issue. Settles O28. -/

namespace Sys2Proof.Machine

/-! ### One step of a routine (R246, R248, R249) -/

/-- A step before its first micro-operation: nothing computed, staged or loaded, the micro flags free (R241, R243). -/
def Work.arcadeStart (w : Work) : Micro :=
  { w := { w with k := { w.k with free := w.k.free + 1 } }, draw := w.k.free, regs := []
    fl := { mc := Config.microFlag w.k.free 0, mv := Config.microFlag w.k.free 1, mz := Config.microFlag w.k.free 2
            mn := Config.microFlag w.k.free 3, mdv := Config.microFlag w.k.free 4, minv := Config.microFlag w.k.free 5 }
    wr := [], st := [], far := [], busy := [] }

section
variable {ar : UArgs} {w : Work} {m : Micro}

/-- EXIT or POLL ends the step with what it staged, the register writes due with the count of the entry. -/
theorem arcadeBody_done {fin : Bool} (h : Micro.run ar 64 0 (entEntry ar.e) w.arcadeStart = .done m fin) :
    arcadeBody ar w =
      { w := m.w
        eff := { exn := none, wr := m.wr.map (fun r => (entCount ar.e, r)), st := m.st, count := entCount ar.e
                 act := if fin then .seq else .again }
        far := m.far, at_ := 0, res := none, busy := m.busy } := by
  rw [Work.arcadeStart] at h
  simp only [arcadeBody, h, Done.of]

/-- An exception drops what was staged, and keeps the loads outside the tile that were made before it. -/
theorem arcadeBody_exn {x : Exn} {depth : Nat}
    (h : Micro.run ar 64 0 (entEntry ar.e) w.arcadeStart = .exn m x depth) :
    arcadeBody ar w =
      { w := m.w, eff := Eff.fail x, far := m.far, at_ := depth + m.w.pen, res := none, busy := m.busy } := by
  rw [Work.arcadeStart] at h
  simp only [arcadeBody, h, Done.of]

end

/-! ### The entry at issue (R250) -/

/-- Fetches, drains and fills up to its issue leave an instruction the Arcade as it was. -/
theorem State.issues_arcade {s : State} {a : Issue} {form : State → Core → Form} {r : Ready}
    (h : s.issues a form = .inr r) : r.s.arcade = s.arcade := by
  obtain ⟨-, hs, -⟩ := State.issues_passed h
  rw [hs]
  exact State.near_arcade (s.portTo_frame a.core _ _).1

/-- The form of an Arcade instruction, from the entry that the device holds. -/
def arcadeForm (a : Issue) (x : BitVec 4) (b1 : Byte) (d : W32) (s : State) (k : Core) : Form :=
  let e : W64 := spGet 0 s.arcade.entries x.toNat
  { Form.plain (BitVec.ofNat 8 (0xE0 + x.toNat)) (arcadeLen e) with
    legal := arcadeLegal a.core e b1 d, r3 := false, pfx := pfxOk .none a.pre
    slotBar := entLong e, priv := entPriv e && !k.sup }

/-- The constants of a step of an Arcade instruction, from the entry that the device holds. -/
def arcadeArgs (a : Issue) (x : BitVec 4) (b1 : Byte) (d : W32) (s : State) : UArgs :=
  { op := BitVec.ofNat 8 (0xE0 + x.toNat), err := a.err, e := spGet 0 s.arcade.entries x.toNat, b1 := b1, d := d }

theorem arcadeArgs_congr {s t : State} (h : t.arcade = s.arcade) (a : Issue) (x : BitVec 4) (b1 : Byte) (d : W32) :
    arcadeArgs a x b1 d t = arcadeArgs a x b1 d s := by
  rw [arcadeArgs, h, arcadeArgs]

/-- An Arcade instruction that has reached its body ends as a step of the routine of its entry answers; the entry is
the one that the device held before the instruction. -/
theorem exec_of_arcadeBody {a : Issue} {x : BitVec 4} {b1 : Byte} {d : W32} {s : State} {r : Ready}
    (h : s.issues a (arcadeForm a x b1 d) = .inr r) {ans : Done}
    (hans : arcadeBody (arcadeArgs a x b1 d s) r.w = ans) :
    exec (.arcadeInstruction a x b1 d) s = .next (r.perform ans) := by
  have hentry : arcadeBody (arcadeArgs a x b1 d r.s) r.w = ans := by
    rw [arcadeArgs_congr (State.issues_arcade h), hans]
  exact exec_of_body (exec_arcadeInstruction a x b1 d s) (fun _ _ => rfl) h hentry

/-! ### O28 -/

/-- Settles O28: the entry of issue is the entry of the device, and the body answers each end of the routine. -/
theorem arcadeRoutine : Obligations.ArcadeRoutine := by
  unfold Obligations.ArcadeRoutine
  intro a x b1 d s r e ar g start h
  refine ⟨fun m fin hrun => ?_, fun m y depth hrun => ?_⟩
  · exact exec_of_arcadeBody h (arcadeBody_done hrun)
  · exact exec_of_arcadeBody h (arcadeBody_exn hrun)

end Sys2Proof.Machine

/-! PROOFS. Translation and storage keys (10 R262 to R267, R278 to R289): the instructions that write TLB slots and keys
and those that invalidate, the round of an invalidation through a unit, and the check of storage keys. Settles O25, O26
and O27. -/

namespace Sys2Proof.Machine

/-! ### Keys of the own tile by instruction (R289) -/

/-- Through each of the three windows of the own tile, KSET and KGET of an engine reach the region at that offset. -/
theorem keyRegion_eng (n : Fin 128) {ea : Nat} (h : ea < 0x180000) :
    keyRegion (.eng n) ea = some (n.val * 128 + ea % 0x80000 / 4096) := if_pos h

/-- No other address of an engine reaches a region, and none of a control core. -/
theorem keyRegion_eq_none {c : CoreId} {ea : Nat} (h : ∀ n : Fin 128, ¬(c = .eng n ∧ ea < 0x180000)) :
    keyRegion c ea = none := by
  cases c with
  | eng n => exact if_neg (fun hea => h n ⟨rfl, hea⟩)
  | cc n => rfl

section
variable {a : Issue} {s : State} {r : Ready} {c : Instr} {op : Nat} {m : MOp} {write : Bool}
  {f : Work → Nat → Work × Eff} (hc : exec c s = s.run a (fun _ k => keyInsn a op m k write f))
  (hr : s.issues a (fun _ k => { mForm a op m .z true k false false with
    pfx := pfxOk .none a.pre, reqs := [], priv := !k.sup }) = .inr r)
include hc hr

/-- KSET or KGET of an address that reaches a region ends as its body answers for that region. -/
theorem exec_of_keyInsn_region {i : Nat} (hi : keyRegion r.w.c (mEa m r.w.k.bank).toNat = some i) {w : Work} {e : Eff}
    (hf : f r.w i = (w, e)) : exec c s = .next (r.perform (Done.of w e none)) :=
  exec_of_body hc (fun _ _ => rfl) hr (by simp only [keyInsn, eaInsn, mInsn_body, workBody, hi, hf])

/-- Of any other address it raises vector 4 with sub-cause 0x04. -/
theorem exec_of_keyInsn_none (hi : keyRegion r.w.c (mEa m r.w.k.bank).toNat = none) {finfo : Nat}
    (hfin : (r.w.k.key.toNat + if write then 256 else 0) = finfo) :
    exec c s = .next (r.perform
      (Done.of r.w (Eff.fail (mkFault 4 0x04 (mEa m r.w.k.bank).toNat finfo)) none)) :=
  exec_of_body hc (fun _ _ => rfl) hr (by simp only [keyInsn, eaInsn, mInsn_body, workBody, hi, hfin])

end

/-! ### TLBI and KEYI (R278 to R280) -/

/-- The address that TLBI or KEYI invalidates: for TLBI of a control core FSEGX extends it (R259). -/
def Work.invalAddr (w : Work) (key : Bool) (m : MOp) : W64 :=
  if key || !isCc w.c then BitVec.ofNat 64 (w.k.bank.fseg.toNat * 2 ^ 32 + (mEa m w.k.bank).toNat)
  else BitVec.ofNat 64 (ccVa w.k w.k.bank.fseg (mEa m w.k.bank).toNat)

/-- The tenancy that TLBI or KEYI names: ACC.Q gives that of TLBI with scope 2. -/
def Work.invalTen (w : Work) (key : Bool) (m : MOp) : BitVec 4 :=
  if !key && m.len == 2 then w.k.bank.q.truncate 4 else w.k.tten

/-- What TLBI or KEYI makes of the core: the invalidation, or a hold until the posted stores are acknowledged. -/
def Work.invalOrHold (w : Work) (key : Bool) (scope : BitVec 5) (addr : W64) (ten : BitVec 4) : Work :=
  if w.k.posted = [] then { w with pen := w.pen + (w.k.ackAt - w.k.now) }.invalidate key scope addr ten
  else { w with k := { w.k with hold := some (.inval key scope addr ten) } }

theorem Work.invalOrHold_acked {w : Work} (h : w.k.posted = []) (key : Bool) (scope : BitVec 5) (addr : W64)
    (ten : BitVec 4) : w.invalOrHold key scope addr ten
      = { w with pen := w.pen + (w.k.ackAt - w.k.now) }.invalidate key scope addr ten := if_pos h

theorem Work.invalOrHold_posted {w : Work} (h : w.k.posted ≠ []) (key : Bool) (scope : BitVec 5) (addr : W64)
    (ten : BitVec 4) : w.invalOrHold key scope addr ten
      = { w with k := { w.k with hold := some (.inval key scope addr ten) } } := if_neg h

/-- TLBI or KEYI drains the store buffer; the address and the tenancy are those before the drain. -/
theorem exec_of_invalInsn {a : Issue} {s : State} {r : Ready} {c : Instr} {op : Nat} {m : MOp} {key : Bool}
    {scopes : List Nat} (hc : exec c s = s.run a (fun _ k => invalInsn a op m key scopes k))
    (hr : s.issues a (fun _ k => { mForm a op m .any true k false false with
      legal := decide (m.am.toNat < 6) && scopes.contains m.len.toNat && !m.long && decide (m.d.toNat < 65536)
      r3 := false, pfx := pfxOk .none a.pre, reqs := [], priv := !k.sup }) = .inr r)
    {w : Work} (hw : r.w.drainAll.invalOrHold key m.len (r.w.invalAddr key m) (r.w.invalTen key m) = w) :
    exec c s = .next (r.perform (Done.of w (Eff.of [] [] 2) none)) := by
  subst hw
  exact exec_of_body hc (fun _ _ => rfl) hr rfl

theorem Work.invalAddr_tlbi (w : Work) (m : MOp) : w.invalAddr false m = BitVec.ofNat 64
    (if isCc w.c then ccVa w.k w.k.bank.fseg (mEa m w.k.bank).toNat
      else w.k.bank.fseg.toNat * 2 ^ 32 + (mEa m w.k.bank).toNat) := by
  cases h : isCc w.c <;> simp [Work.invalAddr, h]

theorem Work.invalAddr_keyi (w : Work) (m : MOp) : w.invalAddr true m =
    BitVec.ofNat 64 (w.k.bank.fseg.toNat * 2 ^ 32 + (mEa m w.k.bank).toNat) := rfl

theorem Work.invalTen_tlbi (w : Work) (m : MOp) :
    w.invalTen false m = if m.len = 2 then w.k.bank.q.truncate 4 else w.k.tten := by
  simp [Work.invalTen]

theorem Work.invalTen_keyi (w : Work) (m : MOp) : w.invalTen true m = w.k.tten := rfl

/-! ### O25 -/

/-- Settles O25: each instruction as its body answers; KSET and KGET by the region that the address reaches, TLBI and
KEYI by the posted stores left after the drain. -/
theorem translationInstructions : Obligations.TranslationInstructions := by
  unfold Obligations.TranslationInstructions
  intro a m s r b ea ends slot key inval near entry kbyte img d ten va seg
  refine ⟨fun h => ?tlbwr, fun h => ?tlbrd, fun h n hn => ?kset, fun h n hn => ?kget, fun h hn => ?kset_refused,
    fun h hn => ?kget_refused, fun h hp => ?tlbi, fun h hp => ?tlbi_holds, fun h hp => ?keyi, fun h hp => ?keyi_holds⟩
  case tlbwr => exact exec_of_body (exec_tlbwr a m s) (fun _ _ => rfl) h rfl
  case tlbrd => exact exec_of_body (exec_tlbrd a m s) (fun _ _ => rfl) h rfl
  case kset =>
    obtain ⟨heng, hea⟩ := hn
    have hi : keyRegion r.w.c (mEa m r.w.k.bank).toNat = some (entry n) := by rw [heng]; exact keyRegion_eng n hea
    exact exec_of_keyInsn_region (exec_kset a m s) h hi rfl
  case kget =>
    obtain ⟨heng, hea⟩ := hn
    have hi : keyRegion r.w.c (mEa m r.w.k.bank).toNat = some (entry n) := by rw [heng]; exact keyRegion_eng n hea
    exact exec_of_keyInsn_region (exec_kget a m s) h hi rfl
  case kset_refused => exact exec_of_keyInsn_none (exec_kset a m s) h (keyRegion_eq_none hn) (by simp)
  case kget_refused => exact exec_of_keyInsn_none (exec_kget a m s) h (keyRegion_eq_none hn) (by simp)
  case tlbi =>
    refine exec_of_invalInsn (exec_tlbi a m s) h ?_
    rw [Work.invalOrHold_acked hp, Work.invalAddr_tlbi, Work.invalTen_tlbi]
  case tlbi_holds =>
    refine exec_of_invalInsn (exec_tlbi a m s) h ?_
    rw [Work.invalOrHold_posted hp, Work.invalAddr_tlbi, Work.invalTen_tlbi]
  case keyi =>
    refine exec_of_invalInsn (exec_keyi a m s) h ?_
    rw [Work.invalOrHold_acked hp, Work.invalAddr_keyi, Work.invalTen_keyi]
  case keyi_holds =>
    refine exec_of_invalInsn (exec_keyi a m s) h ?_
    rw [Work.invalOrHold_posted hp, Work.invalAddr_keyi, Work.invalTen_keyi]

/-! ### What an invalidation does to a unit (R280) -/

theorem State.near_invals {s t : State} (h : s.near t) : t.invals = s.invals := by
  obtain ⟨_, _, _, _, _, _, rfl⟩ := h
  rfl

/-- The write-backs of an invalidated key cache change key bytes alone. -/
theorem keyiApply_near (i : Inval) (s : State) (cache : Sparse Byte) : s.near (keyiApply i s cache).1 := by
  unfold keyiApply
  generalize cache.filter (fun p => keyiCovers i p.1) = l
  induction l generalizing s with
  | nil => exact State.near_refl s
  | cons p r ih => exact State.near_trans (keyBack_near s p.1 p.2) (ih _)

/-- An invalidation applied to a core leaves the list of those on their way. -/
theorem State.invalCore_invals (s : State) (i : Inval) (c : CoreId) : (s.invalCore i c).invals = s.invals := by
  unfold State.invalCore
  dsimp only
  split
  · rw [State.setCore_invals, State.near_invals (keyiApply_near i s _)]
  · rfl

/-- So does one applied to a Tram unit. -/
theorem State.invalTram_invals (s : State) (i : Inval) (q : Nat) : (s.invalTram i q).invals = s.invals := by
  unfold State.invalTram
  dsimp only
  split
  · rw [State.setTram_invals, State.near_invals (keyiApply_near i s _)]
  · rfl

theorem State.invalUnit_invals (s : State) (i : Inval) (u : UnitId) : (s.invalUnit i u).invals = s.invals := by
  cases u with
  | core c => exact s.invalCore_invals i c
  | tram q => exact s.invalTram_invals i q

/-- A core keeps the TLB slots that a translation invalidation does not cover. -/
theorem State.invalUnit_tlb (s : State) {i : Inval} (hkey : i.key = false) (c : CoreId) :
    ((s.invalUnit i (.core c)).core c).tlb = tlbAfter i (s.core c).tlb := by
  simp [State.invalUnit, State.invalCore, hkey]

/-! ### The list of invalidations on their way (R280, R281) -/

/-- The first invalidation that satisfies the condition is replaced, or dropped once no unit owes an acknowledgement. -/
theorem invalUpdate_append {p : Inval → Bool} {f : Inval → Inval} {l r : List Inval} {i : Inval}
    (hl : ∀ j ∈ l, p j = false) (hi : p i = true) :
    invalUpdate p f (l ++ i :: r)
      = if (f i).unseen = [] ∧ (f i).unacked = [] then l ++ r else l ++ f i :: r := by
  induction l with
  | nil => simp [invalUpdate, hi]
  | cons j l ih =>
    obtain ⟨hj, hl⟩ := List.forall_mem_cons.1 hl
    rw [List.cons_append, invalUpdate, hj, if_neg Bool.false_ne_true, ih hl]
    split <;> rfl

/-- The invalidation that a unit receives is the oldest of its sender that the unit has not seen. -/
theorem exec_invalidationReceive_first {s : State} {u : UnitId} {c : CoreId} {i : Inval} {l r : List Inval}
    (hs : s.invals = l ++ i :: r) (hfrom : i.from_ = c) (hi : u ∈ i.unseen)
    (hl : ∀ j ∈ l, ¬(j.from_ = c ∧ u ∈ j.unseen)) :
    exec (.invalidationReceive u c) s = .next { s.invalUnit i u with
      invals := l ++ { i with unseen := i.unseen.filter (fun v => v != u), unacked := i.unacked ++ [u] } :: r } := by
  have hp : (i.from_ == c && i.unseen.contains u) = true := by simp [hfrom, hi]
  have hbefore : ∀ j ∈ l, (j.from_ == c && j.unseen.contains u) = false := by simpa using hl
  have hfind : (l ++ i :: r).find? (fun j => j.from_ == c && j.unseen.contains u) = some i := by
    rw [List.find?_append, List.find?_eq_none.2 (by simpa using hl), Option.none_or]
    exact List.find?_cons_of_pos hp
  simp only [exec_invalidationReceive, execInvalidationReceive, State.invalUnit_invals, hs, hfind,
    invalUpdate_append hbefore hp]
  simp

/-- The acknowledgement that arrives is for the oldest invalidation of that sender that the unit can acknowledge. -/
theorem exec_invalidationAck_first {s : State} {u : UnitId} {c : CoreId} {i : Inval} {l r : List Inval}
    (hs : s.invals = l ++ i :: r) (hfrom : i.from_ = c) (hi : u ∈ i.unacked) (hdone : s.settled i u = true)
    (hl : ∀ j ∈ l, ¬(j.from_ = c ∧ u ∈ j.unacked ∧ s.settled j u = true)) :
    exec (.invalidationAck u c) s = .next ({ s with
      invals := if i.unseen = [] ∧ i.unacked.filter (fun v => v != u) = [] then l ++ r
        else l ++ { i with unacked := i.unacked.filter (fun v => v != u) } :: r }.syncEnd c) := by
  have hp : (i.from_ == c && i.unacked.contains u && s.settled i u) = true := by simp [hfrom, hi, hdone]
  have hbefore : ∀ j ∈ l, (j.from_ == c && j.unacked.contains u && s.settled j u) = false := by
    simpa [and_assoc] using hl
  have hany : (l ++ i :: r).any (fun j => j.from_ == c && j.unacked.contains u && s.settled j u) = true :=
    List.any_eq_true.2 ⟨i, List.mem_append_cons_self, hp⟩
  simp only [exec_invalidationAck, execInvalidationAck, hs, hany, invalUpdate_append hbefore hp, if_true]

/-! ### Acknowledgements and TLBSYNC (R281) -/

/-- A unit without an access in flight that was made with an invalidated entry can acknowledge. -/
theorem State.settled_of_not_inFlight {s : State} {i : Inval} {u : UnitId}
    (h : ∀ d, u = .core d → (s.core d).inFlightWith i = false) : s.settled i u = true := by
  cases u with
  | core d => simp [State.settled, h d rfl]
  | tram q => rfl

@[simp] theorem State.syncEnd_invals (s : State) (c : CoreId) : (s.syncEnd c).invals = s.invals := by
  unfold State.syncEnd
  dsimp only
  split <;> rfl

/-- A core that holds for TLBSYNC goes on once none of its invalidations is on its way. -/
theorem State.syncEnd_hold {s : State} {c : CoreId} (hhold : (s.core c).hold = some .sync)
    (hsync : s.syncing c = false) : ((s.syncEnd c).core c).hold = none := by
  simp [State.syncEnd, hhold, hsync, Core.holdEnd]

/-! ### O26 -/

/-- Settles O26: what a unit that receives an invalidation drops, and what its acknowledgement ends. -/
theorem invalidationRound : Obligations.InvalidationRound := by
  unfold Obligations.InvalidationRound
  intro s u c i l r hs hfrom
  refine ⟨fun hi hl => ⟨_, exec_invalidationReceive_first hs hfrom hi hl, rfl, ?tlb⟩,
    fun hi hl hfly => ⟨_, exec_invalidationAck_first hs hfrom hi (State.settled_of_not_inFlight hfly) hl,
      ?invals, ?sync⟩⟩
  case tlb =>
    rintro d rfl hkey
    exact s.invalUnit_tlb hkey d
  case invals => exact State.syncEnd_invals _ c
  case sync =>
    intro hhold hsync
    refine State.syncEnd_hold hhold ?_
    rwa [State.syncing, State.syncEnd_invals] at hsync

/-! ### TLB slots (R263, R264, R266) -/

/-- TLBWR writes the slot that LEN names. -/
theorem Core.land_tlb_slot (k : Core) (i : Fin 32) (w0 w1 : W64) :
    k.land false { bank := 0, due := 0, wr := .tlb (BitVec.ofNat 5 i.val) w0 w1 }
      = { k with tlb := spPut k.tlb i.val (tlbOfImage w0 w1) } := by
  have hi : (BitVec.ofNat 5 i.val).toNat = i.val := Nat.mod_eq_of_lt i.isLt
  simp only [Core.land, hi]

/-- A slot that matches translates, unless a lower one does. -/
theorem tlbFind_spPut {t : Sparse TlbEnt} {i va : Nat} {e : TlbEnt} {ten : BitVec 4} (he : tlbHits e ten va = true)
    (hlow : ∀ p ∈ t, p.1 < i → tlbHits p.2 ten va = false) : tlbFind (spPut t i e) ten va = some e := by
  have hfirst : ∀ r, tlbFind ((i, e) :: r) ten va = some e := fun r => by simp [tlbFind, he]
  induction t with
  | nil => exact hfirst []
  | cons q r ih =>
    obtain ⟨j, w⟩ := q
    obtain ⟨hj, hr⟩ := List.forall_mem_cons.1 hlow
    rw [spPut]
    split
    · exact hfirst _
    · next hge =>
      split
      · exact hfirst r
      · next hne =>
        have hw : tlbHits w ten va = false := hj (by simp only; omega)
        have hskip : tlbFind ((j, w) :: spPut r i e) ten va = tlbFind (spPut r i e) ten va := by simp [tlbFind, hw]
        rw [hskip, ih hr]

/-- A translation keeps the offset in the page. -/
theorem tlbPa_mod (e : TlbEnt) (va : Nat) : tlbPa e va % 2 ^ szLog e.sz = va % 2 ^ szLog e.sz := by
  rw [tlbPa, Nat.mul_add_mod_of_lt (Nat.mod_lt _ (Nat.two_pow_pos _))]

/-- What O27 says of a slot that TLBWR has written. -/
theorem tlbSlot_written (k : Core) (i : Fin 32) (w0 w1 : W64) (va : Nat) :
    let e : TlbEnt := tlbOfImage w0 w1
    let k1 : Core := k.land false { bank := 0, due := 0, wr := .tlb (BitVec.ofNat 5 i.val) w0 w1 }
    spGet TlbEnt.empty k1.tlb i.val = e
      ∧ (∀ j : Nat, j ≠ i.val → spGet TlbEnt.empty k1.tlb j = spGet TlbEnt.empty k.tlb j)
      ∧ (tlbHits e k.tten va = true → (∀ p ∈ k.tlb, p.1 < i.val → tlbHits p.2 k.tten va = false) →
          tlbFind k1.tlb k.tten va = some e ∧ tlbPa e va % 2 ^ szLog e.sz = va % 2 ^ szLog e.sz) := by
  intro e k1
  have hk1 : k1.tlb = spPut k.tlb i.val e := congrArg Core.tlb (k.land_tlb_slot i w0 w1)
  rw [hk1]
  exact ⟨spGet_spPut_self _ _ _ _, fun j hj => spGet_spPut_ne _ _ _ hj,
    fun he hlow => ⟨tlbFind_spPut he hlow, tlbPa_mod e va⟩⟩

/-! ### The key check (R284, R286, R287) -/

/-- Table 10-14. -/
theorem keyPermits_iff (a : BitVec 4) (e : Byte) (write : Bool) :
    keyPermits a e write = true ↔
      (a = 0 ∨ (a = e.extractLsb' 0 4 ∧ ¬(write = true ∧ e.extractLsb' 4 2 = 2))
        ∨ (a ≠ e.extractLsb' 0 4 ∧ write = false ∧ (e.extractLsb' 4 2 = 0 ∨ e.extractLsb' 4 2 = 2))) := by
  by_cases h0 : a = 0
  · simp [keyPermits, h0]
  · rw [or_iff_right h0]
    by_cases hkey : a = e.extractLsb' 0 4
    · simp only [keyPermits, if_neg h0, if_pos hkey]
      cases write <;> simp [hkey]
    · simp only [keyPermits, if_neg h0, if_neg hkey]
      simp [hkey]

/-- An access passes when every granule permits it. -/
theorem keyRefusal_eq_none_iff (s : State) (cache : Sparse Byte) (a : BitVec 4) (write : Bool)
    (l : List (Nat × Gran)) :
    keyRefusal s cache a write l = none ↔ ∀ p ∈ l, keyPermits a (keyEntry s cache p.2) write = true := by
  induction l with
  | nil => simp [keyRefusal]
  | cons p r ih =>
    rw [keyRefusal, List.forall_mem_cons]
    split
    · next h => rw [ih, and_iff_right h]
    · next h => exact ⟨nofun, fun hall => absurd hall.1 h⟩

/-- The granule that refuses an access is the first that does not permit it. -/
theorem keyRefusal_eq_some {s : State} {cache : Sparse Byte} {a : BitVec 4} {write : Bool} {l : List (Nat × Gran)}
    {i : Nat} {e : Byte} (h : keyRefusal s cache a write l = some (i, e)) :
    keyPermits a e write = false ∧ ∃ l1 g l2, l = l1 ++ (i, g) :: l2 ∧ keyEntry s cache g = e
      ∧ ∀ p ∈ l1, keyPermits a (keyEntry s cache p.2) write = true := by
  induction l with
  | nil => cases h
  | cons p r ih =>
    obtain ⟨j, g⟩ := p
    rw [keyRefusal] at h
    split at h
    · next hpass =>
      obtain ⟨hrefused, l1, g', l2, rfl, hentry, hall⟩ := ih h
      exact ⟨hrefused, (j, g) :: l1, g', l2, rfl, hentry, List.forall_mem_cons.2 ⟨hpass, hall⟩⟩
    · next hfail =>
      cases h
      exact ⟨Bool.eq_false_iff.2 hfail, [], g, r, rfl, rfl, nofun⟩

/-! ### The key check of a fetch in the own tile (R51, R73) -/

/-- The storage keys alone decide an access in the own tile. -/
theorem keyCheck_fetchLocs_iff (s : State) (c : CoreId) (k : Core) (addr : Nat → Nat) (a n : Nat) (w : Bool)
    (fin : Nat) : (keyCheck s c k addr (fetchLocs a n) w fin none).2.2 = none
      ↔ keyRefusal s k.keyCache k.key w (granList (engNo c) 0 none (fetchLocs a n)) = none := by
  rw [keyCheck, findIdx?_fetchLocs (fun _ _ => rfl)]
  dsimp only
  cases keyRefusal s k.keyCache k.key w (granList (engNo c) 0 none (fetchLocs a n)) with
  | none => simp
  | some p => simp

/-- USE, set by a fetch that passes, decides nothing. -/
theorem State.fetchKeys_exn (s : State) (c : CoreId) (k : Core) (addr : Nat → Nat) (l : List Loc) (err : Option HwErr) :
    (s.fetchKeys c k addr l err).2.2 = (keyCheck s c k addr l false 512 err).2.2 := by
  unfold State.fetchKeys
  split
  · next h => rw [h]
  · next h => rw [h]

/-- What O27 says of a fetch holds of an instruction of at least one byte (R93): it is checked as a read of each
granule. -/
theorem fetchCheck_passes_iff (n : Fin 128) (s : State) (k : Core) {len : Nat} (first : Byte) (hpos : 0 < len)
    (hfits : k.bank.pc.toNat + len ≤ tileSize) :
    (s.fetchCheck (.eng n) k len first none).2.2 = none ↔
      ∀ p ∈ granList n.val 0 none (fetchLocs k.bank.pc.toNat len),
        keyPermits k.key (keyEntry s k.keyCache p.2) false = true := by
  have hlo : ¬tileSize ≤ k.bank.pc.toNat := by omega
  have hhi : ¬tileSize < k.bank.pc.toNat + len := by omega
  have hwindow : s.fetchCheck (.eng n) k len first none
      = s.fetchKeys (.eng n) k (fun i => k.bank.pc.toNat + i) (fetchLocs k.bank.pc.toNat len) none := by
    simp [State.fetchCheck, isCc, hlo, hhi]
  rw [hwindow, State.fetchKeys_exn, keyCheck_fetchLocs_iff, keyRefusal_eq_none_iff]
  rfl

/-! ### O27: a fetch of no bytes at the end of the tile -/

/-- Refutes O27 by its last clause, which admits a fetch of no bytes with the PC one past the tile: it touches no granule,
and the fetch window refuses it (R51). The rest holds: `tlbSlot_written`, `keyPermits_iff`, `keyRefusal_eq_none_iff` and
`keyRefusal_eq_some`, and the last clause of one byte or more (`fetchCheck_passes_iff`). -/
theorem not_tlbSlotsAndKeys : ¬ Obligations.TlbSlotsAndKeys := by
  unfold Obligations.TlbSlotsAndKeys
  rintro ⟨-, -, -, hfetch⟩
  have hpc : (pcPastTile.core (.eng 0)).bank.pc.toNat = tileSize := by decide +kernel
  have hpass := (hfetch 0 pcPastTile (pcPastTile.core (.eng 0)) 0 0 hpc.le).2 nofun
  rw [fetchCheck_past_tile rfl hpc.ge] at hpass
  cases hpass

end Sys2Proof.Machine

/-! PROOFS. Return entries (11 R303, R304, R524): what the firmware makes of the next entry of an engine. Settles O50. -/

namespace Sys2Proof.Machine

/-! ### What a lookup reads (R297), and what an error record leaves -/

/-- A lookup reads the directory alone. -/
theorem State.dirFind_congr {s t : State} (h : t.dir = s.dir) (k : RecKey) : t.dirFind k = s.dirFind k := by
  simp only [State.dirFind, h]

/-- An error record leaves the directory, what is delivered or held, and memory. -/
theorem State.noted.places {s t : State} (h : s.noted t) :
    t.deliveries = s.deliveries ∧ t.dir = s.dir ∧ t.fwdq = s.fwdq ∧ t.mem = s.mem := by
  obtain ⟨_, _, _, _, rfl⟩ := h
  exact ⟨rfl, rfl, rfl, rfl⟩

/-! ### The place of a return entry (R303) -/

theorem pKind_sqPa {q o : Nat} (hq : q < 4) (ho : o < kerbOff) : pKind (sqPa q o) = .square q o := by
  have hbase : ¬sqPa q o < sqBase := by unfold sqPa; omega
  have hsub : sqPa q o - sqBase = q * 0x1000000 + o := by unfold sqPa; omega
  have hend : sqPa q o < sqBase + 0x4000000 := by unfold kerbOff at ho; unfold sqPa; omega
  have hmod : (q * 0x1000000 + o) % 0x1000000 = o := by unfold kerbOff at ho; omega
  have hdiv : (q * 0x1000000 + o) / 0x1000000 = q := by unfold kerbOff at ho; omega
  have hsize : o < sqSize := by unfold kerbOff at ho; unfold sqSize; omega
  have hkerb : ¬(q = 0 ∧ kerbOff ≤ q * 0x1000000 + o) := by omega
  simp only [pKind, if_neg hbase, if_pos hend, hsub, hmod, hdiv, if_pos hsize, if_neg hkerb]

/-- The return ring of an engine lies in square memory, below the Kerb. -/
theorem pKind_returnPa (s : State) (n : Fin 128) : ∃ q o, pKind (s.returnPa n) = .square q o :=
  ⟨_, _, pKind_sqPa (by omega) (by unfold kerbOff; omega)⟩

/-- A byte written to square memory changes memory alone. -/
theorem State.wr_square {s : State} {pa q o : Nat} (b : Byte) (h : pKind pa = .square q o) :
    s.wr pa b = { s with mem := memWr s.mem pa b } := by
  simp only [State.wr, h]

/-- The state once the firmware has consumed the next return entry of an engine, before it acts on it. -/
def State.taken (s : State) (n : Fin 128) : State :=
  (s.wr (s.returnPa n) 0).setCore (.eng n) { s.core (.eng n) with retIx := (s.core (.eng n)).retIx + 1 }

@[simp] theorem State.taken_dir (s : State) (n : Fin 128) : (s.taken n).dir = s.dir := by
  obtain ⟨q, o, h⟩ := pKind_returnPa s n
  rw [State.taken, State.setCore_dir, State.wr_square 0 h]

theorem State.taken_core (s : State) (n : Fin 128) : (s.taken n).core (.eng n)
    = { s.core (.eng n) with retIx := (s.core (.eng n)).retIx + 1 } := by
  rw [State.taken, State.core_setCore]

theorem State.taken_mem (s : State) (n : Fin 128) : (s.taken n).mem = (s.wr (s.returnPa n) 0).mem := by
  rw [State.taken, State.setCore_mem]

@[simp] theorem State.taken_deliveries (s : State) (n : Fin 128) : (s.taken n).deliveries = s.deliveries := by
  rw [State.taken, State.setCore_deliveries, State.wr_deliveries]

@[simp] theorem State.taken_fwdq (s : State) (n : Fin 128) : (s.taken n).fwdq = s.fwdq := by
  rw [State.taken, State.setCore_fwdq, State.wr_fwdq]

section
variable {s : State} {n : Fin 128}

/-- An entry is there, and its square can be reached. -/
theorem State.return_in_reach (hne : s.rd (s.returnPa n) ≠ 0) (hfree : s.heldPa (s.returnPa n) = false) :
    (s.returnWaits n && !s.heldPa (s.returnPa n)) = true := by
  simpa [State.returnWaits, hfree] using hne

theorem State.consume_idle (h : (s.returnWaits n && !s.heldPa (s.returnPa n)) = false) : s.consume n = s :=
  if_neg (Bool.eq_false_iff.1 h)

theorem State.consume_in_reach (h : (s.returnWaits n && !s.heldPa (s.returnPa n)) = true) :
    s.consume n = (s.taken n).returned n (s.rdN (s.returnPa n) 32) := if_pos h

/-- Nothing happens while no entry is there, or while its square cannot be reached. -/
theorem exec_returnEntryConsume_idle (h : (s.returnWaits n && !s.heldPa (s.returnPa n)) = false) (e : Option HwErr) :
    exec (.returnEntryConsume ⟨n, e⟩) s = .next s := by
  rw [exec_returnEntryConsume, execReturnEntryConsume]
  cases hopRec s e with
  | none => simp only [State.consume_idle h]
  | some r => simp only [h, Bool.false_eq_true, if_false]

theorem exec_returnEntryConsume_good (h : (s.returnWaits n && !s.heldPa (s.returnPa n)) = true) :
    exec (.returnEntryConsume ⟨n, none⟩) s = .next ((s.taken n).returned n (s.rdN (s.returnPa n) 32)) := by
  rw [← State.consume_in_reach h]
  rfl

/-- An entry that a ring seal discards leaves an error record behind, and is consumed. -/
theorem exec_returnEntryConsume_seal (h : (s.returnWaits n && !s.heldPa (s.returnPa n)) = true) :
    ∃ t : State, exec (.returnEntryConsume ⟨n, some .seal⟩) s = .next t ∧ (s.taken n).noted t :=
  ⟨_, if_pos h, (State.report_noted _ _).count _⟩

end

/-! ### What an entry that answers a delivery does (R303, R304) -/

section
variable {u : State} {n : Fin 128} {l : List Byte} {d : Delivery}

/-- An entry whose HANDLE no delivery to its engine awaits is a protocol error. -/
theorem State.returned_unknown
    (h : u.deliveries.find? (fun d => d.handle == BitVec.ofNat 32 (beAt l 4 4) && d.home == n) = none) :
    u.returned n l = u.protocol n := by
  simp only [State.returned, h]

variable (hd : u.deliveries.find? (fun d => d.handle == BitVec.ofNat 32 (beAt l 4 4) && d.home == n) = some d)
include hd

/-- An answer to a posting of a record that is not LOST goes to its journal. -/
theorem State.returned_posting {p : Posting} (hp : d.post = some p)
    (hlost : ∀ i e, u.dirFind d.key = some (i, e) → e.lost = false) (hkind : byteAt l 0 = 0x81 ∨ byteAt l 0 = 0x82) :
    u.returned n l = (u.answered (BitVec.ofNat 32 (beAt l 4 4))).answer p.ref
      (if byteAt l 0 = 0x82 then jRejected else 0) (beAt l 2 2) (slice l 8 24) := by
  rcases hkind with hk | hk
  all_goals
    cases h : u.dirFind d.key with
    | none => simp [State.returned, hd, hp, hk, h]
    | some x => simp [State.returned, hd, hp, hk, h, hlost x.1 x.2 h]

/-- RELEASED marks the moves of the record. -/
theorem State.returned_released (hp : d.post = none) (hkind : byteAt l 0 = 0x83) :
    (u.returned n l).moves = u.moves.map (fun m => if m.key = d.key then { m with released := true } else m) := by
  simp [State.returned, hd, hp, hkind]

end

/-! ### O50 -/

/-- Settles O50: an entry that is not there, or not in reach, is left; one that is goes to what awaits its HANDLE. -/
theorem returnEntries : Obligations.ReturnEntries := by
  unfold Obligations.ReturnEntries
  intro n s pa l u h
  have hpa : pa = s.returnPa n := rfl
  have hu : u = s.taken n := rfl
  have hh : h = BitVec.ofNat 32 (beAt l 4 4) := rfl
  have hdir : u.dir = s.dir := hu ▸ s.taken_dir n
  have hl : l = s.rdN (s.returnPa n) 32 := rfl
  clear_value h u l pa
  subst hh hu hl hpa
  refine ⟨fun h0 => ?zeros, fun hheld e => ?held, fun hne hfree => ?good, fun hne hfree => ?discarded, fun hnone => ?none,
    fun d p hd hp hlost => ?posting, fun d hd hp hk m hm hkey => ?released⟩
  case zeros => exact exec_returnEntryConsume_idle (by simp [State.returnWaits, h0]) _
  case held => exact exec_returnEntryConsume_idle (by simp [hheld]) e
  case good => exact exec_returnEntryConsume_good (State.return_in_reach hne hfree)
  case discarded =>
    obtain ⟨t, ht, hn⟩ := exec_returnEntryConsume_seal (State.return_in_reach hne hfree)
    have hix : (t.core (.eng n)).retIx = (s.core (.eng n)).retIx + 1 := by rw [hn.core, State.taken_core]
    obtain ⟨hdel, hdirs, hfwd, hmem⟩ := hn.places
    exact ⟨t, ht, hdel.trans (s.taken_deliveries n), hdirs.trans hdir, hfwd.trans (s.taken_fwdq n),
      hmem.trans (s.taken_mem n), hix⟩
  case none => exact State.returned_unknown hnone
  case posting =>
    have hlost' : ∀ i e, (s.taken n).dirFind d.key = some (i, e) → e.lost = false := fun i e he =>
      hlost e i (State.dirFind_congr hdir d.key ▸ he)
    exact ⟨fun hk => by rw [State.returned_posting hd hp hlost' (.inl hk), hk, if_neg (by decide)],
      fun hk => by rw [State.returned_posting hd hp hlost' (.inr hk), if_pos hk, jRejected]⟩
  case released =>
    rw [State.returned_released hd hp hk] at hm
    obtain ⟨m0, -, rfl⟩ := List.mem_map.1 hm
    by_cases hm0 : m0.key = d.key
    · rw [if_pos hm0]
    · rw [if_neg hm0] at hkey
      exact absurd hkey hm0

end Sys2Proof.Machine

/-! PROOFS. Postings (11 R297, R300, R307, R311, R315, R316; 12 R345 to R350; 18 R485): what a lookup finds, what a slot
written to a home engine leaves, the acceptance of a posting, and the chain of a batch. Settles O49. -/

namespace Sys2Proof.Machine

/-! ### The entry of a record (R297, R298) -/

section
variable {s : State} {k : RecKey} {i : Nat} {d : DirEnt}

/-- A lookup finds an entry that carries the record's key. -/
theorem State.dirFind_some (h : s.dirFind k = some (i, d)) : spGet? s.dir i = some d ∧ d.key = k := by
  obtain ⟨j, -, hj⟩ := List.exists_of_findSome?_eq_some h
  split at hj
  · next e he =>
    split at hj
    · next hkey =>
      cases hj
      exact ⟨he, hkey⟩
    · cases hj
  · cases hj

/-- An update of a record's entry replaces the entry that the lookup finds. -/
theorem State.dirSet_eq (h : s.dirFind k = some (i, d)) (f : DirEnt → DirEnt) : s.dirSet k f = s.dirPut i (f d) := by
  simp only [State.dirSet, h]

theorem State.dirPut_self (s : State) (i : Nat) (d : DirEnt) : spGet? (s.dirPut i d).dir i = some d :=
  spGet?_spPut_self _ _ _

end

/-! ### HEAT at an accepted posting (R307) -/

/-- The HEAT of an entry halves once for each epoch gone by. -/
theorem DirEnt.decay_heat (d : DirEnt) (now : W16) :
    (d.decay now).heat.toNat = d.heat.toNat / 2 ^ (now - d.epoch).toNat := by
  have hlt : d.heat.toNat < 2 ^ 16 := d.heat.isLt
  rw [DirEnt.decay, BitVec.toNat_ushiftRight, Nat.shiftRight_eq_div_pow]
  rcases Nat.le_total (now - d.epoch).toNat 16 with hle | hge
  · rw [Nat.min_eq_left hle]
  · have hpow : 2 ^ 16 ≤ 2 ^ (now - d.epoch).toNat := Nat.pow_le_pow_right (by decide) hge
    rw [Nat.min_eq_right hge, Nat.div_eq_of_lt hlt, Nat.div_eq_of_lt (hlt.trans_le hpow)]

/-- An accepted posting counts once more, up to 0xFFFF. -/
theorem DirEnt.warm_heat (d : DirEnt) (now : W16) :
    (d.warm now).heat.toNat = min 0xFFFF (d.heat.toNat / 2 ^ (now - d.epoch).toNat + 1) := by
  rw [← d.decay_heat now]
  generalize he : d.decay now = e
  have hw : (d.warm now).heat = if e.heat = 0xFFFF then e.heat else e.heat + 1 := by rw [← he]; rfl
  rw [hw]
  split
  · next hmax => rw [hmax]; rfl
  · next hless => bv_omega

/-! ### A slot written to a home engine (R302) -/

/-- What a slot written for a record leaves of the device: it waits at the Letterbox port of the home engine, awaited under
the next HANDLE. -/
theorem State.deliver_fields (s : State) (d : DirEnt) (fwd : Bool) (p : Option Posting) (rseq : Nat) :
    (s.deliver d fwd p rseq).nextHandle = s.nextHandle + 1
      ∧ (s.deliver d fwd p rseq).deliveries
        = s.deliveries ++ [{ handle := BitVec.ofNat 32 s.nextHandle, home := d.home, key := d.key, post := p }]
      ∧ ((s.deliver d fwd p rseq).core (.eng d.home)).lbox.waiting = (s.core (.eng d.home)).lbox.waiting ++
        [slotBytes (if p.isSome then 1 else 2) d fwd (p.elim false Posting.redel) (s.nextHandle % 2 ^ 32) rseq
          (p.elim [] Posting.body)] := by
  refine ⟨rfl, rfl, ?_⟩
  unfold State.deliver State.slotTo
  dsimp only
  rw [State.core_setCore]
  cases p <;> rfl

theorem State.deliver_frame (s : State) (d : DirEnt) (fwd : Bool) (p : Option Posting) (rseq : Nat) :
    (s.deliver d fwd p rseq).dir = s.dir ∧ (s.deliver d fwd p rseq).fwdq = s.fwdq
      ∧ (s.deliver d fwd p rseq).tenancies = s.tenancies ∧ (s.deliver d fwd p rseq).moves = s.moves
      ∧ (s.deliver d fwd p rseq).mem = s.mem := ⟨rfl, rfl, rfl, rfl, rfl⟩

/-! ### The acceptance of a posting (R300, R347) -/

section
variable {s : State} {t q seq tag ja : Nat} {b : List Byte} {d : DirEnt}

theorem postingBad_none (hseal : leAt b 12 4 = crc32c (b.take 12 ++ b.drop 16)) (hz : allZero (slice b 8 4) = true) :
    postingBad b = none := by
  simp [postingBad, hseal, hz]

theorem State.dirFind_of_lookup {k : RecKey} (h : s.lookup k = .ok d) : ∃ i, s.dirFind k = some (i, d) := by
  unfold State.lookup at h
  split at h
  · cases h
  · next i e he =>
    split_ifs at h
    cases h
    exact ⟨i, he⟩

/-- A posting is delivered at once when its record is settled and nothing of it stands before (Table 11-5, R368). -/
theorem State.holds_eq_false (hst : d.st = .settled) (hf : s.fwdOf d.key = []) (hp : s.passes d.key d.rseq = true) :
    s.holds d = false := by
  simp [State.holds, hst, hf, hp]

/-- The entry of a record that has accepted a posting: RSEQ advances, HEAT counts (R300, R307). -/
def DirEnt.counted (d : DirEnt) (now : W16) : DirEnt := { d.warm now with rseq := d.rseq + 1 }

/-- What the acceptance of a posting counts: JSEQ and RSEQ advance, HEAT counts, its batch awaits one answer more. -/
def State.postCounted (s : State) (t q seq : Nat) (k : RecKey) (kept : Retained) : State :=
  ((s.setTenancy t ((s.tenancy t).nextJseq kept)).dirSet k (fun d => d.counted s.heatNow)).setBatch
    { s.batch t q seq with open_ := (s.batch t q seq).open_ + 1 }

theorem State.postCounted_fields {k : RecKey} {i : Nat} (h : s.dirFind k = some (i, d)) (kept : Retained) :
    let u : State := s.postCounted t q seq k kept
    (u.tenancy t).jseq = (s.tenancy t).jseq + 1 ∧ spGet? u.dir i = some (d.counted s.heatNow) ∧ u.cores = s.cores
      ∧ u.nextHandle = s.nextHandle ∧ u.deliveries = s.deliveries ∧ u.fwdq = s.fwdq := by
  have hfind : (s.setTenancy t ((s.tenancy t).nextJseq kept)).dirFind k = some (i, d) := h
  rw [State.postCounted, State.dirSet_eq hfind]
  refine ⟨?_, State.dirPut_self _ _ _, rfl, rfl, rfl, rfl⟩
  simp [State.tenancy, State.setTenancy, Tenancy.nextJseq]

/-- A posting that is accepted and not held is counted, and delivered to its record's home. -/
theorem State.post_delivered (hbad : postingBad b = none) (hl : s.lookup (postingKey t b) = .ok d)
    (hh : s.holds d = false) : ∃ (kept : Retained) (p : Posting), p.rseq = d.rseq ∧ p.body = b.drop 16 ∧ p.redel = false
      ∧ s.post t q seq tag ja b
        = (s.postCounted t q seq (postingKey t b) kept).deliver d false (some p) d.rseq.toNat := by
  simp only [State.post, hbad, hl, hh]
  exact ⟨_, _, rfl, rfl, rfl, rfl⟩

/-- A posting that its record's entry refuses is answered in the journal at once. -/
theorem State.post_refused {st : Nat} (hbad : postingBad b = none) (hl : s.lookup (postingKey t b) = .error st) {x : QPair}
    (hx : s.qp? t q = some x) (hst : x.st ≠ .faulted) : s.post t q seq tag ja b
      = (s.hostWr ja (journalBytes st 0 [])).setBatch { s.batch t q seq with bad := (s.batch t q seq).bad + 1 } := by
  simp only [State.post, hbad, hl, State.refusePost, State.reply, hx, hst, if_false]

end

/-! ### A segment and its LINK (R346, R347) -/

section
variable {s : State} {c : Cmd} (hread : c.readFails = false)
include hread

theorem Cmd.readBad_eq_false (k : Nat) : c.readBad k = false := by
  simp [Cmd.readBad, hread]

/-- The header of a segment is read, and either refused or followed by the postings. -/
theorem State.segment_read (seg m i n : Nat) : s.segment c seg m i n none =
    match headerBad seg (s.hostRd seg 64) with
    | some st => (if st = 0x4001 then s.sealFailed c.t else s).chainEnds c n st seg m none
    | none => s.segmentGo c seg m i n 1 (leAt (s.hostRd seg 64) 8 2, leAt (s.hostRd seg 64) 16 8) := by
  simp only [State.segment, Cmd.readBad_eq_false hread]
  rfl

theorem State.link_read (seg m n k : Nat) : s.link c seg m n k =
    if bits (leNat (s.hostRd seg 8)) 2 4 ≠ 0 ∨ bits (leNat (s.hostRd seg 8)) 0 2 = 2 then s.chainEnds c n 0x1006 seg m none
    else if bit (leNat (s.hostRd seg 8)) 0 = false then
      s.progress c (.batch (BitVec.ofNat 64 (leNat (s.hostRd seg 8) / 64 * 64)) (m + 1) 0 n none)
    else if bit (leNat (s.hostRd seg 8)) 1 then s.chainEnds c n 0 seg 0 none
    else s.chainEnds c n 2 seg 0 (some (BitVec.ofNat 64 seg)) := by
  simp [State.link, Cmd.readBad_eq_false hread]

end

/-- A failed read of its header ends a segment with HOST_BUFFER_FAULT (R485). -/
theorem State.segment_unread {s : State} {c : Cmd} (h : c.readBad 0 = true) (seg m i n : Nat) :
    s.segment c seg m i n none = s.chainEnds c n 0x1009 seg m none := by
  simp only [State.segment, h, if_true]

/-- EOC and FINAL of a LINK are its two low bits. -/
theorem bit_of_bits (v : Nat) : bit v 0 = decide (bits v 0 2 % 2 = 1) ∧ bit v 1 = decide (bits v 0 2 / 2 = 1) := by
  have h0 : v / 2 ^ 0 % 2 = bits v 0 2 % 2 := by unfold bits; omega
  have h1 : v / 2 ^ 1 % 2 = bits v 0 2 / 2 := by unfold bits; omega
  exact ⟨by rw [bit, h0]; rfl, by rw [bit, h1]; rfl⟩

/-! ### One posting of a segment (R311, R352) -/

section
variable {s : State} {c : Cmd} {ja : Nat} {b : List Byte} {x : QPair} (hx : s.qp? c.t c.q = some x)
include hx

/-- A posting waits while the share of its queue pair is spent and another has work. -/
theorem State.posting_waits (hspent : x.qwt * 16 ≤ x.share) (hwork : s.othersWork c.t c.q = true) :
    State.posting c ja b s = .error .wait := by
  have hround : s.round c.t c.q QPair.postLeft = none := by
    simp [State.round, hx, QPair.postLeft, Nat.sub_eq_zero_of_le hspent, hwork]
  simp only [State.posting, hround]

/-- Within that share it is answered, when no full forward queue and no held directory slice holds it back. -/
theorem State.posting_answered (hshare : x.share < x.qwt * 16) (hslice : s.sliceHeld (postingKey c.t b) = false)
    (hdir : c.dirBad = []) (hfull : s.overfills c.t b = none) : State.posting c ja b s
      = .ok ((s.shared c.t c.q (s.accepts c.t b).toNat).post c.t c.q c.e.seq (c.le 4 2) ja b) := by
  have hround : s.round c.t c.q QPair.postLeft = some s := by
    simp [State.round, hx, QPair.postLeft, hshare]
  have hlooked : s.lookedUp c.dirBad (postingKey c.t b) = s := by simp [State.lookedUp, hdir]
  simp [State.posting, hround, hslice, hlooked, hfull]

end

/-! ### The row of a batch (R345, R346, R348) -/

/-- The command that a row names has the row's opcode, and the reads that the row gives it. -/
theorem State.cmd?_some {s : State} {r : CmdRef} {op : Nat → Bool} {c : Cmd} (h : s.cmd? r op = some c) :
    op c.e.opcode = true ∧ c.readFails = r.readFails ∧ c.readsOk = r.readsOk := by
  unfold State.cmd? at h
  split at h
  · cases h
  · dsimp only at h
    split at h
    · cases h
    · rcases Option.or_eq_some_iff.1 h with h | ⟨-, h⟩
      all_goals
        obtain ⟨e, he, rfl⟩ := Option.map_eq_some_iff.1 h
        have hnamed := List.find?_some he
        simp only [Bool.and_eq_true] at hnamed
        obtain ⟨⟨-, hop⟩, -⟩ := hnamed
        exact ⟨hop, rfl, rfl⟩

section
variable {s : State} {r : CmdRef} {c : Cmd} (hc : s.cmd? r (fun o => o == 0x30) = some c)
include hc

/-- A row of a batch needs no share of its own (R352). -/
theorem State.onCmd_batch (f : Cmd → State → State) : s.onCmd r 0x30 f = f c s := by
  obtain ⟨hbatch, -, -⟩ := State.cmd?_some hc
  rw [← Fetched.isBatch] at hbatch
  simp [State.onCmd, State.onCmdIf, hc, State.begin?, hbatch]

end

section
variable {s0 : State} {hw : List HostStore} {r : CmdRef} {c : Cmd}
  (hc : (s0.hostStores hw).cmd? r (fun o => o == 0x30) = some c)
include hc

/-- POST_BATCH reads on where the batch stands. -/
theorem exec_postBatch_reads {seg : W64} {m i n : Nat} {hdr : Option (Nat × Nat)} (hp : c.e.prog = .batch seg m i n hdr) :
    exec (.postBatch r hw) s0 = .next ((s0.hostStores hw).segment c seg.toNat m i n hdr) := by
  rw [exec_postBatch, execPostBatch, State.onCmd_batch hc]
  simp only [hp]

/-- A batch that has not begun starts once its turn has come. -/
theorem exec_postBatch_turn (hp : c.e.prog = .none) : exec (.postBatch r hw) s0
    = .next (if (s0.hostStores hw).batchTurn c then (s0.hostStores hw).batchStart c else s0.hostStores hw) := by
  rw [exec_postBatch, execPostBatch, State.onCmd_batch hc]
  simp only [hp]

end

/-- A batch past the checks of Table 12-7 starts at its segment, or at the LINK where the last chain parked. -/
theorem State.batchStart_checked {s : State} {c : Cmd} (h71 : reserved71 c (fun i => if i = 8 then 1 else 0) = none)
    (h73 : ptrs73 c 1 0 = none) (hlc : s.fuses.lc ≠ 3) (h76 : mem76 s c = none) : s.batchStart c =
      if bit (c.le 8 1) 0 = false then s.segment c c.ptr0 0 0 0 none
      else if (s.qp? c.t c.q).bind (fun x => x.parked) = some (BitVec.ofNat 64 c.ptr0) then s.link c c.ptr0 0 0 0
      else (s.progress c (.ended 0 0x1007 0 0)).finish c.t c.q := by
  have hretired : retired76 s = none := by simpa [retired76, unless_] using fun h => absurd h hlc
  unfold State.batchStart
  dsimp only
  rw [h71, h73, hretired, h76]
  cases hbit : bit (c.le 8 1) 0 with
  | false => simp [unless_, firstOf]
  | true =>
    by_cases hpark : (s.qp? c.t c.q).bind (fun x => x.parked) = some (BitVec.ofNat 64 c.ptr0)
    · simp [unless_, firstOf, hpark]
    · simp [unless_, firstOf, hpark, State.refuseBatch, deny]

/-- A host read that times out acts on a batch as a row whose first read fails (R485). -/
theorem exec_hostReadTimeout_batch {s : State} {r : CmdRef} {e : Fetched} (he : s.opOf r = some e)
    (hop : e.opcode = 0x30) : exec (.hostReadTimeout r) s = exec (.postBatch { r with readFails := true } []) s := by
  rw [exec_hostReadTimeout, exec_postBatch, execHostReadTimeout]
  simp [he, hop]

/-! ### O49 -/

/-- Settles O49: the start of a batch, its segments and their LINK, and one posting, accepted or refused. -/
theorem postings : Obligations.Postings := by
  unfold Obligations.Postings
  intro r hw s0 c s is
  refine ⟨fun hc hp hturn => ?waits, fun hc hp hturn h71 h73 hlc h76 => ?starts, fun seg m i n hdr hc hp => ?reads,
    fun seg m i n hread => ?segment, fun ja b x hx hspent hwork => ?spent, fun ja b x hx hshare hslice hdir hfull => ?answered,
    fun seg m i n e hreads hc he hop hp => ?timeout, fun seg m n k hread => ?link,
    fun t q seq tag ja b d _ hseal hz hl hst hf hp => ?accepted, fun t q seq tag ja b st hseal hz hl x hx hst => ?refused⟩
  case waits => rw [exec_postBatch_turn hc hp, if_neg (Bool.eq_false_iff.1 hturn)]
  case starts =>
    have hstart := exec_postBatch_turn hc hp
    rw [if_pos hturn, State.batchStart_checked h71 h73 hlc h76] at hstart
    refine ⟨fun hbit => ?_, fun hbit hpark _ => ?_, fun hbit hpark => ?_⟩
    · rw [hstart, if_pos hbit]
    · rw [hstart, if_neg (by simp [hbit]), if_pos hpark]
    · rw [hstart, if_neg (by simp [hbit]), if_neg hpark]
  case reads => exact exec_postBatch_reads hc hp
  case segment =>
    refine ⟨fun hne => ?_, fun hnone => ?_⟩
    · have hbad : headerBad seg (s.hostRd seg 64) = some 0x4001 := if_pos hne
      rw [State.segment_read hread, hbad]
      rfl
    · rw [State.segment_read hread, hnone]
  case spent => exact State.posting_waits hx hspent hwork
  case answered => exact State.posting_answered hx hshare hslice hdir hfull
  case timeout =>
    rw [exec_hostReadTimeout_batch he hop, exec_postBatch_reads (s0 := s) (hw := []) hc hp]
    obtain ⟨-, hfails, hok⟩ := State.cmd?_some hc
    have hbad : c.readBad 0 = true := by simp [Cmd.readBad, hfails, hok, hreads]
    rw [State.segment_unread hbad]
    rfl
  case link =>
    obtain ⟨hb0, hb1⟩ := bit_of_bits (leNat (s.hostRd seg 8))
    rw [State.link_read hread]
    refine ⟨fun h0 h3 => ?_, fun h0 h1 => ?_, fun h0 h0' => ?_, fun hbad => if_pos hbad⟩
    · simp [h0, h3, hb0, hb1]
    · simp [h0, h1, hb0, hb1]
    · simp [h0, h0', hb0]
  case accepted =>
    obtain ⟨i, hi⟩ := State.dirFind_of_lookup hl
    obtain ⟨-, hkey⟩ := State.dirFind_some hi
    obtain ⟨kept, p, hrseq, hbody, hredel, hpost⟩ := State.post_delivered (q := q) (seq := seq) (tag := tag) (ja := ja)
      (postingBad_none hseal hz) hl (State.holds_eq_false hst hf hp)
    obtain ⟨hjseq, hent, hcores, hnext, hdels, hheld⟩ :=
      State.postCounted_fields (t := t) (q := q) (seq := seq) hi kept
    generalize s.postCounted t q seq (postingKey t b) kept = s1 at *
    intro u
    obtain ⟨hhandle, hdel, hbox⟩ := s1.deliver_fields d false (some p) d.rseq.toNat
    obtain ⟨hdir, hfwd, hten, -, -⟩ := s1.deliver_frame d false (some p) d.rseq.toNat
    rw [← hpost] at hhandle hdel hbox hdir hfwd hten
    have hjseq' : (u.tenancy t).jseq = (s1.tenancy t).jseq := by rw [State.tenancy, hten, State.tenancy]
    have hbox' : (s1.core (.eng d.home)).lbox = (s.core (.eng d.home)).lbox := by rw [State.core, hcores, State.core]
    refine ⟨hhandle.trans (by rw [hnext]), hjseq'.trans hjseq, hfwd.trans hheld,
      ⟨_, hdel.trans (by rw [hdels]), rfl, hkey, p, rfl, hrseq, hbody⟩, ?_, i, d.counted s.heatNow, hi, ?_, rfl, rfl,
      d.warm_heat s.heatNow⟩
    · simpa [hredel, hbody, hbox', hnext] using hbox
    · rw [hdir, hent]
  case refused => exact State.post_refused (postingBad_none hseal hz) hl hx hst

end Sys2Proof.Machine

/-! PROOFS. Heat sweeps (11 R307, R472), bad buckets (R327), evacuation (R320) and withdrawal (R322): what each changes of
the directory, of a street and of a core. Settles O51. -/

namespace Sys2Proof.Machine

/-! ### Sweeps (R307) -/

theorem spGet?_map {α β : Type} (f : α → β) (m : List (Nat × α)) (k : Nat) :
    spGet? (m.map (fun p => (p.1, f p.2))) k = (spGet? m k).map f := by
  induction m with
  | nil => rfl
  | cons e r ih =>
    rw [List.map_cons, spGet?_cons, ih, spGet?_cons]
    split <;> rfl

/-- The device once a sweep has halved every HEAT, before it acts on the entries that it could not read. -/
def State.swept (s : State) : State :=
  { s with dir := s.dir.map (fun p => (p.1, p.2.decay s.heatNow)), free := s.free + 1 }

theorem exec_directorySweep_stopped {s : State} (h : s.memStopped = true) : exec .directorySweep s = .next s := if_pos h

theorem exec_directorySweep_runs {s : State} (h : s.memStopped = false) :
    exec .directorySweep s = .next ((Config.sweepMeets s.free).foldl (fun s b => s.badBucket b.toNat) s.swept) :=
  if_neg (Bool.eq_false_iff.1 h)

theorem State.swept_dir (s : State) (i : Nat) :
    spGet? s.swept.dir i = (spGet? s.dir i).map (fun d => d.decay s.heatNow) :=
  spGet?_map (fun d => DirEnt.decay d s.heatNow) _ _

/-! ### Bad buckets (R327) -/

/-- Two directories have entries for the same records in the same places. -/
def sameKeys (m l : Sparse DirEnt) : Prop := ∀ j, (spGet? l j).map DirEnt.key = (spGet? m j).map DirEnt.key

/-- A lookup reads the keys of a directory alone. -/
theorem State.dirFind_of_sameKeys {s t : State} (h : sameKeys s.dir t.dir) {k : RecKey} {i : Nat} {d e : DirEnt}
    (hd : s.dirFind k = some (i, d)) (he : spGet? t.dir i = some e) : t.dirFind k = some (i, e) := by
  obtain ⟨hi, hk⟩ := State.dirFind_some hd
  have hek : e.key = k := by simpa [hi, he, hk] using h i
  obtain ⟨l1, j, l2, hrange, hj, hbefore⟩ := List.findSome?_eq_some_iff.1 hd
  refine List.findSome?_eq_some_iff.2 ⟨l1, j, l2, hrange, ?_, fun x hx => ?_⟩
  · have hij : bucketOf k * 8 + j = i := by
      split at hj
      · split at hj
        · exact congrArg Prod.fst (Option.some.inj hj)
        · cases hj
      · cases hj
    simp [hij, he, hek]
  · have hx0 := hbefore x hx
    have hx1 := h (bucketOf k * 8 + x)
    cases ht : spGet? t.dir (bucketOf k * 8 + x) with
    | none => rfl
    | some y =>
      cases hs : spGet? s.dir (bucketOf k * 8 + x) with
      | none => simp [hs, ht] at hx1
      | some z =>
        simp only [hs, ht, Option.map_some, Option.some.injEq, ite_eq_right_iff, reduceCtorEq, imp_false] at hx0 hx1 ⊢
        rwa [hx1]

theorem State.setDoubt_sameKeys (s : State) (k : RecKey) : sameKeys s.dir (s.setDoubt k).dir := by
  intro j
  unfold State.setDoubt State.dirSet
  split
  · next i d hd =>
    obtain ⟨hi, -⟩ := State.dirFind_some hd
    rw [State.dirPut, spGet?_spPut]
    split
    · next hj => rw [hj, hi]; rfl
    · rfl
  · rfl

/-- The entry of a record is in doubt when the record is the one named, and as it was when it is another. -/
theorem State.setDoubt_dir {s : State} {k : RecKey} {i : Nat} {d : DirEnt} (h : s.dirFind d.key = some (i, d)) :
    spGet? (s.setDoubt k).dir i = some (if d.key = k then { d with doubt := true } else d) := by
  by_cases hk : d.key = k
  · subst hk
    rw [if_pos rfl, State.setDoubt, State.dirSet_eq h, State.dirPut_self]
  · obtain ⟨hi, -⟩ := State.dirFind_some h
    rw [if_neg hk, State.setDoubt, State.dirSet]
    split
    · next j e he =>
      obtain ⟨hj, hek⟩ := State.dirFind_some he
      have hij : i ≠ j := fun hij => hk (by rw [← hek]; congr 1; exact Option.some.inj (by rw [← hi, hij, hj]))
      rw [State.dirPut, spGet?_spPut_ne _ _ hij, hi]
    · exact hi

/-- So it is after the records of a list. -/
theorem State.foldl_setDoubt_dir (ks : List RecKey) {s : State} {i : Nat} {d : DirEnt}
    (h : s.dirFind d.key = some (i, d)) : spGet? (ks.foldl (fun s k => s.setDoubt k) s).dir i
      = some (if d.key ∈ ks then { d with doubt := true } else d) := by
  induction ks generalizing s d with
  | nil =>
    obtain ⟨hi, -⟩ := State.dirFind_some h
    simpa using hi
  | cons k r ih =>
    have hdir := State.setDoubt_dir (k := k) h
    generalize he : (if d.key = k then { d with doubt := true } else d) = e at hdir
    have hkey : e.key = d.key := by rw [← he]; split <;> rfl
    have hfind := State.dirFind_of_sameKeys (s.setDoubt_sameKeys k) h hdir
    rw [← hkey] at hfind
    rw [List.foldl_cons, ih hfind, hkey, ← he]
    by_cases hk : d.key = k
    · simp [hk]
    · simp [hk]

/-- What a bad bucket puts in doubt: the records of its entries, once its source has been raised. -/
def State.bucketDoubted (s : State) (b : Nat) : State :=
  ((s.dir.filter (fun p => decide (p.1 / 8 = b))).map (fun p => p.2.key)).foldl (fun s k => s.setDoubt k)
    (s.raise (316 + b % 4))

theorem State.badBucket_noted (s : State) (b : Nat) : (s.bucketDoubted b).noted (s.badBucket b) :=
  (State.report_noted _ _).count _

theorem State.noted.raised {s t : State} (h : s.noted t) : t.raised = s.raised := by
  obtain ⟨_, _, _, _, rfl⟩ := h
  rfl

theorem State.badBucket_raised (s : State) (b : Nat) :
    spGet 0 (s.badBucket b).raised (316 + b % 4) = spGet 0 s.raised (316 + b % 4) + 1 := by
  have hkeep : (s.bucketDoubted b).raised = (s.raise (316 + b % 4)).raised :=
    foldl_keeps State.raised (fun s k => by unfold State.setDoubt State.dirSet; split <;> rfl) _ _
  rw [(s.badBucket_noted b).raised, hkeep, State.raise_self]

theorem mem_of_spGet? {α : Type} {m : List (Nat × α)} {i : Nat} {v : α} (h : spGet? m i = some v) : (i, v) ∈ m := by
  induction m with
  | nil => cases h
  | cons e r ih =>
    rw [spGet?_cons] at h
    split at h
    · next hi => cases h; subst hi; exact List.mem_cons_self
    · exact List.mem_cons_of_mem _ (ih h)

/-- Every record of a bad bucket is in doubt. -/
theorem State.badBucket_doubt {s : State} {b i : Nat} {d : DirEnt} (hi : spGet? s.dir i = some d)
    (hd : s.dirFind d.key = some (i, d)) (hb : i / 8 = b) :
    spGet? (s.badBucket b).dir i = some { d with doubt := true } := by
  have hmem : d.key ∈ (s.dir.filter (fun p => decide (p.1 / 8 = b))).map (fun p => p.2.key) :=
    List.mem_map.2 ⟨(i, d), by simpa [hb] using mem_of_spGet? hi, rfl⟩
  obtain ⟨-, hdir, -, -⟩ := (s.badBucket_noted b).places
  rw [hdir, State.bucketDoubted, State.foldl_setDoubt_dir _ (s := s.raise (316 + b % 4)) hd, if_pos hmem]

/-! ### Evacuation for test (R320) -/

@[simp] theorem State.street_setStreet_self (s : State) (g : Nat) (x : Street) : (s.setStreet g x).street g = x := by
  simp [State.street, State.setStreet]

theorem State.street_setStreet_ne (s : State) {g i : Nat} (x : Street) (h : i ≠ g) :
    (s.setStreet g x).street i = s.street i := by
  simp [State.street, State.setStreet, spGet_spPut_ne, h]

theorem State.street_raise (s : State) (src g : Nat) : (s.raise src).street g = s.street g := rfl

/-- What follows an evacuation: nothing, or that of a street which is due. -/
theorem State.nextEvac_cases (s : State) :
    s.nextEvac = s ∨ ∃ g, (s.street g).evacDue = true ∧ s.nextEvac = s.evacBegins g := by
  unfold State.nextEvac
  split
  · exact .inl rfl
  · split
    · next g hg =>
      have hdue := List.find?_some hg
      rw [Bool.and_eq_true] at hdue
      exact .inr ⟨g, hdue.1, rfl⟩
    · exact .inl rfl

theorem State.nextEvac_dir (s : State) : s.nextEvac.dir = s.dir := by
  rcases s.nextEvac_cases with h | ⟨g, -, h⟩
  · rw [h]
  · rw [h]; rfl

/-- A street that is not due stays as the end of its evacuation left it. -/
theorem State.nextEvac_street {s : State} {g : Nat} (h : (s.street g).evacDue = false) :
    s.nextEvac.street g = s.street g := by
  rcases s.nextEvac_cases with he | ⟨i, hi, he⟩
  · rw [he]
  · have hne : g ≠ i := fun hg => by rw [hg, hi] at h; cases h
    rw [he, State.evacBegins, State.street_raise, State.street_setStreet_ne _ _ hne]

section
variable {s : State} {g : Fin 16}

theorem exec_streetEvacuation_start (h : (s.street g.val).st = .running) :
    exec (.streetEvacuation g .start) s = .next (s.evacuate g.val) := if_pos h

theorem exec_streetEvacuation_start_idle (h : (s.street g.val).st ≠ .running) :
    exec (.streetEvacuation g .start) s = .next s := if_neg h

/-- A street whose test has ended. -/
def Street.tested (x : Street) (ok : Bool) : Street := { x with st := if ok then .running else .faulted, evac := false }

/-- The test of an empty street ends its evacuation; the next one that is due may begin. -/
theorem exec_streetEvacuation_finish (hst : (s.street g.val).st = .draining) (hev : (s.street g.val).evac = true)
    (hempty : s.streetEmpty g.val = true) (ok : Bool) : ∃ t : State, exec (.streetEvacuation g (.finish ok)) s = .next t.nextEvac
      ∧ t.street g.val = (s.street g.val).tested ok ∧ t.dir = s.dir := by
  have hend : (s.street g.val).st = .draining ∧ (s.street g.val).evac = true ∧ s.streetEmpty g.val = true :=
    ⟨hst, hev, hempty⟩
  cases ok with
  | true => exact ⟨_, if_pos hend, State.street_setStreet_self _ _ _, rfl⟩
  | false => exact ⟨_, if_pos hend, State.street_setStreet_self _ _ _, rfl⟩

theorem exec_streetEvacuation_finish_waits (h : s.streetEmpty g.val = false) (ok : Bool) :
    exec (.streetEvacuation g (.finish ok)) s = .next s := by
  simp [execStreetEvacuation, h]

/-- What an empty street is (R34, R320). -/
theorem State.streetEmpty_iff (s : State) (g : Nat) : s.streetEmpty g = true ↔ ∀ n : Fin 128, n.val / 8 = g →
    (∀ p ∈ s.dir, p.2.home ≠ n) ∧ (∀ m ∈ s.moves, ∀ p, m.dst = some p → p.home ≠ n)
      ∧ ((s.core (.eng n)).withdrawn = true ∨ ((s.core (.eng n)).lbox.slots = [] ∧ (s.core (.eng n)).lbox.waiting = []))
      ∧ s.returnWaits n = false ∧ (s.core (.eng n)).posted = [] ∧ (s.core (.eng n)).waits = [] := by
  simp only [State.streetEmpty, streetEngines, engines, List.all_eq_true, List.mem_filter, List.mem_finRange, true_and,
    beq_iff_eq, Bool.and_eq_true, bne_iff_ne, Core.quiet, Bool.or_eq_true, Bool.not_eq_true', and_assoc]
  refine forall₂_congr fun n _ => and_congr_right' (and_congr (forall₂_congr fun m _ => ?_) Iff.rfl)
  cases m.dst <;> simp
end

/-! ### Cores beside the firmware's bookkeeping -/

theorem State.core_congr {s t : State} (h : t.cores = s.cores) (c : CoreId) : t.core c = s.core c := by
  rw [State.core, h, State.core]

@[simp] theorem State.dirSet_cores (s : State) (k : RecKey) (f : DirEnt → DirEnt) : (s.dirSet k f).cores = s.cores := by
  unfold State.dirSet
  split <;> rfl

@[simp] theorem State.setDoubt_cores (s : State) (k : RecKey) : (s.setDoubt k).cores = s.cores := s.dirSet_cores k _

@[simp] theorem State.reply_cores (s : State) (t q a : Nat) (l : List Byte) : (s.reply t q a l).cores = s.cores := by
  unfold State.reply
  repeat' split
  all_goals rfl

@[simp] theorem State.msixOf_cores (s : State) (t : Nat) (x : QPair) : (s.msixOf t x).cores = s.cores := by
  obtain ⟨_, h⟩ := s.msixOf_eq t x; rw [h]

@[simp] theorem State.ghostDone_cores (s : State) (t q : Nat) (e : Fetched) : (s.ghostDone t q e).cores = s.cores := by
  unfold State.ghostDone
  dsimp only
  split <;> rfl

@[simp] theorem State.complete_cores (s : State) (t q : Nat) (e : Fetched) (a : Ans) :
    (s.complete t q e a).cores = s.cores := by
  simp only [State.complete]
  repeat' split
  all_goals simp

theorem State.finishBatches_cores (t q n : Nat) (s : State) : (State.finishBatches t q n s).cores = s.cores := by
  induction n generalizing s with
  | zero => rfl
  | succ n ih =>
    simp only [State.finishBatches]
    repeat' split
    all_goals simp [ih]

@[simp] theorem State.finish_cores (s : State) (t q : Nat) : (s.finish t q).cores = s.cores := by
  unfold State.finish
  split
  · rfl
  · exact State.finishBatches_cores _ _ _ _

/-- An answer is written for the host, and touches no core. -/
@[simp] theorem State.answer_cores (s : State) (r : PostRef) (jstat pstat : Nat) (body : List Byte) :
    (s.answer r jstat pstat body).cores = s.cores := by
  unfold State.answer
  dsimp only
  split
  · rw [State.finish_cores, State.setBatch_cores, State.reply_cores, State.setTenancy_cores]
  · rfl

theorem State.noted.cores {s t : State} (h : s.noted t) : t.cores = s.cores := by
  obtain ⟨_, _, _, _, rfl⟩ := h
  rfl

@[simp] theorem State.protocol_cores (s : State) (n : Fin 128) : (s.protocol n).cores = s.cores :=
  (s.report_noted _).cores

/-- Nor does what the firmware makes of a return entry. -/
theorem State.returned_cores (s : State) (n : Fin 128) (l : List Byte) : (s.returned n l).cores = s.cores := by
  unfold State.returned
  dsimp only
  repeat' split
  all_goals simp [State.answered]

/-! ### Cores and places taken or given up (R288, R293, R295) -/

theorem Core.near_withdrawn {k j : Core} (h : k.near j) : j.withdrawn = k.withdrawn := by
  obtain ⟨_, _, _, _, rfl⟩ := h
  rfl

/-- The key caches write a frame's key byte back. -/
theorem State.keysBack_cores {α : Type} (f : Nat) (cache : α → Sparse Byte) (l : List α) (s : State) :
    (l.foldl (fun s c => match spGet? (cache c) f with | some b => s.keyBack f b | none => s) s).cores = s.cores := by
  refine foldl_keeps State.cores (fun s c => ?_) l s
  split
  · exact s.keyBack_cores f _
  · rfl

/-- A key cache without its copy of a frame's key byte. -/
def Core.dropKey (k : Core) (f : Nat) : Core := { k with keyCache := spDel k.keyCache f }

theorem State.dropFrame_cores (s : State) (f : Nat) :
    (s.dropFrame f).cores = s.cores.map (fun c => (c.1, c.2.dropKey f)) :=
  congrArg (List.map _) ((State.keysBack_cores f (fun u : Nat × Tram => u.2.keyCache) _ _).trans
    (State.keysBack_cores f (fun c : Nat × Core => c.2.keyCache) _ _))

/-- The key caches of the cores drop a frame. -/
theorem State.dropFrame_core (s : State) (f : Nat) (c : CoreId) : (s.core c).near ((s.dropFrame f).core c) := by
  unfold State.core
  rw [State.dropFrame_cores, spGet, spGet, spGet?_map (fun k => Core.dropKey k f)]
  cases spGet? s.cores (coreIx c) with
  | none => exact Core.near_refl _
  | some k => exact ⟨_, k.free, k.ccTlb, k.psc, rfl⟩

theorem State.setRegionKey_core (s : State) (p : Place) (b : Byte) (c : CoreId) :
    (s.core c).near ((s.setRegionKey p b).core c) := by
  unfold State.setRegionKey
  dsimp only
  split
  · exact Core.near_refl _
  · split
    · exact Core.near_refl _
    · rw [State.core_congr (State.setFrameKey_cores _ _ _)]
      exact s.dropFrame_core _ c

theorem State.mapFrame_cores (s : State) (t f : Nat) (on : Bool) : (s.mapFrame t f on).cores = s.cores := by
  unfold State.mapFrame State.wr8
  dsimp only
  repeat' split
  all_goals simp

theorem State.take_core (s : State) (k : RecKey) (p : Place) (c : CoreId) : (s.core c).near ((s.take k p).core c) := by
  unfold State.take
  dsimp only
  split
  · exact Core.near_refl _
  · split
    · rw [State.core_congr (State.mapFrame_cores _ _ _ _)]
      exact State.setRegionKey_core _ _ _ _
    · exact State.setRegionKey_core _ _ _ _

/-- A region that holds no record any more, given back (R293, R295). -/
def State.regionFreed (s : State) (k : RecKey) (p : Place) : State :=
  if s.placed.any (fun x => decide (regionOf x.2.2 = regionOf p)) then s
  else if p.cls = 2 then (s.setRegionKey p 0x1F).mapFrame k.ten.toNat (regionOf p) false
  else s.setRegionKey p 0x1F

/-- The square key of a tenancy whose last record has left the square, given back (R293). -/
def State.squareKeyFreed (s : State) (k : RecKey) (q : Nat) : State :=
  if s.placed.any (fun x => x.1.ten == k.ten && decide (x.2.2.home.val / 32 = q)) then s
  else s.setSquare q { s.square q with keys := (s.square q).keys.filter (fun x => x.1 != k.ten) }

theorem State.release_eq (s : State) (k : RecKey) (p : Place) :
    s.release k p = (s.regionFreed k p).squareKeyFreed k (p.home.val / 32) := rfl

theorem State.release_core (s : State) (k : RecKey) (p : Place) (c : CoreId) :
    (s.core c).near ((s.release k p).core c) := by
  have hkeys (t : State) (q : Nat) : (t.squareKeyFreed k q).core c = t.core c := by
    unfold State.squareKeyFreed
    split <;> rfl
  rw [State.release_eq, hkeys, State.regionFreed]
  split
  · exact Core.near_refl _
  · split
    · rw [State.core_congr (State.mapFrame_cores _ _ _ _)]
      exact s.setRegionKey_core p _ c
    · exact s.setRegionKey_core p _ c

/-! ### Withdrawal (R322) -/

section
variable (n : Fin 128)

/-- An engine is withdrawn. -/
def State.isOut (s : State) : Bool := (s.core (.eng n)).withdrawn

theorem State.isOut_congr {s t : State} (h : t.cores = s.cores) : t.isOut n = s.isOut n := by
  rw [State.isOut, State.core_congr h, State.isOut]

theorem State.isOut_of_near {s t : State} (h : (s.core (.eng n)).near (t.core (.eng n))) : t.isOut n = s.isOut n :=
  Core.near_withdrawn h

theorem State.consume_isOut (s : State) : (s.consume n).isOut n = s.isOut n := by
  cases h : (s.returnWaits n && !s.heldPa (s.returnPa n)) with
  | false => rw [State.consume_idle h]
  | true => rw [State.consume_in_reach h, State.isOut_congr n (State.returned_cores _ _ _), State.isOut, State.taken_core]; rfl

theorem State.consumeAll_isOut (i : Nat) (s : State) : (State.consumeAll n i s).isOut n = s.isOut n := by
  induction i generalizing s with
  | zero => rfl
  | succ i ih =>
    rw [State.consumeAll]
    split
    · rw [ih, State.consume_isOut]
    · rfl

theorem State.take_isOut (s : State) (k : RecKey) (p : Place) : (s.take k p).isOut n = s.isOut n :=
  State.isOut_of_near n (s.take_core k p _)

theorem State.release_isOut (s : State) (k : RecKey) (p : Place) : (s.release k p).isOut n = s.isOut n :=
  State.isOut_of_near n (s.release_core k p _)

theorem State.isOut_of_taken (s : State) (k : RecKey) (o : Option Place) :
    (match o with | some p => s.take k p | none => s).isOut n = s.isOut n := by
  cases o with
  | none => rfl
  | some p => exact s.take_isOut n k p

theorem State.isOut_of_released (s : State) (k : RecKey) (o : Option Move) :
    (match o with | some m => (match m.dst with | some p => s.release k p | none => s) | none => s).isOut n
      = s.isOut n := by
  cases o with
  | none => rfl
  | some m =>
    dsimp only
    cases m.dst with
    | none => rfl
    | some p => exact s.release_isOut n k p

theorem State.withdrawRec_isOut (lb : Letterbox) (homes : List (RecKey × Place)) (s : State) (k : RecKey) :
    (State.withdrawRec n lb homes s k).isOut n = s.isOut n := by
  unfold State.withdrawRec
  split
  · rfl
  · extract_lets mine again doubt old s1 s2 m s3 upd s4 s5
    have h1 : s1.isOut n = s.isOut n := rfl
    have h2 : s2.isOut n = s1.isOut n := State.isOut_of_released n s1 k old
    have h3 : s3.isOut n = s2.isOut n := State.isOut_of_taken n s2 k m.dst
    have h4 : s4.isOut n = s3.isOut n := State.isOut_congr n (State.dirSet_cores s3 k _)
    have h5 : s5.isOut n = s4.isOut n := by
      unfold s5
      split
      · rfl
      · exact State.isOut_congr n (s4.setDoubt_cores k)
    rw [foldl_keeps (State.isOut n) (fun s p => State.isOut_congr n (s.answer_cores _ _ _ _)), h5, h4, h3, h2, h1]

theorem State.isOut_moves (s : State) (l : List Move) : { s with moves := l }.isOut n = s.isOut n := rfl

theorem State.resumeMove_isOut (s : State) (d : DirEnt) (p : Place) : (s.resumeMove d p).isOut n = s.isOut n := by
  unfold State.resumeMove
  rw [State.isOut_moves, State.take_isOut]

theorem State.redirect_isOut (homes : List (RecKey × Place)) (s : State) (m : Move) :
    (State.redirect n homes s m).isOut n = s.isOut n := by
  unfold State.redirect
  split
  · split
    · extract_lets away s0 s1
      have h0 : s0.isOut n = s.isOut n := State.isOut_moves n s _
      have h1 : s1.isOut n = s0.isOut n := State.release_isOut n _ _ _
      split
      · rw [State.resumeMove_isOut, h1, h0]
      · rw [h1, h0]
    · rfl
  · rfl

theorem State.isOut_setCore (s : State) (k : Core) : (s.setCore (.eng n) k).isOut n = k.withdrawn := by
  rw [State.isOut, State.core_setCore]

theorem Core.withdrawn_lbox (k : Core) (l : Letterbox) : { k with lbox := l }.withdrawn = k.withdrawn := rfl

theorem State.isOut_setLbox (s : State) (l : Letterbox) :
    (s.setCore (.eng n) { s.core (.eng n) with lbox := l }).isOut n = s.isOut n := by
  rw [State.isOut_setCore, Core.withdrawn_lbox, State.isOut]

/-- An engine that has been withdrawn is out, whatever becomes of its records. -/
theorem State.withdraw_isOut (s : State) (homes : List (RecKey × Place)) : (s.withdraw n homes).isOut n = true := by
  unfold State.withdraw
  split
  · next h => exact h
  · extract_lets k s1 lb keys s2 s3 k3
    have h1 : s1.isOut n = true := (State.consumeAll_isOut n 64 _).trans (State.isOut_setCore n s _)
    clear_value s1
    have h2 : s2.isOut n = s1.isOut n := foldl_keeps (State.isOut n) (State.withdrawRec_isOut n lb homes) keys s1
    clear_value s2
    have h3 : s3.isOut n = s2.isOut n := foldl_keeps (State.isOut n) (State.redirect_isOut n homes) s2.moves s2
    clear_value s3
    exact (State.isOut_setLbox n s3 _).trans (h3.trans (h2.trans h1))

/-- A withdrawn engine issues nothing (R322). -/
theorem State.runs_isOut {s : State} (h : s.isOut n = true) : s.runs (.eng n) = false := by
  simp [State.runs, show (s.core (.eng n)).withdrawn = true from h]

end

/-! ### O51 -/

/-- A sweep keeps every entry where it is and halves its HEAT once for each epoch that has gone by (R307). -/
theorem State.swept_entry (s : State) (i : Nat) : (spGet? s.swept.dir i).isSome = (spGet? s.dir i).isSome
    ∧ ∀ d e, spGet? s.dir i = some d → spGet? s.swept.dir i = some e →
      e.heat.toNat = d.heat.toNat / 2 ^ (s.heatNow - d.epoch).toNat ∧ e.epoch = s.heatNow
        ∧ e = { d with heat := e.heat, epoch := e.epoch } := by
  rw [State.swept_dir]
  refine ⟨Option.isSome_map, fun d e hd he => ?_⟩
  rw [hd, Option.map_some, Option.some.injEq] at he
  subst he
  exact ⟨d.decay_heat _, rfl, rfl⟩

/-- Settles O51. -/
theorem sweepsAndEvacuation : Obligations.SweepsAndEvacuation := by
  unfold Obligations.SweepsAndEvacuation
  refine ⟨fun s => ⟨rfl, exec_directorySweep_stopped, fun h => ?sweep, fun b => ?bucket⟩,
    fun g s => ⟨fun hst hfree => ?start, fun hst hno hbusy => ?due, exec_streetEvacuation_start_idle,
      fun ok hst hev hempty => ?finish, fun ok h => exec_streetEvacuation_finish_waits h ok,
      s.streetEmpty_iff g.val, fun n homes => ?withdrawn⟩⟩
  case sweep => exact ⟨s.swept, rfl, exec_directorySweep_runs h, s.swept_entry⟩
  case bucket => exact fun _ => ⟨s.badBucket_raised b, fun i d => State.badBucket_doubt⟩
  case start =>
    refine ⟨_, exec_streetEvacuation_start hst, ?_⟩
    rw [State.evacuate_free g.isLt hst hfree, State.street_raise, State.street_setStreet_self]
    exact ⟨rfl, State.raise_self _ _, rfl⟩
  case due => rw [exec_streetEvacuation_start hst, State.evacuate_busy hno hbusy]
  case finish =>
    obtain ⟨t, hexec, hstreet, hdir⟩ := exec_streetEvacuation_finish hst hev hempty ok
    refine ⟨_, hexec, fun hdue => ?_, t.nextEvac_dir.trans hdir⟩
    rw [State.nextEvac_street (by rw [hstreet]; exact hdue), hstreet, Street.tested]
  case withdrawn =>
    have hout := s.withdraw_isOut n homes
    exact ⟨hout, State.runs_isOut n hout⟩

end Sys2Proof.Machine

/-! PROOFS. Moves (11 R310 to R314): the copy of a move whose new place lies inside the Record Directory. Refutes O52. -/

namespace Sys2Proof.Machine

/-! ### A move into the Record Directory

The last clause of O52 on the copy asks of the new place neither that placement may choose it nor that it lies outside
the Record Directory. The bytes of the record land there, and zeros over a valid entry take that entry away. -/

def selfMovedKey : RecKey := ⟨0, 7⟩

/-- The entry of the record is the first of its bucket. -/
def selfMovedIx : Nat := bucketOf selfMovedKey * 8

/-- A record of 16 zero bytes, in the tile of engine 0 and under a move. -/
def selfMovedEnt : DirEnt :=
  { key := selfMovedKey, st := .moving, pin := false, cold := false, doubt := false, lost := false, pinwait := false
    skey := 1, rlen := 0, group := 0, heat := 0, epoch := 0, rseq := 0, home := 0, cls := 0
    loc := BitVec.ofNat 48 (tilePa 0 0x40000), moveix := 0 }

/-- The place of class 2 where the record's own entry stands, in a directory that begins at address 0. -/
def selfMovedDst : Place := { home := 0, cls := 2, loc := BitVec.ofNat 48 (32 * selfMovedIx) }

/-- RELEASED has arrived. -/
def selfMove : Move := { key := selfMovedKey, dst := some selfMovedDst, released := true, ix := 0 }

def selfMoved : State :=
  { State.reset with
    dir := [(selfMovedIx, selfMovedEnt)], moves := [selfMove]
    channels := [(28, { Channel.reset with fn := .running })]
    installed := 2 ^ 36, kabase := 0x80000000, dirbase := 0
    layout := { live := true, keyBase := 0x80000000, keyLen := 2 ^ 24, dirBase := 0, tabBase := 0x100000000 } }

theorem selfMoved_dirFind : selfMoved.dirFind selfMovedKey = some (selfMovedIx, selfMovedEnt) := by decide +kernel

theorem selfMoved_wf : Sparse.wf selfMoved.dir := by
  unfold Sparse.wf
  decide +kernel

theorem selfMoved_laidOut : selfMoved.laidOut := by
  unfold State.laidOut
  decide +kernel

theorem selfMoved_copyFree : selfMoved.copyFree selfMovedDst 0 = true := by decide +kernel

theorem selfMoved_free : selfMoved.sliceHeld selfMovedKey = false
    ∧ selfMoved.heldPa selfMovedEnt.loc.toNat = false ∧ selfMoved.heldPa selfMovedDst.loc.toNat = false := by
  decide +kernel

/-- The entry at an index after a command that the machine takes. -/
def entryAfter (r : Res) (i : Nat) : Option DirEnt :=
  match r with
  | .next t => spGet? t.dir i
  | _ => none

/-- The copy takes the record's own entry away. -/
theorem selfMoved_copied : entryAfter (exec (.moveCopyComplete selfMovedKey ⟨false, 0⟩) selfMoved) selfMovedIx = none := by
  decide +kernel

/-- Refutes O52: the clause on the copy allows a new place inside the Record Directory. The record here is moved onto its
own entry; the zeros that are copied there clear the entry, so no entry names the new place. -/
theorem not_moves : ¬ Obligations.Moves := by
  unfold Obligations.Moves
  intro h
  obtain ⟨-, -, -, hcopy, -⟩ :=
    h selfMovedKey selfMovedDst selfMoved selfMovedIx selfMovedEnt selfMoved_dirFind selfMoved_wf
  obtain ⟨hslice, hfrom, hto⟩ := selfMoved_free
  obtain ⟨t, e, hexec, hentry, -⟩ := (hcopy selfMove selfMovedDst rfl rfl).2 0 rfl selfMoved_copyFree hslice hfrom hto
    rfl rfl selfMoved_laidOut (fun hcls => absurd hcls (by decide))
  have hgone := selfMoved_copied
  rw [hexec, entryAfter, hentry] at hgone
  cases hgone

end Sys2Proof.Machine

namespace Sys2Proof.Machine

/-! ## The life-cycle fuses (16 R439, R440, R448)

Only LC_CHANGE and the release of reset reach the fuses. Each operation of the model gets one lemma, in the order of the
model's definitions, that says that it leaves them; the commands follow, and then the two obligations. -/

/-! ### State, operations, keys, Tram, operands and issue -/

theorem State.near.fuses {s t : State} (h : s.near t) : t.fuses = s.fuses := by
  obtain ⟨_, _, _, _, _, _, rfl⟩ := h
  rfl

theorem State.noted.fuses {s t : State} (h : s.noted t) : t.fuses = s.fuses := by
  obtain ⟨_, _, _, _, rfl⟩ := h
  rfl

@[simp] theorem State.mapCores_fuses (s : State) (l : List CoreId) (f : Core → Core) : (s.mapCores l f).fuses = s.fuses :=
  foldl_keeps State.fuses (fun s a => by simp) _ _

@[simp] theorem State.attWr_fuses (s : State) (pa : Nat) (b : Byte) : (s.attWr pa b).fuses = s.fuses := by
  unfold State.attWr
  dsimp only
  (repeat' split) <;> simp

@[simp] theorem State.rebase_fuses (s : State) (nb : Nat) : (s.rebase nb).fuses = s.fuses := by
  unfold State.rebase
  split <;> rfl

@[simp] theorem State.hostStores_fuses (s : State) (l : List HostStore) : (s.hostStores l).fuses = s.fuses :=
  foldl_keeps State.fuses (fun s a => by simp) _ _

@[simp] theorem State.raiseErr_fuses (s : State) (src : Nat) : (s.raiseErr src).fuses = s.fuses := rfl

@[simp] theorem State.report_fuses (s : State) (r : ErrRec) : (s.report r).fuses = s.fuses := by
  unfold State.report
  dsimp only
  (repeat' split) <;> simp

@[simp] theorem State.logWrite_fuses (s : State) (time flags action aten : Nat) (words : List Nat) :
    (s.logWrite time flags action aten words).fuses = s.fuses := by
  simp [State.logWrite]

@[simp] theorem State.served_fuses (s : State) (pa : Nat) (code : Byte) : (s.served pa code).fuses = s.fuses := by
  unfold State.served
  split <;> simp

@[simp] theorem State.symbolError_fuses (s : State) (pa : Nat) : (s.symbolError pa).fuses = s.fuses := by
  unfold State.symbolError
  split <;> rfl

@[simp] theorem State.corrected_fuses (s : State) (utype uidx : Nat) (l : Loc) (addr : Nat) :
    (s.corrected utype uidx l addr).fuses = s.fuses := by
  unfold State.corrected
  split <;> simp

@[simp] theorem touchFrame_fuses (s : State) (cache : Sparse Byte) (v f : Nat) (um : Byte) :
    (touchFrame s cache v f um).1.fuses = s.fuses := by
  unfold touchFrame
  (repeat' split) <;> simp

@[simp] theorem fetchKeys_fuses (v : Nat) (l : List Gran) (s : State) (cache : Sparse Byte) :
    (fetchKeys v l s cache).1.fuses = s.fuses := (fetchKeys_near v l s cache).fuses

@[simp] theorem touchKeys_fuses (um : Byte) (v : Nat) (l : List (Nat × Gran)) (s : State) (cache : Sparse Byte) :
    (touchKeys um v l s cache).1.fuses = s.fuses := (touchKeys_near um v l s cache).fuses

@[simp] theorem keyiApply_fuses (i : Inval) (s : State) (cache : Sparse Byte) : (keyiApply i s cache).1.fuses = s.fuses :=
  foldl_keeps State.fuses (fun s a => by simp) _ _

@[simp] theorem State.invalCore_fuses (s : State) (i : Inval) (c : CoreId) : (s.invalCore i c).fuses = s.fuses := by
  unfold State.invalCore
  split <;> simp

@[simp] theorem State.invalTram_fuses (s : State) (i : Inval) (q : Nat) : (s.invalTram i q).fuses = s.fuses := by
  unfold State.invalTram
  split <;> simp

@[simp] theorem State.invalUnit_fuses (s : State) (i : Inval) (u : UnitId) : (s.invalUnit i u).fuses = s.fuses := by
  cases u <;> simp [State.invalUnit]

@[simp] theorem tramServed_fuses (s : State) (l : List Nat) : (tramServed s l).fuses = s.fuses := by
  unfold tramServed
  split <;> simp

@[simp] theorem tramTouch_fuses (s : State) (k : Nat) (l : List Nat) (write : Bool) :
    (tramTouch s k l write).fuses = s.fuses := by
  unfold tramTouch
  exact touchKeys_fuses _ _ _ _ _

@[simp] theorem tramNote_fuses (s : State) (k : Nat) (l : List Nat) (err : Option HwErr) :
    (tramNote s k l err).fuses = s.fuses := by
  unfold tramNote
  split <;> simp

@[simp] theorem State.wrAll_fuses (s : State) (l : List Nat) (bs : List Byte) : (s.wrAll l bs).fuses = s.fuses := by
  induction l generalizing s bs with
  | nil => rfl
  | cons a r ih => cases bs with
    | nil => rfl
    | cons b bs => simp [State.wrAll, ih]

theorem tramDstat_fuses {s t : State} {k : Nat} {c : Channel} {dcode : Byte} (h : tramDstat s k c dcode = .ok t) :
    t.fuses = s.fuses := by
  unfold tramDstat at h
  split at h
  · cases h
  · split at h
    · cases h
    · cases h
      simp

@[simp] theorem tramFail_fuses (s : State) (k : Nat) (side : BitVec 2) (code sub : Byte) (addr : W64) (fetch dstat : Bool)
    (mal : Byte) : (tramFail s k side code sub addr fetch dstat mal).fuses = s.fuses := by
  have hdstat : ∀ c : Channel, (match tramDstat s k c code with | .ok t => t | .error _ => s).fuses = s.fuses := by
    intro c
    split
    · next h => exact tramDstat_fuses h
    · rfl
  have hs1 : ∀ c : Channel,
      (if dstat then match tramDstat s k c code with | .ok t => t | .error _ => s else s).fuses = s.fuses := by
    intro c
    split
    · exact hdstat c
    · rfl
  unfold tramFail
  dsimp only
  split
  · simp
  · simp only [State.raiseErr_fuses, State.raise_fuses, State.setChannel_fuses]
    rw [apply_ite State.fuses, State.report_fuses, ite_self]
    exact hs1 _

@[simp] theorem tramSwst_fuses (s : State) (k : Nat) : (tramSwst s k).fuses = s.fuses := by
  unfold tramSwst
  dsimp only
  split <;> rfl

@[simp] theorem tramResume_fuses (s : State) (k : Nat) : (tramResume s k).fuses = s.fuses := by
  unfold tramResume
  dsimp only
  split <;> rfl

@[simp] theorem tramDis_fuses (s : State) (k : Nat) : (tramDis s k).fuses = s.fuses := rfl

@[simp] theorem tramCctl_fuses (s : State) (k : Nat) (v : W64) : (tramCctl s k v).fuses = s.fuses := by
  unfold tramCctl
  (repeat' split) <;> simp

@[simp] theorem tramCda_fuses (s : State) (k : Nat) (v : W64) : (tramCda s k v).fuses = s.fuses := by
  unfold tramCda
  dsimp only
  split <;> rfl

@[simp] theorem tramFetch_fuses (s : State) (k : Nat) (err : Option HwErr) : (tramFetch s k err).fuses = s.fuses := by
  unfold tramFetch
  dsimp only
  (repeat' split) <;> simp

@[simp] theorem tramBurst_fuses (s : State) (k : Nat) : (tramBurst s k).fuses = s.fuses := by
  unfold tramBurst
  dsimp only
  (repeat' split) <;> simp

@[simp] theorem tramServes_fuses (s : State) (k : Nat) (wr : Bool) : (tramServes s k wr).fuses = s.fuses := rfl

@[simp] theorem tramPut_fuses (s : State) (k : Nat) (err : Option HwErr) : (tramPut s k err).fuses = s.fuses := by
  unfold tramPut
  dsimp only
  split
  · rfl
  · split
    · rfl
    · split
      · simp
      · split <;> simp

@[simp] theorem tramFlush_fuses (k n : Nat) (s : State) : (tramFlush k n s).fuses = s.fuses := by
  induction n generalizing s with
  | zero => rfl
  | succ n ih =>
    unfold tramFlush
    split
    · rw [ih, tramPut_fuses]
    · rfl

@[simp] theorem tramReadFails_fuses (s : State) (k : Nat) (c : Channel) (d : Desc) (l : List Nat) (j stop : Nat) (mal : Byte) :
    (tramReadFails s k c d l j stop mal).fuses = s.fuses := by
  unfold tramReadFails
  dsimp only
  split <;> simp

@[simp] theorem tramRead_fuses (s : State) (k : Nat) (err : Option HwErr) : (tramRead s k err).fuses = s.fuses := by
  unfold tramRead
  dsimp only
  (repeat' split) <;> simp

@[simp] theorem tramWrite_fuses (s : State) (k : Nat) (err : Option HwErr) : (tramWrite s k err).fuses = s.fuses := by
  unfold tramWrite
  split <;> simp

@[simp] theorem tramComplete_fuses (s : State) (k : Nat) (err : Option HwErr) : (tramComplete s k err).fuses = s.fuses := by
  unfold tramComplete
  dsimp only
  split
  · split <;> rfl
  · split
    · rfl
    · split
      · simp
      · split
        · simp
        · next h =>
          have hs1 := tramDstat_fuses h
          split <;> simp [apply_ite State.fuses, hs1]

theorem State.arrive_fuses {s t : State} {dest src : Nat} {errs : Bool} (h : s.arrive dest src errs = some t) :
    t.fuses = s.fuses := by
  unfold State.arrive at h
  split at h
  · cases h; rfl
  · split at h
    · cases h
    · cases h; rfl

@[simp] theorem tramServe_fuses (s : State) (k : Nat) (walkErr : Bool) : (tramServe s k walkErr).fuses = s.fuses := by
  unfold tramServe
  dsimp only
  (repeat' split) <;> simp

@[simp] theorem kerbWipe_fuses (s : State) : (kerbWipe s).fuses = s.fuses := rfl

@[simp] theorem kerbSeal_fuses (s : State) : (kerbSeal s).fuses = s.fuses := by
  unfold kerbSeal
  split <;> rfl

@[simp] theorem kerbLock_fuses (s : State) : (kerbLock s).fuses = s.fuses := rfl

@[simp] theorem State.evWrite_fuses (s : State) (c : CoreId) (l : List (Nat × Byte)) : (s.evWrite c l).fuses = s.fuses := by
  unfold State.evWrite
  (repeat' split) <;> rfl

@[simp] theorem bankClear_fuses (s : State) (b i : Nat) (v : W64) : (bankClear s b i v).fuses = s.fuses := by
  unfold bankClear
  split <;> rfl

@[simp] theorem mpWrite_fuses (s : State) (p off : Nat) (mask v : W64) : (mpWrite s p off mask v).fuses = s.fuses := by
  unfold mpWrite
  (repeat' split) <;> simp

@[simp] theorem hpWrite_fuses (s : State) (h off : Nat) (mask v : W64) : (hpWrite s h off mask v).fuses = s.fuses := by
  unfold hpWrite
  (repeat' split) <;> simp

@[simp] theorem sqWrite_fuses (s : State) (q off : Nat) (mask v : W64) : (sqWrite s q off mask v).fuses = s.fuses := by
  unfold sqWrite
  (repeat' split) <;> simp

@[simp] theorem regWrite_fuses (s : State) (pa : Nat) (mask v : W64) : (regWrite s pa mask v).fuses = s.fuses := by
  unfold regWrite
  simp only [apply_ite State.fuses, sqWrite_fuses, mpWrite_fuses, hpWrite_fuses, bankClear_fuses, kerbLock_fuses,
    kerbWipe_fuses, kerbSeal_fuses, State.rebase_fuses, ite_self]
  rcases ccWindow (pa - regBase) with _ | ⟨c, off⟩ <;> simp

theorem regKeyByte_fuses {s t : State} {pa : Nat} {b : Byte} (h : regKeyByte s pa b = some t) : t.fuses = s.fuses := by
  unfold regKeyByte at h
  dsimp only at h
  split at h
  · cases h; rfl
  · split at h
    · cases h; rfl
    · cases h

/-- The bytes of a store to a register range, with the writes of a key byte and of a register left open. The model's
`regBytesGo` is this function with its own two; the equations of `regBytesGo` itself make Lean evaluate addresses. -/
def gatherBytes (key : State → Nat → Byte → Option State) (reg : State → Nat → W64 → W64 → State) (word : Nat) (mask v : W64) :
    State → List Nat → List Byte → State
  | s, a :: as_, b :: bs =>
    match key s a b with
    | some t => gatherBytes key reg word mask v t as_ bs
    | none =>
      let sh : Nat := 8 * (7 - a % 8)
      let m1 : W64 := BitVec.ofNat 64 (0xFF * 2 ^ sh)
      let v1 : W64 := BitVec.ofNat 64 (b.toNat * 2 ^ sh)
      if a / 8 * 8 = word then gatherBytes key reg word (mask ||| m1) (v ||| v1) s as_ bs
      else gatherBytes key reg (a / 8 * 8) m1 v1 (if mask = 0 then s else reg s word mask v) as_ bs
  | s, _, _ => if mask = 0 then s else reg s word mask v

theorem regBytesGo_eq (word : Nat) (mask v : W64) (s : State) (l : List Nat) (bs : List Byte) :
    regBytesGo word mask v s l bs = gatherBytes regKeyByte regWrite word mask v s l bs := by
  delta regBytesGo gatherBytes regBytesGo._f gatherBytes._f
  generalize regKeyByte = rk
  generalize regWrite = rw
  rfl

theorem gatherBytes_fuses {key : State → Nat → Byte → Option State} {reg : State → Nat → W64 → W64 → State}
    (hkey : ∀ s a b t, key s a b = some t → t.fuses = s.fuses) (hreg : ∀ s a m v, (reg s a m v).fuses = s.fuses)
    (word : Nat) (mask v : W64) (s : State) (l : List Nat) (bs : List Byte) :
    (gatherBytes key reg word mask v s l bs).fuses = s.fuses := by
  fun_induction gatherBytes key reg word mask v s l bs with
  | case1 word mask v s a l b bs t h ih => rw [ih, hkey _ _ _ _ h]
  | case2 mask v s a l b bs h sh m1 v1 ih => exact ih
  | case3 word mask v s a l b bs h sh m1 v1 hne ih => rw [ih, apply_ite State.fuses, hreg, ite_self]
  | case4 => rfl
  | case5 => exact hreg _ _ _ _

@[simp] theorem regBytesGo_fuses (word : Nat) (mask v : W64) (s : State) (l : List Nat) (bs : List Byte) :
    (regBytesGo word mask v s l bs).fuses = s.fuses := by
  rw [regBytesGo_eq]
  exact gatherBytes_fuses (fun _ _ _ _ h => regKeyByte_fuses h) regWrite_fuses _ _ _ _ _ _

@[simp] theorem State.ccStore_fuses (s : State) (sup : Bool) (pas : List Nat) (bs : List Byte) :
    (s.ccStore sup pas bs).fuses = s.fuses := by
  unfold State.ccStore
  rw [regBytesGo_fuses, foldl_keeps State.fuses]
  intro t p
  split
  · split <;> simp
  · simp

@[simp] theorem Work.put_fuses (w : Work) : (w.put).fuses = w.s.fuses := rfl

@[simp] theorem keyCheck_fuses (s : State) (c : CoreId) (k : Core) (addr : Nat → Nat) (l : List Loc) (w : Bool) (fin : Nat)
    (err : Option HwErr) : (keyCheck s c k addr l w fin err).1.fuses = s.fuses := (keyCheck_near s c k addr l w fin err).1.fuses

@[simp] theorem operandChecks_fuses (s : State) (c : CoreId) (k : Core) (rs : List Req) (err : Option HwErr) :
    (operandChecks s c k rs err).s.fuses = s.fuses := (operandChecks_near s c k rs err).1.fuses

@[simp] theorem Work.touch_fuses (w : Work) (l : List (Req × List Loc)) : (w.touch l).s.fuses = w.s.fuses :=
  (Work.touch_near l w).2.1.fuses

@[simp] theorem State.drainEnt_fuses (s : State) (n : Nat) (e : StoreEnt) : (s.drainEnt n e).fuses = s.fuses := by
  simp [State.drainEnt]

@[simp] theorem Work.drain_fuses (w : Work) (m : Nat) : (w.drain m).s.fuses = w.s.fuses :=
  foldl_keeps State.fuses (fun s a => by simp) _ _

@[simp] theorem Work.drainAll_fuses (w : Work) : (w.drainAll).s.fuses = w.s.fuses := by
  simp [Work.drainAll]

@[simp] theorem Work.readTile_fuses (w : Work) (off n : Nat) : (w.readTile off n).1.s.fuses = w.s.fuses := rfl

@[simp] theorem Work.loadTile_fuses (w : Work) (off n : Nat) : (w.loadTile off n).1.s.fuses = w.s.fuses := by
  unfold Work.loadTile
  (repeat' split) <;> simp

@[simp] theorem Work.storeTile_fuses (w : Work) (kind : StKind) (off : Nat) (bs : List Byte) :
    (w.storeTile kind off bs).s.fuses = w.s.fuses := by
  unfold Work.storeTile
  refine foldl_keeps (fun w : Work => w.s.fuses) (fun w e => ?_) _ _
  dsimp only
  split
  · exact w.drain_fuses _
  · rfl

@[simp] theorem State.performed_fuses (s : State) (c : CoreId) (p : Posted) : (s.performed c p).fuses = s.fuses := by
  unfold State.performed
  simp only [State.evWrite_fuses]
  split
  · simp
  · exact foldl_keeps State.fuses (fun t x => t.wr_fuses _ _) _ _

@[simp] theorem Work.view_fuses (w : Work) : (w.view).fuses = w.s.fuses :=
  foldl_keeps State.fuses (fun s a => by simp) _ _

@[simp] theorem Work.fetchOp_fuses (w : Work) (l : List Loc) : (w.fetchOp l).1.s.fuses = w.s.fuses := by
  unfold Work.fetchOp
  (repeat' split) <;> simp

@[simp] theorem Work.freeSlot_fuses (w : Work) (l : List Loc) : (w.freeSlot l).s.fuses = w.s.fuses := by
  unfold Work.freeSlot
  split <;> rfl

@[simp] theorem Work.load_fuses (w : Work) (l : List Loc) : (w.load l).1.s.fuses = w.s.fuses := by
  simp [Work.load]

@[simp] theorem Work.store_fuses (w : Work) (pc : W32) (o : StOp) : (w.store pc o).s.fuses = w.s.fuses := by
  unfold Work.store
  split <;> simp

@[simp] theorem State.touchArea_fuses (s : State) (n a len : Nat) (write : Bool) :
    (s.touchArea n a len write).fuses = s.fuses :=
  (s.touchArea_near n a len write).fuses

@[simp] theorem State.grant_fuses (s : State) (c : CoreId) (k : Core) (g : Grant) (t : Nat) :
    (s.grant c k g t).1.fuses = s.fuses := by
  obtain ⟨hs, -⟩ := s.grant_frame c k g t
  exact hs.fuses

@[simp] theorem State.portTo_fuses (s : State) (c : CoreId) (k : Core) (upto : Nat) :
    (s.portTo c k upto).1.fuses = s.fuses :=
  (s.portTo_frame c k upto).1.fuses

@[simp] theorem State.fetchCheck_fuses (s : State) (c : CoreId) (k : Core) (n : Nat) (b : Byte) (e : Option HwErr) :
    (s.fetchCheck c k n b e).1.fuses = s.fuses := (fetchCheck_near s c k n b e).1.fuses

@[simp] theorem Work.stores_fuses (w : Work) (pc : W32) (l : List StOp) : (w.stores pc l).s.fuses = w.s.fuses :=
  foldl_keeps (fun w : Work => w.s.fuses) (fun w o => w.store_fuses pc o) l w

@[simp] theorem Work.fetchOps_fuses (w : Work) (l : List (Req × List Loc)) : (w.fetchOps l).1.s.fuses = w.s.fuses := by
  induction l generalizing w with
  | nil => rfl
  | cons p r ih =>
    obtain ⟨q, l⟩ := p
    unfold Work.fetchOps
    split
    · exact (ih _).trans (w.fetchOp_fuses l)
    · exact ih w

@[simp] theorem Work.loads_fuses (w : Work) (l : List (Req × List Loc)) : (w.loads l).1.s.fuses = w.s.fuses := by
  unfold Work.loads
  dsimp only
  rw [foldl_keeps (fun w : Work => w.s.fuses), Work.fetchOps_fuses]
  intro w p
  split
  · exact w.freeSlot_fuses _
  · rfl

@[simp] theorem State.endOf_fuses (s : State) (c : CoreId) (k : Core) (len t : Nat) (own : List (Nat × Nat)) (act : Act) :
    (s.endOf c k len t own act).1.fuses = s.fuses := by
  simp [State.endOf]

@[simp] theorem Work.finish_fuses (w : Work) (k : Core) (i : Form) (len t split : Nat) (eff : Eff) (busy : List (Nat × Nat)) :
    (w.finish k i len t split eff busy).fuses = w.s.fuses := by
  simp [Work.finish]

@[simp] theorem Work.await_fuses (w : Work) (i : Form) (len t split at_ : Nat) (eff : Eff) (busy : List (Nat × Nat)) (xs : List Xfer) :
    (w.await i len t split at_ eff busy xs).fuses = w.s.fuses := by
  unfold Work.await
  dsimp only
  split <;> simp

theorem State.recorded_fuses (s : State) (a : Issue) (k : Core) (i : Form) (ls : List (List Loc)) :
    (s.recorded a k i ls).fuses = s.fuses := by
  unfold State.recorded
  split
  · exact (State.corrected_noted _ _ _ _ _).fuses
  · rfl

theorem State.atIssue_fuses (s : State) (a : Issue) (i : Form) : (s.atIssue a i).fuses = s.fuses := by
  simp [State.atIssue]

/-- An instruction that reached its body has left the fuses alone. -/
theorem State.issues_inr_fuses {s : State} {a : Issue} {form : State → Core → Form} {r : Ready}
    (h : s.issues a form = .inr r) : r.w.s.fuses = s.fuses := by
  obtain ⟨i, len, b, s3, k3, hf, hw⟩ := State.issues_inr h
  have hfetch : s3.fuses = (s.atIssue a (form s (s.core a.core))).fuses := by
    have hnear := (fetchCheck_near (s.atIssue a (form s (s.core a.core))) a.core
      (s.coreAtIssue a (form s (s.core a.core))) len b a.err).1.fuses
    rwa [hf] at hnear
  rw [hw]
  simp only [Work.loads_fuses, Work.touch_fuses, State.recorded_fuses, operandChecks_fuses, hfetch, State.atIssue_fuses]

/-- An instruction that does not reach its body leaves the fuses alone. -/
theorem State.issues_inl_fuses {s t : State} {a : Issue} {form : State → Core → Form}
    (h : s.issues a form = .inl t) : t.fuses = s.fuses := by
  unfold State.issues at h
  dsimp only at h
  split at h
  · cases h; rfl
  · split at h
    · next s3 k3 e hf =>
      have hfetch := congrArg (fun x => x.1.fuses) hf
      simp only [State.fetchCheck_fuses, State.portTo_fuses] at hfetch
      cases h
      exact hfetch.symm
    · next s3 k3 hf =>
      have hfetch := congrArg (fun x => x.1.fuses) hf
      simp only [State.fetchCheck_fuses, State.portTo_fuses] at hfetch
      split at h
      · cases h
        exact hfetch.symm
      · split at h
        · cases h
          simp [hfetch]
        · split at h
          · cases h
            simp [hfetch]
          · rcases ite_eq_iff.1 h with ⟨_, h⟩ | ⟨_, h⟩
            · cases h; rfl
            · cases h

@[simp] theorem Ready.perform_fuses (r : Ready) (d : Done) : (r.perform d).fuses = d.w.s.fuses := by
  unfold Ready.perform
  dsimp only
  split
  · split <;> simp
  · split <;> simp

/-- An instruction leaves the fuses alone when its body does. -/
theorem State.issue_fuses {s : State} {a : Issue} {mk : State → Core → Insn}
    (h : ∀ t k w ls bs, ((mk t k).body w ls bs).w.s.fuses = w.s.fuses) : (s.issue a mk).fuses = s.fuses := by
  unfold State.issue
  cases hi : s.issues a (fun s k => (mk s k).toForm) with
  | inl t => exact State.issues_inl_fuses hi
  | inr r => exact (r.perform_fuses _).trans ((h _ _ _ _ _).trans (State.issues_inr_fuses hi))

/-! ### Entries, queues and the catalogue rows -/

@[simp] theorem Work.spill_fuses (w : Work) (a : Nat) (b : Bank) : (w.spill a b).s.fuses = w.s.fuses := by
  simp [Work.spill]

theorem Work.endFill_fuses {w : Work} {g : BgFill} {r : Work × Fin 4 × Nat} (h : w.endFill g = .ok r) :
    r.1.s.fuses = w.s.fuses := by
  unfold Work.endFill at h
  dsimp only at h
  split at h
  · cases h
  · cases h
    simp

theorem Work.resident_fuses {w : Work} {t : BitVec 6} {avoid : Option (Fin 4)} {r : Work × Fin 4 × Nat}
    (h : w.resident t avoid = .ok r) : r.1.s.fuses = w.s.fuses := by
  unfold Work.resident at h
  split at h
  · cases h; rfl
  · split at h
    · exact Work.endFill_fuses h
    · dsimp only at h
      split at h
      · cases h
      · split at h
        · cases h
        · split at h
          · cases h
          · split at h
            · cases h
            · cases h
              simp only [State.touchArea_fuses]
              split <;> simp

@[simp] theorem Work.idle_fuses (w : Work) (upto : Nat) : (w.idle upto).s.fuses = w.s.fuses := by
  simp [Work.idle]

theorem Work.switchTo_fuses {w v : Work} {t : BitVec 6} {s0 : Nat} (h : w.switchTo t s0 = .ok v) :
    v.s.fuses = w.s.fuses := by
  unfold Work.switchTo at h
  dsimp only at h
  split at h
  · cases h
  · next hr =>
    have hres := Work.resident_fuses hr
    split at h
    · cases h
      exact hres
    · cases h
      exact (Work.idle_fuses _ _).trans hres

@[simp] theorem Work.descr_fuses (w : Work) (v : BitVec 6) : (w.descr v).1.s.fuses = w.s.fuses := by
  unfold Work.descr
  split <;> simp

@[simp] theorem Work.faultRegs_fuses (w : Work) (x : Exn) (cause : W32) : (w.faultRegs x cause).s.fuses = w.s.fuses := by
  unfold Work.faultRegs
  split <;> simp

@[simp] theorem Work.handler_fuses (w : Work) (d : Descr) (psw : W64) (iy : W32) :
    (w.handler d psw iy).s.fuses = w.s.fuses := rfl

@[simp] theorem Work.halt_fuses (w : Work) : (w.halt).s.fuses = w.s.fuses := by
  simp [Work.halt]

@[simp] theorem Work.escalate_fuses (w : Work) (x : Exn) (pc : W32) (cause : W32) (sub : Nat) (bad : Bool) :
    (w.escalate x pc cause sub bad).s.fuses = w.s.fuses := by
  unfold Work.escalate
  dsimp only
  (repeat' split) <;> simp

@[simp] theorem Work.enter_fuses (w : Work) (x : Exn) (err : Option HwErr) : (w.enter x err).s.fuses = w.s.fuses := by
  unfold Work.enter
  dsimp only
  (repeat' split) <;> simp

@[simp] theorem Work.at_fuses (w : Work) (boundary : Bool) : (w.at boundary).s.fuses = w.s.fuses := by
  simp [Work.at]

@[simp] theorem Work.take_fuses (w : Work) (i : Item) (err : Option HwErr) : (w.take i err).s.fuses = w.s.fuses := by
  unfold Work.take
  dsimp only
  split <;> simp

@[simp] theorem Work.entry_fuses (w : Work) (err : Option HwErr) : (w.entry err).s.fuses = w.s.fuses := by
  unfold Work.entry
  (repeat' split) <;> simp

@[simp] theorem Work.return_fuses (w : Work) (i : Fin 4) (extra : Nat) (pending : Bool) :
    (w.return i extra pending).s.fuses = w.s.fuses := rfl

theorem Work.retx_fuses {w v : Work} {err : Option HwErr} (h : w.retx err = .ok v) : v.s.fuses = w.s.fuses := by
  unfold Work.retx at h
  dsimp only at h
  split at h
  · cases h
  · next w1 i extra hr =>
    have hres : w1.s.fuses = w.s.fuses := by
      split at hr
      · cases hr; rfl
      · exact Work.resident_fuses hr
    split at h
    · cases h
      simpa using hres
    · split at h
      · cases h
        simpa using hres
      · cases h
        simpa using hres

@[simp] theorem Work.tevict_fuses (w : Work) (t : BitVec 6) : (w.tevict t).1.s.fuses = w.s.fuses := by
  unfold Work.tevict
  (repeat' split) <;> simp

@[simp] theorem State.msixOf_fuses (s : State) (t : Nat) (x : QPair) : (s.msixOf t x).fuses = s.fuses := by
  unfold State.msixOf
  split <;> rfl

@[simp] theorem State.ghostDone_fuses (s : State) (t q : Nat) (e : Fetched) : (s.ghostDone t q e).fuses = s.fuses := by
  unfold State.ghostDone
  dsimp only
  split <;> rfl

@[simp] theorem State.complete_fuses (s : State) (t q : Nat) (e : Fetched) (a : Ans) :
    (s.complete t q e a).fuses = s.fuses := by
  unfold State.complete
  dsimp only
  (repeat' split) <;> simp

@[simp] theorem State.reply_fuses (s : State) (t q : Nat) (addr : Nat) (l : List Byte) :
    (s.reply t q addr l).fuses = s.fuses := by
  unfold State.reply
  (repeat' split) <;> rfl

@[simp] theorem State.finishBatches_fuses (t q n : Nat) (s : State) : (State.finishBatches t q n s).fuses = s.fuses := by
  induction n generalizing s with
  | zero => rfl
  | succ n ih =>
    unfold State.finishBatches
    split
    · rfl
    · split
      · rfl
      · split
        · dsimp only
          split
          · simp [ih]
          · rfl
        · rfl

@[simp] theorem State.finish_fuses (s : State) (t q : Nat) : (s.finish t q).fuses = s.fuses := by
  unfold State.finish
  split <;> simp

@[simp] theorem State.setProg_fuses (s : State) (t q seq : Nat) (p : Prog) : (s.setProg t q seq p).fuses = s.fuses := by
  unfold State.setProg
  dsimp only
  split <;> rfl

@[simp] theorem State.onPage_fuses (s : State) (f : FnId) (q : Nat) (g : QPair → QPair) :
    (s.onPage f q g).fuses = s.fuses := by
  unfold State.onPage
  (repeat' split) <;> rfl

@[simp] theorem State.qctlStart_fuses (s : State) (f : FnId) (memOk : Bool) : (s.qctlStart f memOk).fuses = s.fuses := by
  unfold State.qctlStart
  (repeat' split) <;> rfl

@[simp] theorem State.sealFailed_fuses (s : State) (t : Nat) : (s.sealFailed t).fuses = s.fuses := by
  unfold State.sealFailed
  split <;> simp

@[simp] theorem State.hopFails_fuses (s : State) (err : Option HwErr) : (s.hopFails err).1.fuses = s.fuses := by
  unfold State.hopFails
  split <;> simp

@[simp] theorem State.fetch_fuses (s : State) (f : FnId) (q : Nat) (readFails : Bool) :
    (s.fetch f q readFails).fuses = s.fuses := by
  unfold State.fetch
  dsimp only
  (repeat' split) <;> simp

@[simp] theorem State.orphan_fuses (s : State) (t q : Nat) : (s.orphan t q).fuses = s.fuses := rfl

@[simp] theorem State.hostWriteFails_fuses (s : State) (t q : Nat) (x : QPair) :
    (s.hostWriteFails t q x).fuses = s.fuses := by
  unfold State.hostWriteFails
  split <;> simp

@[simp] theorem State.flr_fuses (s : State) (f : FnId) : (s.flr f).fuses = s.fuses := by
  unfold State.flr
  split
  · rfl
  · simp only [State.setTenancy_fuses]
    exact foldl_keeps State.fuses (fun s p => s.orphan_fuses _ _) _ _

@[simp] theorem State.newRound_fuses (s : State) : (s.newRound).fuses = s.fuses := rfl

theorem State.round_fuses {s u : State} {t q : Nat} {left : QPair → Nat} (h : s.round t q left = some u) :
    u.fuses = s.fuses := by
  unfold State.round at h
  split at h
  · cases h; rfl
  · split at h
    · cases h; rfl
    · split at h
      · cases h
      · cases h; simp

theorem State.begin?_fuses {s u : State} {c : Cmd} (h : s.begin? c = some u) : u.fuses = s.fuses := by
  unfold State.begin? at h
  split at h
  · cases h; rfl
  · obtain ⟨v, hv, rfl⟩ := Option.map_eq_some_iff.1 h
    rw [← State.round_fuses hv]
    split <;> simp

/-- A row of the catalogue leaves the fuses alone when its effect on the command does. -/
theorem State.onCmdIf_fuses {s : State} {r : CmdRef} {op : Nat → Bool} {f : Cmd → State → State}
    (h : ∀ c t, (f c t).fuses = t.fuses) : (s.onCmdIf r op f).fuses = s.fuses := by
  unfold State.onCmdIf
  split
  · rfl
  · split
    · rfl
    · next hb =>
      dsimp only
      split
      · rfl
      · exact (h _ _).trans (State.begin?_fuses hb)

theorem State.onCmd_fuses {s : State} {r : CmdRef} {op : Nat} {f : Cmd → State → State}
    (h : ∀ c t, (f c t).fuses = t.fuses) : (s.onCmd r op f).fuses = s.fuses := State.onCmdIf_fuses h

@[simp] theorem State.ends_fuses (s : State) (c : Cmd) (a : Ans) : (s.ends c a).fuses = s.fuses := by
  simp [State.ends]

@[simp] theorem State.progress_fuses (s : State) (c : Cmd) (p : Prog) : (s.progress c p).fuses = s.fuses := by
  simp [State.progress]

@[simp] theorem State.replies_fuses (s : State) (c : Cmd) (addr : Nat) (l : List Byte) :
    (s.replies c addr l).fuses = s.fuses := by
  unfold State.replies
  split <;> simp

/-! ### Placement -/

@[simp] theorem State.dirSet_fuses (s : State) (k : RecKey) (f : DirEnt → DirEnt) : (s.dirSet k f).fuses = s.fuses := by
  unfold State.dirSet
  split <;> rfl

@[simp] theorem State.wr8_fuses (s : State) (pa v : Nat) : (s.wr8 pa v).fuses = s.fuses := by
  simp [State.wr8]

@[simp] theorem State.mapFrame_fuses (s : State) (t f : Nat) (on : Bool) : (s.mapFrame t f on).fuses = s.fuses := by
  unfold State.mapFrame
  (repeat' split) <;> simp

@[simp] theorem State.dropFrame_fuses (s : State) (f : Nat) : (s.dropFrame f).fuses = s.fuses := by
  have hback : ∀ (t : State) (m : Sparse Byte),
      (match spGet? m f with | some b => t.keyBack f b | none => t).fuses = t.fuses := by
    intro t m
    split <;> simp
  unfold State.dropFrame
  exact (foldl_keeps State.fuses (fun t (u : Nat × Tram) => hback t u.2.keyCache) _ _).trans
    (foldl_keeps State.fuses (fun t (c : Nat × Core) => hback t c.2.keyCache) _ _)

@[simp] theorem State.setRegionKey_fuses (s : State) (p : Place) (b : Byte) : (s.setRegionKey p b).fuses = s.fuses := by
  unfold State.setRegionKey
  (repeat' split) <;> simp

@[simp] theorem State.take_fuses (s : State) (k : RecKey) (p : Place) : (s.take k p).fuses = s.fuses := by
  unfold State.take
  dsimp only
  (repeat' split) <;> simp

@[simp] theorem State.release_fuses (s : State) (k : RecKey) (p : Place) : (s.release k p).fuses = s.fuses := by
  unfold State.release
  dsimp only
  (repeat' split) <;> simp

@[simp] theorem State.answer_fuses (s : State) (r : PostRef) (jstat pstat : Nat) (body : List Byte) :
    (s.answer r jstat pstat body).fuses = s.fuses := by
  unfold State.answer
  split <;> simp

@[simp] theorem State.refusePost_fuses (s : State) (t q seq jaddr jstat : Nat) :
    (s.refusePost t q seq jaddr jstat).fuses = s.fuses := by
  simp [State.refusePost]

@[simp] theorem State.slotTo_fuses (s : State) (n : Fin 128) (l : List Byte) : (s.slotTo n l).fuses = s.fuses := rfl

@[simp] theorem State.deliver_fuses (s : State) (d : DirEnt) (fwd : Bool) (p : Option Posting) (rseq : Nat) :
    (s.deliver d fwd p rseq).fuses = s.fuses := rfl

@[simp] theorem State.flowGo_fuses (k : RecKey) (n : Nat) (s : State) : (State.flowGo k n s).fuses = s.fuses := by
  induction n generalizing s with
  | zero => rfl
  | succ n ih =>
    unfold State.flowGo
    split
    · rfl
    · split
      · split <;> simp
      · split
        · simp [ih]
        · rfl

@[simp] theorem State.flow_fuses (s : State) (k : RecKey) : (s.flow k).fuses = s.fuses := State.flowGo_fuses _ _ _

@[simp] theorem State.flowGroup_fuses (s : State) (k : RecKey) : (s.flowGroup k).fuses = s.fuses := by
  unfold State.flowGroup
  split
  · rfl
  · exact (foldl_keeps State.fuses (fun t m => t.flow_fuses _) _ _).trans (s.flow_fuses k)

@[simp] theorem State.post_fuses (s : State) (t q seq tag jaddr : Nat) (b : List Byte) :
    (s.post t q seq tag jaddr b).fuses = s.fuses := by
  unfold State.post
  dsimp only
  (repeat' split) <;> simp

@[simp] theorem State.setLost_fuses (s : State) (k : RecKey) : (s.setLost k).fuses = s.fuses := by
  unfold State.setLost
  dsimp only
  rw [foldl_keeps State.fuses (fun t p => t.answer_fuses _ _ _ _)]
  simp

@[simp] theorem State.setDoubt_fuses (s : State) (k : RecKey) : (s.setDoubt k).fuses = s.fuses := by
  simp [State.setDoubt]

@[simp] theorem State.badBucket_fuses (s : State) (b : Nat) : (s.badBucket b).fuses = s.fuses := by
  unfold State.badBucket
  dsimp only
  rw [State.report_fuses, foldl_keeps State.fuses (fun t k => t.setDoubt_fuses k), State.raise_fuses]

@[simp] theorem State.lookedUp_fuses (s : State) (bad : List (BitVec 23)) (k : RecKey) :
    (s.lookedUp bad k).fuses = s.fuses := by
  unfold State.lookedUp
  split <;> simp

@[simp] theorem State.protocol_fuses (s : State) (n : Fin 128) : (s.protocol n).fuses = s.fuses := by
  simp [State.protocol]

@[simp] theorem State.answered_fuses (s : State) (h : W32) : (s.answered h).fuses = s.fuses := rfl

@[simp] theorem State.returned_fuses (s : State) (n : Fin 128) (l : List Byte) : (s.returned n l).fuses = s.fuses := by
  unfold State.returned
  dsimp only
  (repeat' split) <;> simp

theorem State.taken_fuses (s : State) (n : Fin 128) : (s.taken n).fuses = s.fuses :=
  (State.setCore_fuses _ _ _).trans (State.wr_fuses _ _ _)

@[simp] theorem State.consume_fuses (s : State) (n : Fin 128) : (s.consume n).fuses = s.fuses := by
  cases h : (s.returnWaits n && !s.heldPa (s.returnPa n)) with
  | false => rw [State.consume_idle h]
  | true => rw [State.consume_in_reach h, State.returned_fuses, State.taken_fuses]

@[simp] theorem State.consumeBad_fuses (s : State) (n : Fin 128) (r : ErrRec) : (s.consumeBad n r).fuses = s.fuses :=
  (State.report_fuses _ _).trans ((State.setCore_fuses _ _ _).trans (State.wr_fuses _ _ _))

@[simp] theorem State.startMove_fuses (s : State) (d : DirEnt) (p : Place) : (s.startMove d p).fuses = s.fuses := by
  simp [State.startMove]

@[simp] theorem State.resumeMove_fuses (s : State) (d : DirEnt) (p : Place) : (s.resumeMove d p).fuses = s.fuses := by
  simp [State.resumeMove]

theorem State.moveTo_fuses {s t : State} {all : List (RecKey × Place)} {x : RecKey × Place} (h : s.moveTo all x = some t) :
    t.fuses = s.fuses := by
  unfold State.moveTo at h
  split at h
  · cases h
  · split at h
    · split at h
      · cases h; simp
      · cases h
    · split at h
      · cases h; simp
      · cases h

@[simp] theorem State.chainRun_fuses (s : State) (k len : Nat) (src dst : Nat) :
    (s.chainRun k len src dst).fuses = s.fuses := by
  simp [State.chainRun]

@[simp] theorem State.copyRec_fuses (s : State) (d : DirEnt) (p : Place) (ch : Fin 4) :
    (s.copyRec d p ch).fuses = s.fuses := by
  simp [State.copyRec]

@[simp] theorem State.consumeAll_fuses (n : Fin 128) (i : Nat) (s : State) : (State.consumeAll n i s).fuses = s.fuses := by
  induction i generalizing s with
  | zero => rfl
  | succ i ih =>
    unfold State.consumeAll
    split
    · rw [ih, State.consume_fuses]
    · rfl

@[simp] theorem State.withdrawRec_fuses (n : Fin 128) (lb : Letterbox) (homes : List (RecKey × Place)) (s : State) (k : RecKey) :
    (State.withdrawRec n lb homes s k).fuses = s.fuses := by
  unfold State.withdrawRec
  split
  · rfl
  · dsimp only
    rw [foldl_keeps State.fuses (fun t p => t.answer_fuses _ _ _ _), apply_ite State.fuses, State.setDoubt_fuses, ite_self]
    simp only [State.dirSet_fuses]
    split
    · rw [State.take_fuses]
      split
      · split <;> simp
      · rfl
    · split
      · split <;> simp
      · rfl

@[simp] theorem State.redirect_fuses (n : Fin 128) (homes : List (RecKey × Place)) (s : State) (m : Move) :
    (State.redirect n homes s m).fuses = s.fuses := by
  unfold State.redirect
  dsimp only
  (repeat' split) <;> simp

@[simp] theorem State.withdraw_fuses (s : State) (n : Fin 128) (homes : List (RecKey × Place)) :
    (s.withdraw n homes).fuses = s.fuses := by
  unfold State.withdraw
  split
  · rfl
  · dsimp only
    rw [State.setCore_fuses, foldl_keeps State.fuses (fun t m => State.redirect_fuses n homes t m),
      foldl_keeps State.fuses (fun t k => State.withdrawRec_fuses n _ homes t k), State.consumeAll_fuses, State.setCore_fuses]

@[simp] theorem State.evacBegins_fuses (s : State) (g : Nat) : (s.evacBegins g).fuses = s.fuses := rfl

@[simp] theorem State.evacuate_fuses (s : State) (g : Nat) : (s.evacuate g).fuses = s.fuses := by
  unfold State.evacuate
  dsimp only
  (repeat' split) <;> simp

@[simp] theorem State.nextEvac_fuses (s : State) : (s.nextEvac).fuses = s.fuses := by
  unfold State.nextEvac
  (repeat' split) <;> rfl

/-! ### Integrity -/

@[simp] theorem State.aerNote_fuses (s : State) (sev : BitVec 2) (time : Nat) : (s.aerNote sev time).fuses = s.fuses := by
  unfold State.aerNote
  dsimp only
  (repeat' split) <;> simp

@[simp] theorem State.logEntry_fuses (s : State) (sev : BitVec 2) (time action aten : Nat) (words : List Nat) :
    (s.logEntry sev time action aten words).fuses = s.fuses := by
  unfold State.logEntry
  (repeat' split) <;> simp

@[simp] theorem State.logOpen_fuses (s : State) (sev : BitVec 2) (action : Nat) :
    (s.logOpen sev action).fuses = s.fuses := by
  simp [State.logOpen]

@[simp] theorem State.failFetched_fuses (s : State) (t q : Nat) : (s.failFetched t q).fuses = s.fuses := by
  unfold State.failFetched
  split
  · rfl
  · exact (foldl_keeps State.fuses (fun s e => s.complete_fuses _ _ _ _) _ _).trans (s.orphan_fuses t q)

@[simp] theorem State.vectorsRaised_fuses (s : State) : s.vectorsRaised.fuses = s.fuses := by
  refine foldl_keeps State.fuses (fun s t => foldl_keeps State.fuses (fun s q => ?_) _ _) _ _
  split <;> simp

@[simp] theorem State.allFaulted_fuses (s : State) : s.allFaulted.fuses = s.fuses := by
  unfold State.allFaulted
  dsimp only
  rw [foldl_keeps State.fuses (fun s h => s.setHostPort_fuses _ _), foldl_keeps State.fuses (fun s p => s.setMemPort_fuses _ _),
    foldl_keeps State.fuses (fun s k => s.setChannel_fuses _ _), foldl_keeps State.fuses (fun s q => s.setSquare_fuses _ _),
    foldl_keeps State.fuses (fun s g => s.setStreet_fuses _ _), State.vectorsRaised_fuses]

@[simp] theorem State.deviceFatal_fuses (s : State) : s.deviceFatal.fuses = s.fuses := by
  unfold State.deviceFatal
  split
  · rfl
  · dsimp only
    rw [State.allFaulted_fuses, foldl_keeps State.fuses (fun s p => s.setDoubt_fuses _), foldl_keeps State.fuses,
      foldl_keeps State.fuses (fun s x => foldl_keeps State.fuses (fun s y => s.failFetched_fuses _ _) _ _)]
    intro s d
    split <;> simp

@[simp] theorem State.fatalOpen_fuses (s : State) : (s.fatalOpen).fuses = s.fuses := by
  unfold State.fatalOpen
  split <;> simp

@[simp] theorem State.errorAct_fuses (s : State) (r : ErrRec) (homes : List (RecKey × Place)) :
    (s.errorAct r homes).1.fuses = s.fuses := by
  have hlost : ∀ (ks : List RecKey) (t : State), (ks.foldl (fun s k => s.setLost k) t).fuses = t.fuses :=
    foldl_keeps State.fuses (fun s k => s.setLost_fuses k)
  have hdoubt : ∀ (ks : List RecKey) (t : State), (ks.foldl (fun s k => s.setDoubt k) t).fuses = t.fuses :=
    foldl_keeps State.fuses (fun s k => s.setDoubt_fuses k)
  have hevac : ∀ (q : Nat) (ks : List Nat) (t : State), (ks.foldl (fun s i => s.evacuate (4 * q + i)) t).fuses = t.fuses :=
    fun q => foldl_keeps State.fuses (fun s i => s.evacuate_fuses _)
  unfold State.errorAct
  (repeat' split) <;> simp only [hlost, hdoubt, hevac, State.deviceFatal_fuses, State.withdraw_fuses, State.evacuate_fuses,
    State.raise_fuses]

/-! ### Functions -/

@[simp] theorem State.queue_fuses (s : State) (c : Cmd) : (s.queue c).fuses = s.fuses := by
  unfold State.queue
  split <;> simp

@[simp] theorem State.clearRing_fuses (s : State) (n : Fin 128) : (s.clearRing n).fuses = s.fuses := by
  unfold State.clearRing
  generalize List.range 64 = l
  induction l generalizing s with
  | nil => rfl
  | cons i l ih => rw [List.foldl_cons, ih, State.wr_fuses]

@[simp] theorem State.streetReset_fuses (s : State) (g : Nat) : (s.streetReset g).fuses = s.fuses := by
  unfold State.streetReset
  generalize streetEngines g = l
  dsimp only
  induction l generalizing s with
  | nil => rfl
  | cons n l ih => rw [List.foldl_cons, ih, State.clearRing_fuses, State.setCore_fuses]

@[simp] theorem State.keysReset_fuses (s : State) (q : Nat) : (s.keysReset q).fuses = s.fuses := rfl

@[simp] theorem State.squareReset_fuses (s : State) (q : Nat) : (s.squareReset q).fuses = s.fuses := by
  unfold State.squareReset
  dsimp only
  rw [State.setSquare_fuses, foldl_keeps State.fuses (fun s i => s.setStreet_fuses _ _), State.setTram_fuses,
    foldl_keeps State.fuses (fun s j => s.setChannel_fuses _ _), State.keysReset_fuses, State.mapCores_fuses]

theorem rootsWritten_fuses (q : Nat) (l : List Nat) (s : State) :
    (l.foldl (fun s t => s.wr8 (sqPa q (0x10000 + 8 * t)) (s.tabPa t)) s).fuses = s.fuses := by
  induction l generalizing s with
  | nil => rfl
  | cons t l ih => rw [List.foldl_cons, ih, State.wr8_fuses]

@[simp] theorem State.bringUp_fuses (s : State) (q : Nat) : (s.bringUp q).fuses = s.fuses := by
  unfold State.bringUp
  dsimp only
  split
  · rw [rootsWritten_fuses]
    dsimp only
    rw [foldl_keeps State.fuses (fun s j => s.setChannel_fuses _ _)]
  · dsimp only
    rw [foldl_keeps State.fuses (fun s j => s.setChannel_fuses _ _)]

@[simp] theorem State.stopQp_fuses (s : State) (t q : Nat) : (s.stopQp t q).fuses = s.fuses := by
  unfold State.stopQp
  split <;> rfl

@[simp] theorem State.streetDrain_fuses (s : State) (g : Nat) : (s.streetDrain g).fuses = s.fuses := by
  unfold State.streetDrain
  dsimp only
  split <;> simp

@[simp] theorem State.stopStreet_fuses (s : State) (g : Nat) : (s.stopStreet g).fuses = s.fuses := by
  unfold State.stopStreet
  dsimp only
  split
  · rw [State.streetDrain_fuses, State.raise_fuses, State.setStreet_fuses]
  · exact s.streetDrain_fuses g
  · split
    · rw [State.setStreet_fuses, State.streetReset_fuses]
    · rfl
  · rfl

@[simp] theorem State.stopChannel_fuses (s : State) (k : Nat) : (s.stopChannel k).fuses = s.fuses := rfl

@[simp] theorem State.stopGroup_fuses (s : State) (q : Nat) : (s.stopGroup q).fuses = s.fuses := rfl

@[simp] theorem State.stopKid_fuses (s : State) (f : Fid) : (s.stopKid f).fuses = s.fuses := by
  unfold State.stopKid
  (repeat' split) <;> simp

@[simp] theorem State.squareDrain_fuses (s : State) (q : Nat) : (s.squareDrain q).fuses = s.fuses := by
  unfold State.squareDrain
  dsimp only
  split <;> simp only [State.setSquare_fuses, foldl_keeps State.fuses State.stopKid_fuses]

@[simp] theorem State.stopSquare_fuses (s : State) (q : Nat) : (s.stopSquare q).fuses = s.fuses := by
  unfold State.stopSquare
  dsimp only
  split
  · rw [State.squareDrain_fuses, State.setSquare_fuses]
  · exact s.squareDrain_fuses q
  · split
    · rw [State.setSquare_fuses, State.squareReset_fuses]
    · rfl
  · rfl

@[simp] theorem State.tenancyDrain_fuses (s : State) (t : Nat) : (s.tenancyDrain t).fuses = s.fuses := by
  unfold State.tenancyDrain
  dsimp only
  split <;> simp only [State.setTenancy_fuses, foldl_keeps State.fuses (fun (s : State) (p : Nat × QPair) => s.stopQp_fuses t p.1)]

@[simp] theorem State.dropKeyCaches_fuses (s : State) : s.dropKeyCaches.fuses = s.fuses := by
  have hback : ∀ (m : Sparse Byte) (t : State), (m.foldl (fun s p => s.keyBack p.1 p.2) t).fuses = t.fuses :=
    foldl_keeps State.fuses (fun s p => s.keyBack_fuses _ _)
  unfold State.dropKeyCaches
  exact (foldl_keeps State.fuses (fun s u => hback _ s) _ _).trans (foldl_keeps State.fuses (fun s c => hback _ s) _ _)

@[simp] theorem State.stopPort_fuses (s : State) (p : Nat) : (s.stopPort p).fuses = s.fuses := by
  unfold State.stopPort
  (repeat' split) <;> simp

@[simp] theorem State.portReset_fuses (s : State) (h : Nat) : (s.portReset h).fuses = s.fuses :=
  (State.setHostPort_fuses _ _ _).trans (foldl_keeps State.fuses State.flr_fuses _ _)

@[simp] theorem State.stopLink_fuses (s : State) (h : Nat) : (s.stopLink h).fuses = s.fuses := by
  unfold State.stopLink
  dsimp only
  rw [State.setHostPort_fuses, apply_ite State.fuses, State.portReset_fuses, ite_self]

@[simp] theorem State.stopFunction_fuses (s : State) (f : Fid) : (s.stopFunction f).fuses = s.fuses := by
  unfold State.stopFunction
  split <;> simp

@[simp] theorem State.stopEnds_fuses (s : State) (c : Cmd) (res0 : Nat) : (s.stopEnds c res0).fuses = s.fuses := by
  unfold State.stopEnds
  split <;> simp

@[simp] theorem State.stop76_fuses (s : State) (c : Cmd) : (s.stop76 c).fuses = s.fuses := by
  unfold State.stop76
  dsimp only
  (repeat' split) <;> simp

@[simp] theorem State.applyRoute_fuses (s : State) (g : Nat) (v : W64) : (s.applyRoute g v).fuses = s.fuses := rfl

@[simp] theorem State.applyLive_fuses (s : State) (f : Fid) (p : PendSet) : (s.applyLive f p).fuses = s.fuses := by
  unfold State.applyLive
  (repeat' split) <;> rfl

@[simp] theorem State.onPend_fuses (s : State) (f : Fid) (g : List PendSet → List PendSet) :
    (s.onPend f g).fuses = s.fuses := by
  unfold State.onPend
  (repeat' split) <;> rfl

@[simp] theorem State.settings_fuses (s : State) (f : Fid) (l : List PendSet) : (s.settings f l).fuses = s.fuses := by
  refine foldl_keeps State.fuses (fun s p => ?_) _ _
  split
  · exact s.onPend_fuses f _
  · exact s.applyLive_fuses f p

@[simp] theorem State.startStreet_fuses (s : State) (g : Nat) (k : StartFacts) : (s.startStreet g k).1.fuses = s.fuses := by
  unfold State.startStreet
  dsimp only
  split
  · rfl
  · simp only [State.nextEvac_fuses, State.raise_fuses, State.setStreet_fuses, State.mapCores_fuses]
    rw [apply_ite State.fuses, State.streetReset_fuses, ite_self]

@[simp] theorem State.startChannel_fuses (s : State) (k : Nat) : (s.startChannel k).fuses = s.fuses := rfl

@[simp] theorem State.startGroup_fuses (s : State) (q : Nat) : (s.startGroup q).fuses = s.fuses := rfl

@[simp] theorem State.startKid_fuses (k : StartFacts) (s : State) (w : W32) : (State.startKid k s w).fuses = s.fuses := by
  unfold State.startKid
  dsimp only
  (repeat' split) <;> simp only [State.startStreet_fuses, State.startChannel_fuses, State.startGroup_fuses]

@[simp] theorem State.squareUp_fuses (s : State) (q : Nat) (k : StartFacts) : (s.squareUp q k).fuses = s.fuses :=
  (foldl_keeps State.fuses (State.startKid_fuses k) _ _).trans (s.setSquare_fuses q _)

@[simp] theorem State.startPort_fuses (s : State) (p : Nat) (k : StartFacts) : (s.startPort p k).1.fuses = s.fuses := by
  unfold State.startPort
  dsimp only
  split
  · rfl
  · simp only [State.report_fuses, State.setMemPort_fuses]

@[simp] theorem State.startLink_fuses (s : State) (h : Nat) (k : StartFacts) : (s.startLink h k).1.fuses = s.fuses := by
  have hreset : (if (s.hostPort h).retrains then s.portReset h else s).fuses = s.fuses := by
    rw [apply_ite State.fuses, State.portReset_fuses, ite_self]
  unfold State.startLink
  dsimp only
  split
  · simp only [State.report_fuses, State.setHostPort_fuses, hreset]
  · exact hreset

@[simp] theorem State.startTenancy_fuses (s : State) (t : Nat) (k : StartFacts) :
    (s.startTenancy t k).1.fuses = s.fuses := by
  unfold State.startTenancy
  dsimp only
  split <;> rfl

@[simp] theorem State.startFunction_fuses (s : State) (f : Fid) (k : StartFacts) :
    (s.startFunction f k).1.fuses = s.fuses := by
  unfold State.startFunction
  (repeat' split) <;> simp only [State.startTenancy_fuses, State.setQp_fuses, State.startStreet_fuses, State.startPort_fuses,
    State.startChannel_fuses, State.startGroup_fuses, State.startLink_fuses]

@[simp] theorem State.startSquare_fuses (s : State) (c : Cmd) (q : Nat) (k : StartFacts) :
    (s.startSquare c q k).fuses = s.fuses := by
  unfold State.startSquare
  dsimp only
  split
  · exact s.progress_fuses c _
  · split
    · rw [State.progress_fuses, State.setSquare_fuses]
    · split
      · rw [State.ends_fuses, State.setSquare_fuses]
      · rw [State.ends_fuses, State.squareUp_fuses, State.setSquare_fuses, apply_ite State.fuses, State.bringUp_fuses, ite_self]

@[simp] theorem State.squareLocked_fuses (s : State) (c : Cmd) (q : Nat) (k : StartFacts) :
    (s.squareLocked c q k).fuses = s.fuses := by
  unfold State.squareLocked
  dsimp only
  (repeat' split) <;> simp

@[simp] theorem State.markRestart_fuses (s : State) (f : Fid) : (s.markRestart f).fuses = s.fuses := by
  unfold State.markRestart
  (repeat' split) <;> rfl

@[simp] theorem State.withParent_fuses (s : State) (c : Cmd) : (s.withParent c).fuses = s.fuses := by
  simp [State.withParent]

@[simp] theorem State.startStopped_fuses (s : State) (c : Cmd) (k : StartFacts) : (s.startStopped c k).fuses = s.fuses := by
  unfold State.startStopped
  dsimp only
  (repeat' split) <;> simp only [State.ends_fuses, State.startSquare_fuses, State.startFunction_fuses, State.withParent_fuses]

@[simp] theorem State.start76_fuses (s : State) (c : Cmd) (k : StartFacts) : (s.start76 c k).fuses = s.fuses := by
  unfold State.start76
  dsimp only
  (repeat' split) <;> simp

/-! ### Records -/

theorem State.onRecord_fuses (s : State) (c : Cmd) {f : State → State} (h : ∀ t, (f t).fuses = t.fuses) :
    (s.onRecord c f).fuses = s.fuses := by
  unfold State.onRecord
  split
  · rfl
  · rw [h, State.lookedUp_fuses]

@[simp] theorem State.define_fuses (s : State) (c : Cmd) (i : Nat) (p : Place) : (s.define c i p).fuses = s.fuses := by
  simp [State.define]

@[simp] theorem State.replace_fuses (s : State) (c : Cmd) (o : W16) : (s.replace c o).fuses = s.fuses := by
  unfold State.replace
  (repeat' split) <;> simp

@[simp] theorem State.removed_fuses (s0 : State) (c : Cmd) (i : Nat) (d0 : DirEnt) :
    (s0.removed c i d0).fuses = s0.fuses := by
  unfold State.removed
  dsimp only
  (repeat' split) <;> simp

@[simp] theorem State.removeGo_fuses (s : State) (c : Cmd) : (s.removeGo c).fuses = s.fuses := by
  unfold State.removeGo
  (repeat' split) <;> simp

@[simp] theorem State.removeStart_fuses (s : State) (c : Cmd) : (s.removeStart c).fuses = s.fuses := by
  unfold State.removeStart
  (repeat' split) <;> simp

@[simp] theorem State.queryGo_fuses (s : State) (c : Cmd) (o : W16) : (s.queryGo c o).fuses = s.fuses := by
  unfold State.queryGo
  (repeat' split) <;> simp

@[simp] theorem State.chainEnds_fuses (s : State) (c : Cmd) (read : Nat) (status : Nat) (res1 detail : Nat) (parked : Option W64) :
    (s.chainEnds c read status res1 detail parked).fuses = s.fuses := by
  unfold State.chainEnds
  split <;> simp

@[simp] theorem State.link_fuses (s : State) (c : Cmd) (seg segNo read k : Nat) :
    (s.link c seg segNo read k).fuses = s.fuses := by
  unfold State.link
  dsimp only
  (repeat' split) <;> simp

@[simp] theorem State.shared_fuses (s : State) (t q : Nat) (n : Nat) : (s.shared t q n).fuses = s.fuses := by
  unfold State.shared
  split <;> rfl

theorem State.posting_fuses {c : Cmd} {jaddr : Nat} {b : List Byte} {s t : State} (h : s.posting c jaddr b = .ok t) :
    t.fuses = s.fuses := by
  unfold State.posting at h
  dsimp only at h
  split at h
  · cases h
  · next s1 hround =>
    have hs1 : s1.fuses = s.fuses := State.round_fuses hround
    split at h
    · cases h
    · split at h
      · cases h
      · cases h
        rw [State.post_fuses, State.shared_fuses, apply_ite State.fuses, State.lookedUp_fuses, ite_self, hs1]

@[simp] theorem State.postings_fuses (c : Cmd) (seg jptr n i k : Nat) (s : State) :
    (s.postings c seg jptr n i k).1.fuses = s.fuses := by
  induction n generalizing i k s with
  | zero => rfl
  | succ n ih =>
    unfold State.postings
    split
    · rfl
    · split
      · rfl
      · next hpost => rw [ih, State.posting_fuses hpost]

@[simp] theorem State.holdQp_fuses (s : State) (c : Cmd) (k : Option RecKey) : (s.holdQp c k).fuses = s.fuses := by
  unfold State.holdQp
  split <;> rfl

@[simp] theorem State.segmentGo_fuses (s : State) (c : Cmd) (seg segNo i read k : Nat) (hdr : Nat × Nat) :
    (s.segmentGo c seg segNo i read k hdr).fuses = s.fuses := by
  have hposted := s.postings_fuses c seg hdr.2 (hdr.1 - i) i k
  unfold State.segmentGo
  generalize State.postings c seg hdr.2 (hdr.1 - i) i k s = r at hposted ⊢
  obtain ⟨s1, j, halt⟩ := r
  dsimp only
  split <;> simp only [State.link_fuses, State.chainEnds_fuses, State.progress_fuses, State.holdQp_fuses] <;> exact hposted

@[simp] theorem State.segment_fuses (s : State) (c : Cmd) (seg segNo i read : Nat) (hdr : Option (Nat × Nat)) :
    (s.segment c seg segNo i read hdr).fuses = s.fuses := by
  unfold State.segment
  dsimp only
  (repeat' split) <;> simp

@[simp] theorem State.refuseBatch_fuses (s : State) (c : Cmd) (a : Ans) : (s.refuseBatch c a).fuses = s.fuses := by
  simp [State.refuseBatch]

@[simp] theorem State.batchStart_fuses (s : State) (c : Cmd) : (s.batchStart c).fuses = s.fuses := by
  unfold State.batchStart
  dsimp only
  (repeat' split) <;> simp

/-! ### The other commands -/

@[simp] theorem State.dropRec_fuses (s : State) (k : RecKey) : (s.dropRec k).fuses = s.fuses := by
  unfold State.dropRec
  split
  · exact State.release_fuses _ _ _
  · rfl

@[simp] theorem State.purge_fuses (s : State) (c : Cmd) (t : Nat) : (s.purge c t).fuses = s.fuses := by
  unfold State.purge
  dsimp only
  split
  · rw [State.ends_fuses, State.setTenancy_fuses, foldl_keeps State.fuses State.dropRec_fuses]
  · rw [State.progress_fuses, foldl_keeps State.fuses State.dropRec_fuses]

@[simp] theorem State.loadEngine_fuses (img : List Byte) (pwe : Bool) (s : State) (n : Fin 128) :
    (State.loadEngine img pwe s n).fuses = s.fuses := by
  have hdrained : ((s.core (.eng n)).sbuf.foldl (fun s e => s.drainEnt n.val e) s).fuses = s.fuses :=
    foldl_keeps State.fuses (fun s e => s.drainEnt_fuses n.val e) _ _
  refine (State.clearRing_fuses _ n).trans ((State.setCore_fuses _ _ _).trans ((State.wrN_fuses _ _ _).trans ?_))
  exact hdrained

@[simp] theorem State.loadStreet_fuses (img : List Byte) (pwe : Bool) (s : State) (g : Nat) :
    (State.loadStreet img pwe s g).fuses = s.fuses := by
  unfold State.loadStreet
  dsimp only
  rw [State.setStreet_fuses, foldl_keeps State.fuses (State.loadEngine_fuses img pwe)]

@[simp] theorem State.portFails_fuses (s : State) (p : Nat) (fail : Byte) : (s.portFails p fail).fuses = s.fuses := by
  unfold State.portFails
  split <;> simp

@[simp] theorem State.calibrated_fuses (live : Bool) (s : State) (p : Nat) :
    (State.calibrated live s p).fuses = s.fuses := rfl

@[simp] theorem State.streetTested_fuses (s : State) (g : Nat) (k : TestFacts) : (s.streetTested g k).fuses = s.fuses := by
  unfold State.streetTested
  dsimp only
  (repeat' split) <;> simp

@[simp] theorem State.testStreet_fuses (s : State) (c : Cmd) (g : Nat) (k : TestFacts) :
    (s.testStreet c g k).fuses = s.fuses := by
  unfold State.testStreet
  split <;> simp

@[simp] theorem State.testSquare_fuses (s : State) (c : Cmd) (q i : Nat) (k : TestFacts) :
    (s.testSquare c q i k).fuses = s.fuses := by
  unfold State.testSquare
  dsimp only
  (repeat' split) <;> simp

@[simp] theorem State.portErased_fuses (s : State) (p : Nat) : (s.portErased p).fuses = s.fuses := rfl

@[simp] theorem State.testPort_fuses (s : State) (c : Cmd) (p : Nat) (k : TestFacts) :
    (s.testPort c p k).fuses = s.fuses := by
  unfold State.testPort
  (repeat' split) <;> simp

/-! ### Host links -/

@[simp] theorem State.fwctl_fuses (s : State) (f : FnId) (op : BitVec 2) : (s.fwctl f op).fuses = s.fuses := by
  unfold State.fwctl
  (repeat' split) <;> rfl

@[simp] theorem State.flashEnds_fuses (s : State) (x : FlashOp) (fails : Bool) : (s.flashEnds x fails).fuses = s.fuses := by
  unfold State.flashEnds
  generalize 4096 = n
  dsimp only
  split <;> rfl

@[simp] theorem State.bar2Write_fuses (s : State) (f : FnId) (off : Nat) (wide : Bool) (v : W64) :
    (s.bar2Write f off wide v).fuses = s.fuses := by
  unfold State.bar2Write
  dsimp only
  (repeat' split) <;> simp

@[simp] theorem State.bar4Write_fuses (s : State) (f : FnId) (off : Nat) (wide : Bool) (v : W64) :
    (s.bar4Write f off wide v).fuses = s.fuses := by
  unfold State.bar4Write
  dsimp only
  (repeat' split) <;> simp

/-! ### Cores beside their instructions -/

@[simp] theorem Work.inval_fuses (w : Work) (i : Inval) : (w.inval i).s.fuses = w.s.fuses := by
  simp [Work.inval]

@[simp] theorem Work.invalidate_fuses (w : Work) (key : Bool) (scope : BitVec 5) (addr : W64) (ten : BitVec 4) :
    (w.invalidate key scope addr ten).s.fuses = w.s.fuses := by
  unfold Work.invalidate
  dsimp only
  (repeat' split) <;> simp

@[simp] theorem State.syncEnd_fuses (s : State) (c : CoreId) : (s.syncEnd c).fuses = s.fuses := by
  unfold State.syncEnd
  dsimp only
  split <;> rfl

@[simp] theorem State.portStep_fuses (s : State) (c : CoreId) (g : Grant) : (s.portStep c g).fuses = s.fuses := by
  unfold State.portStep
  dsimp only
  (repeat' split) <;> simp

theorem State.drainBad_fuses {s t : State} {c : CoreId} {k j : Core} {e : StoreEnt} {x : HwErr}
    (h : s.drainBad c k e x = some (t, j)) : t.fuses = s.fuses := by
  cases x <;> cases h
  · rfl
  · exact State.report_fuses _ _

@[simp] theorem Work.farDone_fuses (w : Work) (wt : FarWait) : (w.farDone wt).s.fuses = w.s.fuses := by
  simp [Work.farDone]

@[simp] theorem State.farEnd_fuses (s : State) (c : CoreId) (k : Core) (wt : FarWait) :
    (s.farEnd c k wt).fuses = s.fuses := by
  unfold State.farEnd
  (repeat' split) <;> simp

@[simp] theorem State.farFail_fuses (s : State) (c : CoreId) (k : Core) (wt : FarWait) (x : Xfer) (cyc : Nat) (r : Resp) :
    (s.farFail c k wt x cyc r).fuses = s.fuses := by
  unfold State.farFail
  (repeat' split) <;> simp

@[simp] theorem State.farResponse_fuses (s : State) (c : CoreId) (cyc : Nat) (r : Resp) :
    (s.farResponse c cyc r).fuses = s.fuses := by
  unfold State.farResponse
  dsimp only
  (repeat' split) <;> simp

@[simp] theorem Work.holdOver_fuses (w : Work) : (w.holdOver).s.fuses = w.s.fuses := rfl

@[simp] theorem Work.fallTo_fuses (w : Work) (t : BitVec 6) (h : Nat) : (w.fallTo t h).s.fuses = w.s.fuses := by
  unfold Work.fallTo
  dsimp only
  split
  · next hsw =>
    have hkept := Work.switchTo_fuses hsw
    exact hkept
  · rfl

@[simp] theorem Work.postedEnd_fuses (w : Work) : (w.postedEnd).s.fuses = w.s.fuses := by
  unfold Work.postedEnd
  (repeat' split) <;> simp

@[simp] theorem State.postedAck_fuses (s : State) (c : CoreId) (r : Resp) : (s.postedAck c r).fuses = s.fuses := by
  unfold State.postedAck
  dsimp only
  (repeat' split) <;> simp

@[simp] theorem State.eventTo_fuses (s : State) (c : CoreId) (src : Nat) : (s.eventTo c src).fuses = s.fuses := by
  unfold State.eventTo
  split
  · rfl
  · next s1 h =>
    obtain ⟨_, h⟩ | ⟨_, h⟩ := ite_eq_iff.1 h
    · cases h
    · rw [State.setCore_fuses]
      exact State.arrive_fuses h

@[simp] theorem State.drained_fuses (s : State) (c : CoreId) : (s.drained c).fuses = s.fuses := by
  simp [State.drained]

/-! ### Memory ports -/

@[simp] theorem State.setPg_fuses (s : State) (u : PgUnit) (g : Patgen) : (s.setPg u g).fuses = s.fuses := by
  unfold State.setPg
  split <;> rfl

/-! ### Resets and start-up -/

@[simp] theorem State.flashBroken_fuses (s : State) : (s.flashBroken).fuses = s.fuses := by
  unfold State.flashBroken
  (repeat' split) <;> rfl

@[simp] theorem State.deviceReset_fuses (s : State) : (s.deviceReset).fuses = s.fuses := rfl

@[simp] theorem State.powerOnReset_fuses (s : State) : (s.powerOnReset).fuses = s.fuses := rfl

@[simp] theorem State.holdBegins_fuses (s : State) : (s.holdBegins).fuses = s.fuses := by
  unfold State.holdBegins
  split <;> rfl

@[simp] theorem State.bootFails_fuses (s : State) (code : Byte) : (s.bootFails code).fuses = s.fuses := rfl

@[simp] theorem State.configured_fuses (s : State) : (s.configured).fuses = s.fuses := rfl

@[simp] theorem State.copyErrors_fuses (s : State) : (s.copyErrors).fuses = s.fuses :=
  foldl_keeps State.fuses (fun s a => by simp) _ _

@[simp] theorem State.tamperFound_fuses (s : State) (vbatLow : Bool) : (s.tamperFound vbatLow).fuses = s.fuses := by
  unfold State.tamperFound
  dsimp only
  (repeat' split) <;> simp

@[simp] theorem State.kerbStep_fuses (s : State) (opens : Bool) : (s.kerbStep opens).fuses = s.fuses := by
  unfold State.kerbStep
  dsimp only
  (repeat' split) <;> simp

@[simp] theorem State.trained_fuses (s : State) (l : List PortFacts) : (s.trained l).fuses = s.fuses := by
  have hports : ∀ (l : List PortFacts) (t : State), (l.foldl (fun s f =>
      let x : MemPort := (s.memPort f.port.val).train f
      let s1 : State := s.setMemPort f.port.val x
      if x.st = .faulted then s1.report (plainRec sevUnit 0x50 4 f.port.val) else s1) t).fuses = t.fuses := by
    refine foldl_keeps State.fuses (fun s f => ?_)
    dsimp only
    split
    · rw [State.report_fuses, State.setMemPort_fuses]
    · rfl
  exact hports l s

@[simp] theorem State.structures_fuses (s : State) (b : BootFacts) : (s.structures b).fuses = s.fuses := rfl

@[simp] theorem State.squareStep_fuses (b : BootFacts) (s : State) (q : Nat) : (State.squareStep b s q).fuses = s.fuses := by
  unfold State.squareStep
  dsimp only
  split
  · rw [foldl_keeps State.fuses]
    · dsimp only
      rw [State.bringUp_fuses, State.setSquare_fuses]
    · intro t i
      split
      · rfl
      · rw [State.logOpen_fuses, State.setStreet_fuses]
  · rw [State.logOpen_fuses, State.setSquare_fuses]

@[simp] theorem State.restored_fuses (s : State) (bad : List W32) : (s.restored bad).fuses = s.fuses := rfl

/-- Start-up raises the fuse floor and changes no other fuse (R440). -/
def Fuses.raised (f g : Fuses) : Prop := ∃ v : W32, g = { f with floor := v } ∧ f.floor.toNat ≤ v.toNat

theorem Fuses.raised_refl (f : Fuses) : f.raised f := ⟨f.floor, rfl, le_rfl⟩

theorem State.readyStep_fuses (s : State) (x : Image) : s.fuses.raised (s.readyStep x).fuses := by
  refine ⟨if x.raise ∧ s.fuses.floor.toNat < x.svn.toNat then x.svn else s.fuses.floor, rfl, ?_⟩
  split
  · next h => exact h.2.le
  · exact le_rfl

theorem State.startUp4_fuses (s : State) (b : BootFacts) (slotB : Bool) (x : Image) :
    s.fuses.raised (s.startUp4 b slotB x).fuses := by
  unfold State.startUp4
  dsimp only
  split
  · simpa using s.fuses.raised_refl
  · split
    · simpa using s.fuses.raised_refl
    · split
      · simpa [foldl_keeps State.fuses (State.squareStep_fuses b)] using s.fuses.raised_refl
      · refine (congrArg (Fuses.raised · _) ?_).mp (State.readyStep_fuses _ x)
        simp [foldl_keeps State.fuses (State.squareStep_fuses b)]

theorem State.startUp_fuses (s : State) (b : BootFacts) : s.fuses.raised (s.startUp b).fuses := by
  unfold State.startUp
  dsimp only
  split
  · simpa using s.fuses.raised_refl
  · split
    · simpa using s.fuses.raised_refl
    · split
      · simpa using s.fuses.raised_refl
      · refine (congrArg (Fuses.raised · _) ?_).mp (State.startUp4_fuses _ b _ _)
        simp

/-! ### Management ports -/

@[simp] theorem State.smb_fuses (s : State) (out : List Byte) (err : Byte) : (s.smb out err).fuses = s.fuses := rfl

@[simp] theorem State.smbHw_fuses (s : State) (out : List Byte) : (s.smbHw out).fuses = s.fuses := by
  unfold State.smbHw
  split <;> rfl

theorem State.smbFw_fuses (s : State) (stage : Nat) (lenOk : Bool) {f : State} (h : f.fuses = s.fuses) :
    (s.smbFw stage lenOk f).fuses = s.fuses := by
  unfold State.smbFw
  split
  · rfl
  · split
    · rfl
    · split
      · rfl
      · exact h

@[simp] theorem State.mgWrite_fuses (s : State) (u off : Nat) (v : W64) : (s.mgWrite u off v).fuses = s.fuses := by
  unfold State.mgWrite
  split <;> rfl

@[simp] theorem State.alertOff_fuses (s : State) : (s.alertOff).fuses = s.fuses := by
  unfold State.alertOff
  split <;> rfl

@[simp] theorem State.setIr_fuses (s : State) (ir : Byte) : (s.setIr ir).fuses = s.fuses := rfl

@[simp] theorem State.boundary_fuses (s : State) (ir : Byte) : (s.boundary ir).fuses = s.fuses := by
  simp [State.boundary]

theorem State.pgacc_fuses (s : State) (u : Byte) (off : BitVec 24) (op : BitVec 2) {f : State} (data : W64)
    (h : f.fuses = s.fuses) : (s.pgacc u off op f data).fuses = s.fuses := by
  unfold State.pgacc
  dsimp only
  split
  · rfl
  · dsimp only
    rw [apply_ite State.fuses, h, ite_self]

/-! ### Flits, pages and pins -/

@[simp] theorem State.respondTo_fuses (s : State) (c : CoreId) (poison : Bool) : (s.respondTo c poison).fuses = s.fuses := by
  unfold State.respondTo
  dsimp only
  split <;> simp

@[simp] theorem State.flitLost_fuses (s : State) (act : FlitAct) : (s.flitLost act).fuses = s.fuses := by
  cases act with
  | none => rfl
  | response c => rfl
  | event c src =>
    change ((s.arrive (coreIx c) src.val true).getD s).fuses = s.fuses
    rcases h : s.arrive (coreIx c) src.val true with _ | t
    · rfl
    · exact State.arrive_fuses h

@[simp] theorem State.devnoWrite_fuses (s : State) (f : FnId) (v : W32) : (s.devnoWrite f v).fuses = s.fuses := by
  unfold State.devnoWrite
  (repeat' split) <;> rfl

@[simp] theorem State.qctlWrite_fuses (s : State) (f : FnId) (v : W32) : (s.qctlWrite f v).fuses = s.fuses := by
  unfold State.qctlWrite
  (repeat' split) <;> simp

@[simp] theorem State.pageWord_fuses (s : State) (f : FnId) (off : Nat) (v : W32) :
    (s.pageWord f off v).fuses = s.fuses := by
  unfold State.pageWord
  dsimp only
  (repeat' split) <;> simp

@[simp] theorem State.pageStore_fuses (s : State) (f : FnId) (off : Nat) (wide : Bool) (v : W64) :
    (s.pageStore f off wide v).fuses = s.fuses := by
  unfold State.pageStore
  (repeat' split) <;> simp

@[simp] theorem State.routeWrite_fuses (s : State) (c : CoreId) (i src : Nat) (v : Bool) (task : BitVec 6) :
    (s.routeWrite c i src v task).fuses = s.fuses := by
  unfold State.routeWrite
  split <;> rfl

@[simp] theorem State.physWrite_fuses (s : State) (pa : Nat) (v : W64) : (s.physWrite pa v).fuses = s.fuses := by
  unfold State.physWrite
  dsimp only
  split <;> simp

@[simp] theorem State.tamperOn_fuses (s : State) (src : Nat) : (s.tamperOn src).fuses = s.fuses := by
  unfold State.tamperOn
  (repeat' split) <;> simp

@[simp] theorem State.junction_fuses (s : State) (i : Fin 23) (t : BitVec 16) : (s.junction i t).fuses = s.fuses := by
  unfold State.junction
  split <;> rfl

/-! ### Bodies of instructions -/

theorem State.run_fuses {s t : State} {a : Issue} {mk : State → Core → Insn}
    (hbody : ∀ t k w ls bs, ((mk t k).body w ls bs).w.s.fuses = w.s.fuses) (h : s.run a mk = .next t) :
    t.fuses = s.fuses := by
  cases h
  exact State.issue_fuses hbody

theorem decBody_fuses (pre : Work → List (List Byte) → Option Eff) (v : Work → List (List Byte) → Int)
    (f : Work → List (List Loc) → List (List Byte) → Eff) (w : Work) (ls : List (List Loc)) (bs : List (List Byte)) :
    (decBody pre v f w ls bs).w.s.fuses = w.s.fuses := by
  unfold decBody
  split <;> rfl

theorem mtsWaits_fuses (a : Issue) (sel : Byte) (k : Core) (w : Work) (ls : List (List Loc)) (bs : List (List Byte)) :
    ((mtsWaits a sel k).body w ls bs).w.s.fuses = w.s.fuses := by
  simp only [mtsWaits, mtsInsn, bInsn, workBody, Done.of]
  (repeat' split) <;> simp

theorem switchInsn_fuses (a : Issue) (sel : Byte) (k : Core) (w : Work) (ls : List (List Loc)) (bs : List (List Byte)) :
    ((switchInsn a sel k).body w ls bs).w.s.fuses = w.s.fuses := by
  simp only [switchInsn, bInsn, workBody, Done.of]
  split
  · rfl
  · split
    · rfl
    · split
      · rfl
      · next h =>
        have hkept := Work.switchTo_fuses h
        exact hkept

theorem retxInsn_fuses (a : Issue) (k : Core) (w : Work) (ls : List (List Loc)) (bs : List (List Byte)) :
    ((retxInsn a k).body w ls bs).w.s.fuses = w.s.fuses := by
  simp only [retxInsn, aInsn, workBody, Done.of]
  split
  · rfl
  · next h => exact Work.retx_fuses h

theorem invalInsn_fuses (a : Issue) (op : Nat) (m : MOp) (key : Bool) (scopes : List Nat) (k : Core) (w : Work)
    (ls : List (List Loc)) (bs : List (List Byte)) :
    ((invalInsn a op m key scopes k).body w ls bs).w.s.fuses = w.s.fuses := by
  simp only [invalInsn, mInsn, workBody, Done.of]
  split <;> simp

theorem keyInsn_fuses (a : Issue) (op : Nat) (m : MOp) (k : Core) (write : Bool) {f : Work → Nat → Work × Eff}
    (hf : ∀ w i, (f w i).1.s.fuses = w.s.fuses) (w : Work) (ls : List (List Loc)) (bs : List (List Byte)) :
    ((keyInsn a op m k write f).body w ls bs).w.s.fuses = w.s.fuses := by
  change (match keyRegion w.c (mEa m w.k.bank).toNat with
    | some i => f w i
    | none => (w, Eff.fail (mkFault 4 0x04 (mEa m w.k.bank).toNat (w.k.key.toNat + if write then 256 else 0)))).1.s.fuses = _
  split
  · exact hf w _
  · rfl

@[simp] theorem Micro.set_w (m : Micro) (sel v : Nat) : (m.set sel v).w = m.w := by
  unfold Micro.set
  dsimp only
  (repeat' split) <;> rfl

theorem Micro.access_fuses (m : Micro) (u : UWord) (addr : Nat) (write : Bool) (err : Option HwErr) :
    (m.access u addr write err).1.w.s.fuses = m.w.s.fuses := by
  unfold Micro.access
  dsimp only
  split
  · rfl
  · split <;> simp

/-- The routine after a micro-operation. -/
def UNext.micro : UNext → Micro
  | .go m _ => m
  | .exn m _ => m
  | .poll m => m
  | .exit m => m

/-- The routine at the end of a step. -/
def UEnd.micro : UEnd → Micro
  | .exn m _ _ => m
  | .done m _ => m

theorem Micro.ldm_fuses (m : Micro) (ar : UArgs) (u : UWord) (depth y : Nat) :
    (m.ldm ar u depth y).micro.w.s.fuses = m.w.s.fuses := by
  have h := m.access_fuses u y false ar.err
  unfold Micro.ldm
  split
  · next hacc =>
    rw [hacc] at h
    exact h
  · next hacc =>
    rw [hacc] at h
    dsimp only
    split
    · exact h
    · simp only [UNext.micro, Micro.set_w, Work.load_fuses]
      exact h

theorem Micro.stm_fuses (m : Micro) (ar : UArgs) (u : UWord) (x y : Nat) :
    (m.stm ar u x y).micro.w.s.fuses = m.w.s.fuses := by
  have h := m.access_fuses u y true ar.err
  unfold Micro.stm
  split <;> next hacc =>
    rw [hacc] at h
    exact h

theorem Micro.op_fuses (m : Micro) (ar : UArgs) (a depth : Nat) (u : UWord) :
    (m.op ar a depth u).micro.w.s.fuses = m.w.s.fuses := by
  unfold Micro.op
  dsimp only
  split
  case h_18 => exact m.ldm_fuses ar u depth _
  case h_19 => exact m.stm_fuses ar u _ _
  all_goals (repeat' split) <;> simp only [UNext.micro, Micro.set_w, uopFail]

/-- A routine whose core is replaced, and its end, hold the device as it is. -/
theorem Micro.exn_fuses (m : Micro) (k : Core) (x : Exn) (depth : Nat) :
    (UEnd.exn { m with w := { m.w with k := k } } x depth).micro.w.s.fuses = m.w.s.fuses := rfl

theorem Micro.run_fuses (ar : UArgs) (n depth a : Nat) (m : Micro) :
    (Micro.run ar n depth a m).micro.w.s.fuses = m.w.s.fuses := by
  induction n generalizing depth a m with
  | zero => simp only [Micro.run, uopFail, UEnd.micro]
  | succ n ih =>
    unfold Micro.run
    split
    · exact m.exn_fuses _ _ depth
    · have hop := m.op_fuses ar a depth (uword (m.w.s.ctlWord a))
      split
      · next h =>
        rw [h] at hop
        exact (ih _ _ _).trans hop
      all_goals next h =>
        rw [h] at hop
        exact hop

theorem arcadeBody_fuses (ar : UArgs) (w : Work) : (arcadeBody ar w).w.s.fuses = w.s.fuses := by
  have hrun := Micro.run_fuses ar 64 0 (entEntry ar.e)
  unfold arcadeBody
  dsimp only
  split <;> next h =>
    have hm := congrArg (fun e : UEnd => e.micro.w.s.fuses) h
    exact hm.symm.trans (hrun _)

/-! ### Commands that are not instructions -/

/-- Whatever state an effect leads to, the fuses are those of `s`. -/
def keepsFuses (s : State) (r : Res) : Prop := ∀ t, r = .next t → t.fuses = s.fuses

@[simp] theorem keepsFuses_next_iff {s t : State} : keepsFuses s (.next t) ↔ t.fuses = s.fuses := by
  constructor
  · intro h
    exact h t rfl
  · intro h u hu
    cases hu
    exact h

theorem keepsFuses_next {s t : State} (h : t.fuses = s.fuses) : keepsFuses s (.next t) := keepsFuses_next_iff.2 h

theorem execInstructionFetch_keepsFuses (c : CoreId) (s : State) : keepsFuses s (execInstructionFetch c s) := by
  simp [execInstructionFetch]

theorem execStoreBufferDrain_keepsFuses (x : DrainFacts) (s : State) : keepsFuses s (execStoreBufferDrain x s) := by
  unfold execStoreBufferDrain
  dsimp only
  split
  · split
    · next h =>
      obtain ⟨-, h⟩ | ⟨-, h⟩ := ite_eq_iff.1 h
      · simpa using State.drainBad_fuses h
      · cases h
    · simp
  · simp

theorem execResultWrite_keepsFuses (c : CoreId) (s : State) : keepsFuses s (execResultWrite c s) := by
  unfold execResultWrite
  dsimp only
  (repeat' split) <;> simp

theorem execFarLoadResponse_keepsFuses (c : CoreId) (w : Nat) (r : Resp) (s : State) :
    keepsFuses s (execFarLoadResponse c w r s) := by
  simp [execFarLoadResponse]

theorem execPostedStoreAck_keepsFuses (c : CoreId) (r : Resp) (s : State) : keepsFuses s (execPostedStoreAck c r s) := by
  simp [execPostedStoreAck]

theorem execExceptionEntry_keepsFuses (c : CoreId) (err : Option HwErr) (s : State) :
    keepsFuses s (execExceptionEntry c err s) := by
  unfold execExceptionEntry
  split <;> simp

theorem execFallbackSwitch_keepsFuses (c : CoreId) (s : State) : keepsFuses s (execFallbackSwitch c s) := by
  unfold execFallbackSwitch
  dsimp only
  (repeat' split) <;> simp

theorem execTpreFillBlock_keepsFuses (c : CoreId) (s : State) : keepsFuses s (execTpreFillBlock c s) := by
  simp [execTpreFillBlock]

theorem execEventRecordArrival_keepsFuses (c : CoreId) (src : Fin 384) (s : State) :
    keepsFuses s (execEventRecordArrival c src s) := by
  simp [execEventRecordArrival]

theorem execTimerExpiry_keepsFuses (m : Fin 32) (s : State) : keepsFuses s (execTimerExpiry m s) := by
  unfold execTimerExpiry
  dsimp only
  split <;> simp

theorem execSigout_keepsFuses (c : CoreId) (s : State) : keepsFuses s (execSigout c s) := by
  unfold execSigout
  split <;> simp

theorem execRegisterWrite_keepsFuses (w : RegWriteOp) (s : State) : keepsFuses s (execRegisterWrite w s) := by
  cases w with
  | phys pa v => exact keepsFuses_next (s.physWrite_fuses _ _)
  | page f off wide v => exact keepsFuses_next (s.pageStore_fuses f _ wide v)
  | bar2 f off wide v => exact keepsFuses_next (s.bar2Write_fuses f _ wide v)
  | bar4 f off wide v => exact keepsFuses_next (s.bar4Write_fuses f _ wide v)
  | route c i src v task =>
    unfold execRegisterWrite
    dsimp only
    split
    · exact keepsFuses_next (s.routeWrite_fuses c _ _ v task)
    · exact keepsFuses_next rfl

theorem execLetterboxWrite_keepsFuses (h : EngineHop) (s : State) : keepsFuses s (execLetterboxWrite h s) := by
  unfold execLetterboxWrite
  dsimp only
  (repeat' split) <;> simp

theorem execLetterboxSlotRead_keepsFuses (n : Fin 128) (s : State) : keepsFuses s (execLetterboxSlotRead n s) := by
  unfold execLetterboxSlotRead
  split <;> simp

theorem execRingFlitReceive_keepsFuses (st : Fin 16) (f : Flit) (act : FlitAct) (s : State) :
    keepsFuses s (execRingFlitReceive st f act s) := by
  unfold execRingFlitReceive
  split
  · simp
  · cases act with
    | none => simp
    | response c =>
      refine (apply_ite (keepsFuses s) _ _ _).mpr ?_
      split
      · exact keepsFuses_next (s.respondTo_fuses c _)
      · exact keepsFuses_next rfl
    | event c src =>
      refine (apply_ite (keepsFuses s) _ _ _).mpr ?_
      split
      · exact keepsFuses_next (s.eventTo_fuses c _)
      · exact keepsFuses_next rfl

theorem execRequestTimeout_keepsFuses (u : UnitId) (s : State) : keepsFuses s (execRequestTimeout u s) := by
  unfold execRequestTimeout
  dsimp only
  (repeat' split) <;> simp

theorem execSquarePllLock_keepsFuses (sq : Fin 4) (s : State) : keepsFuses s (execSquarePllLock sq s) := by
  unfold execSquarePllLock
  dsimp only
  split <;> simp

theorem execPllLockTimeout_keepsFuses (sq : Fin 4) (oldLocks : Bool) (s : State) :
    keepsFuses s (execPllLockTimeout sq oldLocks s) := by
  unfold execPllLockTimeout
  dsimp only
  (repeat' split) <;> simp

theorem execInvalidationReceive_keepsFuses (u : UnitId) (from_ : CoreId) (s : State) :
    keepsFuses s (execInvalidationReceive u from_ s) := by
  unfold execInvalidationReceive
  dsimp only
  split <;> simp

theorem execInvalidationAck_keepsFuses (u : UnitId) (from_ : CoreId) (s : State) :
    keepsFuses s (execInvalidationAck u from_ s) := by
  unfold execInvalidationAck
  dsimp only
  split <;> simp

theorem execSqtail_keepsFuses (f : FnId) (q : Byte) (v : W32) (hw : List HostStore) (s : State) :
    keepsFuses s (execSqtail f q v hw s) := by
  simp [execSqtail]

theorem execCqhead_keepsFuses (f : FnId) (q : Byte) (v : W32) (hw : List HostStore) (s : State) :
    keepsFuses s (execCqhead f q v hw s) := by
  simp [execCqhead]

theorem execQctlStart_keepsFuses (x : QctlFacts) (s : State) : keepsFuses s (execQctlStart x s) := by
  simp [execQctlStart]

theorem execQctlStop_keepsFuses (f : FnId) (s : State) : keepsFuses s (execQctlStop f s) := by
  simp [execQctlStop]

theorem execSubmissionFetch_keepsFuses (f : FnId) (q : Byte) (y : FetchFacts) (s : State) :
    keepsFuses s (execSubmissionFetch f q y s) := by
  unfold execSubmissionFetch
  dsimp only
  (repeat' split) <;> simp

theorem execCqintTimeExpiry_keepsFuses (f : FnId) (q : Byte) (s : State) : keepsFuses s (execCqintTimeExpiry f q s) := by
  unfold execCqintTimeExpiry
  split
  · exact keepsFuses_next rfl
  · split
    · exact keepsFuses_next ((State.msixOf_fuses _ _ _).trans (s.setQp_fuses _ _ _))
    · exact keepsFuses_next rfl

theorem execHostWriteFailure_keepsFuses (f : FnId) (q : Byte) (s : State) : keepsFuses s (execHostWriteFailure f q s) := by
  unfold execHostWriteFailure
  split <;> simp

theorem execFunctionLevelReset_keepsFuses (f : FnId) (s : State) : keepsFuses s (execFunctionLevelReset f s) := by
  simp [execFunctionLevelReset]

theorem execIdentify_keepsFuses (r : CmdRef) (s : State) : keepsFuses s (execIdentify r s) := by
  refine keepsFuses_next (State.onCmd_fuses fun c t => ?_)
  split <;> simp

theorem execTenancyBind_keepsFuses (r : CmdRef) (s : State) : keepsFuses s (execTenancyBind r s) := by
  refine keepsFuses_next (State.onCmd_fuses fun c t => ?_)
  dsimp only
  (repeat' split) <;> simp

theorem execTenancyUnbind_keepsFuses (r : CmdRef) (s : State) : keepsFuses s (execTenancyUnbind r s) := by
  refine keepsFuses_next (State.onCmd_fuses fun c t => ?_)
  dsimp only
  (repeat' split) <;> simp

theorem execQpCreate_keepsFuses (r : CmdRef) (s : State) : keepsFuses s (execQpCreate r s) := by
  refine keepsFuses_next (State.onCmd_fuses fun c t => ?_)
  dsimp only
  (repeat' split) <;> simp

theorem execQpDelete_keepsFuses (r : CmdRef) (s : State) : keepsFuses s (execQpDelete r s) := by
  refine keepsFuses_next (State.onCmd_fuses fun c t => ?_)
  dsimp only
  (repeat' split) <;> simp

theorem execLoadProgram_keepsFuses (r : CmdRef) (s : State) : keepsFuses s (execLoadProgram r s) := by
  refine keepsFuses_next (State.onCmd_fuses fun c t => ?_)
  dsimp only
  split
  · exact t.ends_fuses c _
  · split
    · exact t.queue_fuses c
    · split
      · exact t.ends_fuses c _
      · rw [State.ends_fuses, foldl_keeps State.fuses (State.loadStreet_fuses _ _)]

theorem execStageArcade_keepsFuses (r : CmdRef) (s : State) : keepsFuses s (execStageArcade r s) := by
  refine keepsFuses_next (State.onCmd_fuses fun c t => ?_)
  dsimp only
  (repeat' split) <;> simp

theorem execInstallArcade_keepsFuses (r : CmdRef) (s : State) : keepsFuses s (execInstallArcade r s) := by
  refine keepsFuses_next (State.onCmd_fuses fun c t => ?_)
  dsimp only
  (repeat' split) <;> simp

theorem execLoadExtension_keepsFuses (r : CmdRef) (chashOk : Bool) (sigOk : Bool) (s : State) :
    keepsFuses s (execLoadExtension r chashOk sigOk s) := by
  refine keepsFuses_next (State.onCmd_fuses fun c t => ?_)
  dsimp only
  (repeat' split) <;> simp

theorem execExtensionOpcode_keepsFuses (r : CmdRef) (ans : ExtAnswer) (s : State) :
    keepsFuses s (execExtensionOpcode r ans s) := by
  refine keepsFuses_next (State.onCmdIf_fuses fun c t => ?_)
  split
  · exact t.ends_fuses c _
  · split
    · exact t.ends_fuses c _
    · rfl

theorem execUnknownOpcode_keepsFuses (f : FnId) (q : Byte) (s : State) : keepsFuses s (execUnknownOpcode f q s) := by
  unfold execUnknownOpcode
  split <;> simp

theorem execDefineRecord_keepsFuses (r : CmdRef) (p : Place) (s : State) : keepsFuses s (execDefineRecord r p s) := by
  refine keepsFuses_next (State.onCmd_fuses fun c t => t.onRecord_fuses c fun t => ?_)
  dsimp only
  (repeat' split) <;> simp

theorem execRemoveRecord_keepsFuses (r : CmdRef) (s : State) : keepsFuses s (execRemoveRecord r s) := by
  refine keepsFuses_next (State.onCmd_fuses fun c t => t.onRecord_fuses c fun t => ?_)
  split
  · exact t.removeGo_fuses c
  · exact t.removeStart_fuses c
  · split
    · exact t.ends_fuses c _
    · exact t.removeStart_fuses c

theorem execSetHints_keepsFuses (r : CmdRef) (s : State) : keepsFuses s (execSetHints r s) := by
  refine keepsFuses_next (State.onCmd_fuses fun c t => t.onRecord_fuses c fun t => ?_)
  dsimp only
  (repeat' split) <;> simp

theorem execClearFlags_keepsFuses (r : CmdRef) (s : State) : keepsFuses s (execClearFlags r s) := by
  refine keepsFuses_next (State.onCmd_fuses fun c t => t.onRecord_fuses c fun t => ?_)
  dsimp only
  (repeat' split) <;> simp

theorem execPostBatch_keepsFuses (r : CmdRef) (hw : List HostStore) (s : State) :
    keepsFuses s (execPostBatch r hw s) := by
  refine keepsFuses_next ((State.onCmd_fuses fun c t => ?_).trans (s.hostStores_fuses hw))
  split
  · exact t.segment_fuses c _ _ _ _ _
  · split
    · exact t.batchStart_fuses c
    · rfl
  · rfl

theorem execQueryRecord_keepsFuses (r : CmdRef) (s : State) : keepsFuses s (execQueryRecord r s) := by
  refine keepsFuses_next (State.onCmd_fuses fun c t => t.onRecord_fuses c fun t => ?_)
  dsimp only
  (repeat' split) <;> simp

theorem execReadJournal_keepsFuses (r : CmdRef) (s : State) : keepsFuses s (execReadJournal r s) := by
  refine keepsFuses_next (State.onCmd_fuses fun c t => ?_)
  dsimp only
  (repeat' split) <;> simp

theorem execStopFn_keepsFuses (r : CmdRef) (s : State) : keepsFuses s (execStopFn r s) := by
  refine keepsFuses_next (State.onCmd_fuses fun c t => ?_)
  dsimp only
  (repeat' split) <;> simp

theorem execSetConfig_keepsFuses (r : CmdRef) (s : State) : keepsFuses s (execSetConfig r s) := by
  refine keepsFuses_next (State.onCmd_fuses fun c t => ?_)
  dsimp only
  (repeat' split) <;> simp

theorem execStartFn_keepsFuses (r : CmdRef) (k : StartFacts) (s : State) : keepsFuses s (execStartFn r k s) := by
  refine keepsFuses_next (State.onCmd_fuses fun c t => ?_)
  split
  · exact t.squareLocked_fuses c _ k
  · split
    · exact t.ends_fuses c _
    · exact t.start76_fuses c k

theorem execGetConfig_keepsFuses (r : CmdRef) (s : State) : keepsFuses s (execGetConfig r s) := by
  refine keepsFuses_next (State.onCmd_fuses fun c t => ?_)
  dsimp only
  (repeat' split) <;> simp

theorem execSelftest_keepsFuses (r : CmdRef) (k : TestFacts) (s : State) : keepsFuses s (execSelftest r k s) := by
  refine keepsFuses_next (State.onCmd_fuses fun c t => ?_)
  dsimp only
  (repeat' split) <;> simp

theorem execCalibrate_keepsFuses (r : CmdRef) (k : TestFacts) (s : State) : keepsFuses s (execCalibrate r k s) := by
  refine keepsFuses_next (State.onCmd_fuses fun c t => ?_)
  dsimp only
  split
  · exact t.ends_fuses c _
  · split
    · exact t.queue_fuses c
    · split
      · exact t.ends_fuses c _
      · generalize (if c.fid.1 = 5 then [c.fid.2] else t.calPorts) = ports
        generalize (if c.fid.1 = 5 then c.fid.2 else k.port.val) = bad
        split
        · rw [State.ends_fuses, foldl_keeps State.fuses (State.calibrated_fuses false)]
        · rw [State.ends_fuses, State.portFails_fuses, foldl_keeps State.fuses (State.calibrated_fuses false)]

theorem execLinkTest_keepsFuses (r : CmdRef) (lanes : List LaneResult) (s : State) :
    keepsFuses s (execLinkTest r lanes s) := by
  refine keepsFuses_next (State.onCmd_fuses fun c t => ?_)
  dsimp only
  (repeat' split) <;> simp

theorem execReadLog_keepsFuses (r : CmdRef) (s : State) : keepsFuses s (execReadLog r s) := by
  refine keepsFuses_next (State.onCmd_fuses fun c t => ?_)
  dsimp only
  (repeat' split) <;> simp

/-- The fuses after an LC_CHANGE: as they were, or, where its package could be read, those of a permitted transition
(R448, R450). -/
def Fuses.transition (readFails : Bool) (f g : Fuses) : Prop :=
  g = f ∨ readFails = false ∧ ∃ target, 1 ≤ target ∧ target ≤ 3 ∧ lcPermits f target = true ∧
    g = { f with lc := BitVec.ofNat 2 target, lccount := if f.lccount = 31 then 31 else f.lccount + 1
                 ownerBanks := f.ownerBanks + (newOwner f.lc.toNat target).toNat }

theorem State.onCmd_transition {s : State} {r : CmdRef} {op : Nat} {f : Cmd → State → State}
    (h : ∀ (c : Cmd) (t : State), c.readFails = r.readFails → t.fuses.transition r.readFails (f c t).fuses) :
    s.fuses.transition r.readFails (s.onCmd r op f).fuses := by
  unfold State.onCmd State.onCmdIf
  split
  · exact .inl rfl
  · next c hc =>
    obtain ⟨-, hreads, -⟩ := State.cmd?_some hc
    split
    · exact .inl rfl
    · next u hu =>
      dsimp only
      split
      · exact .inl rfl
      · rw [← State.begin?_fuses hu]
        exact h c u hreads

theorem firstOf_none {l : List (Option Ans)} (h : firstOf l = none) : ∀ x ∈ l, x = none := by
  induction l with
  | nil => simp
  | cons x l ih =>
    cases x with
    | none => simpa using ih h
    | some a => cases h

theorem unless_none {b : Bool} {st d : Nat} (h : unless_ b st d = none) : b = true := by
  cases b with
  | true => rfl
  | false => cases h

theorem execLcChange_fuses {r : CmdRef} {sigOk : Bool} {s t : State} (h : execLcChange r sigOk s = .next t) :
    s.fuses.transition r.readFails t.fuses := by
  cases h
  refine State.onCmd_transition fun c u hreads => ?_
  dsimp only
  split
  · exact .inl (u.ends_fuses c _)
  · next hform =>
    have hrange := unless_none (firstOf_none hform (unless_ (decide (1 ≤ c.le 8 1) && decide (c.le 8 1 ≤ 3)) 0x100A 8) (by simp))
    simp only [Bool.and_eq_true, decide_eq_true_eq] at hrange
    obtain ⟨hlo, hhi⟩ := hrange
    split
    · exact .inl (u.queue_fuses c)
    · split
      · exact .inl (u.ends_fuses c _)
      · next hok =>
        have hallow := unless_none (firstOf_none hok (unless_ (lcPermits u.fuses (c.le 8 1)) 0x2004 0) (by simp))
        have hread := unless_none (firstOf_none hok (read77 c) (by simp))
        refine .inr ⟨by simpa [← hreads] using hread, c.le 8 1, hlo, hhi, hallow, ?_⟩
        rw [State.ends_fuses]
        rfl

theorem execLcChange_readFails {r : CmdRef} (hr : r.readFails = true) (sigOk : Bool) (s : State) :
    keepsFuses s (execLcChange r sigOk s) := by
  intro t h
  rcases execLcChange_fuses h with h | ⟨hok, -⟩
  · exact h
  · rw [hr] at hok
    cases hok

theorem execReturnEntryConsume_keepsFuses (x : EngineHop) (s : State) : keepsFuses s (execReturnEntryConsume x s) := by
  unfold execReturnEntryConsume
  dsimp only
  (repeat' split) <;> simp

theorem movesAll_fuses {all l : List (RecKey × Place)} {s t : State}
    (h : l.foldl (fun (t : Option State) x => t.bind (fun t => t.moveTo all x)) (some s) = some t) : t.fuses = s.fuses := by
  induction l generalizing s with
  | nil =>
    cases h
    rfl
  | cons x l ih =>
    rw [List.foldl_cons, Option.bind_some] at h
    rcases hx : s.moveTo all x with _ | u
    · rw [hx] at h
      have hnone : ∀ l : List (RecKey × Place),
          l.foldl (fun (t : Option State) x => t.bind (fun t => t.moveTo all x)) none = none := by
        intro l
        induction l with
        | nil => rfl
        | cons y l ih => exact ih
      rw [hnone] at h
      cases h
    · rw [hx] at h
      exact (ih h).trans (State.moveTo_fuses hx)

theorem execRecordMove_keepsFuses (k : RecKey) (m : MovePlaces) (s : State) : keepsFuses s (execRecordMove k m s) := by
  unfold execRecordMove
  dsimp only
  split
  · exact keepsFuses_next rfl
  · split
    · next h => exact keepsFuses_next (movesAll_fuses h)
    · exact keepsFuses_next rfl

theorem execMoveCopyComplete_keepsFuses (k : RecKey) (x : CopyFacts) (s : State) :
    keepsFuses s (execMoveCopyComplete k x s) := by
  unfold execMoveCopyComplete
  dsimp only
  (repeat' split) <;> simp

theorem execReleaseLimitExpiry_keepsFuses (k : RecKey) (homes : List (RecKey × Place)) (s : State) :
    keepsFuses s (execReleaseLimitExpiry k homes s) := by
  unfold execReleaseLimitExpiry
  split
  · split
    · exact keepsFuses_next rfl
    · exact keepsFuses_next ((State.withdraw_fuses _ _ _).trans (s.report_fuses _))
  · exact keepsFuses_next rfl

theorem execHeatEpochExpiry_keepsFuses (s : State) : keepsFuses s (execHeatEpochExpiry s) := by
  simp [execHeatEpochExpiry]

theorem execDirectorySweep_keepsFuses (s : State) : keepsFuses s (execDirectorySweep s) := by
  unfold execDirectorySweep
  dsimp only
  split
  · exact keepsFuses_next rfl
  · refine keepsFuses_next ?_
    rw [foldl_keeps State.fuses (fun s b => s.badBucket_fuses _)]

theorem execStreetEvacuation_keepsFuses (g : Fin 16) (ph : EvacPhase) (s : State) :
    keepsFuses s (execStreetEvacuation g ph s) := by
  unfold execStreetEvacuation
  dsimp only
  (repeat' split) <;> simp

theorem execSwst_keepsFuses (k : Fin 128) (s : State) : keepsFuses s (execSwst k s) := by
  simp [execSwst]

theorem execResume_keepsFuses (k : Fin 128) (s : State) : keepsFuses s (execResume k s) := by
  simp [execResume]

theorem execDis_keepsFuses (k : Fin 128) (s : State) : keepsFuses s (execDis k s) := by
  simp [execDis]

theorem execTramTrigger_keepsFuses (k : Fin 128) (src : Fin 384) (s : State) : keepsFuses s (execTramTrigger k src s) := by
  unfold execTramTrigger
  dsimp only
  split
  · exact keepsFuses_next rfl
  · next h => exact keepsFuses_next ((State.setChannel_fuses _ _ _).trans (State.arrive_fuses h))

theorem execPartnerStart_keepsFuses (k : Fin 128) (s : State) : keepsFuses s (execPartnerStart k s) := by
  unfold execPartnerStart
  dsimp only
  split
  · exact keepsFuses_next rfl
  · next h => exact keepsFuses_next ((State.setChannel_fuses _ _ _).trans (State.arrive_fuses h))

theorem execPacingRecord_keepsFuses (k : Fin 128) (src : Fin 384) (s : State) : keepsFuses s (execPacingRecord k src s) := by
  unfold execPacingRecord
  dsimp only
  split
  · exact keepsFuses_next rfl
  · next h => exact keepsFuses_next ((State.setChannel_fuses _ _ _).trans (State.arrive_fuses h))

theorem execPacedBurstStart_keepsFuses (k : Fin 128) (s : State) : keepsFuses s (execPacedBurstStart k s) := by
  simp [execPacedBurstStart]

theorem execTramRead_keepsFuses (k : Fin 128) (err : Option HwErr) (s : State) : keepsFuses s (execTramRead k err s) := by
  simp [execTramRead]

theorem execTramWrite_keepsFuses (k : Fin 128) (err : Option HwErr) (s : State) : keepsFuses s (execTramWrite k err s) := by
  simp [execTramWrite]

theorem execDescriptorFetch_keepsFuses (k : Fin 128) (err : Option HwErr) (s : State) :
    keepsFuses s (execDescriptorFetch k err s) := by
  simp [execDescriptorFetch]

theorem execDescriptorComplete_keepsFuses (k : Fin 128) (err : Option HwErr) (s : State) :
    keepsFuses s (execDescriptorComplete k err s) := by
  simp [execDescriptorComplete]

theorem execTramMissService_keepsFuses (k : Fin 128) (walkErr : Bool) (s : State) :
    keepsFuses s (execTramMissService k walkErr s) := by
  simp [execTramMissService]

theorem execErrorLogWrite_keepsFuses (b : BankId) (i : Fin 16) (f : LogFacts) (homes : List (RecKey × Place)) (s : State) :
    keepsFuses s (execErrorLogWrite b i f homes s) := by
  unfold execErrorLogWrite
  dsimp only
  (repeat' split) <;> simp

theorem execCorrectedCoalesceExpiry_keepsFuses (s : State) : keepsFuses s (execCorrectedCoalesceExpiry s) := by
  have hlogged : ∀ (l : List Coalesce) (t : State), (l.foldl (fun s c =>
      { s with free := s.free + 1 }.logEntry 0 (Config.mgmtTime s.free) 0 0xFF (recWords c.r false (min c.count 0xFFFF)))
        t).fuses = t.fuses := foldl_keeps State.fuses (fun s c => State.logEntry_fuses _ _ _ _ _ _)
  exact keepsFuses_next (hlogged s.coalesce s)

theorem execTemperatureRead_keepsFuses (p : Fin 8) (t0 : Byte) (t1 : Byte) (s : State) :
    keepsFuses s (execTemperatureRead p t0 t1 s) := by
  unfold execTemperatureRead
  dsimp only
  (repeat' split) <;> simp

theorem execCalPeriodExpiry_keepsFuses (p : Fin 8) (u : Fin 2) (s : State) : keepsFuses s (execCalPeriodExpiry p u s) := by
  unfold execCalPeriodExpiry
  dsimp only
  split <;> simp

theorem execCalibrationPhase_keepsFuses (p : Fin 8) (u : Fin 2) (ok : Bool) (s : State) :
    keepsFuses s (execCalibrationPhase p u ok s) := by
  unfold execCalibrationPhase
  dsimp only
  (repeat' split) <;> simp

theorem execPatrolScrub_keepsFuses (p : Fin 8) (err : Option HwErr) (lane : Fin 128) (s : State) :
    keepsFuses s (execPatrolScrub p err lane s) := by
  unfold execPatrolScrub
  dsimp only
  (repeat' split) <;> simp

theorem execRefresh_keepsFuses (p : Fin 8) (s : State) : keepsFuses s (execRefresh p s) := by
  unfold execRefresh
  dsimp only
  split <;> simp

theorem execPgctlRun_keepsFuses (u : PgUnit) (on : Bool) (s : State) : keepsFuses s (execPgctlRun u on s) := by
  unfold execPgctlRun
  split <;> simp

theorem execPgctlClr_keepsFuses (u : PgUnit) (s : State) : keepsFuses s (execPgctlClr u s) := by
  simp [execPgctlClr]

theorem execPerst_keepsFuses (h : Fin 2) (level : Bool) (s : State) : keepsFuses s (execPerst h level s) := by
  unfold execPerst
  dsimp only
  (repeat' split) <;> simp

theorem execLinkDown_keepsFuses (h : Fin 2) (s : State) : keepsFuses s (execLinkDown h s) := by
  unfold execLinkDown
  split <;> simp

theorem execLinkRetrainTimeout_keepsFuses (h : Fin 2) (s : State) : keepsFuses s (execLinkRetrainTimeout h s) := by
  unfold execLinkRetrainTimeout
  dsimp only
  split <;> simp

theorem execD3hotEntry_keepsFuses (f : FnId) (s : State) : keepsFuses s (execD3hotEntry f s) := by
  unfold execD3hotEntry
  split <;> simp

theorem execD0Return_keepsFuses (f : FnId) (s : State) : keepsFuses s (execD0Return f s) := by
  unfold execD0Return
  dsimp only
  split <;> simp

theorem execFwctlRead_keepsFuses (f : FnId) (s : State) : keepsFuses s (execFwctlRead f s) := by
  simp [execFwctlRead]

theorem execFwctlErase_keepsFuses (f : FnId) (s : State) : keepsFuses s (execFwctlErase f s) := by
  simp [execFwctlErase]

theorem execFwctlProgram_keepsFuses (f : FnId) (s : State) : keepsFuses s (execFwctlProgram f s) := by
  simp [execFwctlProgram]

theorem execFlashOperationComplete_keepsFuses (fails : Bool) (s : State) :
    keepsFuses s (execFlashOperationComplete fails s) := by
  unfold execFlashOperationComplete
  split <;> simp

theorem execGetStatus_keepsFuses (s : State) : keepsFuses s (execGetStatus s) := by
  simp [execGetStatus]

theorem execGetIdent_keepsFuses (s : State) : keepsFuses s (execGetIdent s) := by
  simp [execGetIdent]

theorem execReadReg_keepsFuses (n : Nat) (u : Byte) (off : BitVec 24) (s : State) :
    keepsFuses s (execReadReg n u off s) := by
  refine keepsFuses_next (s.smbFw_fuses _ _ ?_)
  split <;> rfl

theorem execWriteReg_keepsFuses (n : Nat) (u : Byte) (off : BitVec 24) (v : W64) (s : State) :
    keepsFuses s (execWriteReg n u off v s) := by
  refine keepsFuses_next (s.smbFw_fuses _ _ ?_)
  split
  · exact s.mgWrite_fuses _ _ v
  · rfl

theorem execSmbReadLog_keepsFuses (n : Nat) (x : SmbLog) (s : State) : keepsFuses s (execSmbReadLog n x s) :=
  keepsFuses_next (s.smbFw_fuses _ _ (s.smb_fuses _ _))

theorem execDeviceReset_keepsFuses (v : Byte) (s : State) : keepsFuses s (execDeviceReset v s) := by
  unfold execDeviceReset
  split <;> simp

theorem execClearAlert_keepsFuses (s : State) : keepsFuses s (execClearAlert s) := by
  simp [execClearAlert]

theorem execAlertResponseAddress_keepsFuses (s : State) : keepsFuses s (execAlertResponseAddress s) := by
  simp [execAlertResponseAddress]

theorem execAlertReassert_keepsFuses (s : State) : keepsFuses s (execAlertReassert s) := by
  unfold execAlertReassert
  split <;> simp

theorem execExtest_keepsFuses (s : State) : keepsFuses s (execExtest s) := by
  simp [execExtest]

theorem execSamplePreload_keepsFuses (s : State) : keepsFuses s (execSamplePreload s) := by
  simp [execSamplePreload]

theorem execIdcode_keepsFuses (s : State) : keepsFuses s (execIdcode s) := by
  simp [execIdcode]

theorem execClamp_keepsFuses (s : State) : keepsFuses s (execClamp s) := by
  simp [execClamp]

theorem execHighz_keepsFuses (s : State) : keepsFuses s (execHighz s) := by
  simp [execHighz]

theorem execExtestPulse_keepsFuses (s : State) : keepsFuses s (execExtestPulse s) := by
  simp [execExtestPulse]

theorem execExtestTrain_keepsFuses (s : State) : keepsFuses s (execExtestTrain s) := by
  simp [execExtestTrain]

theorem execBypass_keepsFuses (code : Byte) (s : State) : keepsFuses s (execBypass code s) := by
  simp [execBypass]

theorem execPgaccRead_keepsFuses (u : Byte) (off : BitVec 24) (s : State) : keepsFuses s (execPgaccRead u off s) :=
  keepsFuses_next (s.pgacc_fuses u off 1 _ rfl)

theorem execPgaccWrite_keepsFuses (u : Byte) (off : BitVec 24) (v : W64) (s : State) :
    keepsFuses s (execPgaccWrite u off v s) :=
  keepsFuses_next (s.pgacc_fuses u off 2 v (s.mgWrite_fuses _ _ v))

theorem execTrstN_keepsFuses (s : State) : keepsFuses s (execTrstN s) := by
  simp [execTrstN]

theorem execPwrgoodRise_keepsFuses (strap : BitVec 2) (s : State) : keepsFuses s (execPwrgoodRise strap s) := by
  unfold execPwrgoodRise
  split <;> simp

theorem execPwrgoodFall_keepsFuses (s : State) : keepsFuses s (execPwrgoodFall s) := by
  unfold execPwrgoodFall
  split <;> simp

theorem execResetNLow_keepsFuses (s : State) : keepsFuses s (execResetNLow s) := by
  unfold execResetNLow
  split <;> simp

theorem execResetRelease_fuses {b : BootFacts} {s t : State} (h : execResetRelease b s = .next t) :
    s.fuses.raised t.fuses := by
  unfold execResetRelease at h
  dsimp only at h
  split at h <;> cases h
  · exact s.fuses.raised_refl
  · exact State.startUp_fuses _ b

theorem execTestmode_keepsFuses (level : Bool) (s : State) : keepsFuses s (execTestmode level s) := by
  unfold execTestmode
  split <;> simp

theorem execTamperDetect_keepsFuses (src : Fin 6) (s : State) : keepsFuses s (execTamperDetect src s) := by
  unfold execTamperDetect
  dsimp only
  (repeat' split) <;> simp

theorem execKctlWipe_keepsFuses (s : State) : keepsFuses s (execKctlWipe s) := by
  unfold execKctlWipe
  split <;> simp

theorem execKctlSeal_keepsFuses (s : State) : keepsFuses s (execKctlSeal s) := by
  unfold execKctlSeal
  split <;> simp

theorem execKctlLock_keepsFuses (s : State) : keepsFuses s (execKctlLock s) := by
  unfold execKctlLock
  split <;> simp

theorem execThermtrip_keepsFuses (x : SensorReading) (s : State) : keepsFuses s (execThermtrip x s) := by
  unfold execThermtrip
  dsimp only
  (repeat' split) <;> simp

theorem execLinkUp_keepsFuses (h : Fin 2) (k : LinkFacts) (s : State) : keepsFuses s (execLinkUp h k s) := by
  unfold execLinkUp
  dsimp only
  split <;> simp

theorem execPllLockLoss_keepsFuses (sq : Fin 4) (s : State) : keepsFuses s (execPllLockLoss sq s) := by
  unfold execPllLockLoss
  dsimp only
  split <;> simp

theorem execJunctionTemperatureAlert_keepsFuses (x : SensorReading) (s : State) :
    keepsFuses s (execJunctionTemperatureAlert x s) := by
  unfold execJunctionTemperatureAlert
  split <;> simp

theorem execConfigurationRequest_keepsFuses (q : CfgRead) (s : State) : keepsFuses s (execConfigurationRequest q s) := by
  unfold execConfigurationRequest
  dsimp only
  (repeat' split) <;> simp

theorem execUnsupportedRequest_keepsFuses (h : Fin 2) (s : State) : keepsFuses s (execUnsupportedRequest h s) := by
  unfold execUnsupportedRequest
  split <;> simp

theorem execHostReadTimeout_keepsFuses (r : CmdRef) (s : State) : keepsFuses s (execHostReadTimeout r s) := by
  unfold execHostReadTimeout
  dsimp only
  split
  · exact keepsFuses_next rfl
  · split
    · split
      · exact keepsFuses_next rfl
      · exact execSetConfig_keepsFuses _ s
    · split
      · exact execLoadProgram_keepsFuses _ s
      · split
        · exact execStageArcade_keepsFuses _ s
        · split
          · exact execLoadExtension_keepsFuses _ true true s
          · split
            · split
              · exact keepsFuses_next rfl
              · exact execDefineRecord_keepsFuses _ _ s
            · split
              · split
                · exact keepsFuses_next rfl
                · exact execClearFlags_keepsFuses _ s
              · split
                · exact execPostBatch_keepsFuses _ _ s
                · split
                  · exact execLcChange_readFails rfl true s
                  · exact keepsFuses_next rfl

theorem execPatternCheckerLock_keepsFuses (u : PgUnit) (x : PatternSeen) (s : State) :
    keepsFuses s (execPatternCheckerLock u x s) := by
  unfold execPatternCheckerLock
  dsimp only
  (repeat' split) <;> simp

theorem execDqsDriftCorrection_keepsFuses (p : Fin 8) (s : State) : keepsFuses s (execDqsDriftCorrection p s) := by
  unfold execDqsDriftCorrection
  dsimp only
  split <;> simp

/-! ### The invariant and the direction of the fuses -/

theorem run_keepsFuses {s : State} {a : Issue} {mk : State → Core → Insn}
    (hbody : ∀ t k w ls bs, ((mk t k).body w ls bs).w.s.fuses = w.s.fuses) : keepsFuses s (s.run a mk) :=
  fun _ h => State.run_fuses hbody h

/-- Every command but LC_CHANGE and the release of reset leaves the fuses as they are. -/
theorem exec_keepsFuses {c : Instr} (s : State) (hlc : ∀ r ok, c ≠ .lcChange r ok) (hboot : ∀ b, c ≠ .resetRelease b) :
    keepsFuses s (exec c s) := by
  cases c with
  | nop | wait | ret | tlbsync | clra | negq | notq | cvqd | tstd | cvxd | cvbq | cvqb | bsqrt | incx | decx | incy |
    decy | txy | tyx | lmov | lcmp | scan | lxlt | mfs | trap | svc | addix | addiy | shlq | shrq | sarq | ldiq | ldq |
    ldqs | stq | addq | adcq | subq | sbcq | cmpq | andq | orq | xorq | mul | mulu | div | divu | ldd | std | ldix |
    ldiy | stix | stiy | leax | leay | bcc | call | ldx | stx | faddb | fsubb | fmulb | fdivb | fcmpb | faddx | fsubx |
    fmulx | fdivx | fcmpx | loopi | loopx | tlbwr | tlbrd | smm | lmm | saveh | loadh | bmov | bcmp | band | bor | bxor
    | bxlt | bxsr | ztop | ptoz | fmt | fmtm | nmov | unassignedOpcode =>
    exact run_keepsFuses fun _ _ _ _ _ => rfl
  | retx => exact run_keepsFuses fun _ k w ls bs => retxInsn_fuses _ k w ls bs
  | flushi | drain => exact run_keepsFuses fun _ _ w _ _ => w.drainAll_fuses
  | dneg | dpref | cvdq | cvdx | dshl | dshr | dsrr | addd | subd | cmpd | dmul | ddiv | padd | psub | pset | pcmp =>
    exact run_keepsFuses fun _ _ w ls bs => decBody_fuses _ _ _ w ls bs
  | mts | tpre | tevict => exact run_keepsFuses fun _ k w ls bs => mtsWaits_fuses _ _ k w ls bs
  | switch => exact run_keepsFuses fun _ k w ls bs => switchInsn_fuses _ _ k w ls bs
  | tlbi | keyi => exact run_keepsFuses fun _ k w ls bs => invalInsn_fuses _ _ _ _ _ k w ls bs
  | kset | kget => exact run_keepsFuses fun _ k w ls bs => keyInsn_fuses _ _ _ k _ (fun _ _ => rfl) w ls bs
  | arcadeInstruction => exact run_keepsFuses fun _ _ w _ _ => arcadeBody_fuses _ w
  | instructionFetch => exact execInstructionFetch_keepsFuses _ s
  | storeBufferDrain => exact execStoreBufferDrain_keepsFuses _ s
  | resultWrite => exact execResultWrite_keepsFuses _ s
  | farLoadResponse => exact execFarLoadResponse_keepsFuses _ _ _ s
  | postedStoreAck => exact execPostedStoreAck_keepsFuses _ _ s
  | exceptionEntry => exact execExceptionEntry_keepsFuses _ _ s
  | fallbackSwitch => exact execFallbackSwitch_keepsFuses _ s
  | tpreFillBlock => exact execTpreFillBlock_keepsFuses _ s
  | eventRecordArrival => exact execEventRecordArrival_keepsFuses _ _ s
  | timerExpiry => exact execTimerExpiry_keepsFuses _ s
  | sigout => exact execSigout_keepsFuses _ s
  | registerWrite => exact execRegisterWrite_keepsFuses _ s
  | letterboxWrite => exact execLetterboxWrite_keepsFuses _ s
  | letterboxSlotRead => exact execLetterboxSlotRead_keepsFuses _ s
  | ringFlitReceive => exact execRingFlitReceive_keepsFuses _ _ _ s
  | requestTimeout => exact execRequestTimeout_keepsFuses _ s
  | squarePllLock => exact execSquarePllLock_keepsFuses _ s
  | pllLockTimeout => exact execPllLockTimeout_keepsFuses _ _ s
  | invalidationReceive => exact execInvalidationReceive_keepsFuses _ _ s
  | invalidationAck => exact execInvalidationAck_keepsFuses _ _ s
  | sqtail => exact execSqtail_keepsFuses _ _ _ _ s
  | cqhead => exact execCqhead_keepsFuses _ _ _ _ s
  | qctlStart => exact execQctlStart_keepsFuses _ s
  | qctlStop => exact execQctlStop_keepsFuses _ s
  | submissionFetch => exact execSubmissionFetch_keepsFuses _ _ _ s
  | cqintTimeExpiry => exact execCqintTimeExpiry_keepsFuses _ _ s
  | hostWriteFailure => exact execHostWriteFailure_keepsFuses _ _ s
  | functionLevelReset => exact execFunctionLevelReset_keepsFuses _ s
  | identify => exact execIdentify_keepsFuses _ s
  | tenancyBind => exact execTenancyBind_keepsFuses _ s
  | tenancyUnbind => exact execTenancyUnbind_keepsFuses _ s
  | qpCreate => exact execQpCreate_keepsFuses _ s
  | qpDelete => exact execQpDelete_keepsFuses _ s
  | loadProgram => exact execLoadProgram_keepsFuses _ s
  | stageArcade => exact execStageArcade_keepsFuses _ s
  | installArcade => exact execInstallArcade_keepsFuses _ s
  | loadExtension => exact execLoadExtension_keepsFuses _ _ _ s
  | extensionOpcode => exact execExtensionOpcode_keepsFuses _ _ s
  | unknownOpcode => exact execUnknownOpcode_keepsFuses _ _ s
  | defineRecord => exact execDefineRecord_keepsFuses _ _ s
  | removeRecord => exact execRemoveRecord_keepsFuses _ s
  | setHints => exact execSetHints_keepsFuses _ s
  | clearFlags => exact execClearFlags_keepsFuses _ s
  | postBatch => exact execPostBatch_keepsFuses _ _ s
  | queryRecord => exact execQueryRecord_keepsFuses _ s
  | readJournal => exact execReadJournal_keepsFuses _ s
  | stopFn => exact execStopFn_keepsFuses _ s
  | setConfig => exact execSetConfig_keepsFuses _ s
  | startFn => exact execStartFn_keepsFuses _ _ s
  | getConfig => exact execGetConfig_keepsFuses _ s
  | selftest => exact execSelftest_keepsFuses _ _ s
  | calibrate => exact execCalibrate_keepsFuses _ _ s
  | linkTest => exact execLinkTest_keepsFuses _ _ s
  | readLog => exact execReadLog_keepsFuses _ s
  | lcChange => exact absurd rfl (hlc _ _)
  | returnEntryConsume => exact execReturnEntryConsume_keepsFuses _ s
  | recordMove => exact execRecordMove_keepsFuses _ _ s
  | moveCopyComplete => exact execMoveCopyComplete_keepsFuses _ _ s
  | releaseLimitExpiry => exact execReleaseLimitExpiry_keepsFuses _ _ s
  | heatEpochExpiry => exact execHeatEpochExpiry_keepsFuses s
  | directorySweep => exact execDirectorySweep_keepsFuses s
  | streetEvacuation => exact execStreetEvacuation_keepsFuses _ _ s
  | swst => exact execSwst_keepsFuses _ s
  | resume => exact execResume_keepsFuses _ s
  | dis => exact execDis_keepsFuses _ s
  | tramTrigger => exact execTramTrigger_keepsFuses _ _ s
  | partnerStart => exact execPartnerStart_keepsFuses _ s
  | pacingRecord => exact execPacingRecord_keepsFuses _ _ s
  | pacedBurstStart => exact execPacedBurstStart_keepsFuses _ s
  | tramRead => exact execTramRead_keepsFuses _ _ s
  | tramWrite => exact execTramWrite_keepsFuses _ _ s
  | descriptorFetch => exact execDescriptorFetch_keepsFuses _ _ s
  | descriptorComplete => exact execDescriptorComplete_keepsFuses _ _ s
  | tramMissService => exact execTramMissService_keepsFuses _ _ s
  | errorLogWrite => exact execErrorLogWrite_keepsFuses _ _ _ _ s
  | correctedCoalesceExpiry => exact execCorrectedCoalesceExpiry_keepsFuses s
  | temperatureRead => exact execTemperatureRead_keepsFuses _ _ _ s
  | calPeriodExpiry => exact execCalPeriodExpiry_keepsFuses _ _ s
  | calibrationPhase => exact execCalibrationPhase_keepsFuses _ _ _ s
  | patrolScrub => exact execPatrolScrub_keepsFuses _ _ _ s
  | refresh => exact execRefresh_keepsFuses _ s
  | pgctlRun => exact execPgctlRun_keepsFuses _ _ s
  | pgctlClr => exact execPgctlClr_keepsFuses _ s
  | perst => exact execPerst_keepsFuses _ _ s
  | linkDown => exact execLinkDown_keepsFuses _ s
  | linkRetrainTimeout => exact execLinkRetrainTimeout_keepsFuses _ s
  | d3hotEntry => exact execD3hotEntry_keepsFuses _ s
  | d0Return => exact execD0Return_keepsFuses _ s
  | fwctlRead => exact execFwctlRead_keepsFuses _ s
  | fwctlErase => exact execFwctlErase_keepsFuses _ s
  | fwctlProgram => exact execFwctlProgram_keepsFuses _ s
  | flashOperationComplete => exact execFlashOperationComplete_keepsFuses _ s
  | getStatus => exact execGetStatus_keepsFuses s
  | getIdent => exact execGetIdent_keepsFuses s
  | readReg => exact execReadReg_keepsFuses _ _ _ s
  | writeReg => exact execWriteReg_keepsFuses _ _ _ _ s
  | smbReadLog => exact execSmbReadLog_keepsFuses _ _ s
  | deviceReset => exact execDeviceReset_keepsFuses _ s
  | clearAlert => exact execClearAlert_keepsFuses s
  | alertResponseAddress => exact execAlertResponseAddress_keepsFuses s
  | alertReassert => exact execAlertReassert_keepsFuses s
  | extest => exact execExtest_keepsFuses s
  | samplePreload => exact execSamplePreload_keepsFuses s
  | idcode => exact execIdcode_keepsFuses s
  | clamp => exact execClamp_keepsFuses s
  | highz => exact execHighz_keepsFuses s
  | extestPulse => exact execExtestPulse_keepsFuses s
  | extestTrain => exact execExtestTrain_keepsFuses s
  | bypass => exact execBypass_keepsFuses _ s
  | pgaccRead => exact execPgaccRead_keepsFuses _ _ s
  | pgaccWrite => exact execPgaccWrite_keepsFuses _ _ _ s
  | trstN => exact execTrstN_keepsFuses s
  | pwrgoodRise => exact execPwrgoodRise_keepsFuses _ s
  | pwrgoodFall => exact execPwrgoodFall_keepsFuses s
  | resetNLow => exact execResetNLow_keepsFuses s
  | resetRelease => exact absurd rfl (hboot _)
  | testmode => exact execTestmode_keepsFuses _ s
  | tamperDetect => exact execTamperDetect_keepsFuses _ s
  | kctlWipe => exact execKctlWipe_keepsFuses s
  | kctlSeal => exact execKctlSeal_keepsFuses s
  | kctlLock => exact execKctlLock_keepsFuses s
  | thermtrip => exact execThermtrip_keepsFuses _ s
  | linkUp => exact execLinkUp_keepsFuses _ _ s
  | pllLockLoss => exact execPllLockLoss_keepsFuses _ s
  | junctionTemperatureAlert => exact execJunctionTemperatureAlert_keepsFuses _ s
  | configurationRequest => exact execConfigurationRequest_keepsFuses _ s
  | unsupportedRequest => exact execUnsupportedRequest_keepsFuses _ s
  | hostReadTimeout => exact execHostReadTimeout_keepsFuses _ s
  | patternCheckerLock => exact execPatternCheckerLock_keepsFuses _ _ s
  | dqsDriftCorrection => exact execDqsDriftCorrection_keepsFuses _ s

/-- LC_CHANGE moves the fuses along a permitted transition, the release of reset raises the floor, and no other command
changes them. -/
theorem exec_fuses {c : Instr} {s t : State} (h : exec c s = .next t) :
    t.fuses = s.fuses ∨ s.fuses.raised t.fuses ∨ s.fuses.transition false t.fuses := by
  by_cases hlc : ∃ r ok, c = .lcChange r ok
  · obtain ⟨r, ok, rfl⟩ := hlc
    rcases execLcChange_fuses h with heq | ⟨-, hgo⟩
    · exact .inl heq
    · exact .inr (.inr (.inr ⟨rfl, hgo⟩))
  · by_cases hboot : ∃ b, c = .resetRelease b
    · obtain ⟨b, rfl⟩ := hboot
      exact .inr (.inl (execResetRelease_fuses h))
    · exact .inl (exec_keepsFuses s (fun r ok e => hlc ⟨r, ok, e⟩) (fun b e => hboot ⟨b, e⟩) t h)

/-- The invariant of the life cycle, of the fuses alone. -/
def Fuses.ok (f : Fuses) : Prop :=
  f.ownerBanks ≤ 8 ∧ f.ownerBanks ≤ f.lccount.toNat ∧ (f.lc = 0 → f.lccount = 0) ∧ (f.lc = 1 ∨ f.lc = 2 → 1 ≤ f.ownerBanks)

theorem State.fusesOk_iff (s : State) : s.fusesOk ↔ s.fuses.ok := Iff.rfl

theorem Fuses.raised_ok {f g : Fuses} (h : f.raised g) (hf : f.ok) : g.ok := by
  obtain ⟨v, rfl, -⟩ := h
  exact hf

/-- What a permitted transition does to the fuses (Table 16-13). -/
theorem lcPermits_iff (f : Fuses) (target : Nat) : lcPermits f target = true ↔
    ((f.lc.toNat = 0 ∧ (target = 1 ∨ target = 3)) ∨ f.lc.toNat = 1 ∨ (f.lc.toNat = 2 ∧ (target = 1 ∨ target = 3)))
      ∧ (f.lccount ≠ 31 ∨ target = 3) ∧ (newOwner f.lc.toNat target = false ∨ f.ownerBanks < 8) := by
  simp [lcPermits, or_assoc, and_assoc]

theorem newOwner_iff (lc target : Nat) : newOwner lc target = true ↔ (lc = 0 ∨ lc = 1) ∧ target = 1 := by
  simp [newOwner]
  omega

/-- The count of transitions goes up by one, or stays at its end. -/
theorem lccount_next (n : BitVec 5) :
    (if n = 31 then (31 : BitVec 5) else n + 1).toNat = if n.toNat = 31 then 31 else n.toNat + 1 := by
  revert n
  decide

theorem lc_target {target : Nat} (h : target ≤ 3) : (BitVec.ofNat 2 target).toNat = target := by
  rw [BitVec.toNat_ofNat]
  omega

theorem Fuses.transition_ok {f g : Fuses} (h : f.transition false g) (hf : f.ok) : g.ok := by
  rcases h with rfl | ⟨-, target, hlo, hhi, hpermits, rfl⟩
  · exact hf
  · obtain ⟨hmax, hcount, hblank, hkey⟩ := hf
    obtain ⟨hfrom, hroom, hbanks⟩ := (lcPermits_iff f target).1 hpermits
    have hroom31 : f.lccount.toNat ≠ 31 ∨ target = 3 := hroom.imp_left fun h e => h (BitVec.eq_of_toNat_eq e)
    have hlc := lc_target hhi
    have hkey' : f.lc.toNat = 1 ∨ f.lc.toNat = 2 → 1 ≤ f.ownerBanks := fun h =>
      hkey (h.imp (fun e => BitVec.eq_of_toNat_eq e) (fun e => BitVec.eq_of_toNat_eq e))
    have hnext := lccount_next f.lccount
    have hbound : f.lccount.toNat < 32 := f.lccount.isLt
    refine ⟨?_, ?_, ?_, ?_⟩
    · cases hown : newOwner f.lc.toNat target with
      | true =>
        rw [hown] at hbanks
        simp only [Bool.true_eq_false, false_or] at hbanks
        simpa using hbanks
      | false => simpa using hmax
    · cases hown : newOwner f.lc.toNat target with
      | true =>
        obtain ⟨-, rfl⟩ := (newOwner_iff _ _).1 hown
        simp only [Bool.toNat_true, hnext]
        split <;> omega
      | false =>
        simp only [Bool.toNat_false, Nat.add_zero, hnext]
        split <;> omega
    · intro hz
      have hz' := congrArg BitVec.toNat hz
      rw [hlc] at hz'
      change target = 0 at hz'
      omega
    · intro hserves
      cases hown : newOwner f.lc.toNat target with
      | true => simp
      | false =>
        have hold : f.lc.toNat = 1 ∨ f.lc.toNat = 2 := by
          rcases hfrom with ⟨hz, rfl | rfl⟩ | h1 | ⟨h2, -⟩
          · rw [hz] at hown
            cases hown
          · rcases hserves with h1 | h2
            · exact absurd (show BitVec.ofNat 2 3 = 1 from h1) (by decide)
            · exact absurd (show BitVec.ofNat 2 3 = 2 from h2) (by decide)
          · exact .inl h1
          · exact .inr h2
        simpa using hkey' hold

theorem exec_fusesOk {c : Instr} {s t : State} (hs : s.fusesOk) (h : exec c s = .next t) : t.fusesOk := by
  rcases exec_fuses h with heq | hup | hgo
  · exact (congrArg Fuses.ok heq).mpr hs
  · exact Fuses.raised_ok hup hs
  · exact Fuses.transition_ok hgo hs

/-- Settles O36: only LC_CHANGE and the release of reset reach the fuses, and both keep the invariant. -/
theorem lifeCycleInvariant : Obligations.LifeCycleInvariant := by
  intro s t hs h
  cases hp : s.pending with
  | nil =>
    rw [step_idle s hp] at h
    cases h
    exact hs
  | cons c rest =>
    rw [step_front c rest s hp] at h
    exact exec_fusesOk (s := { s with pending := rest }) hs h

/-- The fuses move forward: the floor and the count do not fall, RETIRED stays, and BLANK is not entered again. -/
def Fuses.forward (f g : Fuses) : Prop :=
  f.floor.toNat ≤ g.floor.toNat ∧ f.lccount.toNat ≤ g.lccount.toNat ∧ (f.lc = 3 → g.lc = 3) ∧ (f.lc ≠ 0 → g.lc ≠ 0)

theorem Fuses.raised_forward {f g : Fuses} (h : f.raised g) : f.forward g := by
  obtain ⟨v, rfl, hv⟩ := h
  exact ⟨hv, le_rfl, id, id⟩

theorem Fuses.transition_forward {f g : Fuses} (h : f.transition false g) : f.forward g := by
  rcases h with rfl | ⟨-, target, hlo, hhi, hpermits, rfl⟩
  · exact ⟨le_rfl, le_rfl, id, id⟩
  · obtain ⟨hfrom, -, -⟩ := (lcPermits_iff f target).1 hpermits
    have hbound : f.lccount.toNat < 32 := f.lccount.isLt
    refine ⟨le_rfl, ?_, ?_, ?_⟩
    · simp only [lccount_next]
      split <;> omega
    · intro h3
      rw [h3] at hfrom
      simp at hfrom
    · intro _ hz
      have hz' := congrArg BitVec.toNat hz
      rw [lc_target hhi] at hz'
      change target = 0 at hz'
      omega

/-- Settles O37: a permitted transition and a raised floor both move forward, and nothing else moves the fuses. -/
theorem fusesOnlyForward : Obligations.FusesOnlyForward := by
  intro c s t h
  have hforward : s.fuses.forward t.fuses := by
    rcases exec_fuses h with heq | hup | hgo
    · rw [heq]
      exact Fuses.raised_forward s.fuses.raised_refl
    · exact Fuses.raised_forward hup
    · exact Fuses.transition_forward hgo
  obtain ⟨hfloor, hcount, hretired, hblank⟩ := hforward
  exact ⟨hfloor, hcount, hretired, hblank, fun hlc hboot => exec_keepsFuses s hlc hboot t h⟩

/-- Settles O34. -/
theorem stepRunsFrontCommand : Obligations.StepRunsFrontCommand :=
  ⟨fun c rest s h => step_front c rest s h, step_idle⟩

end Sys2Proof.Machine

namespace Sys2Proof.Machine

/-! ## Queue pairs (12): completions, doorbells, fetches. Settles O43. -/

/-! ### Bytes and seals -/

theorem crcShift_lt (n : Nat) {c : Nat} (h : c < 2 ^ 32) : crcShift n c < 2 ^ 32 := by
  induction n generalizing c with
  | zero => exact h
  | succ n ih =>
    have hhalf : c / 2 < 2 ^ 32 := by omega
    refine ih ?_
    split
    · exact Nat.xor_lt_two_pow hhalf (by decide)
    · exact hhalf

theorem crc32c_lt (l : List Byte) : crc32c l < 2 ^ 32 := by
  have hfold : ∀ (l : List Byte) (c : Nat), c < 2 ^ 32 →
      l.foldl (fun c b => crcShift 8 (Nat.xor c b.toNat)) c < 2 ^ 32 := by
    intro l
    induction l with
    | nil => exact fun _ h => h
    | cons b r ih => exact fun c h => ih _ (crcShift_lt 8 (Nat.xor_lt_two_pow h (by omega)))
  exact Nat.xor_lt_two_pow (hfold l _ (by decide)) (by decide)

theorem leNat_crc32c (l : List Byte) : leNat (leBytes 4 (crc32c l)) = crc32c l := by
  rw [leNat_leBytes]
  exact Nat.mod_eq_of_lt (crc32c_lt l)

/-! ### Host memory -/

theorem State.hostRd_congr {s t : State} (h : t.hostMem = s.hostMem) (a n : Nat) : t.hostRd a n = s.hostRd a n := by
  induction n generalizing a with
  | zero => rfl
  | succ n ih => simp only [State.hostRd, h, ih]

@[simp] theorem State.length_hostRd (s : State) (a n : Nat) : (s.hostRd a n).length = n := by
  induction n generalizing a with
  | zero => rfl
  | succ n ih => simp [State.hostRd, ih]

/-- A byte of host memory outside the bytes written reads as before. -/
theorem memRd_hostPut_ne (m : List Host.Cell) (a i : Nat) (l : List Byte) (h : ∀ j < l.length, i ≠ (a + j) % 2 ^ 64) :
    memRd (hostPut m a l) i = memRd m i := by
  induction l generalizing m a with
  | nil => rfl
  | cons b r ih =>
    have hr : ∀ j < r.length, i ≠ (a + 1 + j) % 2 ^ 64 := fun j hj => by
      have := h (j + 1) (by simpa using hj)
      rwa [show a + 1 + j = a + (j + 1) by omega]
    rw [hostPut, ih _ _ hr, memRd_memWr_ne m b (show i ≠ a % 2 ^ 64 from h 0 (by simp))]

/-- What is written to host memory is read back. -/
theorem State.hostRd_hostPut {s t : State} (hwf : Memory.wf memDefault s.hostMem = true) (a : Nat) (l : List Byte)
    (hl : l.length ≤ 2 ^ 64) (ht : t.hostMem = hostPut s.hostMem a l) : t.hostRd a l.length = l := by
  induction l generalizing s a with
  | nil => rfl
  | cons b r ih =>
    have hwf1 : Memory.wf memDefault (memWr s.hostMem (a % 2 ^ 64) b) = true := Memory.wf_memWr hwf _ b
    have hfirst : memRd t.hostMem (a % 2 ^ 64) = b := by
      rw [List.length_cons] at hl
      rw [ht, hostPut, memRd_hostPut_ne, memRd_memWr hwf, if_pos rfl]
      intro j hj
      omega
    rw [List.length_cons, State.hostRd, hfirst,
      ih (s := { s with hostMem := memWr s.hostMem (a % 2 ^ 64) b }) hwf1 (a + 1) (by rw [List.length_cons] at hl; omega) ht]

/-! ### Tenancies and queue pairs -/

@[simp] theorem State.tenancy_setTenancy_self (s : State) (t : Nat) (x : Tenancy) : (s.setTenancy t x).tenancy t = x :=
  spGet_spPut_self _ _ _ _

theorem State.tenancy_setTenancy_ne (s : State) {t u : Nat} (x : Tenancy) (h : u ≠ t) :
    (s.setTenancy t x).tenancy u = s.tenancy u := spGet_spPut_ne _ _ _ h

theorem State.tenancy_setQp_self (s : State) (t q : Nat) (x : QPair) :
    (s.setQp t q x).tenancy t = { s.tenancy t with qps := spPut (s.tenancy t).qps q x } :=
  s.tenancy_setTenancy_self t _

/-- A vector of a bound tenancy is raised once more. -/
theorem State.msixOf_bound {s : State} {t : Nat} {g : FnId} (h : (s.tenancy t).bound = some g) (x : QPair) :
    s.msixOf t x = { s with msix := spPut s.msix (fnIx g * 2048 + x.vec) (spGet 0 s.msix (fnIx g * 2048 + x.vec) + 1) } := by
  simp only [State.msixOf, h]

/-! ### Completions (R340 to R343) -/

/-- The first bytes of a submission. -/
theorem bytes_head {l : List Byte} (h : 64 ≤ l.length) : ∃ b0 b1 b2 b3 b4 b5 r, l = b0 :: b1 :: b2 :: b3 :: b4 :: b5 :: r := by
  match l, h with
  | b0 :: b1 :: b2 :: b3 :: b4 :: b5 :: r, _ => exact ⟨b0, b1, b2, b3, b4, b5, r, rfl⟩

/-- The 28 bytes of a completion packet before its seal. -/
def cplBody (devno : Nat) (phase : Bool) (e : Fetched) (a : Ans) : List Byte :=
  slice e.bytes 4 2 ++ leBytes 2 a.status ++ slice e.bytes 0 1 ++ leBytes 1 (devno + phase.toNat * 128)
    ++ leBytes 2 e.sqhd.toNat ++ leBytes 2 e.sqix.toNat ++ zeros 2 ++ leBytes 4 a.res0 ++ leBytes 8 a.res1
    ++ leBytes 4 a.detail

theorem cplBytes_eq (devno : Nat) (phase : Bool) (e : Fetched) (a : Ans) :
    cplBytes devno phase e a = cplBody devno phase e a ++ leBytes 4 (crc32c (cplBody devno phase e a)) := rfl

/-- The fields of a completion packet (Table 12-8). -/
theorem cplBytes_fields (devno : Nat) (phase : Bool) (e : Fetched) (a : Ans) (h : 64 ≤ e.bytes.length) :
    let b : List Byte := cplBytes devno phase e a
    b.length = 32 ∧ leAt b 28 4 = crc32c (b.take 28) ∧ slice b 0 2 = slice e.bytes 4 2 ∧ byteAt b 4 = byteAt e.bytes 0
      ∧ leAt b 2 2 = a.status % 65536 ∧ leAt b 6 2 = e.sqhd.toNat ∧ leAt b 8 2 = e.sqix.toNat ∧ leAt b 12 4 = a.res0 % 2 ^ 32
      ∧ leAt b 16 8 = a.res1 % 2 ^ 64 ∧ leAt b 24 4 = a.detail % 2 ^ 32 := by
  obtain ⟨b0, b1, b2, b3, b4, b5, r, hb⟩ := bytes_head h
  obtain ⟨body, hbody⟩ : ∃ l, l = cplBody devno phase e a := ⟨_, rfl⟩
  have hlist : body = b4 :: b5 :: (leBytes 2 a.status ++ b0 :: leBytes 1 (devno + phase.toNat * 128)
      ++ leBytes 2 e.sqhd.toNat ++ leBytes 2 e.sqix.toNat ++ zeros 2 ++ leBytes 4 a.res0 ++ leBytes 8 a.res1
      ++ leBytes 4 a.detail) := by
    rw [hbody, cplBody, hb]
    rfl
  intro b
  have hbytes : b = body ++ leBytes 4 (crc32c body) := by rw [hbody]; exact cplBytes_eq devno phase e a
  generalize hseal : leBytes 4 (crc32c body) = sl at hbytes
  have hseal4 : sl.length = 4 := by rw [← hseal, length_leBytes]
  have hlen : body.length = 28 := by rw [hlist]; rfl
  have htake : b.take 28 = body := by rw [hbytes, List.take_left' hlen]
  have hle (n v : Nat) : leNat (leBytes n v) = v % 256 ^ n := leNat_leBytes n v
  refine ⟨by rw [hbytes, List.length_append, hlen, hseal4], ?_, ?_, ?_, ?_, ?_, ?_, ?_, ?_, ?_⟩
  · rw [htake, leAt, slice, hbytes, List.drop_left' hlen, List.take_of_length_le (by omega), ← hseal, leNat_crc32c]
  · rw [hbytes, hlist, hb]
    rfl
  · rw [hbytes, hlist, hb]
    rfl
  · rw [hbytes, hlist]
    exact hle 2 _
  · rw [hbytes, hlist]
    exact (hle 2 _).trans (Nat.mod_eq_of_lt e.sqhd.isLt)
  · rw [hbytes, hlist]
    exact (hle 2 _).trans (Nat.mod_eq_of_lt e.sqix.isLt)
  · rw [hbytes, hlist]
    exact hle 4 _
  · rw [hbytes, hlist]
    exact hle 8 _
  · rw [hbytes, hlist]
    exact hle 4 _

/-- Whether the completion of `e` raises the vector of its queue pair (R343). -/
def QPair.fires (x : QPair) (e : Fetched) : Bool := !e.noint && decide (max 1 x.cnt ≤ x.counted + 1)

/-- A queue pair when its command `e` has been answered by a completion. -/
def QPair.completed (x : QPair) (e : Fetched) : QPair :=
  let tail : Nat := (x.cqtail.toNat + 1) % x.cqDepth
  QPair.drained { x with
    fetched := x.fetched.filter (fun y => y.seq != e.seq), cqtail := BitVec.ofNat 32 tail
    phase := if tail = 0 then !x.phase else x.phase
    counted := if x.fires e then 0 else if e.noint then x.counted else x.counted + 1 }

theorem QPair.drained_eq (x : QPair) :
    x.drained = { x with st := if x.st = .draining ∧ x.fetched = [] then .stopped else x.st } := by
  unfold QPair.drained
  split
  · rfl
  · rfl

section
variable {s : State} {t q : Nat} {e : Fetched} {x : QPair} (hx : s.qp? t q = some x) (hin : ∃ z ∈ x.fetched, z.seq = e.seq)
include hx hin

theorem State.complete_faulted (hst : x.st = .faulted) (a : Ans) :
    s.complete t q e a = s.setQp t q { x with fetched := x.fetched.filter (fun y => y.seq != e.seq) } := by
  have hany : x.fetched.any (fun y => y.seq == e.seq) = true := by simpa using hin
  simp [State.complete, hx, hany, hst]

theorem State.complete_written (hst : x.st ≠ .faulted) (a : Ans) :
    s.complete t q e a =
      let u : State := (s.hostWr (x.cqbase.toNat + 32 * x.cqtail.toNat)
        (cplBytes (s.tenancy t).devno.toNat x.phase e a)).setQp t q (x.completed e)
      if x.fires e then u.msixOf t x else u := by
  have hany : x.fetched.any (fun y => y.seq == e.seq) = true := by simpa using hin
  have hfires : (!e.noint && decide (max 1 x.cnt ≤ if e.noint then x.counted else x.counted + 1)) = x.fires e := by
    cases h : e.noint <;> simp [QPair.fires, h]
  simp only [State.complete, hx, hany, hst, if_false, Bool.not_true, Bool.false_eq_true, hfires]
  rfl

end

theorem State.ite_msixOf_hostMem (s : State) (p : Prop) [Decidable p] (t : Nat) (x : QPair) :
    (if p then s.msixOf t x else s).hostMem = s.hostMem := by
  obtain ⟨m, hm⟩ := s.msixOf_eq t x
  split
  · rw [hm]
  · rfl

/-- Settles O43. -/
theorem completions : Obligations.Completions := by
  intro s tn q e a x hx hin hwf hlen t b tail
  obtain ⟨hb32, hseal, htag, hop, hstatus, hsqhd, hsqix, hres0, hres1, hdetail⟩ :=
    cplBytes_fields (s.tenancy tn).devno.toNat x.phase e a hlen
  refine ⟨hb32, hseal, htag, hop, hstatus, hsqhd, hsqix, hres0, hres1, hdetail, fun hst => ?_, fun hst => ?_⟩
  · obtain ⟨u, hu⟩ : ∃ u, u = (s.hostWr (x.cqbase.toNat + 32 * x.cqtail.toNat) b).setQp tn q (x.completed e) := ⟨_, rfl⟩
    have ht : t = if x.fires e then u.msixOf tn x else u := by
      rw [hu]
      exact State.complete_written hx hin hst a
    have hmem : t.hostMem = hostPut s.hostMem (x.cqbase.toNat + 32 * x.cqtail.toNat) b := by
      rw [ht, State.ite_msixOf_hostMem, hu]
      rfl
    have hqp : t.qp? tn q = some (x.completed e) := by
      rw [ht, State.qp?_ite_msixOf, hu, State.qp?_setQp_self]
    refine ⟨?_, ?_, x.completed e, hqp, ?_⟩
    · have hread := State.hostRd_hostPut hwf _ b (by rw [hb32]; norm_num) hmem
      rwa [hb32] at hread
    · intro i _ hout
      rw [hmem]
      exact memRd_hostPut_ne _ _ _ _ (by rwa [hb32])
    · rw [QPair.completed, QPair.drained_eq]
      refine ⟨rfl, rfl, rfl, rfl, rfl, ?_⟩
      intro g hg n v
      have hbound : (u.tenancy tn).bound = some g := by
        rw [hu, State.tenancy_setQp_self]
        exact hg
      have hmsix : u.msix = s.msix := by rw [hu]; rfl
      refine ⟨fun hno hfire => ?_, fun hno hfire => ?_, fun hno => ?_⟩
      · have hfires : x.fires e = true := by
          simp only [QPair.fires, hno, Bool.not_false, Bool.true_and, decide_eq_true_eq]
          exact hfire
        rw [ht, hfires, if_pos rfl, State.msixOf_bound hbound, hmsix]
        exact ⟨rfl, spGet_spPut_self _ _ _ _⟩
      · have hfires : x.fires e = false := by
          simp only [QPair.fires, hno, Bool.not_false, Bool.true_and, decide_eq_false_iff_not, not_le]
          exact hfire
        rw [ht, hfires, hno]
        exact ⟨rfl, hmsix⟩
      · have hfires : x.fires e = false := by simp [QPair.fires, hno]
        rw [ht, hfires, hno]
        exact ⟨rfl, hmsix⟩
  · have ht : t = _ := State.complete_faulted hx hin hst a
    rw [ht]
    exact ⟨rfl, State.qp?_setQp_self _ _ _ _⟩

end Sys2Proof.Machine

namespace Sys2Proof.Machine

/-! ## Submissions (12 R335 to R338, R356). Settles O42. -/

/-! ### The checks of a list -/

@[simp] theorem unless_eq_none (b : Bool) (st d : Nat) : unless_ b st d = none ↔ b = true := by
  cases b <;> simp [unless_, deny]

theorem firstOf_eq_none (l : List (Option Ans)) : firstOf l = none ↔ ∀ x ∈ l, x = none := by
  induction l with
  | nil => simp [firstOf]
  | cons x l ih => cases x <;> simp [firstOf, ih]

theorem firstOf_append_some (l : List (Option Ans)) (a : Ans) (m : List (Option Ans)) (h : ∀ x ∈ l, x = none) :
    firstOf (l ++ some a :: m) = some a := by
  induction l with
  | nil => rfl
  | cons x l ih =>
    rw [h x (by simp), List.cons_append]
    exact ih fun y hy => h y (by simp [hy])

theorem reserved71_eq_none (c : Cmd) (named : Nat → Nat) :
    reserved71 c named = none ↔ ∀ i < 32, (byteAt c.e.bytes (8 + i)).toNat &&& (255 - named (8 + i)) = 0 := by
  have hnone : reserved71 c named = none ↔ (List.range 32).find? (fun i =>
      decide (Nat.land (byteAt c.e.bytes (8 + i)).toNat (255 - named (8 + i)) ≠ 0)) = none := by
    unfold reserved71
    split
    · next h => simp only [h, deny, reduceCtorEq]
    · next h => simp only [h]
  rw [hnone, List.find?_eq_none]
  simp only [List.mem_range, decide_not, Bool.not_eq_true', decide_eq_false_iff_not, not_not]
  exact Iff.rfl

theorem reserved71_first (c : Cmd) (named : Nat → Nat) {i : Nat} (hi : i < 32)
    (hbefore : ∀ j < i, (byteAt c.e.bytes (8 + j)).toNat &&& (255 - named (8 + j)) = 0)
    (hbad : (byteAt c.e.bytes (8 + i)).toNat &&& (255 - named (8 + i)) ≠ 0) :
    reserved71 c named = some { status := 0x1002, res0 := 0, res1 := 0, detail := 8 + i } := by
  have hfound : (List.range 32).find? (fun i =>
      decide (Nat.land (byteAt c.e.bytes (8 + i)).toNat (255 - named (8 + i)) ≠ 0)) = some i := by
    rw [List.find?_range_eq_some]
    exact ⟨by simpa using hbad, List.mem_range.2 hi, fun j hj => by simpa using hbefore j hj⟩
  rw [reserved71, hfound]
  rfl

theorem issuer72_eq_none (s : State) (c : Cmd) : issuer72 s c = none ↔ c.fn = ⟨s.boot.mgmt, 0⟩ := by
  simp [issuer72, State.mgmtFn]

theorem ptrBad_eq_false {use : Nat} (h : use ≤ 2) (al v : Nat) : ptrBad use al v = false ↔
    (use = 0 → v = 0) ∧ (use = 1 → v ≠ 0 ∧ v % al = 0) ∧ (use = 2 → v ≠ 0 → v % al = 0) := by
  obtain rfl | rfl | rfl : use = 0 ∨ use = 1 ∨ use = 2 := by omega
  · simp [ptrBad]
  · simp [ptrBad]
  · by_cases hv : v = 0 <;> simp [ptrBad, hv]

theorem ptrs73_eq_none (c : Cmd) {u0 u1 : Nat} (h0 : u0 ≤ 2) (h1 : u1 ≤ 2) (al : Nat) :
    ptrs73 c u0 u1 al = none ↔ ∀ p ∈ [(u0, c.ptr0), (u1, c.ptr1)],
      (p.1 = 0 → p.2 = 0) ∧ (p.1 = 1 → p.2 ≠ 0 ∧ p.2 % al = 0) ∧ (p.1 = 2 → p.2 ≠ 0 → p.2 % al = 0) := by
  simp [ptrs73, firstOf_eq_none, ptrBad_eq_false h0, ptrBad_eq_false h1]

theorem read77_eq_none (c : Cmd) : read77 c = none ↔ c.readFails = false := by simp [read77]

/-! ### The checks of a submission -/

/-- `r` is the status of the first condition of `l` that does not hold. -/
def firstBroken : List (Prop × Nat) → Option Nat → Prop
  | [], r => r = none
  | c :: l, r => (c.1 → firstBroken l r) ∧ (¬ c.1 → r = some c.2)

theorem firstBroken_ite {c p : Prop} [Decidable p] (hp : p ↔ ¬ c) {st : Nat} {l : List (Prop × Nat)} {r : Option Nat}
    (h : firstBroken l r) : firstBroken ((c, st) :: l) (if p then some st else r) := by
  refine ⟨fun hc => ?_, fun hc => if_pos (hp.2 hc)⟩
  rwa [if_neg fun h => hp.1 h hc]

theorem firstBroken_all {l : List (Prop × Nat)} {r : Option Nat} (h : firstBroken l r) (hall : ∀ c ∈ l, c.1) : r = none := by
  induction l with
  | nil => exact h
  | cons c l ih => exact ih (h.1 (hall c (by simp))) fun d hd => hall d (by simp [hd])

theorem firstBroken_at {l : List (Prop × Nat)} {r : Option Nat} (h : firstBroken l r) (i : Nat)
    (hbefore : ∀ j < i, (l[j]?.map (fun c => c.1)).getD True) (hi : ¬ (l[i]?.map (fun c => c.1)).getD True) :
    r = l[i]?.map (fun c => c.2) := by
  induction l generalizing i with
  | nil => exact absurd trivial hi
  | cons c l ih =>
    cases i with
    | zero => exact h.2 hi
    | succ i => exact ih (h.1 (hbefore 0 (by omega))) i (fun j hj => hbefore (j + 1) (by omega)) hi

/-- The checks of orders 1 to 6 of Table 12-7, each with the status of a submission that fails it. -/
def checksOfSubmission (s : State) (t q : Nat) (b : List Byte) : List (Prop × Nat) :=
  let op : Nat := (byteAt b 0).toNat
  [(leAt b 60 4 = crc32c (b.take 60), 0x4001), ((byteAt b 3).toNat % 64 = (s.tenancy t).devno.toNat, 0x1004),
   ((byteAt b 2).toNat % 16 = t, 0x1003), (op ∈ opcodes ∨ ∃ x, s.claims op = some x, 0x1001),
   ((byteAt b 1).toNat < 4 ∧ (byteAt b 2).toNat < 16 ∧ (byteAt b 3).toNat < 64 ∧ allZero (slice b 6 2) = true
      ∧ allZero (slice b 56 4) = true, 0x1002),
   (q = 0 ∨ op = 0x30 ∨ op = 0x40 ∨ op = 0x41, 0x1008)]

/-- A submission is refused with the status of the first check that it fails. -/
theorem State.submissionFails_first (s : State) (t q : Nat) (b : List Byte) :
    firstBroken (checksOfSubmission s t q b) (s.submissionFails t q b) := by
  unfold State.submissionFails checksOfSubmission
  refine firstBroken_ite Iff.rfl <| firstBroken_ite Iff.rfl <| firstBroken_ite Iff.rfl <|
    firstBroken_ite ?_ <| firstBroken_ite ?_ <| firstBroken_ite ?_ rfl
  · simp [Option.eq_none_iff_forall_ne_some]
  · simp only [not_and_or, not_lt, Bool.not_eq_true', Bool.not_eq_true]
  · simp only [not_or, ne_eq]

/-! ### Fetches -/

/-- The submission that a queue pair fetches next, as the device holds it with `prog` as its progress. -/
def State.nextFetched (s : State) (x : QPair) (readFails : Bool) (prog : Prog) : Fetched :=
  { seq := x.nextSeq, sqix := x.sqhead.truncate 16, sqhd := BitVec.ofNat 16 ((x.sqhead.toNat + 1) % x.sqDepth)
    bytes := s.submission x readFails, prog := prog }

/-- A queue pair that has fetched `e`. -/
def QPair.took (x : QPair) (e : Fetched) : QPair :=
  { x with sqhead := BitVec.ofNat 32 ((x.sqhead.toNat + 1) % x.sqDepth), nextSeq := x.nextSeq + 1, fetched := x.fetched ++ [e] }

theorem State.fetches_iff (s : State) (f : FnId) (x : QPair) : s.fetches f x = true ↔
    (x.st = .running ∧ x.sqhead ≠ x.sqtail ∧ x.fetched.length < x.cqFree ∧ x.fetched.length < 1024
      ∧ s.heldBack x = false ∧ s.fatal = false ∧ (s.hostPort f.port.val).d3.getLsbD f.fn.val = false) := by
  simp [State.fetches, and_assoc]

section
variable {s : State} {f : FnId} {q tn : Nat} {x : QPair} (hqp : s.qpOf f q = some (tn, x)) (hgo : s.fetches f x = true)
include hqp

theorem State.fetch_none (hno : s.fetches f x = false) (readFails : Bool) : s.fetch f q readFails = s := by
  simp [State.fetch, hqp, hno]

include hgo

theorem State.fetch_held (hok : s.submissionFails tn q (s.submission x false) = none) :
    s.fetch f q false = s.setQp tn q (x.took (s.nextFetched x false .none)) := by
  simp only [State.fetch, hqp, hgo, hok]
  rfl

/-- A submission that is refused, with another status than that of its seal, and that waits for no earlier batch. -/
theorem State.fetch_refused {readFails : Bool} {st : Nat} (hst : st ≠ 0x4001)
    (hbad : (if readFails then some 0x1009 else s.submissionFails tn q (s.submission x readFails)) = some st)
    (hbatch : (byteAt (s.submission x readFails) 0).toNat ≠ 0x30 ∨ ∀ y ∈ x.fetched, y.opcode ≠ 0x30) :
    let e : Fetched := s.nextFetched x readFails (.ended 0 (BitVec.ofNat 16 st) 0 0)
    s.fetch f q readFails =
      ({ s with free := s.free + readFails.toNat }.setQp tn q (x.took e)).complete tn q e (Ans.of st) := by
  intro e
  have hwait : (e.isBatch && x.fetched.any Fetched.isBatch) = false := by
    rw [Bool.and_eq_false_iff]
    refine hbatch.imp (fun h => ?_) fun h => ?_
    · simpa [e, Fetched.isBatch, Fetched.opcode, State.nextFetched] using h
    · simpa [Fetched.isBatch] using h
  have hprog : e = { seq := x.nextSeq, sqix := x.sqhead.truncate 16
                     sqhd := BitVec.ofNat 16 ((x.sqhead.toNat + 1) % x.sqDepth), bytes := s.submission x readFails
                     prog := .ended 0 (BitVec.ofNat 16 st) 0 0 } := rfl
  simp only [State.fetch, hqp, hgo, hbad, Bool.not_true, Bool.false_eq_true, if_false, if_neg hst, ← hprog, hwait]
  rfl

end

/-- A check on the way to the firmware that discards the submission leaves the queue pairs, and what decides about
fetches, as they are. -/
theorem State.hopFails_noted (s : State) (err : Option HwErr) : s.noted (s.hopFails err).1 := by
  unfold State.hopFails
  split
  · exact (s.report_noted _).count _
  · exact s.noted_refl

theorem State.hopFails_discards {err : Option HwErr} (h : ∃ x ∈ [HwErr.seal, .uncorrectable, .parity], err = some x)
    (s : State) : (s.hopFails err).2 = true := by
  obtain ⟨x, hx, rfl⟩ := h
  simp only [List.mem_cons, List.not_mem_nil, or_false] at hx
  rcases hx with rfl | rfl | rfl <;> rfl

theorem State.noted.fetches {s t : State} (h : s.noted t) (f : FnId) (q : Nat) (x : QPair) :
    t.qpOf f q = s.qpOf f q ∧ t.fetches f x = s.fetches f x := by
  obtain ⟨_, _, _, _, rfl⟩ := h
  exact ⟨rfl, rfl⟩

theorem execSubmissionFetch_eq {s : State} {f : FnId} {q : Byte} {tn : Nat} {x : QPair} (hqp : s.qpOf f q.toNat = some (tn, x))
    (y : FetchFacts) :
    execSubmissionFetch f q y s = .next
      (let r : State × Bool := if s.fetches f x && !y.readFails then s.hopFails y.err else (s, false)
       r.1.fetch f q.toNat (y.readFails || r.2)) := by
  simp only [execSubmissionFetch, hqp]

theorem execSubmissionFetch_read {s : State} {f : FnId} {q : Byte} {tn : Nat} {x : QPair} (hqp : s.qpOf f q.toNat = some (tn, x)) :
    execSubmissionFetch f q ⟨false, none⟩ s = .next (s.fetch f q.toNat false) := by
  rw [execSubmissionFetch_eq hqp]
  cases s.fetches f x <;> rfl

/-- Settles O42. -/
theorem submissionChecks : Obligations.SubmissionChecks := by
  refine ⟨⟨fun s t q b => ?_, fun f q s tn x hqp => ?_⟩, fun s c named u0 u1 al => ?_⟩
  · exact ⟨firstBroken_all (s.submissionFails_first t q b),
      fun i hbefore hi => firstBroken_at (s.submissionFails_first t q b) i.val
        (fun j hj => hbefore ⟨j, hj.trans i.isLt⟩ hj) hi⟩
  · intro b head e taken
    refine ⟨fun hno => ?_, fun hgo hok => ?_, fun st hgo hbad hst hbatch => ?_, fun hgo hnone fails err hfail => ?_,
      s.fetches_iff f x⟩
    · rw [exec_submissionFetch, execSubmissionFetch_read hqp, State.fetch_none hqp hno]
    · rw [exec_submissionFetch, execSubmissionFetch_read hqp, State.fetch_held hqp hgo hok]
      rfl
    · have hrefused := State.fetch_refused hqp hgo (readFails := false) hst hbad hbatch
      intro e1
      refine ⟨?_, fun h1001 => ?_⟩
      · rw [exec_submissionFetch, execSubmissionFetch_read hqp, hrefused]
        rfl
      · subst h1001
        have hunknown : s.nextUnknown f q.toNat = true := by
          simp only [State.nextUnknown, hqp, beq_iff_eq]
          exact hbad
        rw [exec_unknownOpcode, execUnknownOpcode, if_pos hunknown, hrefused]
        rfl
    · cases fails with
      | true =>
        refine ⟨_, { s with free := s.free + 1 }.setQp tn q.toNat
          (x.took (s.nextFetched x true (.ended 0 (BitVec.ofNat 16 0x1009) 0 0))),
          s.nextFetched x true (.ended 0 (BitVec.ofNat 16 0x1009) 0 0), ?_, rfl, rfl, rfl, fun _ => rfl⟩
        rw [exec_submissionFetch, execSubmissionFetch_eq hqp]
        have hrefused := State.fetch_refused hqp hgo (readFails := true) (by decide) rfl (.inr hnone)
        simp only [Bool.not_true, Bool.and_false, Bool.false_eq_true, if_false, Bool.true_or, hrefused]
        rfl
      | false =>
        have hdiscards := State.hopFails_discards (hfail.resolve_left (by decide)) s
        obtain ⟨hqp1, hgo1⟩ := (s.hopFails_noted err).fetches f q.toNat x
        refine ⟨_, { (s.hopFails err).1 with free := (s.hopFails err).1.free + 1 }.setQp tn q.toNat
          (x.took ((s.hopFails err).1.nextFetched x true (.ended 0 (BitVec.ofNat 16 0x1009) 0 0))),
          (s.hopFails err).1.nextFetched x true (.ended 0 (BitVec.ofNat 16 0x1009) 0 0), ?_, rfl, rfl, rfl,
          fun h => absurd h (by decide)⟩
        rw [exec_submissionFetch, execSubmissionFetch_eq hqp]
        have hrefused := State.fetch_refused (hqp1.trans hqp) (hgo1.trans hgo) (readFails := true) (by decide) rfl
          (.inr hnone)
        simp only [hgo, Bool.not_false, Bool.and_self, if_true, Bool.false_or, hdiscards, hrefused]
        rfl
  · exact ⟨reserved71_eq_none c named, fun i hi => reserved71_first c named hi, issuer72_eq_none s c,
      fun h0 h1 => ptrs73_eq_none c h0 h1 al, read77_eq_none c, firstOf_eq_none, firstOf_append_some⟩

end Sys2Proof.Machine

namespace Sys2Proof.Machine

/-! ## Doorbell pages, failures and function level resets (12 R332 to R334, R343, R344). Settles O41. -/

/-! ### The page of a queue pair -/

theorem State.onPage_served {s : State} {f : FnId} {q tn : Nat} {x : QPair} (hbar : s.bar0 f = true)
    (hqp : s.qpOf f q = some (tn, x)) (g : QPair → QPair) : s.onPage f q g = s.setQp tn q (g x) := by
  simp only [State.onPage, hbar, hqp, if_true]

theorem State.onPage_closed {s : State} {f : FnId} (hbar : s.bar0 f = false) (q : Nat) (g : QPair → QPair) :
    s.onPage f q g = s := by
  simp only [State.onPage, hbar, Bool.false_eq_true, if_false]

theorem State.qctlStart_closed {s : State} {f : FnId} (hbar : s.bar0 f = false) (memOk : Bool) : s.qctlStart f memOk = s := by
  simp only [State.qctlStart, hbar, Bool.false_eq_true, if_false]

theorem State.qctlStart_refused {s : State} {f : FnId} {tn : Nat} {x : QPair} (hqp : s.qpOf f 0 = some (tn, x))
    (hst : x.st ≠ .stopped) (memOk : Bool) : s.qctlStart f memOk = s := by
  simp only [State.qctlStart, hqp, hst, false_and, if_false, ite_self]

theorem State.qctlStart_stopped {s : State} {f : FnId} {tn : Nat} {x : QPair} (hbar : s.bar0 f = true)
    (hqp : s.qpOf f 0 = some (tn, x)) (hst : x.st = .stopped) (hten : (s.tenancy tn).st = .running) (memOk : Bool) :
    s.qctlStart f memOk = (s.setTenancy tn ((s.tenancy tn).qctlPend tn memOk)).setQp tn 0 x.start := by
  simp only [State.qctlStart, hbar, hqp, hst, hten, and_self, if_true]

/-- Pending settings move neither the tail that the host has written nor the head of the SQ. -/
theorem QPair.applied_heads (l : List PendSet) (x : QPair) :
    (l.foldl QPair.apply x).sqtail = x.sqtail ∧ (l.foldl QPair.apply x).sqhead = x.sqhead := by
  have happly : ∀ (y : QPair) (p : PendSet), (y.apply p).sqtail = y.sqtail ∧ (y.apply p).sqhead = y.sqhead := by
    intro y p
    unfold QPair.apply
    dsimp only
    (repeat' split) <;> exact ⟨rfl, rfl⟩
  exact ⟨foldl_keeps QPair.sqtail (fun y p => (happly y p).1) l x, foldl_keeps QPair.sqhead (fun y p => (happly y p).2) l x⟩

/-- Settings other than JRET leave the retention ring. -/
theorem Tenancy.applied_ring (l : List PendSet) (h : ∀ p ∈ l, p.pid ≠ 0x105) (x : Tenancy) :
    (l.foldl Tenancy.apply x).jret = x.jret ∧ (l.foldl Tenancy.apply x).ring = x.ring := by
  induction l generalizing x with
  | nil => exact ⟨rfl, rfl⟩
  | cons p l ih =>
    have hp : (x.apply p).jret = x.jret ∧ (x.apply p).ring = x.ring := by
      unfold Tenancy.apply
      dsimp only
      rw [if_neg (h p (by simp))]
      (repeat' split) <;> exact ⟨rfl, rfl⟩
    obtain ⟨hj, hr⟩ := ih (fun p hp => h p (by simp [hp])) (x.apply p)
    exact ⟨hj.trans hp.1, hr.trans hp.2⟩

/-- Without room for a new retention ring the old one stays in force (R525). -/
theorem Tenancy.qctlPend_ring {x : Tenancy} (h : x.needsRing = true) (t : Nat) :
    (x.qctlPend t false).jret = x.jret ∧ (x.qctlPend t false).ring = x.ring := by
  unfold Tenancy.qctlPend
  split
  · rw [h]
    exact Tenancy.applied_ring _ (fun p hp => by simpa using (List.mem_filter.1 hp).2) x
  · exact ⟨rfl, rfl⟩

/-- A write of CQINT through the page. -/
theorem execRegisterWrite_cqint {s : State} {f : FnId} {q : Byte} {tn : Nat} {x : QPair} (hbar : s.bar0 f = true)
    (hqp : s.qpOf f q.toNat = some (tn, x)) (w : W64) :
    execRegisterWrite (.page f (BitVec.ofNat 16 (q.toNat * 256 + 0x20)) false w) s
      = .next (s.setQp tn q.toNat { x with cqint := (w.truncate 32 : W32) &&& 0xFFFF }) := by
  have hoff : (BitVec.ofNat 16 (q.toNat * 256 + 0x20)).toNat = q.toNat * 256 + 0x20 := by
    rw [BitVec.toNat_ofNat, Nat.mod_eq_of_lt]
    have := q.isLt
    omega
  have hpage : (q.toNat * 256 + 0x20) / 256 = q.toNat := by omega
  have hreg : (q.toNat * 256 + 0x20) % 256 = 0x20 := by omega
  have halign : (q.toNat * 256 + 0x20) % 4 = 0 := by omega
  simp only [execRegisterWrite, State.pageStore, hoff, halign, Bool.false_eq_true, if_false, ne_eq, not_true,
    State.pageWord, hbar, Bool.not_true, hpage, hreg, State.onPage_served hbar hqp, Nat.reduceEqDiff, and_false]
  rfl

/-! ### Failures and function level resets (R344) -/

@[simp] theorem State.orphan_tenancies (s : State) (t q : Nat) : (s.orphan t q).tenancies = s.tenancies := rfl

theorem State.orphan_dead {s : State} {t q : Nat} {p : Posting} (h : p ∈ (s.orphan t q).fwdq) (ht : p.ref.ten.toNat = t)
    (hq : p.ref.q.toNat = q) : p.ref.live = false := by
  obtain ⟨r, -, rfl⟩ := List.mem_map.1 h
  by_cases hmine : (decide (r.ref.ten.toNat = t) && decide (r.ref.q.toNat = q)) = true
  · rw [if_pos hmine]
  · rw [if_neg hmine] at ht hq
    exact absurd (by simp [ht, hq]) hmine

theorem State.tenOf_of_qpOf {s : State} {f : FnId} {q tn : Nat} {x : QPair} (h : s.qpOf f q = some (tn, x)) :
    s.tenOf f = some tn ∧ s.qp? tn q = some x := by
  unfold State.qpOf at h
  split at h
  · cases h
  · next t ht =>
    obtain ⟨y, hy, heq⟩ := Option.map_eq_some_iff.1 h
    cases heq
    exact ⟨ht, hy⟩

/-- A queue pair after a write to the host has failed. -/
def QPair.writeFailed (x : QPair) : QPair :=
  { x with st := .faulted, cqerr := true, held := none, counted := 0, fetched := x.fetched.filter (fun e => !e.isBatch) }

theorem State.hostWriteFails_up {s : State} {x : QPair} (h : x.st = .running ∨ x.st = .draining) (t q : Nat) :
    s.hostWriteFails t q x = ((s.orphan t q).setQp t q x.writeFailed).msixOf t x := if_pos h

theorem execHostWriteFailure_eq {s : State} {f : FnId} {q : Byte} {tn : Nat} {x : QPair} (hqp : s.qpOf f q.toNat = some (tn, x)) :
    execHostWriteFailure f q s = .next (s.hostWriteFails tn q.toNat x) := by
  simp only [execHostWriteFailure, hqp]

/-- A function level reset leaves its tenancy with queue pair 0 alone. -/
theorem State.flr_bound {s : State} {f : FnId} {t : Nat} (h : s.tenOf f = some t) : ∃ u : State,
    u.tenancies = s.tenancies ∧ u.dir = s.dir ∧ s.flr f = u.setTenancy t
      { s.tenancy t with
          qps := [(0, (spGet QPair.reset (s.tenancy t).qps 0).flr)], devno := 0
          ghosts := (s.tenancy t).ghosts ++ (s.tenancy t).qps.flatMap (fun p => p.2.left p.1) } := by
  refine ⟨(s.tenancy t).qps.foldl (fun s p => s.orphan t p.1) s, ?_, ?_, ?_⟩
  · exact foldl_keeps State.tenancies (fun s (p : Nat × QPair) => s.orphan_tenancies t p.1) _ s
  · exact foldl_keeps State.dir (f := fun s (p : Nat × QPair) => s.orphan t p.1) (fun _ _ => rfl) _ s
  · simp only [State.flr, h]

theorem State.tenancy_congr {s t : State} (h : t.tenancies = s.tenancies) (n : Nat) : t.tenancy n = s.tenancy n := by
  rw [State.tenancy, State.tenancy, h]

theorem QPair.mem_left {z : QPair} {e : Fetched} (he : e ∈ z.fetched) (hop : e.opcode ≠ 0x30) (j : Nat) :
    (j, e) ∈ z.left j :=
  List.mem_map.2 ⟨e, List.mem_filter.2 ⟨he, by simpa [Fetched.isBatch] using hop⟩, rfl⟩

/-- Settles O41. -/
theorem queuePairPages : Obligations.QueuePairPages := by
  refine ⟨fun f q v hw s0 => ?_, fun f q s tn x hqp hbound => ?_⟩
  · intro s
    refine ⟨fun tn x hbar hqp => ?_, fun hbar => ?_, fun tn x g hqp hg hcount htime hst => ?_⟩
    · have htail : exec (.sqtail f q v hw) s0 = .next (s.setQp tn q.toNat (x.doorTail v)) :=
        congrArg _ (State.onPage_served hbar hqp _)
      have hhead : exec (.cqhead f q v hw) s0 = .next (s.setQp tn q.toNat (x.doorHead v)) :=
        congrArg _ (State.onPage_served hbar hqp _)
      refine ⟨fun hv => ?_, fun hv => ?_, fun hv => ?_, fun hv => ?_, execRegisterWrite_cqint hbar hqp,
        fun hq hst hten memOk => ?_, fun hq hst memOk => ?_, fun hq hst => ?_⟩
      · rw [htail, QPair.doorTail, if_neg (by omega)]
      · rw [htail, QPair.doorTail, if_pos hv]
      · rw [hhead, QPair.doorHead, if_neg (by omega)]
      · rw [hhead, QPair.doorHead, if_pos hv]
      · subst hq
        obtain ⟨hsqtail, hsqhead⟩ := QPair.applied_heads x.pend x
        have hstart := State.qctlStart_stopped hbar hqp hst hten memOk
        refine ⟨_, x.start, congrArg Host.Outcome.next hstart, State.qp?_setQp_self _ _ _ _,
          rfl, rfl, rfl, hsqtail, hsqhead, ?_⟩
        rintro rfl rfl hring
        rw [State.tenancy_setQp_self, State.tenancy_setTenancy_self]
        exact Tenancy.qctlPend_ring hring 0
      · subst hq
        exact congrArg _ (State.qctlStart_refused hqp hst memOk)
      · subst hq
        refine congrArg _ ((State.onPage_served hbar hqp _).trans ?_)
        rw [QPair.stop, if_pos hst, QPair.drained_eq]
        simp
    · exact ⟨congrArg _ (State.onPage_closed hbar _ _), congrArg _ (State.onPage_closed hbar _ _),
        fun memOk => congrArg _ (State.qctlStart_closed hbar memOk), congrArg _ (State.onPage_closed hbar _ _)⟩
    · have hgo : x.counted ≠ 0 ∧ x.time ≠ 0 ∧ x.st ≠ .faulted := ⟨hcount, htime, hst⟩
      have hg1 : ((s.setQp tn q.toNat { x with counted := 0 }).tenancy tn).bound = some g := by
        rw [State.tenancy_setQp_self]
        exact hg
      refine ⟨(s.setQp tn q.toNat { x with counted := 0 }).msixOf tn x, ?_, ?_, ?_⟩
      · simp only [exec_cqintTimeExpiry, execCqintTimeExpiry, hqp, if_pos hgo]
      · rw [State.qp?_congr (State.msixOf_tenancies _ _ _), State.qp?_setQp_self]
      · rw [State.msixOf_bound hg1]
        exact spGet_spPut_self _ _ _ _
  · obtain ⟨hten, hqp?⟩ := State.tenOf_of_qpOf hqp
    refine ⟨fun hup => ?_, fun hdown => ?_, ?_⟩
    · have hb : (((s.orphan tn q.toNat).setQp tn q.toNat x.writeFailed).tenancy tn).bound = some f := by
        rw [State.tenancy_setQp_self]
        exact hbound
      refine ⟨s.hostWriteFails tn q.toNat x, x.writeFailed, execHostWriteFailure_eq hqp, ?_⟩
      rw [State.hostWriteFails_up hup, State.qp?_congr (State.msixOf_tenancies _ _ _), State.qp?_setQp_self,
        State.msixOf_bound hb]
      exact ⟨rfl, rfl, rfl, rfl, rfl, rfl, spGet_spPut_self _ _ _ _, rfl, rfl, rfl, fun p hp => State.orphan_dead hp⟩
    · have hno : ¬(x.st = .running ∨ x.st = .draining) := by
        rcases hdown with h | h <;> simp [h]
      exact (execHostWriteFailure_eq hqp).trans (congrArg Host.Outcome.next (if_neg hno))
    · obtain ⟨u, hut, hdir, hflr⟩ := State.flr_bound hten
      refine ⟨s.flr f, rfl, ?_⟩
      rw [hflr, State.tenancy_setTenancy_self]
      refine ⟨rfl, rfl, rfl, rfl, hdir, fun j z e hz he hop => ?_, ⟨(spGet QPair.reset (s.tenancy tn).qps 0).flr, ?_, rfl,
        rfl, rfl, rfl, rfl, rfl, rfl, rfl, rfl, rfl⟩, fun n hn => ?_⟩
      · exact List.mem_append_right _ (List.mem_flatMap.2 ⟨(j, z), hz, QPair.mem_left he hop j⟩)
      · rw [State.qp?, State.tenancy_setTenancy_self]
        rfl
      · rw [State.tenancy_setTenancy_ne _ _ hn, State.tenancy_congr hut]

end Sys2Proof.Machine

namespace Sys2Proof.Machine

/-! ### Starts of Tram channels (14) -/

@[simp] theorem State.channel_see (s : State) (dest src k : Nat) : (s.see dest src).channel k = s.channel k := rfl

theorem State.channel_setChannel_ne (s : State) {j k : Nat} (x : Channel) (h : j ≠ k) :
    (s.setChannel k x).channel j = s.channel j :=
  spGet_spPut_ne _ _ _ h

/-- A record of a source within the device arrives when one waits. -/
theorem State.arrive_waiting {s : State} {dest src : Nat} {errs : Bool} (ho : outsideSrc src = false)
    (h : s.waiting dest src errs ≠ 0) : s.arrive dest src errs = some (s.see dest src) := by
  simp [State.arrive, ho, h]

/-- The SIGOUT of an engine is a source within the device (R387). -/
theorem outsideSrc_engine {k x : Nat} (hk : k < 128) : outsideSrc (160 + k / 32 * 32 + x % 32) = false := by
  simp only [outsideSrc, Bool.or_eq_false_iff, Bool.and_eq_false_iff, decide_eq_false_iff_not]
  omega

section Starts
variable {c : Channel}

theorem Channel.start_idle (h : c.st = .idle) (part : Bool) : c.start part = c.begin part := by
  simp only [Channel.start, h]

/-- A start of an ACTIVE or HALTED channel is counted. -/
theorem Channel.start_counted (h : c.st = .active ∨ c.st = .halted) (hp : c.tpend ≠ 255) :
    c.start false = { c with tpend := c.tpend + 1 } := by
  rcases h with h | h <;> simp [Channel.start, h, hp]

/-- The 256th start is lost, and TOVF says so (R395). -/
theorem Channel.start_lost (h : c.st = .active ∨ c.st = .halted) (hp : c.tpend = 255) :
    c.start false = { c with tovf := true } := by
  rcases h with h | h <;> simp [Channel.start, h, hp]

theorem Channel.start_partner (h : c.st = .active ∨ c.st = .halted) (hp : c.tpend2 < 255) :
    c.start true = { c with tpend2 := c.tpend2 + 1 } := by
  rcases h with h | h <;> simp [Channel.start, h, Nat.ne_of_lt hp]

theorem Channel.startRecord_wanted (h : c.fn = .running) (part : Bool) : c.startRecord true part = c.start part := by
  simp [Channel.startRecord, h]

theorem Channel.startRecord_discarded (h : c.fn ≠ .running) (want part : Bool) : c.startRecord want part = c := by
  simp [Channel.startRecord, h]

theorem Channel.settling_iff : c.settling = true ↔ c.st = .idle ∧ c.unacked = true := by
  cases h : c.st <;> simp [Channel.settling, h]

end Starts

theorem tramSwst_starts {s : State} {k : Nat} (hf : (s.channel k).fn = .running) (hs : (s.channel k).settling = false) :
    tramSwst s k = s.setChannel k ((s.channel k).start false) := by
  simp [tramSwst, hf, hs]

theorem tramSwst_ignored {s : State} {k : Nat} (h : (s.channel k).fn ≠ .running ∨ (s.channel k).settling = true) :
    tramSwst s k = s := by
  rcases h with h | h <;> simp [tramSwst, h]

theorem tramResume_ignored {s : State} {k : Nat}
    (h : (s.channel k).st ≠ .halted ∨ (s.channel k).tlbHalt = false ∨ (s.channel k).fn ≠ .running) :
    tramResume s k = s := by
  rcases h with h | h | h <;> simp [tramResume, h]

theorem exec_tramTrigger_arrived {k : Fin 128} {src : Fin 384} {s : State} (ho : outsideSrc src.val = false)
    (hw : s.waiting (136 + k.val) src.val false ≠ 0) (ht : (s.channel k.val).tv = true) (hs : (s.channel k.val).tsrc = src.val) :
    exec (.tramTrigger k src) s
      = .next ((s.see (136 + k.val) src.val).setChannel k.val ((s.channel k.val).startRecord true false)) := by
  simp [execTramTrigger, trigDest, State.arrive_waiting ho hw, ht, hs]

theorem exec_partnerStart_arrived {k : Fin 128} {s : State} (ht : (s.channel k.val).tpair = true)
    (hw : s.waiting (264 + k.val) ((s.channel k.val).partnerSrc k.val) true ≠ 0) :
    exec (.partnerStart k) s = .next ((s.see (264 + k.val) ((s.channel k.val).partnerSrc k.val)).setChannel k.val
      ((s.channel k.val).startRecord true true)) := by
  have ho : outsideSrc ((s.channel k.val).partnerSrc k.val) = false := outsideSrc_engine k.isLt
  simp [execPartnerStart, partDest, State.arrive_waiting ho hw, ht]

theorem exec_pacingRecord_arrived {k : Fin 128} {src : Fin 384} {s : State} (ho : outsideSrc src.val = false)
    (hw : s.waiting (392 + k.val) src.val true ≠ 0) (hm : (s.channel k.val).pmode = 2)
    (hs : (s.channel k.val).psrc = src.val) :
    exec (.pacingRecord k src) s
      = .next ((s.see (392 + k.val) src.val).setChannel k.val (s.channel k.val).credit) := by
  simp [execPacingRecord, paceDest, State.arrive_waiting ho hw, hm, hs]

/-- What every start of a channel has in common: from IDLE a chain begins, from ACTIVE or HALTED the start counts. -/
theorem starts_of_exec {k : Nat} {cmd : Instr} {s u : State} {c : Channel}
    (h : c.fn = .running → exec cmd s = .next (u.setChannel k (c.start false))) :
    (c.fn = .running → c.st = .idle → exec cmd s = .next (u.setChannel k (c.begin false)))
    ∧ (c.fn = .running → c.st = .active ∨ c.st = .halted → c.tpend ≠ 255 →
        exec cmd s = .next (u.setChannel k { c with tpend := c.tpend + 1 }))
    ∧ (c.fn = .running → c.st = .active ∨ c.st = .halted → c.tpend = 255 →
        exec cmd s = .next (u.setChannel k { c with tovf := true })) :=
  ⟨fun hf hi => Channel.start_idle hi false ▸ h hf,
   fun hf ha hp => Channel.start_counted ha hp ▸ h hf,
   fun hf ha hp => Channel.start_lost ha hp ▸ h hf⟩

section Bursts
variable {s : State} {k : Nat} {d : Desc} (hd : (s.channel k).desc = some d) (hst : (s.channel k).st = .active)
  (hph : (s.channel k).phase = .move) (hf : (s.channel k).fn = .running) (ho : tramOver s k (s.channel k) d = true)
  (hb : (s.channel k).burst < d.len)
include hd hst hph hf ho hb

/-- With credits, a burst takes one (R396). -/
theorem tramBurst_credit (hm : (s.channel k).pmode = 2) (hc : 0 < (s.channel k).pcred) :
    tramBurst s k = s.setChannel k { s.channel k with burst := min d.len ((s.channel k).burst + 2 ^ (s.channel k).bsz)
                                                      pcred := (s.channel k).pcred - 1 } := by
  simp [tramBurst, hd, hst, hph, hf, ho, hb, hm, hc]

theorem tramBurst_req (hm : (s.channel k).pmode = 1) (hr : (s.channel k).req = true) :
    tramBurst s k = s.setChannel k { s.channel k with burst := min d.len ((s.channel k).burst + 2 ^ (s.channel k).bsz) } := by
  simp [tramBurst, hd, hst, hph, hf, ho, hb, hm, hr]

omit hst hph hf ho hb in
theorem tramBurst_waits (h2 : (s.channel k).pmode = 2 → (s.channel k).pcred = 0)
    (h1 : (s.channel k).pmode = 1 → (s.channel k).req = false) : tramBurst s k = s := by
  have hn : ¬ (((s.channel k).pmode = 1 ∧ (s.channel k).req = true) ∨ ((s.channel k).pmode = 2 ∧ 0 < (s.channel k).pcred)) := by
    rintro (⟨hm, hr⟩ | ⟨hm, hc⟩)
    · exact absurd hr (by simp [h1 hm])
    · exact absurd (h2 hm) (Nat.ne_of_gt hc)
  simp [tramBurst, hd, hn]

end Bursts

/-- Settles O53: each start, record and burst by the lemma of its case. -/
theorem tramStarts : Obligations.TramStarts := by
  unfold Obligations.TramStarts
  intro k s c begun starts
  refine ⟨fun hs => ?swst, fun hs => ?settling, Channel.settling_iff, fun hf => ?stopped, fun src ht hsrc ho hw => ?trigger, ?partner,
    fun src ho hw hm hsrc => ?pacing, fun d hd hst hph hf hov hb => ?burst, fun hst ht hf => ?resume, fun h => ?noResume, ?dis⟩
  case swst => exact starts_of_exec fun hf => congrArg Host.Outcome.next (tramSwst_starts hf hs)
  case settling => exact congrArg Host.Outcome.next (tramSwst_ignored (.inr hs))
  case stopped => exact congrArg Host.Outcome.next (tramSwst_ignored (.inl hf))
  case trigger =>
    have he := exec_tramTrigger_arrived ho hw ht hsrc
    refine ⟨starts_of_exec fun hf => ?_, fun hf => ?_⟩
    · rw [he, Channel.startRecord_wanted hf]
    · rw [he, Channel.startRecord_discarded hf]
  case partner =>
    intro src ht hw hf
    have he := exec_partnerStart_arrived ht hw
    rw [Channel.startRecord_wanted hf] at he
    exact ⟨fun hi => he.trans (by rw [Channel.start_idle hi]; rfl), fun ha hp => he.trans (by rw [Channel.start_partner ha hp]; rfl)⟩
  case pacing =>
    have he := exec_pacingRecord_arrived ho hw hm hsrc
    refine ⟨fun hp => ?_, fun hp => ?_⟩
    · rw [he, Channel.credit, if_neg hp]
    · rw [he, Channel.credit, if_pos hp]
  case burst =>
    exact ⟨fun hm hc => congrArg Host.Outcome.next (tramBurst_credit hd hst hph hf hov hb hm hc),
      fun hm hr => congrArg Host.Outcome.next (tramBurst_req hd hst hph hf hov hb hm hr),
      fun h2 h1 => congrArg Host.Outcome.next (tramBurst_waits hd h2 h1)⟩
  case resume => exact congrArg Host.Outcome.next (if_pos ⟨hst, ht, hf⟩)
  case noResume => exact congrArg Host.Outcome.next (tramResume_ignored h)
  case dis =>
    refine ⟨tramDis s k.val, rfl, ?_⟩
    have hk : (tramDis s k.val).channel k.val = _ := State.channel_setChannel _ _ _
    rw [hk]
    exact ⟨rfl, rfl, rfl, rfl, rfl, rfl, rfl, rfl, rfl, rfl, fun j hj => State.channel_setChannel_ne _ _ hj⟩

end Sys2Proof.Machine

namespace Sys2Proof.Machine

/-! ### Key bytes of a device that start-up has laid out (R285, R288) -/

/-- The same bytes in plain memory and the directory, in the same places. -/
structure State.sameMem (s t : State) : Prop where
  layout : t.layout = s.layout
  kabase : t.kabase = s.kabase
  dir : t.dir = s.dir
  mem : t.mem = s.mem

theorem State.sameMem.refl (s : State) : s.sameMem s := ⟨rfl, rfl, rfl, rfl⟩

theorem State.sameMem.trans {s t u : State} (h : s.sameMem t) (g : t.sameMem u) : s.sameMem u :=
  ⟨g.layout.trans h.layout, g.kabase.trans h.kabase, g.dir.trans h.dir, g.mem.trans h.mem⟩

/-- What a byte written leaves in memory and the directory depends on memory and the directory alone. -/
theorem State.sameMem.attWr {s t : State} (h : s.sameMem t) (pa : Nat) (b : Byte) : (s.attWr pa b).sameMem (t.attWr pa b) := by
  have hk : t.inKeys pa = s.inKeys pa := by simp only [State.inKeys, h.layout]
  have hs : t.dirSlot pa = s.dirSlot pa := by simp only [State.dirSlot, h.layout]
  have hp : ∀ i, t.entryPatched i pa b = s.entryPatched i pa b := fun i => by
    simp only [State.entryPatched, State.entryBytes, h.dir, h.mem]
  cases hkey : s.inKeys pa with
  | true =>
    rw [State.attWr_inKeys b hkey, State.attWr_inKeys b (hk.trans hkey)]
    exact ⟨h.layout, h.kabase, h.dir, h.mem⟩
  | false =>
    cases hslot : s.dirSlot pa with
    | none =>
      rw [State.attWr_plain b hkey hslot, State.attWr_plain b (hk.trans hkey) (hs.trans hslot), h.mem]
      exact ⟨h.layout, h.kabase, h.dir, rfl⟩
    | some i =>
      cases hd : dirOfImage (s.entryPatched i pa b) with
      | some d =>
        rw [State.attWr_entry_some hkey hslot hd,
          State.attWr_entry_some (hk.trans hkey) (hs.trans hslot) ((congrArg dirOfImage (hp i)).trans hd), h.mem, h.dir]
        generalize List.replicate 32 memDefault = z
        exact ⟨h.layout, h.kabase, rfl, rfl⟩
      | none =>
        rw [State.attWr_entry_none hkey hslot hd,
          State.attWr_entry_none (hk.trans hkey) (hs.trans hslot) ((congrArg dirOfImage (hp i)).trans hd), hp, h.mem, h.dir]
        exact ⟨h.layout, h.kabase, rfl, rfl⟩

theorem State.sameMem.wr {s t : State} (h : s.sameMem t) (pa : Nat) (b : Byte) : (s.wr pa b).sameMem (t.wr pa b) := by
  cases hpa : pKind pa with
  | attached =>
    rw [State.wr_attached b hpa, State.wr_attached b hpa]
    exact h.attWr pa b
  | tile m o kind =>
    rw [State.wr_tile b hpa, State.wr_tile b hpa, h.mem]
    exact ⟨h.layout, h.kabase, h.dir, rfl⟩
  | square | kerb | reg | resv =>
    simp only [State.wr, hpa, h.mem]
    exact ⟨h.layout, h.kabase, h.dir, by simp only [h.mem]⟩

theorem State.sameMem.wrAll {s t : State} (h : s.sameMem t) (l : List Nat) (bs : List Byte) :
    (s.wrAll l bs).sameMem (t.wrAll l bs) := by
  induction l generalizing s t bs with
  | nil => exact h
  | cons a r ih => cases bs with
    | nil => exact h
    | cons b bs => exact ih (h.wr a b) bs

/-- Start-up has laid out the key array at KABASE, in attached memory. -/
structure State.keysHeld (s : State) : Prop where
  live : s.layout.live = true
  base : s.kabase.toNat = s.layout.keyBase
  fits : s.layout.keyBase + s.layout.keyLen ≤ sqBase

theorem State.laidOut.keysHeld {s : State} (h : s.laidOut) : s.keysHeld := by
  obtain ⟨hlive, hbase, -, -, -, -, hfits, -⟩ := h
  exact ⟨hlive, hbase, hfits⟩

theorem State.keysHeld.of_sameMem {s t : State} (hs : s.keysHeld) (h : s.sameMem t) : t.keysHeld :=
  ⟨h.layout ▸ hs.live, by rw [h.kabase, h.layout]; exact hs.base, h.layout ▸ hs.fits⟩

/-- A key cache holds frames of the key array alone. -/
def cacheWithin (n : Nat) (cache : Sparse Byte) : Prop := ∀ p ∈ cache, p.1 < n

theorem cacheWithin.put {n : Nat} {cache : Sparse Byte} (h : cacheWithin n cache) {f : Nat} (hf : f < n) (b : Byte) :
    cacheWithin n (spPut cache f b) := by
  intro p hp
  rcases mem_spPut hp with rfl | hp
  · exact hf
  · exact h p hp

/-- The key bytes of a Tram unit's cache lie in the key array. -/
theorem State.laidOut.tramCache {s : State} (h : s.laidOut) (q : Nat) : cacheWithin s.layout.keyLen (s.tram q).keyCache := by
  obtain ⟨-, -, -, -, -, -, -, -, -, -, htrams⟩ := h
  intro p hp
  cases hq : spGet? s.trams q with
  | none =>
    rw [State.tram, spGet, hq] at hp
    cases hp
  | some u =>
    rw [State.tram, spGet, hq] at hp
    exact htrams _ (mem_of_spGet? hq) p hp

/-- A key byte of the key array written changes no memory. -/
theorem State.keysHeld.keyBack {s : State} (hs : s.keysHeld) {f : Nat} (hf : f < s.layout.keyLen) (b : Byte) :
    s.sameMem (s.keyBack f b) := by
  have hlt : s.kabase.toNat + f < sqBase := by have := hs.base; have := hs.fits; omega
  have hkey : s.inKeys (s.kabase.toNat + f) = true := by
    simp only [State.inKeys, hs.live, hs.base, Bool.true_and, Bool.and_eq_true, decide_eq_true_eq]
    omega
  rw [State.keyBack, State.setFrameKey, State.wr_attached _ (pKind_attached.2 hlt), State.attWr_inKeys _ hkey]
  exact ⟨rfl, rfl, rfl, rfl⟩

theorem touchFrame_sameMem {s : State} {cache : Sparse Byte} (hs : s.keysHeld) (hc : cacheWithin s.layout.keyLen cache) (v : Nat)
    {f : Nat} (hf : f < s.layout.keyLen) (um : Byte) :
    s.sameMem (touchFrame s cache v f um).1 ∧ cacheWithin s.layout.keyLen (touchFrame s cache v f um).2 := by
  unfold touchFrame
  split
  · exact ⟨.refl s, hc.put hf _⟩
  · dsimp only
    split
    · exact ⟨.refl s, hc.put hf _⟩
    · split
      · next g x hg =>
        have hgc : (g, x) ∈ cache := List.mem_of_getElem? hg
        exact ⟨hs.keyBack (hc _ hgc) x, cacheWithin.put (fun p hp => hc p (mem_spDel hp)) hf _⟩
      · exact ⟨.refl s, hc.put hf _⟩

/-- A granule, when a frame, has its key byte in the key array. -/
def Gran.within (n : Nat) : Gran → Prop
  | .frame f => f < n
  | _ => True

theorem touchKeys_sameMem (um : Byte) (v : Nat) (l : List (Nat × Gran)) {s : State} {cache : Sparse Byte}
    (hl : ∀ p ∈ l, p.2.within s.layout.keyLen) (hs : s.keysHeld) (hc : cacheWithin s.layout.keyLen cache) :
    s.sameMem (touchKeys um v l s cache).1 := by
  induction l generalizing s cache with
  | nil => exact .refl s
  | cons p r ih =>
    obtain ⟨i, g⟩ := p
    have hr : ∀ x ∈ r, x.2.within s.layout.keyLen := fun x hx => hl x (List.mem_cons_of_mem _ hx)
    cases g with
    | frame f =>
      obtain ⟨h1, h2⟩ := touchFrame_sameMem hs hc v (hl _ List.mem_cons_self) um
      exact h1.trans (ih (h1.layout ▸ hr) (hs.of_sameMem h1) (h1.layout ▸ h2))
    | tile i =>
      have h1 : s.sameMem { s with tileKeys := spPut s.tileKeys i (spGet 0 s.tileKeys i ||| um) } := ⟨rfl, rfl, rfl, rfl⟩
      exact h1.trans (ih hr (hs.of_sameMem h1) hc)
    | sq i =>
      have h1 : s.sameMem { s with sqKeys := spPut s.sqKeys i (spGet 0 s.sqKeys i ||| um) } := ⟨rfl, rfl, rfl, rfl⟩
      exact h1.trans (ih hr (hs.of_sameMem h1) hc)

/-- The frames of an access that R38 lets pass have their key bytes in the key array. -/
theorem granList_within {s : State} (hin : s.installed ≤ s.layout.keyLen * 4096) {l : List Nat}
    (hl : ∀ pa ∈ l, r38Refuses s pa = false) (n i : Nat) (prev : Option Gran) :
    ∀ p ∈ granList n i prev (l.map Loc.phys), p.2.within s.layout.keyLen := by
  induction l generalizing i prev with
  | nil => simp [granList]
  | cons pa r ih =>
    have hr := ih (fun x hx => hl x (List.mem_cons_of_mem _ hx))
    have hg : ∀ g, granOf n (.phys pa) = some g → g.within s.layout.keyLen := by
      intro g hg
      cases hk : pKind pa with
      | attached =>
        have hpa := hl pa List.mem_cons_self
        simp only [r38Refuses, hk, decide_eq_false_iff_not] at hpa
        simp only [granOf, hk, Option.some.injEq] at hg
        subst hg
        simp only [Gran.within]
        omega
      | square | kerb | tile => simp only [granOf, hk, Option.some.injEq] at hg; subst hg; trivial
      | reg | resv => simp [granOf, hk] at hg
    intro p hp
    rw [List.map_cons, granList] at hp
    split at hp
    · next g hgran =>
      split at hp
      · exact hr _ _ p hp
      · rcases List.mem_cons.1 hp with rfl | hp
        · exact hg _ hgran
        · exact hr _ _ p hp
    · exact hr _ _ p hp

end Sys2Proof.Machine

namespace Sys2Proof.Machine

/-! ### Accesses of Tram channels (14) -/

/-- Every channel and every count of records stays. -/
structure State.sameUnits (s t : State) : Prop where
  channels : t.channels = s.channels
  raised : t.raised = s.raised

theorem State.sameUnits.trans {s t u : State} (h : s.sameUnits t) (g : t.sameUnits u) : s.sameUnits u :=
  ⟨g.channels.trans h.channels, g.raised.trans h.raised⟩

theorem State.near.sameUnits {s t : State} (h : s.near t) : s.sameUnits t := by
  obtain ⟨_, _, _, _, _, _, rfl⟩ := h
  exact ⟨rfl, rfl⟩

theorem State.sameUnits.channel {s t : State} (h : s.sameUnits t) (k : Nat) : t.channel k = s.channel k := by
  rw [State.channel, State.channel, h.channels]

theorem State.wrAll_near (s : State) (l : List Nat) (bs : List Byte) : s.near (s.wrAll l bs) := by
  induction l generalizing s bs with
  | nil => exact State.near_refl s
  | cons a r ih => cases bs with
    | nil => exact State.near_refl s
    | cons b bs => exact State.near_trans (wr_near s a b) (ih _ bs)

theorem tramTouch_sameUnits (s : State) (k : Nat) (l : List Nat) (wr : Bool) : s.sameUnits (tramTouch s k l wr) :=
  (touchKeys_near (useMod wr) (Config.keyVictim s.free) (granList 0 0 none (l.map Loc.phys)) s
    (s.tram (k / 32)).keyCache).sameUnits.trans ⟨rfl, rfl⟩

theorem tramDstat_sameUnits {s t : State} {k : Nat} {c : Channel} {code : Byte} (h : tramDstat s k c code = .ok t) :
    s.sameUnits t := by
  unfold tramDstat at h
  split at h
  · cases h
  · next l _ =>
    split at h
    · cases h
    · cases h
      exact (tramTouch_sameUnits s k l true).trans (State.wrAll_near _ _ _).sameUnits

/-- An access that its checks pass lies where R38 lets it. -/
theorem tramCheck_range {s : State} {k : Nat} {c : Channel} {as_ a len : Nat} {wr : Bool} {l : List Nat}
    (h : tramCheck s k c as_ a len wr = .ok l) : ∀ pa ∈ l, r38Refuses s pa = false := by
  have hrange : tramRange s l = none := by
    simp only [tramCheck] at h
    split at h
    · cases h
    · next l' _ =>
      split at h
      · cases h
      · next hr =>
        split at h
        · cases h
        · cases h
          exact hr
  unfold tramRange at hrange
  split at hrange
  · cases hrange
  · split at hrange
    · cases hrange
    · next hany => simpa using hany

/-- The key bytes that an access touches change no memory. -/
theorem tramTouch_sameMem {s : State} (hs : s.laidOut) {l : List Nat} (hl : ∀ pa ∈ l, r38Refuses s pa = false) (k : Nat)
    (wr : Bool) : s.sameMem (tramTouch s k l wr) := by
  obtain ⟨-, -, -, hin, -⟩ := id hs
  exact (touchKeys_sameMem (useMod wr) (Config.keyVictim s.free) _ (granList_within hin hl 0 0 none) hs.keysHeld
    (hs.tramCache (k / 32))).trans ⟨rfl, rfl, rfl, rfl⟩

/-- An access of ports in service meets no malfunction of its own. -/
theorem tramBad_up {s : State} {l : List Nat} (h : ∀ pa ∈ l, s.portDown pa = none) : tramBad s l none = none := by
  have hnone : l.findSome? s.portDown = none := List.findSome?_eq_none_iff.2 h
  simp only [tramBad, hnone, tramMal]

theorem tramNote_none (s : State) (k : Nat) (l : List Nat) : tramNote s k l none = s := rfl

/-! #### An engine's turn (R383) -/

theorem State.tram_setTram (s : State) (q : Nat) (x : Tram) : (s.setTram q x).tram q = x := spGet_spPut_self _ _ _ _

theorem tramServes_sameUnits (s : State) (k : Nat) (wr : Bool) : s.sameUnits (tramServes s k wr) := ⟨rfl, rfl⟩

theorem tramServes_sameMem (s : State) (k : Nat) (wr : Bool) : s.sameMem (tramServes s k wr) := ⟨rfl, rfl, rfl, rfl⟩

theorem keyRefusal_setTram (s : State) (q : Nat) (x : Tram) (cache : Sparse Byte) (a : BitVec 4) (wr : Bool)
    (l : List (Nat × Gran)) : keyRefusal (s.setTram q x) cache a wr l = keyRefusal s cache a wr l := by
  induction l with
  | nil => rfl
  | cons p r ih =>
    have he : keyEntry (s.setTram q x) cache p.2 = keyEntry s cache p.2 := by cases p.2 <;> rfl
    rw [keyRefusal, keyRefusal, ih, he]

/-- Whose turn it is matters to no check. -/
theorem tramCheck_tramServes (s : State) (k : Nat) (wr : Bool) (c : Channel) (as_ a len : Nat) (w : Bool) :
    tramCheck (tramServes s k wr) k c as_ a len w = tramCheck s k c as_ a len w := by
  have hr : ∀ l, tramRange (tramServes s k wr) l = tramRange s l := fun _ => rfl
  have hk : ∀ cache l, keyRefusal (tramServes s k wr) cache c.ckey w l = keyRefusal s cache c.ckey w l :=
    fun cache l => keyRefusal_setTram _ _ _ cache c.ckey w l
  have htlb : ((tramServes s k wr).tram (k / 32)).tlb = (s.tram (k / 32)).tlb := by rw [tramServes, State.tram_setTram]
  have hcache : ((tramServes s k wr).tram (k / 32)).keyCache = (s.tram (k / 32)).keyCache := by
    rw [tramServes, State.tram_setTram]
  simp only [tramCheck, hr, hk, htlb, hcache]

theorem State.laidOut.tramServes {s : State} (hs : s.laidOut) (k : Nat) (wr : Bool) : (tramServes s k wr).laidOut := by
  obtain ⟨h1, h2, h3, h4, h5, h6, h7, h8, h9, h10, h11⟩ := id hs
  refine ⟨h1, h2, h3, h4, h5, h6, h7, h8, h9, h10, fun u hu p hp => ?_⟩
  rcases mem_spPut hu with rfl | hu
  · exact hs.tramCache (k / 32) p hp
  · exact h11 u hu p hp

/-! #### Halts and errors (R399 to R401) -/

/-- A TLB miss halts the channel, and raises the channel's record to the control cores. -/
theorem tramFail_miss (s : State) (k : Nat) (side : BitVec 2) (sub : Byte) (addr : W64) (dstat : Bool) :
    ∃ x : Channel, tramFail s k side 0x02 sub addr true dstat = (s.setChannel k x).raise (296 + k / 32)
      ∧ x.st = .halted ∧ x.tlbHalt = true ∧ x.cfault = addr ∧ x.fn = (s.channel k).fn :=
  ⟨_, rfl, rfl, rfl, rfl, rfl⟩

/-- Another refusal puts the channel in ERROR and its function FAULTED. -/
theorem tramFail_refused (s : State) (k : Nat) (side : BitVec 2) {code : Byte} (sub : Byte) (addr : W64) (fetch dstat : Bool)
    (h2 : code ≠ 0x02) (h30 : code ≠ 0x30) :
    ∃ (u : State) (x : Channel),
      tramFail s k side code sub addr fetch dstat = ((u.setChannel k x).raise (296 + k / 32)).raiseErr (32 + k)
        ∧ s.sameUnits u ∧ x.st = .error ∧ x.fn = .faulted ∧ x.code = code := by
  unfold tramFail
  rw [if_neg h2]
  refine ⟨_, _, rfl, ?_, rfl, rfl, rfl⟩
  dsimp only
  rw [if_neg h30]
  split
  · split
    · next h => exact tramDstat_sameUnits h
    · exact ⟨rfl, rfl⟩
  · exact ⟨rfl, rfl⟩

/-! #### The position registers -/

section PosRegs
variable (c : Channel)

@[simp] theorem Channel.posRegs_st : c.posRegs.st = c.st := by unfold Channel.posRegs; split <;> rfl
@[simp] theorem Channel.posRegs_phase : c.posRegs.phase = c.phase := by unfold Channel.posRegs; split <;> rfl
@[simp] theorem Channel.posRegs_desc : c.posRegs.desc = c.desc := by unfold Channel.posRegs; split <;> simp [*]
@[simp] theorem Channel.posRegs_rpos : c.posRegs.rpos = c.rpos := by unfold Channel.posRegs; split <;> rfl
@[simp] theorem Channel.posRegs_buf : c.posRegs.buf = c.buf := by unfold Channel.posRegs; split <;> rfl
@[simp] theorem Channel.posRegs_unacked : c.posRegs.unacked = c.unacked := by unfold Channel.posRegs; split <;> rfl

end PosRegs

/-- The channel with a descriptor just fetched. -/
def Channel.fetched (c : Channel) (d : Desc) : Channel :=
  { c with desc := some d, rpos := 0, buf := [], burst := 0, phase := .move }.posRegs

theorem Channel.fetched_fields (c : Channel) (d : Desc) :
    (c.fetched d).desc = some d ∧ (c.fetched d).phase = .move ∧ (c.fetched d).st = c.st
      ∧ (c.fetched d).crem = BitVec.ofNat 32 d.len ∧ (c.fetched d).rpos = 0 ∧ (c.fetched d).buf = [] := by
  simp [Channel.fetched, Channel.posRegs, Channel.wpos]

/-! #### Descriptor fetches (R388, R389) -/

section Fetch
variable {s : State} {k : Nat} (hst : (s.channel k).st = .active) (hph : (s.channel k).phase = .fetch)
  (hf : (s.channel k).fn = .running) (has : adAs (s.channel k).ccur ≠ 3)
  (hphys : adAs (s.channel k).ccur = 2 → (s.channel k).phys = true) (hal : adAddr (s.channel k).ccur % 32 = 0)
include hst hph hf has hphys hal

theorem tramFetch_checked (err : Option HwErr) : tramFetch s k err =
    match tramCheck s k (s.channel k) (adAs (s.channel k).ccur) (adAddr (s.channel k).ccur) 32 false with
    | .error (code, sub) => tramFail s k 2 code sub (s.channel k).ccur true false
    | .ok l =>
      match tramBad s l err with
      | some m => tramFail (tramServed s l) k 2 0x30 0 (s.channel k).ccur true false m
      | none =>
        if descBad (s.channel k).phys (l.map s.rd) then
          tramFail ((tramNote (tramTouch s k l false) k l err).setChannel k { s.channel k with desc := none }) k 2 0x10 0
            (s.channel k).ccur true true
        else (tramNote (tramTouch s k l false) k l err).setChannel k
          ((s.channel k).fetched (descOf (l.map s.rd))) := by
  have hbad : ¬(adAs (s.channel k).ccur = 3 ∨ (adAs (s.channel k).ccur = 2 ∧ (!(s.channel k).phys) = true)
      ∨ adAddr (s.channel k).ccur % 32 ≠ 0) := by
    rintro (h | ⟨h, hp⟩ | h)
    · exact has h
    · simp [hphys h] at hp
    · exact h hal
  unfold tramFetch
  dsimp only
  rw [if_neg (not_not.2 ⟨hst, hph, hf⟩), if_neg hbad]
  rfl

theorem tramFetch_ok {l : List Nat}
    (hl : tramCheck s k (s.channel k) (adAs (s.channel k).ccur) (adAddr (s.channel k).ccur) 32 false = .ok l)
    (hup : ∀ pa ∈ l, s.portDown pa = none) (hb : descBad (s.channel k).phys (l.map s.rd) = false) :
    tramFetch s k none = (tramTouch s k l false).setChannel k
      ((s.channel k).fetched (descOf (l.map s.rd))) := by
  rw [tramFetch_checked hst hph hf has hphys hal, hl]
  simp only [tramBad_up hup, hb, tramNote_none]
  rfl

theorem tramFetch_bad {l : List Nat}
    (hl : tramCheck s k (s.channel k) (adAs (s.channel k).ccur) (adAddr (s.channel k).ccur) 32 false = .ok l)
    (hup : ∀ pa ∈ l, s.portDown pa = none) (hb : descBad (s.channel k).phys (l.map s.rd) = true) :
    tramFetch s k none = tramFail ((tramTouch s k l false).setChannel k { s.channel k with desc := none }) k 2 0x10 0
      (s.channel k).ccur true true := by
  rw [tramFetch_checked hst hph hf has hphys hal, hl]
  simp only [tramBad_up hup, hb, tramNote_none, if_true]

theorem tramFetch_miss
    (hl : tramCheck s k (s.channel k) (adAs (s.channel k).ccur) (adAddr (s.channel k).ccur) 32 false = .error (0x02, 0))
    (err : Option HwErr) : tramFetch s k err = tramFail s k 2 0x02 0 (s.channel k).ccur true false := by
  rw [tramFetch_checked hst hph hf has hphys hal, hl]

end Fetch

/-! #### Reads and writes (R383, R391 to R393) -/

theorem tramRead_ok {s : State} {k stop : Nat} {d : Desc} (hd : (s.channel k).desc = some d) (hspan : tramSpan s k = some stop)
    (hnext : tramNext s (k / 32) false = some k) {l : List Nat}
    (hl : tramCheck s k (s.channel k) (adAs d.src) (srcElem d (s.channel k).rpos)
      (((stop + 2 ^ d.sw.toNat - 1) / 2 ^ d.sw.toNat - (s.channel k).rpos / 2 ^ d.sw.toNat) * 2 ^ d.sw.toNat) false = .ok l)
    (hup : ∀ pa ∈ l, s.portDown pa = none) :
    tramRead s k none
      = (tramTouch (tramServes s k false) k l false).setChannel k ((s.channel k).gather d (l.map s.rd) stop) := by
  simp only [tramRead, hd, hspan, hnext, ne_eq, not_true_eq_false, if_false, hl, tramBad_up hup, tramNote_none]

/-- Without overlap and pacing, a read takes whole elements within one line, for which the share has room. -/
theorem tramSpan_plain {s : State} {k : Nat} {d : Desc} (hd : (s.channel k).desc = some d) (hm : (s.channel k).pmode = 0)
    (hmov : (s.channel k).moves = true) (hb : tramBlocks s k (s.channel k) d = false) (hr : (s.channel k).rpos < d.len)
    (hfix : adFix d.src = false) {stop : Nat}
    (hstop : stop = min (((s.channel k).rpos / 2 ^ d.sw.toNat
      + max 1 ((64 - srcElem d (s.channel k).rpos % 64) / 2 ^ d.sw.toNat)) * 2 ^ d.sw.toNat) d.len)
    (hlt : (s.channel k).rpos < stop) :
    tramSpan s k = some stop ↔ (s.channel k).buf.length + (stop - (s.channel k).rpos) ≤ 2048 := by
  have hle : ¬stop ≤ (s.channel k).rpos := by omega
  have hlim : ¬(s.channel k).limit d ≤ (s.channel k).rpos := by simp only [Channel.limit, hm, if_true]; omega
  simp only [tramSpan, hd, hb, hfix, hm, Bool.false_eq_true, if_false, if_true, hmov, ← hstop, hlim, hle]
  simp

theorem tramNext_ready {s : State} {q m : Nat} {wr : Bool} (h : tramNext s q wr = some m) :
    (wr = true → tramHas s m = true) ∧ (wr = false → tramSpan s m ≠ none) := by
  have hp := List.find?_some h
  cases wr with
  | true => exact ⟨fun _ => by simpa using hp, nofun⟩
  | false => exact ⟨nofun, fun _ hn => by simp [hn] at hp⟩

/-- Every channel of a unit with a priority has its turn. -/
theorem mem_tramOrder {s : State} {q i : Nat} (wr : Bool) {pri : Bool} (hi : i < 32) (hp : (s.channel (q * 32 + i)).pri = pri) :
    q * 32 + i ∈ tramOrder s q wr pri := by
  refine List.mem_filter.2 ⟨List.mem_map.2 ⟨(i + 32 - (spGet 31 (s.tram q).served (wr.toNat * 2 + pri.toNat) + 1) % 32) % 32,
    List.mem_range.2 (Nat.mod_lt _ (by decide)), ?_⟩, by simp [hp]⟩
  omega

/-- A channel without PRI is served only when no channel with PRI can be. -/
theorem tramNext_pri {s : State} {q m : Nat} {wr : Bool} (h : tramNext s q wr = some m) (hm : (s.channel m).pri = false)
    {i : Nat} (hi : i < 32) (hp : (s.channel (q * 32 + i)).pri = true) :
    (wr = true → tramHas s (q * 32 + i) = false) ∧ (wr = false → tramSpan s (q * 32 + i) = none) := by
  have hnone : (tramOrder s q wr true).find? (fun k => if wr then tramHas s k else (tramSpan s k).isSome) = none := by
    cases hf : (tramOrder s q wr true).find? (fun k => if wr then tramHas s k else (tramSpan s k).isSome) with
    | none => rfl
    | some j =>
      have hj : j = m := by
        rw [tramNext, List.find?_append, hf] at h
        exact Option.some.inj h
      have hpri := (List.mem_filter.1 (List.mem_of_find?_eq_some hf)).2
      simp [hj, hm] at hpri
  have hno := List.find?_eq_none.1 hnone _ (mem_tramOrder wr hi hp)
  cases wr with
  | true => exact ⟨fun _ => by simpa using hno, nofun⟩
  | false => exact ⟨nofun, fun _ => by simpa using hno⟩

theorem tramHas_writeLen {s : State} {k : Nat} {d : Desc} (hd : (s.channel k).desc = some d) (h : tramHas s k = true) :
    (s.channel k).writeLen d ≠ 0 := by
  simp only [tramHas, hd, Bool.and_eq_true, bne_iff_ne] at h
  exact h.1.2

/-- The channel once `n` bytes of its share are written. -/
def Channel.wrote (c : Channel) (d : Desc) (n : Nat) : Channel :=
  { c with buf := c.buf.drop n, unacked := true
           phase := if c.rpos - (c.buf.length - n) = d.len then .done else .move }.posRegs

theorem tramWrite_ok {s : State} {k : Nat} {d : Desc} (hd : (s.channel k).desc = some d)
    (hnext : tramNext s (k / 32) true = some k) {l : List Nat}
    (hl : tramCheck s k (s.channel k) (adAs d.dst) (dstAddr d (s.channel k).wpos) ((s.channel k).writeLen d) true = .ok l)
    (hup : ∀ pa ∈ l, s.portDown pa = none) :
    tramWrite s k none = ((tramTouch (tramServes s k true) k l true).wrAll l
      ((s.channel k).buf.take ((s.channel k).writeLen d))).setChannel k
        ((s.channel k).wrote d ((s.channel k).writeLen d)) := by
  have hn := tramHas_writeLen hd ((tramNext_ready hnext).1 rfl)
  have hup' : ∀ pa ∈ l, (tramServes s k true).portDown pa = none := hup
  simp only [tramWrite, hnext, if_true, tramPut, (tramServes_sameUnits s k true).channel, hd, hn, if_false, tramCheck_tramServes,
    hl, tramBad_up hup', tramNote_none]
  simp only [Channel.wrote, Channel.wpos, List.length_drop, hd]

/-! #### Ends of descriptors (R394) -/

theorem tramComplete_ok {s u : State} {k : Nat} {d : Desc} (hd : (s.channel k).desc = some d) (hst : (s.channel k).st = .active)
    (hph : (s.channel k).phase = .done) (hu : tramDstat s k { s.channel k with unacked := false } 0 = .ok u) :
    tramComplete s k none = (if d.iev then u.raise (32 + k) else u).setChannel k
      (if d.end_ then { s.channel k with unacked := false }.endChain
       else { s.channel k with unacked := false, ccur := adWith (s.channel k).ccur (adAddr d.next), phase := .fetch
                               desc := none, rpos := 0, buf := [], burst := 0 }) := by
  unfold tramComplete
  dsimp only
  split
  · next h => cases h.symm.trans hd
  · next d' h =>
    obtain rfl : d' = d := Option.some.inj (h.symm.trans hd)
    rw [if_neg (not_not.2 ⟨hst, hph⟩)]
    simp only [tramMal, hu]
    split <;> rfl

theorem adAs_lt (a : W64) : adAs a < 4 := Nat.mod_lt _ (by decide)

theorem adAddr_lt (a : W64) : adAddr a < 2 ^ 48 := Nat.mod_lt _ (by decide)

theorem toNat_adWith (a : W64) (x : Nat) : (adWith a x).toNat = adAs a * 2 ^ 62 + x % 2 ^ 48 := by
  have := adAs_lt a
  rw [adWith, BitVec.toNat_ofNat, Nat.mod_eq_of_lt (by omega)]

theorem adAs_adWith (a : W64) (x : Nat) : adAs (adWith a x) = adAs a := by
  have := adAs_lt a
  rw [adAs, toNat_adWith, bits]
  omega

theorem adAddr_adWith (a b : W64) : adAddr (adWith a (adAddr b)) = adAddr b := by
  have := adAs_lt a
  have := adAddr_lt b
  rw [adAddr, toNat_adWith, bits]
  omega

theorem Channel.endChain_idle {c : Channel} (h : c.tpend = 0) (h2 : c.tpend2 = 0) : c.endChain.st = .idle := by
  simp [Channel.endChain, h, h2]

/-- The next start counted begins at the end of a chain (R395). -/
theorem Channel.endChain_next {c : Channel} (h : c.tpend ≠ 0) (h2 : c.tpend2 = 0) :
    c.endChain.st = .active ∧ c.endChain.tpend = c.tpend - 1 ∧ c.endChain.phase = .fetch ∧ c.endChain.ccur = c.cda := by
  simp [Channel.endChain, Channel.begin, h, h2]

theorem Channel.endChain_unacked (c : Channel) : c.endChain.unacked = c.unacked := by
  unfold Channel.endChain
  simp only [apply_ite Channel.unacked, Channel.begin, ite_self]

theorem State.raised_iev (u : State) (b : Bool) (n : Nat) :
    spGet 0 (if b then u.raise n else u).raised n = spGet 0 u.raised n + b.toNat := by
  cases b with
  | true => exact u.raise_self n
  | false => rfl

theorem State.mem_iev (u : State) (b : Bool) (n : Nat) : (if b then u.raise n else u).mem = u.mem := by cases b <;> rfl

/-! #### Service of TLB misses (R268) -/

theorem tramSlot_lt (u : Tram) : tramSlot u < 64 := by
  unfold tramSlot
  split
  · next h => exact List.mem_range.1 (List.mem_of_find?_eq_some h)
  · exact Nat.mod_lt _ (by decide)

section Miss
variable {s : State} {k : Nat} (hst : (s.channel k).st = .halted) (ht : (s.channel k).tlbHalt = true)
  (hf : (s.channel k).fn = .running)
include hst ht hf

theorem tramServe_fail {x : XlFail} (hw : walkFrom s.rd8 s false false (s.channel k).cten (adAddr (s.channel k).cfault) 4
      (s.rd8 (rootPa (k / 32) (s.channel k).cten)) [] = .fail x) :
    tramServe s k false = tramFail s k (s.channel k).side 0x22 0 (s.channel k).cfault ((s.channel k).phase == .fetch)
      ((s.channel k).phase == .move) := by
  simp only [tramServe, hst, ht, and_self, not_true_eq_false, if_false, hw, hf, if_true]

theorem tramServe_leaf {x : CcTlbEnt} {l : List PscEnt} (hw : walkFrom s.rd8 s false false (s.channel k).cten (adAddr (s.channel k).cfault) 4
      (s.rd8 (rootPa (k / 32) (s.channel k).cten)) [] = .leaf x l) :
    ∃ u : Tram, tramServe s k false = (s.setTram (k / 32) u).setChannel k
        { s.channel k with st := .active, tlbHalt := false, code := 0, sub := 0, side := 0 }
      ∧ spGet? u.tlb (tramSlot (s.tram (k / 32))) = some (tlbOfLeaf x) := by
  simp only [tramServe, hst, ht, and_self, not_true_eq_false, if_false, hw]
  exact ⟨_, if_pos ⟨hst, ht, hf⟩, spGet?_spPut_self _ _ _⟩

end Miss

theorem tramServe_ignored {s : State} {k : Nat} (h : (s.channel k).st ≠ .halted ∨ (s.channel k).tlbHalt = false) (w : Bool) :
    tramServe s k w = s := by
  have hn : ¬((s.channel k).st = .halted ∧ (s.channel k).tlbHalt = true) := fun hh =>
    h.elim (fun g => g hh.1) (fun g => by simp [g] at hh)
  simp only [tramServe, if_pos hn]

/-! #### The stream mapping (R391) -/

theorem srcElem_linear {d : Desc} (hf : adFix d.src = false) (hw : adWrap d.src = 0) (i : Nat) :
    srcElem d i = adAddr d.src + 2 ^ d.sw.toNat * (i / 2 ^ d.sw.toNat) := by
  simp [srcElem, hf, hw, wrapAd]

theorem dstAddr_linear {d : Desc} (hf : adFix d.dst = false) (hw : adWrap d.dst = 0) (i : Nat) :
    dstAddr d i = adAddr d.dst + i := by
  simp [dstAddr, hf, hw, wrapAd]

/-- A stream byte is the byte of the source as many places on, or with SWAP its mirror within the element. -/
theorem srcElem_srcByte {d : Desc} (hf : adFix d.src = false) (hw : adWrap d.src = 0) (i : Nat) :
    (d.swap = false → srcElem d i + srcByte d i = adAddr d.src + i)
    ∧ (d.swap = true → srcElem d i + srcByte d i + i % 2 ^ d.sw.toNat + 1
        = adAddr d.src + i / 2 ^ d.sw.toNat * 2 ^ d.sw.toNat + 2 ^ d.sw.toNat) := by
  rw [srcElem_linear hf hw, srcByte]
  have hpos : 0 < 2 ^ d.sw.toNat := Nat.two_pow_pos _
  generalize 2 ^ d.sw.toNat = e at hpos
  have hdiv := Nat.div_add_mod i e
  have hlt := Nat.mod_lt i hpos
  refine ⟨fun h => ?_, fun h => ?_⟩
  · simp only [h, Bool.false_eq_true, if_false]
    omega
  · simp only [h, if_true, Nat.mul_comm (i / e) e]
    omega

/-! ### O54 -/

/-- Settles O54: fetch, read, write, completion and miss service by the lemma of each outcome. -/
theorem tramTransfers : Obligations.TramTransfers := by
  unfold Obligations.TramTransfers
  intro k s c up
  refine ⟨fun hst hph hf has hphys hal => ⟨fun l hl hup => ⟨fun hb => ?fetched, fun hb => ?bad⟩, fun hm => ?miss⟩,
    fun d stop hd hspan hnext l hl hup => ?read, fun d hd hm hmov hb hr hfix hlt => ?span,
    fun q m wr h _ => ?turn, fun d hd hnext => ?write, fun d hd hst hph u hu => ?complete, fun hset hd => ?settled,
    fun hst ht hf => ⟨fun x l hw => ?leaf, fun x hw => ?fail⟩,
    fun h w => congrArg Host.Outcome.next (tramServe_ignored h w), fun d i hf hw => srcElem_srcByte hf hw i,
    fun d i hf hw => dstAddr_linear hf hw i⟩
  case fetched =>
    refine ⟨_, congrArg Host.Outcome.next (tramFetch_ok hst hph hf has hphys hal hl hup hb), ?_⟩
    rw [State.channel_setChannel]
    refine ⟨fun hs => (tramTouch_sameMem hs (tramCheck_range hl) k false).mem, ?_⟩
    obtain ⟨hdesc, hphase, hstate, hcrem, hrpos, hbuf⟩ := Channel.fetched_fields c (descOf (l.map s.rd))
    exact ⟨hdesc, hphase, hstate.trans hst, hcrem, hrpos, hbuf⟩
  case bad =>
    obtain ⟨u, x, hx, hu, hxst, hxfn, hxcode⟩ := tramFail_refused
      ((tramTouch s k l false).setChannel k { s.channel k with desc := none }) k 2 (code := 0x10) 0 c.ccur true true
      (by decide) (by decide)
    refine ⟨_, congrArg Host.Outcome.next ((tramFetch_bad hst hph hf has hphys hal hl hup hb).trans hx), ?_⟩
    have hchan : (((u.setChannel k x).raise (296 + k / 32)).raiseErr (32 + k)).channel k = x := State.channel_setChannel u k x
    have hraised : u.raised = s.raised := hu.raised.trans (tramTouch_sameUnits s k l false).raised
    have hne : 296 + k.val / 32 ≠ errSrc (32 + k) := by simp only [errSrc]; omega
    rw [hchan]
    refine ⟨hxst, hxfn, hxcode, ?_⟩
    rw [State.raiseErr, State.raise, spGet_spPut_ne _ _ _ hne, State.raise_self]
    exact congrArg (spGet 0 · (296 + k.val / 32) + 1) hraised
  case miss =>
    obtain ⟨x, hx, hxst, hxt, hxa, hxf⟩ := tramFail_miss s k 2 0 c.ccur false
    refine ⟨_, congrArg Host.Outcome.next ((tramFetch_miss hst hph hf has hphys hal hm none).trans hx), ?_⟩
    have hchan : ((s.setChannel k x).raise (296 + k / 32)).channel k = x := State.channel_setChannel s k x
    rw [hchan]
    exact ⟨hxst, by simp [Channel.tustat, hxst, hxt], hxa, hxf, rfl, rfl⟩
  case read =>
    refine ⟨_, congrArg Host.Outcome.next (tramRead_ok hd hspan hnext hl hup), ?_⟩
    rw [State.channel_setChannel]
    refine ⟨fun hs => ?_, rfl, rfl, fun m hm => ?_⟩
    · exact (tramTouch_sameMem (hs.tramServes k false) (tramCheck_range ((tramCheck_tramServes ..).trans hl)) k false).mem
    · exact (State.channel_setChannel_ne _ _ hm).trans ((tramTouch_sameUnits _ k l false).channel m)
  case span => exact tramSpan_plain hd hm hmov hb hr hfix rfl hlt
  case turn => exact ⟨(tramNext_ready h).1, (tramNext_ready h).2, fun hm i hi hp => tramNext_pri h hm hi hp⟩
  case write =>
    refine ⟨tramHas_writeLen hd ((tramNext_ready hnext).1 rfl), fun l hl hup => ?_⟩
    refine ⟨_, congrArg Host.Outcome.next (tramWrite_ok hd hnext hl hup), ?_⟩
    rw [State.channel_setChannel]
    refine ⟨fun hs => ?_, Channel.posRegs_buf _, Channel.posRegs_rpos _, Channel.posRegs_unacked _, Channel.posRegs_phase _,
      fun m hm => ?_⟩
    · have htouch := tramTouch_sameMem (hs.tramServes k true) (tramCheck_range ((tramCheck_tramServes ..).trans hl)) k true
      exact (((tramServes_sameMem s k true).trans htouch).wrAll l _).mem
    · exact (State.channel_setChannel_ne _ _ hm).trans
        ((tramTouch_sameUnits (tramServes s k true) k l true).trans (State.wrAll_near _ _ _).sameUnits |>.channel m)
  case complete =>
    refine ⟨_, congrArg Host.Outcome.next (tramComplete_ok hd hst hph hu), ?_⟩
    rw [State.channel_setChannel, State.setChannel_mem, State.setChannel_raised, State.mem_iev, State.raised_iev,
      (tramDstat_sameUnits hu).raised]
    refine ⟨rfl, ?_, rfl, fun he h h2 => ?_, fun he h h2 => ?_, fun he => ?_⟩
    · split
      · exact Channel.endChain_unacked _
      · rfl
    · rw [if_pos he]
      exact Channel.endChain_idle h h2
    · rw [if_pos he]
      exact Channel.endChain_next h h2
    · rw [if_neg (by simp [he])]
      exact ⟨hst, rfl, adAddr_adWith _ _, adAs_adWith _ _⟩
  case settled =>
    exact congrArg Host.Outcome.next (by simp only [tramComplete, c, hd, hset, if_true])
  case leaf =>
    obtain ⟨u, hu, hslot⟩ := tramServe_leaf hst ht hf hw
    refine ⟨_, tramSlot (s.tram (k / 32)), tlbOfLeaf x, tramSlot_lt _, congrArg Host.Outcome.next hu, ?_⟩
    have htram : ((s.setTram (k / 32) u).setChannel k
        { s.channel k with st := .active, tlbHalt := false, code := 0, sub := 0, side := 0 }).tram (k / 32) = u :=
      State.tram_setTram s _ u
    rw [State.channel_setChannel, htram]
    exact ⟨rfl, rfl, hslot, rfl, rfl, rfl, rfl, rfl, rfl, rfl⟩
  case fail =>
    obtain ⟨u, x, hx, -, hxst, hxfn, hxcode⟩ := tramFail_refused s k c.side (code := 0x22) 0 c.cfault (c.phase == .fetch)
      (c.phase == .move) (by decide) (by decide)
    refine ⟨_, congrArg Host.Outcome.next ((tramServe_fail hst ht hf hw).trans hx), ?_⟩
    have hchan : (((u.setChannel k x).raise (296 + k / 32)).raiseErr (32 + k)).channel k = x := State.channel_setChannel u k x
    rw [hchan]
    exact ⟨hxst, hxfn, hxcode⟩

end Sys2Proof.Machine

namespace Sys2Proof.Machine

/-! ### O55 -/

/-- A contained error that the Record Directory reports, a response that did not come. -/
def directoryRecord : BankRec :=
  { r := { sev := 1, hop := 0xF, code := 0x21, utype := 8, uidx := 0, asp := 3, addr := 0, synd := 0, ten := 0, task := 0, pc := 0 }
    ovf := false, count := 1 }

/-- A running device with that record in the first slot of the Ring's bank. -/
def directoryDevice : State := { Tests.dev Core.reset with banks := [(64, directoryRecord)] }

/-- The firmware logs it with ACTION 3, the directory's own, where the statement has ACTION 1. -/
theorem directoryDevice_action :
    (match exec (.errorLogWrite .ring 0 ⟨0, false⟩ []) directoryDevice with
      | .next t => (t.rdN (logBase + directoryDevice.lseq % 16384 * 64) 64)[17]? == some 3
      | _ => false) = true := by decide +kernel

theorem directoryDevice_hypotheses :
    Memory.wf memDefault directoryDevice.mem = true
      ∧ directoryDevice.heldPa logBase = false
      ∧ spGet? directoryDevice.banks (bankIx .ring * 16 + (0 : Fin 16).val) = some directoryRecord := by decide +kernel

/-- The entry that the statement names has ACTION 1. -/
theorem directoryRecord_action :
    (logBytes directoryDevice.lseq (0 : W64).toNat 0 1 directoryRecord.r.ten.toNat
      (recWords directoryRecord.r directoryRecord.ovf directoryRecord.count.toNat))[17]? = some 1 := by decide +kernel

/-- Refutes O55: the clause on severity 1 leaves out the records of unit type 8, for which the firmware logs ACTION 3
and no tenancy, as for code 0x42. -/
theorem not_errorRecords : ¬ Obligations.ErrorRecords := by
  unfold Obligations.ErrorRecords
  rintro ⟨-, hlog, -⟩
  have hbanks : Sparse.wf directoryDevice.banks := List.pairwise_singleton _ _
  obtain ⟨hmem, hheld, hslot⟩ := directoryDevice_hypotheses
  obtain ⟨-, hcontained, -⟩ := hlog .ring 0 0 [] directoryDevice directoryRecord hbanks hmem hheld hslot
  obtain ⟨t, ht, -, -, hrd, -⟩ := hcontained rfl (by decide)
  have hmodel := directoryDevice_action
  rw [ht] at hmodel
  have hmodel' : (t.rdN (logBase + directoryDevice.lseq % 16384 * 64) 64)[17]? = some 3 := eq_of_beq hmodel
  rw [hrd, directoryRecord_action] at hmodel'
  cases hmodel'

end Sys2Proof.Machine

namespace Sys2Proof.Machine

/-! ### O46 -/

theorem begun_of_cmd {s0 : State} {op : Nat} {p : State → Cmd → Bool} {r : CmdRef} (h : Tests.cmd s0 op p r = true) :
    ∃ c s, s0.cmd? r (fun o => o == op) = some c ∧ s0.begin? c = some s ∧ p s c = true := by
  unfold Tests.cmd at h
  split at h
  · next c hc =>
    split at h
    · next s hs => exact ⟨c, s, hc, hs, h⟩
    · cases h
  · cases h

/-- A running device whose memory port 7 is FAULTED, with STOP of that port in front. Its streets run, so that attached
memory is in use (R373). -/
def portInUseDevice : State :=
  (Tests.fdev 0x50 (Tests.fn (5, 7)) 0 0).setMemPort 7 { MemPort.reset with st := .faulted, dimms := 1, size := 64 }

/-- The STOP meets each hypothesis of the clause on FAULTED functions, whose answer leaves the port STOPPED. -/
theorem portInUseDevice_hypotheses :
    Tests.cmd portInUseDevice 0x50 (fun s c => c.e.prog == .none && reserved71 c (namedBytes [(8, 1), (10, 2)]) == none
      && fn72 s c == none && ptrs73 c 0 0 == none && c.fid.1 != 0 && !s.noFn c.fid && stop75 s c == none && !s.heldFn c c.fid
      && s.fst c.fid == .faulted && (s.stopFunction c.fid).fst c.fid == .stopped
      && (((s.stopFunction c.fid).ends c { Ans.of 0 with res0 := 3 }).memPort 7).st == .stopped) = true := by decide +kernel

/-- The STOP is refused, and leaves the port FAULTED. -/
theorem portInUseDevice_refused :
    (match exec (.stopFn Tests.r0) portInUseDevice with | .next t => (t.memPort 7).st == .faulted | _ => false) = true := by
  decide +kernel

/-- Refutes O46: the clause on FAULTED functions leaves out that STOP of a memory port, FAULTED or not, is refused while
attached memory is in use. -/
theorem not_functionCommands : ¬ Obligations.FunctionCommands := by
  unfold Obligations.FunctionCommands
  intro h
  obtain ⟨c, s, hc, hs, hp⟩ := begun_of_cmd portInUseDevice_hypotheses
  simp only [Bool.and_eq_true, beq_iff_eq, bne_iff_ne, Bool.not_eq_true'] at hp
  obtain ⟨⟨⟨⟨⟨⟨⟨⟨⟨⟨hprog, h71⟩, h72⟩, h73⟩, hdev⟩, hfn⟩, h75⟩, hheld⟩, hst⟩, hstop⟩, hafter⟩ := hp
  obtain ⟨hstopFn, -⟩ := h Tests.r0 ⟨true, true⟩ portInUseDevice s c
  obtain ⟨-, -, -, hfaulted, -⟩ := hstopFn ⟨hc, hs, .inl hprog⟩ ⟨h71, h72, h73, hdev, hfn⟩ h75 hheld
  have hmodel := portInUseDevice_refused
  rw [hfaulted hst hstop] at hmodel
  have hport := eq_of_beq hmodel
  rw [hafter] at hport
  cases hport

end Sys2Proof.Machine

namespace Sys2Proof.Machine

/-! ### O59: the management port and the test access port -/

theorem State.smbHw_pwrgood {s : State} {out : List Byte} (h : s.pins.pwrgood = true) :
    s.smbHw out = { s with mgmt := { s.mgmt with out := out } } := if_pos h

theorem State.smbHw_off {s : State} {out : List Byte} (h : s.pins.pwrgood = false) : s.smbHw out = s := by
  simp [State.smbHw, h]

theorem State.smbFw_off {s f : State} {stage : Nat} {lenOk : Bool} (h : s.pins.pwrgood = false) :
    s.smbFw stage lenOk f = s := by simp [State.smbFw, h]

theorem State.smbFw_early {s f : State} {stage : Nat} {lenOk : Bool} (h : s.pins.pwrgood = true)
    (hr : s.reached stage = false) : s.smbFw stage lenOk f = s.smb [] 1 := by simp [State.smbFw, h, hr]

theorem State.smbFw_length {s f : State} {stage : Nat} {lenOk : Bool} (h : s.pins.pwrgood = true)
    (hr : s.reached stage = true) (hl : lenOk = false) : s.smbFw stage lenOk f = s.smb [] 3 := by
  simp [State.smbFw, h, hr, hl]

theorem State.smbFw_served {s f : State} {stage : Nat} {lenOk : Bool} (h : s.pins.pwrgood = true)
    (hr : s.reached stage = true) (hl : lenOk = true) : s.smbFw stage lenOk f = f := by
  simp [State.smbFw, h, hr, hl]

/-- Without PWRGOOD no command of the management port changes anything. -/
theorem smb_off {s : State} (h : s.pins.pwrgood = false) (n : Nat) (u : Byte) (off : BitVec 24) (v : W64) :
    ∀ c ∈ [Instr.getStatus, .getIdent, .readReg n u off, .writeReg n u off v, .smbReadLog n ⟨v, false⟩, .clearAlert,
        .alertResponseAddress, .alertReassert, .deviceReset 0xA5], exec c s = .next s := by
  simp [execGetStatus, execGetIdent, execReadReg, execWriteReg, execSmbReadLog, execClearAlert, execAlertResponseAddress,
    execAlertReassert, execDeviceReset, State.smbHw_off h, State.smbFw_off h, State.alertOff, h]

theorem State.length_identFwver (s : State) : s.identFwver.length = 4 := by
  unfold State.identFwver
  split <;> simp [length_beBytes, zeros]

theorem length_ordCode (t20 : Bool) : (ordCode t20).length = 16 := by cases t20 <;> rfl

/-- The little-endian field that stands behind `a` is read back. -/
theorem leAt_append (a b : List Byte) {off n v : Nat} (ha : a.length = off) :
    leAt (a ++ (leBytes n v ++ b)) off n = v % 256 ^ n := by
  rw [leAt, slice, List.drop_left' ha, List.take_left' (length_leBytes n v), leNat_leBytes]

/-- GET_IDENT: 32 bytes, with SERIAL and LC in their places. -/
theorem getIdent_fields {s : State} (h : s.pins.pwrgood = true) :
    ∃ l : List Byte, exec .getIdent s = .next { s with mgmt := { s.mgmt with out := l } } ∧ l.length = 32
      ∧ leAt l 20 8 = s.part.serial.toNat ∧ byteAt l 18 = BitVec.ofNat 8 s.fuses.lc.toNat := by
  refine ⟨_, congrArg Host.Outcome.next (State.smbHw_pwrgood h), ?_, ?_, ?_⟩
  · simp [length_ordCode, length_leBytes, State.length_identFwver, zeros]
  · rw [List.append_assoc (_ ++ zeros 1), leAt_append _ _ (by simp [length_ordCode, length_leBytes, zeros])]
    exact Nat.mod_eq_of_lt s.part.serial.isLt
  · cases ht : s.part.t20 <;> simp [byteAt, ordCode, leBytes, zeros]

theorem length_logDamaged (n : Nat) : (logDamaged n).length = 64 := by simp [logDamaged, length_leBytes, zeros]

/-- The entry that stands for a damaged one: its number, COUNT 0, the flag, and its seal. -/
theorem logDamaged_fields (v : W64) :
    (logDamaged v.toNat).length = 64 ∧ leAt (logDamaged v.toNat) 0 8 = v.toNat ∧ leAt (logDamaged v.toNat) 8 8 = 0
      ∧ byteAt (logDamaged v.toNat) 16 = 2
      ∧ leAt (logDamaged v.toNat) 60 4 = crc32c ((logDamaged v.toNat).take 60) := by
  have hbody : (leBytes 8 v.toNat ++ zeros 8 ++ [(0x02 : Byte)] ++ zeros 43).length = 60 := by simp [length_leBytes, zeros]
  refine ⟨length_logDamaged _, ?_, ?_, ?_, ?_⟩
  · simp only [logDamaged, List.append_assoc]
    exact (leAt_append [] _ rfl).trans (Nat.mod_eq_of_lt v.isLt)
  · simp only [logDamaged, List.append_assoc]
    rw [leAt, slice, List.drop_left' (length_leBytes 8 _)]
    rfl
  · rfl
  · simp only [logDamaged]
    rw [List.take_left' hbody, leAt, slice, List.drop_left' hbody, List.take_of_length_le (by simp [length_leBytes]),
      leNat_crc32c]

theorem State.held_of_ir {s : State} {ir : Byte} (h : ir ∈ [(0x00 : Byte), 0x03, 0x04, 0x05, 0x06]) :
    (s.setIr ir).held = true := by
  have hir : ([0x00, 0x03, 0x04, 0x05, 0x06] : List Nat).contains ir.toNat = true := by
    fin_cases h <;> rfl
  simp only [State.held, State.setIr, hir, Bool.or_true]

/-- A boundary instruction holds the device in device reset. -/
theorem State.boundary_holds (s : State) {ir : Byte} (h : ir ∈ [(0x00 : Byte), 0x03, 0x04, 0x05, 0x06]) :
    (s.boundary ir).tap.ir = ir ∧ (s.boundary ir).held = true
      ∧ (∀ g, s.held = false → ((s.boundary ir).street g).st = .stopped) ∧ (s.boundary ir).fuses = s.fuses := by
  refine ⟨rfl, State.held_of_ir h, fun g hs => ?_, ?_⟩
  · simp [State.boundary, State.holdBegins, hs, State.setIr, State.deviceReset, State.street, spGet, State.reset, Street.reset]
  · show s.holdBegins.fuses = s.fuses
    unfold State.holdBegins
    split
    · rfl
    · rfl

/-- PGACC in the states whose instruction it is, of a unit whose number fits its field. -/
theorem State.pgacc_on {s : State} {u : Byte} (off : BitVec 24) (op : BitVec 2) (f : State) (data : W64)
    (hu : u.toNat < 16) (hlc : s.fuses.lc = 0 ∨ s.fuses.lc = 1) {ok : Bool} (hok : (s.reached 2 && reachable u.toNat off.toNat) = ok) :
    s.pgacc u off op f data = { (if ok then f else s) with
      tap := { ir := 0x10, data := if ok then data else 0, off := off, u := u.truncate 4, err := !ok, done := true, op := op } } := by
  have hon : s.pgaccOn = true := by simpa [State.pgaccOn] using hlc
  have hu4 : (u.truncate 4 : BitVec 4).toNat = u.toNat := by simp [BitVec.toNat_setWidth, Nat.mod_eq_of_lt hu]
  simp only [State.pgacc, hon, hu4, hok, Bool.not_true, Bool.false_eq_true, if_false]

/-- Settles O59, command by command. -/
theorem managementPorts : Obligations.ManagementPorts := by
  unfold Obligations.ManagementPorts
  intro s n u off v
  refine ⟨fun h => smb_off h n u off v, fun h => ⟨congrArg _ (State.smbHw_pwrgood h), getIdent_fields h,
    fun hr => ⟨congrArg _ (State.smbFw_early h hr), congrArg _ (State.smbFw_early h hr)⟩,
    fun hr hn => congrArg _ (State.smbFw_length h hr (by simpa using hn)),
    fun hr hn => congrArg _ (State.smbFw_length h hr (by simpa using hn)), fun hr ho => ⟨?_, ?_⟩, fun hr ho => ⟨?_, ?_⟩,
    fun hr h1 h2 => ?_, logDamaged_fields v, fun hr => ?_, ?_, fun hc => ?_, fun hc => ?_, ?_, fun b hb => ?_⟩, ?_, ?_, rfl,
    fun hu hlc => ⟨fun hr ho => ⟨?_, ?_⟩, fun ho => ?_⟩⟩
  · simp [execReadReg, State.smbFw_served h hr, ho, State.smb]
  · simp [execWriteReg, State.smbFw_served h hr, ho, State.smb]
  · simp [execReadReg, State.smbFw_served h hr, ho, State.smb]
  · simp [execWriteReg, State.smbFw_served h hr, ho]
  · simp [execSmbReadLog, State.smbFw_served h hr, State.smb, State.logRead, h1, h2]
  · simp [execSmbReadLog, State.smbFw_served h hr, State.smb, State.logRead, State.logAt]
  · simp [execClearAlert, execAlertResponseAddress, State.alertOff, h]
  · simp [execAlertReassert, State.alertOn, h, hc]
  · simp [execAlertReassert, hc]
  · simp [execDeviceReset, h]
  · exact if_neg fun hc => hb hc.2
  · simp [execSamplePreload, execIdcode, execBypass, State.setIr, tapCodes]
  · simp only [List.forall_mem_cons, List.not_mem_nil, false_imp_iff, implies_true, and_true]
    exact ⟨⟨_, rfl, s.boundary_holds (by decide)⟩, ⟨_, rfl, s.boundary_holds (by decide)⟩, ⟨_, rfl, s.boundary_holds (by decide)⟩,
      ⟨_, rfl, s.boundary_holds (by decide)⟩, ⟨_, rfl, s.boundary_holds (by decide)⟩⟩
  · exact congrArg Host.Outcome.next ((State.pgacc_on off 1 _ _ hu hlc (ok := true) (by simp [hr, ho])).trans
      (by simp [Nat.mod_eq_of_lt hu]))
  · refine ⟨_, congrArg Host.Outcome.next (State.pgacc_on off 2 _ _ hu hlc (ok := true) (by simp [hr, ho])), ?_, rfl⟩
    simp [Nat.mod_eq_of_lt hu]
  · have hok : (s.reached 2 && reachable u.toNat off.toNat) = false := Bool.and_eq_false_iff.2 ho
    exact congrArg Host.Outcome.next ((State.pgacc_on off 1 _ _ hu hlc hok).trans (by simp))

end Sys2Proof.Machine

namespace Sys2Proof.Machine

/-! ### O56: memory ports at work -/

@[simp] theorem State.memPort_setMemPort_self (s : State) (p : Nat) (x : MemPort) : (s.setMemPort p x).memPort p = x :=
  spGet_spPut_self _ _ _ _

@[simp] theorem State.hostPort_setHostPort_self (s : State) (h : Nat) (x : HostPort) : (s.setHostPort h x).hostPort h = x :=
  spGet_spPut_self _ _ _ _

@[simp] theorem MemPort.setCal_get_self (x : MemPort) (u : Fin 2) (c : Calib) : (x.setCal u c).cal.get u = c := by
  rw [MemPort.setCal, Vector.get_eq_getElem]
  exact Vector.getElem_set_self _

theorem State.logEntry_memPorts (s : State) (sev : BitVec 2) (time action aten : Nat) (words : List Nat) :
    (s.logEntry sev time action aten words).memPorts = s.memPorts := by
  obtain ⟨_, _, _, _, _, _, _, _, _, e⟩ := s.logEntry_eq sev time action aten words; rw [e]

@[simp] theorem State.logOpen_memPort (s : State) (sev : BitVec 2) (action p : Nat) :
    (s.logOpen sev action).memPort p = s.memPort p := by
  rw [State.memPort, State.logOpen, State.logEntry_memPorts, State.memPort]

/-- An entry of the log takes one number. -/
theorem State.logEntry_lseq (s : State) (sev : BitVec 2) (time action aten : Nat) (words : List Nat) :
    (s.logEntry sev time action aten words).lseq = s.lseq + 1 := by
  simp only [State.logEntry, State.logWrite, State.aerNote, State.alertOn]
  repeat' split
  all_goals rfl

@[simp] theorem State.logOpen_lseq (s : State) (sev : BitVec 2) (action : Nat) : (s.logOpen sev action).lseq = s.lseq + 1 :=
  State.logEntry_lseq _ _ _ _ _ _

/-- A record does not depend on the counter of the model's choices. -/
theorem State.report_free (s : State) (k : Nat) (r : ErrRec) :
    { s with free := k }.report r = { s.report r with free := k } := by
  simp only [State.report]
  split
  · rfl
  · split <;> rfl

@[simp] theorem State.report_memPort (s : State) (r : ErrRec) (p : Nat) : (s.report r).memPort p = s.memPort p := by
  unfold State.report
  dsimp only
  split
  · rfl
  · split <;> rfl

/-- A failing port is FAULTED, with the code of its failure. -/
theorem State.portFails_memPort (s : State) (p : Nat) (fail : Byte) :
    ((s.portFails p fail).memPort p).st = .faulted ∧ ((s.portFails p fail).memPort p).fail = fail := by
  unfold State.portFails
  dsimp only
  split
  · rw [State.memPort_setMemPort_self]; exact ⟨rfl, rfl⟩
  · rw [State.report_memPort, State.memPort_setMemPort_self]; exact ⟨rfl, rfl⟩

/-! #### Temperatures -/

/-- Without drift the thermal trigger does not act. -/
theorem MemPort.thermal_still {x : MemPort} (hd : x.dimms = 1) {u : Fin 2}
    (h : (x.temp0.toInt - (x.cal.get u).tlast.toInt).natAbs < 4) : x.thermal u = x := by
  have hnot : ¬ 4 ≤ (x.temp0.toInt - (x.cal.get u).tlast.toInt).natAbs := Nat.not_le.2 h
  simp [MemPort.thermal, Calib.drifted, hd, hnot]

/-- The thermal trigger changes the calibration alone. -/
theorem MemPort.thermal_keeps (x : MemPort) (u : Fin 2) : ∃ c, x.thermal u = { x with cal := c } := by
  unfold MemPort.thermal
  dsimp only
  split
  · exact ⟨_, rfl⟩
  · exact ⟨_, rfl⟩

/-- A port whose first module reads `t0`. -/
def MemPort.warmed (x : MemPort) (t0 : Byte) : MemPort := { x with temp0 := t0 }

/-- The thermal triggers of both subchannels of a RUNNING port. -/
def MemPort.triggered (x : MemPort) : MemPort := if x.st = .running then (x.thermal 0).thermal 1 else x

theorem MemPort.triggered_keeps (x : MemPort) : ∃ c, x.triggered = { x with cal := c } := by
  unfold MemPort.triggered
  split
  · obtain ⟨c, h⟩ := x.thermal_keeps 0
    obtain ⟨d, h'⟩ := (x.thermal 0).thermal_keeps 1
    exact ⟨d, by rw [h', h]⟩
  · exact ⟨_, rfl⟩

theorem MemPort.triggered_still {x : MemPort} (hd : x.dimms = 1)
    (h : ∀ v : Fin 2, (x.temp0.toInt - (x.cal.get v).tlast.toInt).natAbs < 4) : x.triggered = x := by
  unfold MemPort.triggered
  rw [MemPort.thermal_still hd (h 0), MemPort.thermal_still hd (h 1), ite_self]

/-- With one module a port is too hot by that module alone. -/
theorem MemPort.tooHot_one {x : MemPort} (hd : x.dimms = 1) : x.tooHot = decide (95 ≤ x.temp0.toInt) := by
  simp [MemPort.tooHot, hd]

/-- TEMPERATURE_READ of a port with one module. -/
theorem temperatureRead_one {s : State} {p : Fin 8} (t0 t1 : Byte) (hd : (s.memPort p.val).dimms = 1) :
    exec (.temperatureRead p t0 t1) s =
      if !((s.memPort p.val).warmed t0).triggered.tooHot then
        .next (s.setMemPort p.val { ((s.memPort p.val).warmed t0).triggered with hot := 0 })
      else if ((s.memPort p.val).warmed t0).triggered.hot = 0 then
        .next ((s.setMemPort p.val { ((s.memPort p.val).warmed t0).triggered with hot := 479 }).logOpen sevCorrected 0)
      else .next (s.setMemPort p.val { ((s.memPort p.val).warmed t0).triggered with
        hot := ((s.memPort p.val).warmed t0).triggered.hot - 1 }) := by
  have hone : (if (s.memPort p.val).dimms = 2 then t1 else (s.memPort p.val).temp1) = (s.memPort p.val).temp1 :=
    if_neg (by omega)
  simp only [exec_temperatureRead, execTemperatureRead, hone]
  rw [if_neg (by omega)]
  rfl

theorem temperatureRead_cool {s : State} {p : Fin 8} {t0 : Byte} (t1 : Byte) (hd : (s.memPort p.val).dimms = 1)
    (ht : t0.toInt < 95)
    (hstill : ∀ v : Fin 2, (t0.toInt - ((s.memPort p.val).cal.get v).tlast.toInt).natAbs < 4) :
    exec (.temperatureRead p t0 t1) s = .next (s.setMemPort p.val { s.memPort p.val with temp0 := t0, hot := 0 }) := by
  have hcool : ((s.memPort p.val).warmed t0).tooHot = false :=
    (MemPort.tooHot_one (x := (s.memPort p.val).warmed t0) hd).trans (decide_eq_false (Int.not_le.2 ht))
  rw [temperatureRead_one t0 t1 hd, MemPort.triggered_still (x := (s.memPort p.val).warmed t0) hd hstill, hcool]
  rfl

theorem temperatureRead_hot {s : State} {p : Fin 8} {t0 : Byte} (t1 : Byte) (hd : (s.memPort p.val).dimms = 1)
    (hh : (s.memPort p.val).hot = 0) (ht : 95 ≤ t0.toInt) :
    ∃ t : State, exec (.temperatureRead p t0 t1) s = .next t ∧ t.lseq = s.lseq + 1
      ∧ (t.memPort p.val).temp0 = t0 ∧ (t.memPort p.val).hot = 479 := by
  obtain ⟨c, hz⟩ := ((s.memPort p.val).warmed t0).triggered_keeps
  have hhot : ((s.memPort p.val).warmed t0).triggered.tooHot = true := by
    rw [hz]
    exact (MemPort.tooHot_one (x := { (s.memPort p.val).warmed t0 with cal := c }) hd).trans (decide_eq_true ht)
  have hidle : ((s.memPort p.val).warmed t0).triggered.hot = 0 := by rw [hz]; exact hh
  have hexec := temperatureRead_one t0 t1 hd
  rw [hhot, if_neg (by simp), if_pos hidle] at hexec
  refine ⟨_, hexec, State.logOpen_lseq _ _ _, ?_, ?_⟩
  · rw [State.logOpen_memPort, State.memPort_setMemPort_self, hz]
    rfl
  · rw [State.logOpen_memPort, State.memPort_setMemPort_self]

/-! #### Calibration -/

/-- The lanes of a subchannel: its first, and the 39 that follow. -/
theorem dataLanes_eq (u : Fin 2) :
    dataLanes u.val = BitVec.ofNat 7 (u.val * 64) :: (List.range 39).map (fun i => BitVec.ofNat 7 (u.val * 64 + 1 + i)) := by
  revert u
  decide

/-- A trigger starts a pass on a subchannel where none is under way and none has failed. -/
theorem Calib.trigger_starts {c : Calib} (u : Fin 2) (hd : c.dfail = false) (hs : c.spared = 0x7F) (hp : c.phase = 0)
    (ht : c.todo = []) :
    c.trigger u.val none = { c with
      lane := BitVec.ofNat 7 (u.val * 64), detour := false, phase := 1, fails := 0
      todo := (List.range 39).map (fun i => BitVec.ofNat 7 (u.val * 64 + 1 + i)) } := by
  simp [Calib.trigger, Calib.stopped, Calib.passing, hd, hs, hp, ht, Calib.next, dataLanes_eq]

theorem calPeriodExpiry_starts {s : State} {p : Fin 8} {u : Fin 2} (hx : (s.memPort p.val).st = .running)
    (hd : ((s.memPort p.val).cal.get u).dfail = false) (hs : ((s.memPort p.val).cal.get u).spared = 0x7F)
    (hp : ((s.memPort p.val).cal.get u).phase = 0) (ht : ((s.memPort p.val).cal.get u).todo = []) :
    exec (.calPeriodExpiry p u) s = .next (s.setMemPort p.val { s.memPort p.val with
      cal := (s.memPort p.val).cal.set u.val { (s.memPort p.val).cal.get u with
        errs := [], lane := BitVec.ofNat 7 (u.val * 64), detour := false, phase := 1, fails := 0
        todo := (List.range 39).map (fun i => BitVec.ofNat 7 (u.val * 64 + 1 + i)) } }) := by
  refine (if_pos hx).trans (congrArg (fun d => Host.Outcome.next (s.setMemPort p.val ((s.memPort p.val).setCal u d))) ?_)
  exact Calib.trigger_starts u hd hs hp ht

/-- What the end of a phase of a RUNNING port does to the device, by what `phaseEnds` says. -/
theorem calibrationPhase_running {s : State} {p : Fin 8} {u : Fin 2} {ok : Bool} (hx : (s.memPort p.val).st = .running) :
    ∃ t : State, exec (.calibrationPhase p u ok) s = .next t ∧ ∀ d logs fails,
      ((s.memPort p.val).cal.get u).phaseEnds u.val ((s.memPort p.val).tempPick (Config.openChoice s.free)) ok
        = (d, logs, fails) →
      (fails = false → (t.memPort p.val).cal.get u = d ∧ (logs = true → t.lseq = s.lseq + 1))
      ∧ (fails = true → (t.memPort p.val).st = .faulted ∧ (t.memPort p.val).fail = 5) := by
  simp only [exec_calibrationPhase, execCalibrationPhase, hx, if_true]
  generalize ((s.memPort p.val).cal.get u).phaseEnds u.val _ ok = r
  obtain ⟨d, logs, fails⟩ := r
  cases fails with
  | true =>
    refine ⟨_, rfl, ?_⟩
    rintro _ _ _ ⟨⟩
    exact ⟨fun h => (Bool.noConfusion h), fun _ => State.portFails_memPort _ _ _⟩
  | false =>
    cases logs with
    | false =>
      refine ⟨_, rfl, ?_⟩
      rintro _ _ _ ⟨⟩
      simp
    | true =>
      refine ⟨_, rfl, ?_⟩
      rintro _ _ _ ⟨⟩
      simp

/-- The phases 1 to 4 of a lane, and the lane after it. -/
theorem Calib.phaseEnds_lane (c : Calib) (u : Nat) (t : Byte) :
    (c.phase = 1 → c.phaseEnds u t true = ({ c with phase := 2 }, false, false)
      ∧ c.phaseEnds u t false = ({ c.abandon with dfail := true }, true, false))
    ∧ (∀ ok, (c.phase = 2 → c.phaseEnds u t ok = ({ c with phase := 3, detour := true }, false, false))
      ∧ (c.phase = 3 → c.phaseEnds u t ok = ({ c with phase := 4 }, false, false)))
    ∧ (c.phase = 4 → c.phaseEnds u t true = ({ c with phase := 5, fails := 0 }, false, false))
    ∧ (∀ ok l rest, c.phase = 5 → c.todo = l :: rest → c.phaseEnds u t ok
      = ({ c with lane := l, detour := false, phase := 1, fails := 0, todo := rest }, false, false)) := by
  refine ⟨fun h => ?_, fun ok => ⟨fun h => ?_, fun h => ?_⟩, fun h => ?_, fun ok l rest h ht => ?_⟩
  · simp [Calib.phaseEnds, h]
  · simp [Calib.phaseEnds, h]
  · simp [Calib.phaseEnds, h]
  · simp [Calib.phaseEnds, h]
  · simp [Calib.phaseEnds, h, Calib.laneDone, ht, Calib.next]

/-- A lane that does not verify: it is tried three times, then spared, unless calibration has stopped already. -/
theorem Calib.phaseEnds_unverified (c : Calib) (u : Nat) (t : Byte) (h : c.phase = 4) :
    (c.fails < 2 → c.phaseEnds u t false = ({ c with phase := 3, fails := c.fails + 1 }, false, false))
    ∧ (c.fails = 2 → c.dfail = false → c.spared = 0x7F →
      c.phaseEnds u t false = ({ c.abandon with spared := c.lane }, true, false))
    ∧ (c.fails = 2 → c.dfail = true ∨ c.spared ≠ 0x7F → c.phaseEnds u t false = (c, false, true)) := by
  refine ⟨fun hf => ?_, fun hf hd hs => ?_, fun hf hd => ?_⟩
  · simp [Calib.phaseEnds, h, hf]
  · simp [Calib.phaseEnds, h, hf, Calib.stopped, hd, hs]
  · have hstop : c.stopped = true := by simpa [Calib.stopped] using hd
    simp [Calib.phaseEnds, h, hf, hstop]

/-- The end of a pass: it counts, its temperature is noted, and the further pass that is due begins. -/
theorem Calib.phaseEnds_pass (c : Calib) (u : Fin 2) (t : Byte) (ok : Bool) (h : c.phase = 5) (ht : c.todo = []) :
    ∃ d, c.phaseEnds u.val t ok = (d, false, false) ∧ d.passes = min (c.passes + 1) 0xFFFF ∧ d.tlast = t
      ∧ (c.again = false → d.lane = 0x7F ∧ d.phase = 0)
      ∧ (c.again = true → d.lane = BitVec.ofNat 7 (u.val * 64) ∧ d.phase = 1) := by
  cases ha : c.again with
  | false => simp [Calib.phaseEnds, h, Calib.laneDone, ht, Calib.passEnds, ha, Calib.next]
  | true => simp [Calib.phaseEnds, h, Calib.laneDone, ht, Calib.passEnds, ha, Calib.next, dataLanes_eq]

/-- CALIBRATION_PHASE on a RUNNING port, phase by phase. -/
theorem calibrationPhase_fields {s : State} {p : Fin 8} {u : Fin 2} (ok : Bool) (hx : (s.memPort p.val).st = .running) :
    let x : MemPort := s.memPort p.val
    let c : Calib := x.cal.get u
    ∃ t : State, exec (.calibrationPhase p u ok) s = .next t ∧
      let d : Calib := (t.memPort p.val).cal.get u
      (c.phase = 1 → ok = true → d = { c with phase := 2 })
      ∧ (c.phase = 1 → ok = false → d.dfail = true ∧ d.phase = 0 ∧ d.lane = 0x7F)
      ∧ (c.phase = 2 → d = { c with phase := 3, detour := true }) ∧ (c.phase = 3 → d = { c with phase := 4 })
      ∧ (c.phase = 4 → ok = true → d = { c with phase := 5, fails := 0 })
      ∧ (c.phase = 4 → ok = false → c.fails < 2 → d = { c with phase := 3, fails := c.fails + 1 })
      ∧ (c.phase = 4 → ok = false → c.fails = 2 → c.dfail = false → c.spared = 0x7F →
          d.spared = c.lane ∧ d.detour = false ∧ t.lseq = s.lseq + 1)
      ∧ (c.phase = 4 → ok = false → c.fails = 2 → (c.dfail = true ∨ c.spared ≠ 0x7F) →
          (t.memPort p.val).st = .faulted ∧ (t.memPort p.val).fail = 5)
      ∧ (c.phase = 5 → ∀ l rest, c.todo = l :: rest →
          d = { c with lane := l, detour := false, phase := 1, fails := 0, todo := rest })
      ∧ (c.phase = 5 → c.todo = [] → d.passes = min (c.passes + 1) 0xFFFF ∧ (x.dimms = 1 → d.tlast = x.temp0)
          ∧ (c.again = false → d.lane = 0x7F ∧ d.phase = 0)
          ∧ (c.again = true → d.lane = BitVec.ofNat 7 (u.val * 64) ∧ d.phase = 1)) := by
  intro x c
  obtain ⟨t, he, ht⟩ := calibrationPhase_running (u := u) (ok := ok) hx
  obtain ⟨h1, h23, h4, h5⟩ := c.phaseEnds_lane u.val (x.tempPick (Config.openChoice s.free))
  have hbad := c.phaseEnds_unverified u.val (x.tempPick (Config.openChoice s.free))
  refine ⟨t, he, ?_, ?_, fun hp => ?_, fun hp => ?_, ?_, ?_, ?_, ?_, fun hp l rest hl => ?_, fun hp hl => ?_⟩
  · rintro hp rfl
    exact ((ht _ _ _ (h1 hp).1).1 rfl).1
  · rintro hp rfl
    rw [((ht _ _ _ (h1 hp).2).1 rfl).1]
    exact ⟨rfl, rfl, rfl⟩
  · exact ((ht _ _ _ ((h23 ok).1 hp)).1 rfl).1
  · exact ((ht _ _ _ ((h23 ok).2 hp)).1 rfl).1
  · rintro hp rfl
    exact ((ht _ _ _ (h4 hp)).1 rfl).1
  · rintro hp rfl hf
    exact ((ht _ _ _ ((hbad hp).1 hf)).1 rfl).1
  · rintro hp rfl hf hd hs
    obtain ⟨hcal, hlog⟩ := (ht _ _ _ ((hbad hp).2.1 hf hd hs)).1 rfl
    rw [hcal]
    exact ⟨rfl, rfl, hlog rfl⟩
  · rintro hp rfl hf hd
    exact (ht _ _ _ ((hbad hp).2.2 hf hd)).2 rfl
  · exact ((ht _ _ _ (h5 ok l rest hp hl)).1 rfl).1
  · obtain ⟨d, hd, hpass, htemp, hno, hyes⟩ := c.phaseEnds_pass u (x.tempPick (Config.openChoice s.free)) ok hp hl
    rw [((ht _ _ _ hd).1 rfl).1]
    refine ⟨hpass, fun h1 => ?_, hno, hyes⟩
    rw [htemp, MemPort.tempPick, h1]
    rfl

/-! #### Scrubbing and refresh -/

theorem patrolScrub_clean {s : State} {p : Fin 8} {lane : Fin 128} (hx : (s.memPort p.val).st = .running)
    (hn : (s.memPort p.val).size ≠ 0) :
    exec (.patrolScrub p none lane) s = .next (s.setMemPort p.val
      { s.memPort p.val with scrub := ((s.memPort p.val).scrub + 1) % ((s.memPort p.val).size / 64) }) := by
  simp [execPatrolScrub, hx, hn]

/-- The record of an uncorrectable error at the line that is scrubbed. -/
def State.scrubError (s : State) (p : Nat) : ErrRec :=
  let a : Nat := (s.memPort p).scrub * 64
  { plainRec sevContained 0x11 4 p with hop := 0xA, asp := 0, addr := BitVec.ofNat 48 ((s.portPa p a).getD a), synd := s.synd 0xA }

theorem patrolScrub_uncorrectable {s : State} {p : Fin 8} {lane : Fin 128} (hx : (s.memPort p.val).st = .running)
    (hn : (s.memPort p.val).size ≠ 0) :
    ∃ (t : State) (e : ErrRec), exec (.patrolScrub p (some .uncorrectable) lane) s = .next t ∧ e.sev = 1 ∧ e.code = 0x11
      ∧ e.utype = 4 ∧ e.uidx.toNat = p.val ∧ e.hop = 0xA
      ∧ t = { (s.setMemPort p.val
          { s.memPort p.val with scrub := ((s.memPort p.val).scrub + 1) % ((s.memPort p.val).size / 64) }).report e
            with free := t.free } := by
  have hexec : exec (.patrolScrub p (some .uncorrectable) lane) s = .next ({ s.setMemPort p.val
      { s.memPort p.val with scrub := ((s.memPort p.val).scrub + 1) % ((s.memPort p.val).size / 64) }
        with free := s.free + 1 }.report (s.scrubError p.val)) := if_pos ⟨hx, hn⟩
  have hidx : (s.scrubError p.val).uidx.toNat = p.val := Nat.mod_eq_of_lt (by omega)
  exact ⟨_, _, hexec, rfl, rfl, rfl, hidx, rfl, by rw [State.report_free]⟩

theorem refresh_counts {s : State} {p : Fin 8} (hx : (s.memPort p.val).st ≠ .stopped) (hn : (s.memPort p.val).dimms ≠ 0) :
    ∃ (t : State) (n : Vector Nat 2), exec (.refresh p) s = .next t
      ∧ t = s.setMemPort p.val { s.memPort p.val with refreshes := n }
      ∧ n.get 0 = (s.memPort p.val).refreshes.get 0 + (if 85 ≤ (s.memPort p.val).temp0.toInt then 2 else 1)
      ∧ n.get 1 = (s.memPort p.val).refreshes.get 1
        + (if (s.memPort p.val).dimms = 2 then (if 85 ≤ (s.memPort p.val).temp1.toInt then 2 else 1) else 0) :=
  ⟨_, _, if_neg (not_or.2 ⟨hx, hn⟩), rfl, rfl, rfl⟩

/-! #### Pattern generators -/

/-- A lane is enabled by the masks of its unit. -/
def pgEnabled (host : Bool) (p : Patgen) (i : Nat) : Bool :=
  if host then decide (i < 16) && p.mask0.getLsbD i else if i < 64 then p.mask0.getLsbD i else p.mask1.getLsbD (i - 64)

theorem mem_pgLanes {host : Bool} {p : Patgen} {i : Nat} : i ∈ pgLanes host p ↔ i < 128 ∧ pgEnabled host p i = true := by
  cases host with
  | true =>
    simp only [pgLanes, pgEnabled, if_true, List.mem_filter, List.mem_range, Bool.and_eq_true, decide_eq_true_eq]
    exact ⟨fun ⟨h, hm⟩ => ⟨by omega, h, hm⟩, And.right⟩
  | false => simp [pgLanes, pgEnabled]

theorem setBit_four_true (x : W64) : setBit x 4 true = x ||| 0x10 := by
  have hm : (BitVec.ofNat 64 ((2 ^ 1 - 1) * 2 ^ 4) : W64) = 0x10 := rfl
  have hv : (BitVec.ofNat 64 (true.toNat % 2 ^ 1 * 2 ^ 4) : W64) = 0x10 := rfl
  simp only [setBit, setField, hm, hv]
  ext i hi
  simp only [BitVec.getElem_or, BitVec.getElem_and, BitVec.getElem_not]
  cases x[i] <;> cases (0x10 : W64)[i] <;> rfl

theorem setBit_four_false (x : W64) : setBit x 4 false = x &&& ~~~ 0x10 := by
  simp [setBit, setField]

@[simp] theorem State.pgOf_setPg (s : State) (u : PgUnit) (g : Patgen) : (s.setPg u g).pgOf u = g := by
  cases u with
  | mp p => simp [State.setPg, State.pgOf]
  | hp h => simp [State.setPg, State.pgOf]

/-- RUN seeds the enabled lanes of a unit that does not run. -/
theorem pgRun_starts {host : Bool} {p : Patgen} (h : p.pgctl.getLsbD 4 = false) :
    pgRun host p true = { p with pgctl := p.pgctl ||| 0x10, lfsr := (pgLanes host p).map (fun i => (i, pgSeed host p i)) } := by
  show (if p.pgctl.getLsbD 4 then _ else _) = _
  rw [h, ← setBit_four_true]
  rfl

/-- Clearing RUN clears every LOCK and leaves the counts of errors. -/
theorem pgRun_stops (host : Bool) (p : Patgen) :
    (pgRun host p false).pgctl = p.pgctl &&& ~~~ 0x10
      ∧ ∀ i, spGet 0 (pgRun host p false).lpstat i = spGet 0 p.lpstat i &&& 0xFFFFFFFF := by
  refine ⟨setBit_four_false _, fun i => ?_⟩
  show spGet 0 (p.lpstat.map (fun x => (x.1, x.2 &&& 0xFFFFFFFF))) i = _
  rw [spGet, spGet?_map (fun x : W64 => x &&& 0xFFFFFFFF), spGet]
  cases spGet? p.lpstat i <;> simp

/-- The checker of an enabled lane of a running unit sets LOCK and counts. -/
theorem pgLock_on {host : Bool} {p : Patgen} {lane : Nat} (errors : W32) (hr : p.pgctl.getLsbD 4 = true)
    (hl : lane ∈ pgLanes host p) :
    pgLock host p lane errors = { p with lpstat := spPut p.lpstat lane (BitVec.ofNat 64
      (min (bits (spGet (0 : W64) p.lpstat lane).toNat 0 32 + errors.toNat) 0xFFFFFFFF + 2 ^ 32)) } := by
  have hc : (pgLanes host p).contains lane = true := by simpa using hl
  rw [pgLock, hr, hc]
  rfl

theorem pgLock_off {host : Bool} {p : Patgen} {lane : Nat} (errors : W32)
    (h : p.pgctl.getLsbD 4 = false ∨ lane ∉ pgLanes host p) : pgLock host p lane errors = p := by
  refine if_neg fun hc => ?_
  simp only [Bool.and_eq_true, List.contains_iff_mem] at hc
  rcases h with h | h
  · exact Bool.false_ne_true (h.symm.trans hc.1)
  · exact h hc.2

/-- LPSTAT of a locked lane: LOCK in bit 32 over the count. -/
theorem lpstat_fields {n : Nat} (h : n ≤ 0xFFFFFFFF) :
    (BitVec.ofNat 64 (n + 2 ^ 32) : W64).getLsbD 32 = true ∧ bits (BitVec.ofNat 64 (n + 2 ^ 32) : W64).toNat 0 32 = n := by
  refine ⟨?_, ?_⟩
  · rw [BitVec.getLsbD_ofNat, Nat.testBit_eq_decide_div_mod_eq]
    simp only [Nat.reduceLT, decide_true, Bool.true_and, decide_eq_true_eq]
    omega
  · rw [bits, BitVec.toNat_ofNat]
    omega

/-- The number whose bits below `n` are those of `f`. -/
def bitSum (f : Nat → Bool) (n : Nat) : Nat := (List.range n).foldl (fun a i => a + (f i).toNat * 2 ^ i) 0

theorem bitSum_succ (f : Nat → Bool) (n : Nat) : bitSum f (n + 1) = bitSum f n + (f n).toNat * 2 ^ n := by
  simp [bitSum, List.range_succ]

theorem bitSum_lt (f : Nat → Bool) (n : Nat) : bitSum f n < 2 ^ n := by
  induction n with
  | zero => exact Nat.one_pos
  | succ n ih =>
    rw [bitSum_succ, pow_succ]
    have : (f n).toNat * 2 ^ n ≤ 1 * 2 ^ n := Nat.mul_le_mul_right _ (Bool.toNat_le _)
    omega

theorem testBit_bitSum (f : Nat → Bool) {n i : Nat} (h : i < n) : (bitSum f n).testBit i = f i := by
  induction n with
  | zero => omega
  | succ n ih =>
    rw [bitSum_succ, Nat.add_comm, Nat.mul_comm, Nat.testBit_two_pow_mul_add _ (bitSum_lt f n)]
    split
    · next hi => exact ih hi
    · next hi =>
      obtain rfl : i = n := by omega
      cases f i <;> simp

/-- The user pattern repeats every 40 bits. -/
theorem pgSent_user {host : Bool} {p : Patgen} (lane at_ : Nat) (h : bits p.pgctl.toNat 0 4 = (if host then 5 else 9)) :
    ∃ w : W64, pgSent host p lane at_ = some w ∧ ∀ i < 64, w.getLsbD i = p.user.getLsbD ((at_ + i) % 40) := by
  refine ⟨BitVec.ofNat 64 (bitSum (fun i => p.user.getLsbD ((at_ + i) % 40)) 64), ?_, fun i hi => ?_⟩
  · have hp : pgPoly host (if host then 5 else 9) = none := by cases host <;> rfl
    simp only [pgSent, h, hp, if_true]
    rfl
  · rw [BitVec.getLsbD_ofNat, testBit_bitSum _ hi]
    simp [hi]

theorem patternCheckerLock_locks {s : State} {u : PgUnit} {lane : Fin 128} {at_ : W16} {rx : W64} (errors : W32)
    (h : pgSent (pgHost u) (s.pgOf u) lane.val at_.toNat = some rx) :
    exec (.patternCheckerLock u ⟨lane, at_, rx, errors⟩) s
      = .next ({ s with free := s.free + 1 }.setPg u (pgLock (pgHost u) (s.pgOf u) lane.val errors)) := by
  simp [execPatternCheckerLock, h]

theorem patternCheckerLock_wrong {s : State} {u : PgUnit} {lane : Fin 128} {at_ : W16} {rx w : W64} (errors : W32)
    (h : pgSent (pgHost u) (s.pgOf u) lane.val at_.toNat = some w) (hw : w ≠ rx) (hl : pgLocked (s.pgOf u) lane.val = false) :
    exec (.patternCheckerLock u ⟨lane, at_, rx, errors⟩) s = .next { s with free := s.free + 1 } := by
  simp [execPatternCheckerLock, h, hw, hl]

theorem State.pgOf_counted (s : State) (k : Nat) (u : PgUnit) : { s with free := k }.pgOf u = s.pgOf u := by
  cases u <;> rfl

/-- The checker locks, or it does nothing. -/
theorem patternCheckerLock_either (u : PgUnit) (x : PatternSeen) (s : State) :
    ∃ ok : Bool, exec (.patternCheckerLock u x) s =
      if ok then .next ({ s with free := s.free + 1 }.setPg u (pgLock (pgHost u) (s.pgOf u) x.lane.val x.errors))
      else .next { s with free := s.free + 1 } := ⟨_, rfl⟩

/-- The checker of a lane that is not enabled, or of a unit that does not run, changes no register. -/
theorem patternCheckerLock_idle {s : State} {u : PgUnit} {x : PatternSeen}
    (h : (s.pgOf u).pgctl.getLsbD 4 = false ∨ x.lane.val ∉ pgLanes (pgHost u) (s.pgOf u)) :
    ∃ t : State, exec (.patternCheckerLock u x) s = .next t ∧ t.pgOf u = s.pgOf u := by
  obtain ⟨ok, he⟩ := patternCheckerLock_either u x s
  rw [pgLock_off x.errors h] at he
  cases ok with
  | true => exact ⟨_, he, State.pgOf_setPg _ _ _⟩
  | false => exact ⟨_, he, s.pgOf_counted _ u⟩

/-- The clauses on pattern generators and checkers. -/
theorem patternGenerators (u : PgUnit) (lane : Fin 128) (at_ : W16) (rx : W64) (errors : W32) (s : State) :
    let p : Patgen := s.pgOf u
    let host : Bool := pgHost u
    (s.pgStopped u = true → p.pgctl.getLsbD 4 = false → ∃ (t : State) (q : Patgen), exec (.pgctlRun u true) s = .next t
        ∧ t = s.setPg u q ∧ q.pgctl = p.pgctl ||| 0x10 ∧ q.mask0 = p.mask0 ∧ q.mask1 = p.mask1 ∧ q.lpstat = p.lpstat
        ∧ ∀ i < 128, pgEnabled host p i = true → host = false → (i, BitVec.ofNat 32 (i + 1)) ∈ q.lfsr)
    ∧ (s.pgStopped u = false → exec (.pgctlRun u true) s = .next s)
    ∧ (∃ (t : State) (q : Patgen), exec (.pgctlRun u false) s = .next t ∧ t = s.setPg u q ∧ q.pgctl = p.pgctl &&& ~~~ 0x10
        ∧ ∀ i, spGet 0 q.lpstat i = spGet 0 p.lpstat i &&& 0xFFFFFFFF)
    ∧ exec (.pgctlClr u) s = .next (s.setPg u { p with lpstat := [] })
    ∧ (p.pgctl.getLsbD 4 = true → pgEnabled host p lane.val = true → pgSent host p lane.val at_.toNat = some rx →
        ∃ t : State, exec (.patternCheckerLock u ⟨lane, at_, rx, errors⟩) s = .next t
          ∧ (spGet 0 (t.pgOf u).lpstat lane.val).getLsbD 32 = true
          ∧ bits (spGet 0 (t.pgOf u).lpstat lane.val).toNat 0 32
            = min (bits (spGet 0 p.lpstat lane.val).toNat 0 32 + errors.toNat) 0xFFFFFFFF
          ∧ (∀ i, i ≠ lane.val → spGet 0 (t.pgOf u).lpstat i = spGet 0 p.lpstat i) ∧ (t.pgOf u).pgctl = p.pgctl)
    ∧ (∀ w, pgSent host p lane.val at_.toNat = some w → w ≠ rx → pgLocked p lane.val = false →
        exec (.patternCheckerLock u ⟨lane, at_, rx, errors⟩) s = .next { s with free := s.free + 1 })
    ∧ (p.pgctl.getLsbD 4 = false ∨ pgEnabled host p lane.val = false → ∃ t : State,
        exec (.patternCheckerLock u ⟨lane, at_, rx, errors⟩) s = .next t ∧ t.pgOf u = p)
    ∧ (bits p.pgctl.toNat 0 4 = (if host then 5 else 9) → ∃ w : W64, pgSent host p lane.val at_.toNat = some w
        ∧ ∀ i < 64, w.getLsbD i = p.user.getLsbD ((at_.toNat + i) % 40)) := by
  intro p host
  refine ⟨fun hst hr => ?_, fun hst => ?_, ⟨_, _, rfl, rfl, pgRun_stops host p⟩, rfl, fun hr hon hs => ?_,
    fun w hs hw hl => patternCheckerLock_wrong errors hs hw hl, fun h => ?_, pgSent_user lane.val at_.toNat⟩
  · have hq := pgRun_starts (host := host) hr
    have hexec : exec (.pgctlRun u true) s = .next (s.setPg u (pgRun host p true)) := by simp [execPgctlRun, hst, p, host]
    rw [hq] at hexec
    refine ⟨_, _, hexec, rfl, rfl, rfl, rfl, rfl, fun i hi hon hh => ?_⟩
    exact List.mem_map.2 ⟨i, mem_pgLanes.2 ⟨hi, hon⟩, by simp [pgSeed, hh]⟩
  · simp [execPgctlRun, hst]
  · have hlane := pgLock_on (host := host) errors hr (mem_pgLanes.2 ⟨lane.isLt, hon⟩)
    refine ⟨_, patternCheckerLock_locks errors hs, ?_⟩
    rw [State.pgOf_setPg, hlane]
    obtain ⟨hlock, hcount⟩ := lpstat_fields (n := min (bits (spGet (0 : W64) p.lpstat lane.val).toNat 0 32 + errors.toNat)
      0xFFFFFFFF) (Nat.min_le_right _ _)
    refine ⟨?_, ?_, fun i hi => spGet_spPut_ne _ _ _ hi, rfl⟩
    · rw [spGet_spPut_self]; exact hlock
    · rw [spGet_spPut_self]; exact hcount
  · refine patternCheckerLock_idle (h.imp_right fun hoff hmem => ?_)
    exact Bool.false_ne_true (hoff.symm.trans (mem_pgLanes.1 hmem).2)

/-- The clauses on one port and one subchannel. -/
theorem memoryPortWork (p : Fin 8) (u : Fin 2) (s : State) :
    let x : MemPort := s.memPort p.val
    (∀ t0 t1 : Byte, x.dimms = 0 → exec (.temperatureRead p t0 t1) s = .next s)
    ∧ (x.st ≠ .running → exec (.calPeriodExpiry p u) s = .next s ∧ exec (.dqsDriftCorrection p) s = .next s)
    ∧ (x.st = .stopped ∨ x.dimms = 0 → exec (.refresh p) s = .next s)
    ∧ (x.st = .running → exec (.dqsDriftCorrection p) s = .next (s.setMemPort p.val { x with dqs := x.dqs + 1 })) :=
  ⟨fun _ _ h => if_pos h, fun h => ⟨if_neg h, if_neg h⟩, fun h => if_pos h, fun h => if_pos h⟩

/-- Settles O56. -/
theorem memoryPorts : Obligations.MemoryPorts := by
  unfold Obligations.MemoryPorts
  refine ⟨fun p u s => ?_, fun u lane at_ rx errors s => ?_⟩
  · obtain ⟨hnone, hidle, hself, hdqs⟩ := memoryPortWork p u s
    exact ⟨fun t0 t1 hd ht hstill => temperatureRead_cool t1 hd ht hstill, hnone,
      fun t0 t1 hd hh ht => temperatureRead_hot t1 hd hh ht, fun hx hd hs hp ht => calPeriodExpiry_starts hx hd hs hp ht, hidle,
      fun ok hx => calibrationPhase_fields ok hx, fun lane hx hn => ⟨patrolScrub_clean hx hn, patrolScrub_uncorrectable hx hn⟩,
      fun hx hn => refresh_counts hx hn, hself, hdqs⟩
  · cases u with
    | mp q => exact patternGenerators (.mp q) lane at_ rx errors s
    | hp h => exact patternGenerators (.hp h) lane at_ rx errors s

end Sys2Proof.Machine

namespace Sys2Proof.Machine

/-! ### O60: resets -/

/-- What a reset of the device leaves as it was, and what it clears. -/
def State.resetFrom (x s : State) : Prop :=
  x.fuses = s.fuses ∧ x.part = s.part ∧ x.hostMem = s.hostMem ∧ x.extensions = s.extensions ∧ x.kerb.image = s.kerb.image
    ∧ x.kerb.keyok = s.kerb.keyok ∧ x.kerb.tampen = s.kerb.tampen ∧ x.kerb.lock = true ∧ x.boot.stage = 0 ∧ x.cores = []
    ∧ x.dir = [] ∧ x.streets = []
    ∧ (∀ q < 4, (x.square q).st = .stopped ∧ (x.square q).eclk = if s.part.t20 then 2000 else 1600)
    ∧ x.channels = [] ∧ x.memPorts = [] ∧ x.banks = [] ∧ x.pending = s.pending

/-- A reset square stands at the maximum clock of the grade. -/
theorem State.deviceReset_square (s : State) {q : Nat} (hq : q < 4) :
    s.deviceReset.square q = { Square.reset with eclk := if s.part.t20 then 2000 else 1600 } := by
  have hall : ∀ q < 4, spGet Square.reset ((List.range 4).map (fun q => (q, { Square.reset with eclk := 1600 }))) q
      = { Square.reset with eclk := 1600 } := by decide
  show spGet Square.reset s.squaresReset q = _
  unfold State.squaresReset
  split
  · rfl
  · exact hall q hq

theorem State.deviceReset_from (s : State) : s.deviceReset.resetFrom s := by
  refine ⟨rfl, rfl, rfl, rfl, rfl, rfl, rfl, rfl, rfl, rfl, rfl, rfl, fun q hq => ?_, rfl, rfl, rfl, rfl⟩
  rw [s.deviceReset_square hq]
  exact ⟨rfl, rfl⟩

/-- A power-on reset differs from a device reset in attached memory, the test access port and two counts. -/
theorem State.powerOnReset_from (s : State) : s.powerOnReset.resetFrom s := s.deviceReset_from

/-- The test pin high holds the device in device reset. -/
theorem testmode_holds {s : State} (h : s.held = false) :
    ∃ x : State, exec (.testmode true) s = .next x ∧ x.resetFrom s ∧ x.held = true := by
  have hexec : exec (.testmode true) s = .next { s.deviceReset with pins := { s.deviceReset.pins with testmode := true } } := by
    simp [execTestmode, State.holdBegins, h]
  exact ⟨_, hexec, s.deviceReset_from, by simp [State.held]⟩

/-! ### O60: start-up -/

/-- Start-up has ended READY or FAILED, with a code of Table 16-4. -/
def State.startEnded (x : State) : Prop :=
  x.boot.stage = 6 ∨ (x.boot.stage = 0xF ∧ x.boot.fail ∈ [(1 : Byte), 2, 3, 4, 5, 6])

theorem State.bootFails_ended (s : State) {code : Byte} (h : code ∈ [(1 : Byte), 2, 3, 4, 5, 6]) :
    (s.bootFails code).startEnded := .inr ⟨rfl, h⟩

theorem State.readyStep_ended (s : State) (x : Image) : (s.readyStep x).startEnded := .inl rfl

theorem State.startUp4_ended (s : State) (b : BootFacts) (slotB : Bool) (x : Image) : (s.startUp4 b slotB x).startEnded := by
  unfold State.startUp4
  dsimp only
  split
  · exact State.bootFails_ended _ (by decide)
  · split
    · exact State.bootFails_ended _ (by decide)
    · split
      · exact State.bootFails_ended _ (by decide)
      · exact State.readyStep_ended _ _

theorem State.startUp_ended (s : State) (b : BootFacts) : (s.startUp b).startEnded := by
  unfold State.startUp
  dsimp only
  split
  · exact State.bootFails_ended _ (by decide)
  · split
    · exact State.bootFails_ended _ (by decide)
    · split
      · exact State.bootFails_ended _ (by decide)
      · exact State.startUp4_ended _ _ _ _

/-- Without readable fuses start-up fails with code 3, and without a readable flash with code 1. -/
theorem State.startUp_fails (s : State) (b : BootFacts) :
    (b.fuses = false → (s.startUp b).boot.stage = 0xF ∧ (s.startUp b).boot.fail = 3 ∧ (s.startUp b).mgmt.alert = true)
    ∧ (b.fuses = true → b.flash = false → (s.startUp b).boot.stage = 0xF ∧ (s.startUp b).boot.fail = 1) := by
  refine ⟨fun h => ?_, fun h h' => ?_⟩
  · simp [State.startUp, h, State.bootFails, State.alertOn]
  · simp [State.startUp, h, h', State.bootFails, State.alertOn]

theorem resetRelease_starts {s : State} (b : BootFacts)
    (hh : { s with pins := { s.pins with resetN := true } }.held = false) (hst : s.boot.stage = 0) :
    exec (.resetRelease b) s = .next ({ s with pins := { s.pins with resetN := true } }.startUp b) := by
  simp only [exec_resetRelease, execResetRelease, hh, hst]
  rfl

theorem resetRelease_waits {s : State} (b : BootFacts)
    (h : { s with pins := { s.pins with resetN := true } }.held = true ∨ s.boot.stage ≠ 0) :
    exec (.resetRelease b) s = .next { s with pins := { s.pins with resetN := true } } :=
  if_pos (by simpa using h)

/-! ### O60: the Kerb and the tamper monitor -/

/-- What a device-fatal error leaves alone: the Kerb and the management port. -/
def State.watch (s : State) : Kerb × Mgmt := (s.kerb, s.mgmt)

@[simp] theorem State.ghostDone_watch (s : State) (t q : Nat) (e : Fetched) : (s.ghostDone t q e).watch = s.watch := by
  unfold State.ghostDone
  dsimp only
  split <;> rfl

@[simp] theorem State.msixOf_watch (s : State) (t : Nat) (x : QPair) : (s.msixOf t x).watch = s.watch := by
  unfold State.msixOf
  split <;> rfl

@[simp] theorem State.setQp_watch (s : State) (t q : Nat) (x : QPair) : (s.setQp t q x).watch = s.watch := rfl

@[simp] theorem State.hostWr_watch (s : State) (a : Nat) (l : List Byte) : (s.hostWr a l).watch = s.watch := rfl

@[simp] theorem State.complete_watch (s : State) (t q : Nat) (e : Fetched) (a : Ans) : (s.complete t q e a).watch = s.watch := by
  unfold State.complete
  dsimp only
  (repeat' split) <;> simp

@[simp] theorem State.failFetched_watch (s : State) (t q : Nat) : (s.failFetched t q).watch = s.watch := by
  unfold State.failFetched
  split
  · rfl
  · exact foldl_keeps State.watch (fun s e => s.complete_watch _ _ _ _) _ _

@[simp] theorem State.setDoubt_watch (s : State) (k : RecKey) : (s.setDoubt k).watch = s.watch := by
  unfold State.setDoubt State.dirSet
  split <;> rfl

@[simp] theorem State.vectorsRaised_watch (s : State) : s.vectorsRaised.watch = s.watch := by
  refine foldl_keeps State.watch (fun s t => foldl_keeps State.watch (fun s q => ?_) _ _) _ _
  split
  · rfl
  · exact s.msixOf_watch _ _

@[simp] theorem State.allFaulted_watch (s : State) : s.allFaulted.watch = s.watch := by
  unfold State.allFaulted
  dsimp only
  rw [foldl_keeps State.watch (fun s h => (rfl : (s.setHostPort h _).watch = s.watch)),
    foldl_keeps State.watch (fun s p => (rfl : (s.setMemPort p _).watch = s.watch)),
    foldl_keeps State.watch (fun s k => (rfl : (s.setChannel k _).watch = s.watch)),
    foldl_keeps State.watch (fun s q => (rfl : (s.setSquare q _).watch = s.watch)),
    foldl_keeps State.watch (fun s g => (rfl : (s.setStreet g _).watch = s.watch))]
  exact s.vectorsRaised_watch

theorem State.failAll_watch (s : State) : s.failAll.watch = s.watch :=
  foldl_keeps State.watch (fun _ _ => foldl_keeps State.watch (fun s _ => s.failFetched_watch _ _) _ _) _ _

theorem State.doubtDelivered_watch (s : State) : s.doubtDelivered.watch = s.watch := by
  refine foldl_keeps State.watch (fun s d => ?_) _ _
  split
  · exact s.setDoubt_watch _
  · rfl

theorem State.doubtQueued_watch (s : State) : s.doubtQueued.watch = s.watch :=
  foldl_keeps State.watch (fun s _ => s.setDoubt_watch _) _ _

theorem State.deviceFatal_watch {s : State} (h : s.fatal = false) : s.deviceFatal.watch = s.watch := by
  have hall : s.failAll.doubtDelivered.doubtQueued.allFaulted.watch = s.watch := by
    rw [State.allFaulted_watch, State.doubtQueued_watch, State.doubtDelivered_watch, State.failAll_watch]
  rw [State.deviceFatal_eq h]
  generalize s.failAll.doubtDelivered.doubtQueued.allFaulted = t at hall ⊢
  exact hall

/-- A write to the memory of a square outside the Kerb leaves the Kerb. -/
theorem State.wrN_square_kerb {o : Nat} (l : List Byte) (h : o + l.length ≤ kerbOff) (s : State) :
    (s.wrN (sqPa 0 o) l).kerb = s.kerb := by
  induction l generalizing o s with
  | nil => rfl
  | cons b r ih =>
    rw [List.length_cons] at h
    have hb : pKind (sqPa 0 o) = .square 0 o := pKind_sqPa (by decide) (by omega)
    have hnext : sqPa 0 o + 1 = sqPa 0 (o + 1) := Nat.add_assoc _ _ _
    rw [State.wrN, hnext, ih (by omega), State.wr_square b hb]

/-- The four words of an entry make 64 bytes. -/
theorem length_logBytes {words : List Nat} (h : words.length = 4) (lseq time flags action aten : Nat) :
    (logBytes lseq time flags action aten words).length = 64 := by
  obtain ⟨a, b, c, d, rfl⟩ := List.length_eq_four.1 h
  simp [logBytes, length_leBytes, zeros]

theorem logBase_add (n : Nat) : logBase + n = sqPa 0 (0x100000 + n) := Nat.add_assoc _ _ _

/-- The log lies outside the Kerb. -/
theorem State.logWrite_kerb {words : List Nat} (h : words.length = 4) (s : State) (time flags action aten : Nat) :
    (s.logWrite time flags action aten words).kerb = s.kerb := by
  have hlen := length_logBytes h s.lseq time flags action aten
  have hpa := logBase_add (s.lseq % 16384 * 64)
  simp only [State.logWrite]
  generalize logBytes s.lseq time flags action aten words = l at hlen ⊢
  rw [hpa]
  exact State.wrN_square_kerb l (by rw [hlen, kerbOff]; omega) s

theorem State.aerNote_kerb (s : State) (sev : BitVec 2) (time : Nat) : (s.aerNote sev time).kerb = s.kerb := by
  unfold State.aerNote
  dsimp only
  (repeat' split) <;> rfl

theorem State.logEntry_kerb {words : List Nat} (h : words.length = 4) (s : State) (sev : BitVec 2) (time action aten : Nat) :
    (s.logEntry sev time action aten words).kerb = s.kerb := by
  rw [← State.logWrite_kerb h s time 0 action aten]
  unfold State.logEntry
  generalize s.logWrite time 0 action aten words = t
  dsimp only
  split
  · refine (State.aerNote_kerb _ _ _).trans ?_
    split <;> rfl
  · refine (State.aerNote_kerb _ _ _).trans ?_
    split <;> rfl

theorem State.logEntry_alert {sev : BitVec 2} (h : sev = 3) (s : State) (time action aten : Nat) (words : List Nat) :
    (s.logEntry sev time action aten words).mgmt.alert = true := by
  simp [State.logEntry, h, State.alertOn]

/-- A device-fatal error leaves the Kerb and asserts the alert. -/
theorem State.fatalOpen_watch (s : State) (ha : s.mgmt.alert = true) :
    s.fatalOpen.kerb = s.kerb ∧ s.fatalOpen.mgmt.alert = true := by
  unfold State.fatalOpen
  split
  · exact ⟨rfl, ha⟩
  · next h =>
    refine ⟨?_, State.logEntry_alert rfl _ _ _ _ _⟩
    have hlog := State.logEntry_kerb (words := (setField (setField (Config.openRecord s.deviceFatal.free 0) 60 2 sevDevice.toNat)
      63 1 1).toNat :: ((List.range 4).map (fun i => (Config.openRecord s.deviceFatal.free i).toNat)).drop 1) rfl
      { s.deviceFatal with free := s.deviceFatal.free + 1 } sevDevice (Config.mgmtTime s.deviceFatal.free) 6 0xFF
    exact hlog.trans (congrArg Prod.fst (State.deviceFatal_watch (by simpa using h)))

/-- A wipe clears the Kerb store and the sealing key, counts, and leaves what lies below the store. -/
theorem kerbWipe_fields (s : State) :
    (kerbWipe s).kerb.empty = true ∧ (kerbWipe s).kerb.keyok = false ∧ (kerbWipe s).kerb.image = none
      ∧ (kerbWipe s).kerb.wipes.toNat = min 0xFFFF (s.kerb.wipes.toNat + 1)
      ∧ (∀ i < 0x200000, memRd (kerbWipe s).mem (sqPa 0 0x600000 + i) = 0)
      ∧ (∀ a, a < sqPa 0 0x600000 → memRd (kerbWipe s).mem a = memRd s.mem a) := by
  refine ⟨rfl, rfl, rfl, ?_, fun i hi => ?_, fun a ha => ?_⟩
  · show (if s.kerb.wipes = 0xFFFF then (0xFFFF : W16) else s.kerb.wipes + 1).toNat = _
    split
    · next h => rw [h]; rfl
    · next h =>
      have hlt : s.kerb.wipes.toNat ≠ 0xFFFF := fun hw => h (BitVec.eq_of_toNat_eq hw)
      have hone : (1 : W16).toNat = 1 := rfl
      have hbound := s.kerb.wipes.isLt
      rw [BitVec.toNat_add, hone]
      have hval : (0xFFFF : W16).toNat = 0xFFFF := rfl
      omega
  · show (spGet? (spClear s.mem (sqPa 0 kerbOff) 0x200000) _).getD memDefault = 0
    rw [spGet?_spClear, if_pos ⟨Nat.le_add_right _ _, Nat.add_lt_add_left hi _⟩]
    rfl
  · show (spGet? (spClear s.mem (sqPa 0 kerbOff) 0x200000) _).getD memDefault = (spGet? s.mem a).getD memDefault
    rw [spGet?_spClear, if_neg (fun h => absurd h.1 (Nat.not_le.2 ha))]

/-- The state in which a detection has been recorded and has done its wipe. -/
def State.tamperNoted (s : State) (src : Nat) : State :=
  let s1 : State := { s with kerb := { s.kerb with tampstat := setBit s.kerb.tampstat src true } }.alertOn
  if s.tamperWipes src then kerbWipe s1 else s1

theorem State.tamperOn_eq (s : State) (src : Nat) :
    s.tamperOn src = if (src = 3 ∨ src = 5) ∧ s.awake then (s.tamperNoted src).fatalOpen else s.tamperNoted src := rfl

theorem getLsbD_setBit_true (x : Byte) (src : Fin 6) : (setBit x src.val true).getLsbD src.val = true := by
  revert x src
  decide

theorem State.tamperNoted_fields (s : State) (src : Fin 6) :
    (s.tamperNoted src.val).kerb.tampstat.getLsbD src.val = true ∧ (s.tamperNoted src.val).mgmt.alert = true
      ∧ (s.tamperWipes src.val = true → (s.tamperNoted src.val).kerb.keyok = false
        ∧ (s.tamperNoted src.val).kerb.image = none ∧ (s.tamperNoted src.val).kerb.empty = true)
      ∧ (s.tamperWipes src.val = false → (s.tamperNoted src.val).kerb.keyok = s.kerb.keyok
        ∧ (s.tamperNoted src.val).kerb.image = s.kerb.image) := by
  have hbit := getLsbD_setBit_true s.kerb.tampstat src
  unfold State.tamperNoted
  cases s.tamperWipes src.val with
  | true => exact ⟨hbit, rfl, fun _ => ⟨rfl, rfl, rfl⟩, fun h => Bool.noConfusion h⟩
  | false => exact ⟨hbit, rfl, fun h => Bool.noConfusion h, fun _ => ⟨rfl, rfl⟩⟩

/-- What a detection leaves of the Kerb and the alert; from the core supply and the system reference it is
device-fatal. -/
theorem State.tamperOn_fields (s : State) (src : Fin 6) :
    (s.tamperOn src.val).kerb = (s.tamperNoted src.val).kerb ∧ (s.tamperOn src.val).mgmt.alert = true
      ∧ ((src.val = 3 ∨ src.val = 5) → s.awake = true → (s.tamperOn src.val).fatal = true) := by
  obtain ⟨-, halert, -⟩ := s.tamperNoted_fields src
  rw [State.tamperOn_eq]
  split
  · obtain ⟨hk, ha⟩ := State.fatalOpen_watch _ halert
    exact ⟨hk, ha, fun _ _ => State.fatalOpen_fatal _⟩
  · next h => exact ⟨rfl, halert, fun h' ha => absurd ⟨h', ha⟩ h⟩

theorem tamperDetect_on {s : State} {src : Fin 6} (h2 : src.val ≠ 2) (hp : s.pins.pwrgood = true) :
    ∃ x : State, exec (.tamperDetect src) s = .next x ∧ x.kerb.tampstat.getLsbD src.val = true
      ∧ x.mgmt.alert = true ∧ (s.tamperWipes src.val = true → x.kerb.keyok = false ∧ x.kerb.image = none ∧ x.kerb.empty = true)
      ∧ (s.tamperWipes src.val = false → x.kerb.keyok = s.kerb.keyok ∧ x.kerb.image = s.kerb.image)
      ∧ ((src.val = 3 ∨ src.val = 5) → s.awake = true → x.fatal = true) := by
  obtain ⟨hk, ha, hf⟩ := s.tamperOn_fields src
  obtain ⟨hbit, -, hwipe, hkeep⟩ := s.tamperNoted_fields src
  have hexec : exec (.tamperDetect src) s = .next (s.tamperOn src.val) := by simp [execTamperDetect, hp, h2]
  refine ⟨_, hexec, ?_, ha, ?_, ?_, hf⟩
  · rw [hk]; exact hbit
  · rw [hk]; exact hwipe
  · rw [hk]; exact hkeep

theorem getLsbD_setBit_vbat : ∀ (r : BitVec 2) (src : Fin 6), src.val < 2 → (setBit r src.val true).getLsbD src.val = true := by
  decide

theorem tamperDetect_off {s : State} {src : Fin 6} (h2 : src.val < 2) (hp : s.pins.pwrgood = false) :
    ∃ x : State, exec (.tamperDetect src) s = .next x ∧ x.kerb.keyok = false
      ∧ x.kerb.vbatRec.getLsbD src.val = true ∧ x.kerb.image = s.kerb.image := by
  have hexec : exec (.tamperDetect src) s
      = .next { s with kerb := { s.kerb with keyok := false, vbatRec := setBit s.kerb.vbatRec src.val true } } := by
    simp [execTamperDetect, hp, h2]
  refine ⟨_, hexec, rfl, ?_, rfl⟩
  exact getLsbD_setBit_vbat s.kerb.vbatRec src h2

/-! ### O60: junction temperatures -/

theorem State.junction_eq (s : State) (i : Fin 23) (t : BitVec 16) :
    s.junction i t = { s with mgmt := { s.mgmt with
      sensors := s.mgmt.sensors.set i.val t, alert := s.mgmt.alert || decide (460 ≤ t.toInt) } } := by
  unfold State.junction
  by_cases h : 460 ≤ t.toInt
  · simp [h, State.alertOn]
  · simp [h]

theorem thermtrip_on {s : State} (i : Fin 23) (t : BitVec 16) (hp : s.pins.pwrgood = true) :
    exec (.thermtrip ⟨i, t⟩) s = .next { s with mgmt := { s.mgmt with
      sensors := s.mgmt.sensors.set i.val t, alert := s.mgmt.alert || decide (460 ≤ t.toInt)
      thermtrip := s.mgmt.thermtrip || decide (540 ≤ t.toInt) } } := by
  simp only [exec_thermtrip, execThermtrip, hp, if_true, State.junction_eq]
  by_cases h : 540 ≤ t.toInt
  · simp [h]
  · simp [h]

/-- The clauses on the control register of the Kerb. -/
theorem kctl_awake {s : State} (h : s.awake = true) :
    exec .kctlWipe s = .next (kerbWipe s)
    ∧ (s.fuses.lc = 1 ∨ s.fuses.lc = 2 →
      exec .kctlSeal s = .next { s with kerb := { s.kerb with keyok := true, image := some (kerbStore s) } })
    ∧ (s.fuses.lc = 0 ∨ s.fuses.lc = 3 → exec .kctlSeal s = .next s)
    ∧ exec .kctlLock s = .next { s with kerb := { s.kerb with lock := true, forced := true } } := by
  refine ⟨if_pos h, fun hl => (if_pos h).trans (congrArg _ (if_pos hl)), fun hl => (if_pos h).trans (congrArg _ (if_neg ?_)), if_pos h⟩
  rcases hl with hl | hl <;> simp [hl]

/-- Settles O60. -/
theorem pinsAndKerb : Obligations.PinsAndKerb := by
  unfold Obligations.PinsAndKerb
  intro s i t strap b
  refine ⟨fun hp => ⟨if_pos hp, _, if_pos hp, s.powerOnReset_from, rfl, rfl, rfl, rfl, rfl, rfl⟩,
    fun hp => ⟨if_neg (by simp [hp]), if_neg (by simp [hp])⟩,
    fun hp => ⟨_, rfl, ?_⟩, testmode_holds, rfl, ⟨resetRelease_waits b, fun hh hst hf => ?_, fun hh hst hf hl => ?_, fun hh hst => ?_⟩,
    fun ha => ?_, fun ha => ?_, fun src h2 hp => tamperDetect_on h2 hp, fun src h2 hp => tamperDetect_off h2 hp, fun hp => ⟨?_, thermtrip_on i t hp⟩⟩
  · rw [if_pos hp]
    exact ⟨s.deviceReset_from, rfl, rfl, rfl, rfl, rfl⟩
  · exact ⟨_, resetRelease_starts b hh hst, (State.startUp_fails _ b).1 hf⟩
  · exact ⟨_, resetRelease_starts b hh hst, (State.startUp_fails _ b).2 hf hl⟩
  · exact ⟨_, resetRelease_starts b hh hst, State.startUp_ended _ b⟩
  · obtain ⟨hwipe, hseal, hnone, hlock⟩ := kctl_awake ha
    exact ⟨⟨_, hwipe, kerbWipe_fields s⟩, hseal, hnone, hlock⟩
  · simp [execKctlWipe, execKctlSeal, execKctlLock, ha]
  · exact (if_pos hp).trans (congrArg _ (s.junction_eq i t))

end Sys2Proof.Machine

namespace Sys2Proof.Machine

/-! ### O58: the flash window -/

/-- The three operations on the flash window of function `f`, with their codes. -/
def flashOps (f : FnId) : List (Instr × BitVec 2) := [(.fwctlRead f, 1), (.fwctlErase f, 2), (.fwctlProgram f, 3)]

theorem exec_flashOps {f : FnId} {c : Instr × BitVec 2} (hc : c ∈ flashOps f) (s : State) :
    exec c.1 s = .next (s.fwctl f c.2) ∧ c.2 ≠ 0 := by
  simp only [flashOps, List.mem_cons, List.not_mem_nil, or_false] at hc
  rcases hc with rfl | rfl | rfl <;> exact ⟨rfl, fun h => by cases h⟩

/-- A request of the managing function while no operation runs: refused, or begun. -/
theorem State.fwctl_refused {s : State} (hb : s.bar2 s.mgmtFn = true) (hn : s.flashOp = none) {op : BitVec 2} (h0 : op ≠ 0)
    {e : BitVec 4} (h : s.flashRefuses op = some e) : s.fwctl s.mgmtFn op = { s with fwerr := e, free := s.free + 1 } := by
  unfold State.fwctl
  rw [if_neg (by simp [hb, hn]), if_neg (by simp), if_neg h0, h]

theorem State.fwctl_begins {s : State} (hb : s.bar2 s.mgmtFn = true) (hn : s.flashOp = none) {op : BitVec 2} (h0 : op ≠ 0)
    (h : s.flashRefuses op = none) :
    s.fwctl s.mgmtFn op = { s with flashOp := some { op := op, sector := s.fwaddr.toNat } } := by
  unfold State.fwctl
  rw [if_neg (by simp [hb, hn]), if_neg (by simp), if_neg h0, h]

theorem State.flashRefuses_none {s : State} {op : BitVec 2}
    (h : op = 1 ∨ (s.flashProtected s.fwaddr.toNat = false ∧ s.fuses.lc ≠ 3)) : s.flashRefuses op = none := by
  rcases h with h | ⟨hp, hl⟩
  · exact if_pos h
  · have hret : (s.fuses.lc == 3) = false := beq_eq_false_iff_ne.2 hl
    simp only [State.flashRefuses, hp, hret]
    exact ite_self _

theorem State.flashRefuses_protected {s : State} {op : BitVec 2} (h1 : op ≠ 1)
    (hp : s.flashProtected s.fwaddr.toNat = true) (hl : s.fuses.lc ≠ 3) : s.flashRefuses op = some 1 := by
  have hret : (s.fuses.lc == 3) = false := beq_eq_false_iff_ne.2 hl
  simp only [State.flashRefuses, hp, hret]
  exact if_neg h1

theorem State.flashRefuses_retired {s : State} {op : BitVec 2} (h1 : op ≠ 1)
    (hp : s.flashProtected s.fwaddr.toNat = false) (hl : s.fuses.lc = 3) : s.flashRefuses op = some 2 := by
  have hret : (s.fuses.lc == 3) = true := beq_iff_eq.2 hl
  simp only [State.flashRefuses, hp, hret]
  exact if_neg h1

/-- The clauses on the requests of the managing function. -/
theorem flashOps_mgmt {s : State} {a : Nat} (hb : s.bar2 s.mgmtFn = true) (hn : s.flashOp = none) (ha : s.fwaddr.toNat = a) :
    (∀ c ∈ flashOps s.mgmtFn, (c.2 = 1 ∨ (s.flashProtected a = false ∧ s.fuses.lc ≠ 3)) →
      exec c.1 s = .next { s with flashOp := some { op := c.2, sector := a } })
    ∧ (∀ c ∈ flashOps s.mgmtFn, c.2 ≠ 1 → s.flashProtected a = true → s.fuses.lc ≠ 3 →
      exec c.1 s = .next { s with fwerr := 1, free := s.free + 1 })
    ∧ (∀ c ∈ flashOps s.mgmtFn, c.2 ≠ 1 → s.flashProtected a = false → s.fuses.lc = 3 →
      exec c.1 s = .next { s with fwerr := 2, free := s.free + 1 }) := by
  subst ha
  refine ⟨fun c hc h => ?_, fun c hc h1 hp hl => ?_, fun c hc h1 hp hl => ?_⟩
  · obtain ⟨he, h0⟩ := exec_flashOps hc s
    rw [he, State.fwctl_begins hb hn h0 (State.flashRefuses_none h)]
  · obtain ⟨he, h0⟩ := exec_flashOps hc s
    rw [he, State.fwctl_refused hb hn h0 (State.flashRefuses_protected h1 hp hl)]
  · obtain ⟨he, h0⟩ := exec_flashOps hc s
    rw [he, State.fwctl_refused hb hn h0 (State.flashRefuses_retired h1 hp hl)]

theorem State.fwctl_busy {s : State} (h : s.flashOp.isSome = true) (f : FnId) (op : BitVec 2) : s.fwctl f op = s := by
  simp [State.fwctl, h]

theorem State.fwctl_other {s : State} {g : FnId} (hg : g ≠ s.mgmtFn) (hb : s.bar2 g = true) (hn : s.flashOp = none)
    (op : BitVec 2) : s.fwctl g op = { s with fwerr := 3 } := by
  unfold State.fwctl
  rw [if_neg (by simp [hb, hn]), if_pos hg]

/-- Bytes written to the flash read back, and the bytes outside them read as before. -/
theorem flashRd_flashWr {m : List Host.Cell} (h : Memory.wf 0xFF m = true) (a i : Nat) (l : List Byte) :
    flashRd (flashWr m a l) i = if a ≤ i ∧ i < a + l.length then byteAt l (i - a) else flashRd m i := by
  induction l generalizing m a with
  | nil =>
    rw [List.length_nil, if_neg (by omega)]
    rfl
  | cons b r ih =>
    have hcell : flashRd (cellPut 0xFF m a b) i = if i = a then b else flashRd m i := spGet_cellPut h a i b
    rw [flashWr, ih (Memory.wf_cellPut h a b), hcell, List.length_cons]
    rcases Nat.lt_trichotomy i a with hi | hi | hi
    · rw [if_neg (by omega), if_neg (by omega), if_neg (by omega)]
    · subst hi
      rw [if_neg (by omega), if_pos rfl, if_pos (by omega), Nat.sub_self]
      rfl
    · obtain ⟨k, rfl⟩ : ∃ k, i = a + 1 + k := ⟨i - (a + 1), by omega⟩
      have hk : a + 1 + k - a = k + 1 := by omega
      simp only [Nat.add_sub_cancel_left, hk, byteAt, List.getElem?_cons_succ]
      by_cases hl : k < r.length
      · rw [if_pos (by omega), if_pos (by omega)]
      · rw [if_neg (by omega), if_neg (by omega), if_neg (by omega)]

/-- The cells of a buffer whose first byte lies at `n`. -/
theorem memRd_cells (l : List Byte) (n i : Nat) :
    memRd (((l.zipIdx n).filter (fun p => p.1 != memDefault)).map (fun p => (p.2, p.1))) i
      = if n ≤ i ∧ i < n + l.length then byteAt l (i - n) else memDefault := by
  induction l generalizing n with
  | nil => rw [List.length_nil, if_neg (by omega)]; rfl
  | cons b r ih =>
    have hcell : memRd ((((b :: r).zipIdx n).filter (fun p => p.1 != memDefault)).map (fun p => (p.2, p.1))) i
        = if i = n then b else memRd (((r.zipIdx (n + 1)).filter (fun p => p.1 != memDefault)).map (fun p => (p.2, p.1))) i := by
      rw [List.zipIdx_cons]
      by_cases hb : b = memDefault
      · rw [List.filter_cons_of_neg (by simp [hb])]
        by_cases hi : i = n
        · rw [if_pos hi, ih, if_neg (by omega), hb]
        · rw [if_neg hi]
      · rw [List.filter_cons_of_pos (by simp [hb]), List.map_cons, memRd, spGet, spGet?_cons]
        by_cases hi : i = n
        · rw [if_pos hi, if_pos hi.symm]
          rfl
        · rw [if_neg hi, if_neg (Ne.symm hi)]
          rfl
    rw [hcell, ih, List.length_cons]
    rcases Nat.lt_trichotomy i n with hi | hi | hi
    · rw [if_neg (by omega), if_neg (by omega), if_neg (by omega)]
    · subst hi
      rw [if_pos rfl, if_pos (by omega), Nat.sub_self]
      rfl
    · obtain ⟨k, rfl⟩ : ∃ k, i = n + 1 + k := ⟨i - (n + 1), by omega⟩
      have hk : n + 1 + k - n = k + 1 := by omega
      rw [if_neg (by omega)]
      simp only [Nat.add_sub_cancel_left, hk, byteAt, List.getElem?_cons_succ]
      by_cases hl : k < r.length
      · rw [if_pos (by omega), if_pos (by omega)]
      · rw [if_neg (by omega), if_neg (by omega)]

/-- A buffer holds the bytes that it is made of. -/
theorem memRd_bufOf {l : List Byte} {i : Nat} (h : i < l.length) : memRd (bufOf l) i = byteAt l i := by
  rw [bufOf, memRd_cells, if_pos (by omega), Nat.sub_zero]

theorem byteAt_map_range {f : Nat → Byte} {n i : Nat} (h : i < n) : byteAt ((List.range n).map f) i = f i := by
  simp [byteAt, h]

/-- What a READ, an ERASE and a PROGRAM leave. -/
theorem State.flashEnds_fields {s : State} (x : FlashOp) (hw : Memory.wf 0xFF s.flash = true) :
    (x.op = 1 → (s.flashEnds x false).flash = s.flash
        ∧ ∀ i : Nat, i < 4096 → memRd (s.flashEnds x false).fwbuf i = s.flashSees (x.sector + i))
    ∧ (x.op = 2 → (s.flashEnds x false).fwbuf = s.fwbuf ∧ ∀ b : Nat, flashRd (s.flashEnds x false).flash b
        = if x.sector ≤ b ∧ b < x.sector + 4096 then 0xFF else flashRd s.flash b)
    ∧ (x.op = 3 → (s.flashEnds x false).fwbuf = s.fwbuf ∧ ∀ b : Nat, flashRd (s.flashEnds x false).flash b
        = if x.sector ≤ b ∧ b < x.sector + 4096 then memRd s.fwbuf (b - x.sector) &&& flashRd s.flash b
          else flashRd s.flash b) := by
  have hwritten (l : List Byte) (hl : l.length = 4096) (b : Nat) : flashRd (flashWr s.flash x.sector l) b
      = if x.sector ≤ b ∧ b < x.sector + 4096 then byteAt l (b - x.sector) else flashRd s.flash b := by
    rw [flashRd_flashWr hw, hl]
  refine ⟨fun h => ?_, fun h => ?_, fun h => ?_⟩
  · have hend : s.flashEnds x false = { s with flashOp := none, fwerr := 0, free := s.free + 1
                                               fwbuf := bufOf ((List.range 4096).map (fun i => s.flashSees (x.sector + i))) } :=
      if_pos h
    refine ⟨by rw [hend], fun i hi => ?_⟩
    rw [hend]
    dsimp only
    rw [memRd_bufOf (by rw [List.length_map, List.length_range]; exact hi), byteAt_map_range hi]
  · have h1 : x.op ≠ 1 := by rw [h]; decide
    have hend : s.flashEnds x false = { s with flashOp := none, fwerr := 0, free := s.free + 1
                                               flash := flashWr s.flash x.sector (List.replicate 4096 0xFF)
                                               torn := slotBit x.sector s.torn false } := by
      simp only [State.flashEnds, if_neg h1, if_pos h, Bool.false_eq_true, if_false]
    refine ⟨by rw [hend], fun b => ?_⟩
    rw [hend]
    dsimp only
    rw [hwritten _ List.length_replicate]
    split
    · next hb =>
      rw [byteAt, List.getElem?_replicate, if_pos (by omega)]
      rfl
    · rfl
  · have h1 : x.op ≠ 1 := by rw [h]; decide
    have h2 : x.op ≠ 2 := by rw [h]; decide
    have hend : s.flashEnds x false = { s with flashOp := none, fwerr := 0, free := s.free + 1
                                               flash := flashWr s.flash x.sector ((bufBytes s.fwbuf).zipWith
                                                 (fun b o => b &&& o) (flashRdN s.flash x.sector 4096))
                                               torn := slotBit x.sector s.torn false } := by
      simp only [State.flashEnds, if_neg h1, if_neg h2, Bool.false_eq_true, if_false]
    refine ⟨by rw [hend], fun b => ?_⟩
    rw [hend]
    dsimp only
    rw [hwritten _ (by simp [bufBytes, flashRdN])]
    split
    · next hb =>
      have hlt : b - x.sector < 4096 := by omega
      have hpos : x.sector + (b - x.sector) = b := by omega
      simp only [byteAt, bufBytes, flashRdN, List.getElem?_zipWith, List.getElem?_map, List.getElem?_range hlt, Option.map_some,
        hpos]
      rfl
    · rfl

/-! ### O58: what the host reads -/

theorem State.bar2Read_fields {s : State} {f : FnId} (h : s.bar2 f = true) :
    s.hostRead f 2 0 false = s.bootstat ∧ s.hostRead f 2 0x100 false = 0 ∧ s.hostRead f 2 0x108 false = s.fwaddr.toNat
      ∧ s.hostRead f 2 0x110 false = s.flashOp.isSome.toNat + s.fwerr.toNat * 16 := by
  simp [State.hostRead, State.bar2Read, h, State.fwstat]

theorem State.hostRead_page (s : State) (g : FnId) {off : Nat} (h : off % 4 = 0) :
    s.hostRead g 0 off false = s.pageRead g off := by
  simp [State.hostRead, h]

/-- The registers of a doorbell page, each at its offset within the page of its queue pair. -/
theorem State.pageRead_fields {s : State} {g : FnId} {t : Nat} {q : Byte} {x : QPair} (hb : s.bar0 g = true)
    (hq : s.qpOf g q.toNat = some (t, x)) :
    s.hostRead g 0 (q.toNat * 256) false = x.sqtail.toNat ∧ s.hostRead g 0 (q.toNat * 256 + 4) false = x.cqhead.toNat
      ∧ s.hostRead g 0 (q.toNat * 256 + 8) false = x.qstat ∧ s.hostRead g 0 (q.toNat * 256 + 0x20) false = x.cqint.toNat
      ∧ s.hostRead g 0 (q.toNat * 256 + 0x28) false = 0 := by
  have hat (o : Nat) (ho : o < 256) : (q.toNat * 256 + o) / 256 = q.toNat ∧ (q.toNat * 256 + o) % 256 = o := by omega
  have hread (o : Nat) (ho : o < 256) (h4 : o % 4 = 0) :
      s.hostRead g 0 (q.toNat * 256 + o) false = s.pageRead g (q.toNat * 256 + o) := s.hostRead_page g (by omega)
  refine ⟨?_, ?_, ?_, ?_, ?_⟩
  · rw [← Nat.add_zero (q.toNat * 256), hread 0 (by decide) rfl]
    obtain ⟨hd, hm⟩ := hat 0 (by decide)
    simp only [State.pageRead, hd, hm, hb, if_true, hq]
  · rw [hread 4 (by decide) rfl]
    obtain ⟨hd, hm⟩ := hat 4 (by decide)
    simp only [State.pageRead, hd, hm, hb, if_true, hq, Nat.reduceEqDiff, if_false]
  · rw [hread 8 (by decide) rfl]
    obtain ⟨hd, hm⟩ := hat 8 (by decide)
    simp only [State.pageRead, hd, hm, hb, if_true, hq, Nat.reduceEqDiff, if_false]
  · rw [hread 0x20 (by decide) rfl]
    obtain ⟨hd, hm⟩ := hat 0x20 (by decide)
    simp only [State.pageRead, hd, hm, hb, if_true, hq, Nat.reduceEqDiff, if_false]
  · rw [hread 0x28 (by decide) rfl]
    obtain ⟨hd, hm⟩ := hat 0x28 (by decide)
    simp only [State.pageRead, hd, hm, hb, if_true, hq, Nat.reduceEqDiff, if_false, and_false]

/-- The page of a queue pair that does not exist reads zero. -/
theorem State.pageRead_none {s : State} {g : FnId} {q : Byte} {o : Nat} (hq : s.qpOf g q.toNat = none) (ho : o < 256) :
    s.hostRead g 0 (q.toNat * 256 + o) false = 0 := by
  have hd : (q.toNat * 256 + o) / 256 = q.toNat := by omega
  simp [State.hostRead, State.pageRead, hd, hq]

/-! ### O58: register writes -/

/-- A byte of a word in its place. -/
theorem getLsbD_field (n k j : Nat) (hj : j < 64) :
    (BitVec.ofNat 64 ((BitVec.ofNat 8 (n / 2 ^ (8 * k))).toNat * 2 ^ (8 * k))).getLsbD j
      = (decide (8 * k ≤ j) && decide (j < 8 * k + 8) && n.testBit j) := by
  rw [BitVec.getLsbD_ofNat, BitVec.toNat_ofNat, Nat.testBit_mul_two_pow, Nat.testBit_mod_two_pow, Nat.testBit_div_two_pow]
  by_cases h : 8 * k ≤ j
  · have hlt : (j - 8 * k < 8) = (j < 8 * k + 8) := by simp only [eq_iff_iff]; omega
    simp [h, hj, hlt, Nat.sub_add_cancel h]
  · simp [h]

/-- Eight bytes in their places make the word. -/
theorem fields_or (w : W64) :
    (((((((BitVec.ofNat 64 ((BitVec.ofNat 8 (w.toNat / 2 ^ (8 * 7))).toNat * 2 ^ (8 * 7))
      ||| BitVec.ofNat 64 ((BitVec.ofNat 8 (w.toNat / 2 ^ (8 * 6))).toNat * 2 ^ (8 * 6)))
      ||| BitVec.ofNat 64 ((BitVec.ofNat 8 (w.toNat / 2 ^ (8 * 5))).toNat * 2 ^ (8 * 5)))
      ||| BitVec.ofNat 64 ((BitVec.ofNat 8 (w.toNat / 2 ^ (8 * 4))).toNat * 2 ^ (8 * 4)))
      ||| BitVec.ofNat 64 ((BitVec.ofNat 8 (w.toNat / 2 ^ (8 * 3))).toNat * 2 ^ (8 * 3)))
      ||| BitVec.ofNat 64 ((BitVec.ofNat 8 (w.toNat / 2 ^ (8 * 2))).toNat * 2 ^ (8 * 2)))
      ||| BitVec.ofNat 64 ((BitVec.ofNat 8 (w.toNat / 2 ^ (8 * 1))).toNat * 2 ^ (8 * 1)))
      ||| BitVec.ofNat 64 ((BitVec.ofNat 8 (w.toNat / 2 ^ (8 * 0))).toNat * 2 ^ (8 * 0))) = w := by
  refine BitVec.eq_of_getLsbD_eq fun j hj => ?_
  simp only [BitVec.getLsbD_or, getLsbD_field _ _ _ hj, BitVec.testBit_toNat]
  cases w.getLsbD j with
  | false => simp
  | true =>
    simp only [Bool.and_true, Bool.or_eq_true, Bool.and_eq_true, decide_eq_true_eq]
    omega

theorem beBytes_eight (n : Nat) : beBytes 8 n = [BitVec.ofNat 8 (n / 2 ^ (8 * 7)), BitVec.ofNat 8 (n / 2 ^ (8 * 6)),
    BitVec.ofNat 8 (n / 2 ^ (8 * 5)), BitVec.ofNat 8 (n / 2 ^ (8 * 4)), BitVec.ofNat 8 (n / 2 ^ (8 * 3)),
    BitVec.ofNat 8 (n / 2 ^ (8 * 2)), BitVec.ofNat 8 (n / 2 ^ (8 * 1)), BitVec.ofNat 8 (n / 2 ^ (8 * 0))] := by
  simp [beBytes, leBytes, Nat.div_div_eq_div_mul]

/-- A byte that belongs to the word being gathered joins it. -/
theorem regBytesGo_join {s : State} {a word : Nat} {b : Byte} (mask v : W64) (as_ : List Nat) (bs : List Byte)
    (hk : regKeyByte s a b = none) (hw : a / 8 * 8 = word) :
    regBytesGo word mask v s (a :: as_) (b :: bs) = regBytesGo word (mask ||| BitVec.ofNat 64 (0xFF * 2 ^ (8 * (7 - a % 8))))
      (v ||| BitVec.ofNat 64 (b.toNat * 2 ^ (8 * (7 - a % 8)))) s as_ bs := by
  rw [regBytesGo_eq, regBytesGo_eq, gatherBytes, hk]
  exact if_pos hw

/-- The first byte of a word, with nothing gathered before it. -/
theorem regBytesGo_first {s : State} {a : Nat} {b : Byte} (as_ : List Nat) (bs : List Byte)
    (hk : regKeyByte s a b = none) (hw : a / 8 * 8 ≠ 0) :
    regBytesGo 0 0 0 s (a :: as_) (b :: bs) = regBytesGo (a / 8 * 8) (BitVec.ofNat 64 (0xFF * 2 ^ (8 * (7 - a % 8))))
      (BitVec.ofNat 64 (b.toNat * 2 ^ (8 * (7 - a % 8)))) s as_ bs := by
  rw [regBytesGo_eq, regBytesGo_eq, gatherBytes, hk]
  exact (if_neg hw).trans (by rw [if_pos rfl])

/-- Eight bytes of one register are one write of it. -/
theorem regBytesGo_eight {s : State} {pa : Nat} (h8 : pa % 8 = 0) (h0 : pa ≠ 0)
    (hk : ∀ i < 8, ∀ b, regKeyByte s (pa + i) b = none) (w : W64) :
    regBytesGo 0 0 0 s ((List.range 8).map (fun i => pa + i)) (beBytes 8 w.toNat) = regWrite s pa (BitVec.allOnes 64) w := by
  have hword (i : Nat) (hi : i < 8) : (pa + i) / 8 * 8 = pa ∧ (pa + i) % 8 = i := by omega
  have hrange : (List.range 8).map (fun i => pa + i) = [pa + 0, pa + 1, pa + 2, pa + 3, pa + 4, pa + 5, pa + 6, pa + 7] := rfl
  have hfirst := (hword 0 (by decide)).1
  rw [hrange, beBytes_eight, regBytesGo_first _ _ (hk 0 (by decide) _) (by rw [hfirst]; exact h0), hfirst,
    regBytesGo_join _ _ _ _ (hk 1 (by decide) _) (hword 1 (by decide)).1,
    regBytesGo_join _ _ _ _ (hk 2 (by decide) _) (hword 2 (by decide)).1,
    regBytesGo_join _ _ _ _ (hk 3 (by decide) _) (hword 3 (by decide)).1,
    regBytesGo_join _ _ _ _ (hk 4 (by decide) _) (hword 4 (by decide)).1,
    regBytesGo_join _ _ _ _ (hk 5 (by decide) _) (hword 5 (by decide)).1,
    regBytesGo_join _ _ _ _ (hk 6 (by decide) _) (hword 6 (by decide)).1,
    regBytesGo_join _ _ _ _ (hk 7 (by decide) _) (hword 7 (by decide)).1]
  simp only [(hword 0 (by decide)).2, (hword 1 (by decide)).2, (hword 2 (by decide)).2, (hword 3 (by decide)).2,
    (hword 4 (by decide)).2, (hword 5 (by decide)).2, (hword 6 (by decide)).2, (hword 7 (by decide)).2, Nat.sub_zero,
    Nat.reduceSub]
  have hmask : (((((((BitVec.ofNat 64 (0xFF * 2 ^ (8 * 7)) ||| BitVec.ofNat 64 (0xFF * 2 ^ (8 * 6)))
      ||| BitVec.ofNat 64 (0xFF * 2 ^ (8 * 5))) ||| BitVec.ofNat 64 (0xFF * 2 ^ (8 * 4)))
      ||| BitVec.ofNat 64 (0xFF * 2 ^ (8 * 3))) ||| BitVec.ofNat 64 (0xFF * 2 ^ (8 * 2)))
      ||| BitVec.ofNat 64 (0xFF * 2 ^ (8 * 1))) ||| BitVec.ofNat 64 (0xFF * 2 ^ (8 * 0))) = BitVec.allOnes 64 := by decide
  rw [fields_or, hmask]
  rw [regBytesGo_eq, gatherBytes]
  · exact if_neg (by decide)
  · intro _ _ _ _ h
    cases h

theorem pKind_reg {pa : Nat} (hlo : regBase ≤ pa) (hhi : pa < regBase + 0x5800000) : pKind pa = .reg := by
  have hsq : sqBase + 0x4000000 ≤ regBase := by decide
  have htile : tileBase ≤ regBase := by decide
  have hset : tileSetBase ≤ regBase := by decide
  have hclr : tileClrBase + 0x4000000 ≤ regBase := by decide
  rw [pKind, if_neg (by omega), if_neg (by omega), if_neg (by omega), if_neg (by omega), if_neg (by omega), if_neg (by omega),
    if_neg (by omega), if_pos (.inl hhi)]

/-- A control core's write of 8 bytes to a register that is no key store is one write of that register. -/
theorem State.physWrite_reg {s : State} {pa : Nat} (ha : s.awake = true) (h8 : pa % 8 = 0)
    (hlo : regBase + 0x4000000 ≤ pa) (hhi : pa + 8 ≤ regBase + 0x5800000) (w : W64) :
    s.physWrite pa w = regWrite s pa (BitVec.allOnes 64) w := by
  have hreg : ∀ i < 8, pKind (pa + i) = .reg := fun i hi =>
    pKind_reg (Nat.le_add_right_of_le (Nat.le_of_add_right_le hlo)) (Nat.lt_of_lt_of_le (Nat.add_lt_add_left hi pa) hhi)
  have hkey : ∀ i < 8, ∀ b, regKeyByte s (pa + i) b = none := by
    intro i hi b
    have hpast : ¬ pa + i - regBase < 0x4000000 :=
      Nat.not_lt.2 (Nat.le_sub_of_add_le (Nat.le_add_right_of_le (by rwa [Nat.add_comm])))
    rw [regKeyByte, if_neg (fun h => hpast h.1), if_neg (fun h => hpast h.1)]
  have hall : ∀ p ∈ ((List.range 8).map (fun i => pa + i)).zip (beBytes 8 w.toNat), pKind p.1 = .reg := by
    rintro ⟨a, b⟩ hp
    obtain ⟨i, hi, rfl⟩ := List.mem_map.1 (List.of_mem_zip hp).1
    exact hreg i (List.mem_range.1 hi)
  have hlen : ((List.range 8).map (fun i => pa + i)).length = (beBytes 8 w.toNat).length := by simp
  have hnone : (((List.range 8).map (fun i => pa + i)).zip (beBytes 8 w.toNat)).filter (fun p => !(pKind p.1 == .reg)) = [] :=
    List.filter_eq_nil_iff.2 fun p hp => by simp [hall p hp]
  have hevery : (((List.range 8).map (fun i => pa + i)).zip (beBytes 8 w.toNat)).filter (fun p => pKind p.1 == .reg)
      = ((List.range 8).map (fun i => pa + i)).zip (beBytes 8 w.toNat) :=
    List.filter_eq_self.2 fun p hp => by simp [hall p hp]
  have hsel : (s.awake && ((List.range 8).map (fun i => pa + i)).all (fun a => pKind a == .reg)) = true := by
    rw [ha, Bool.true_and, List.all_eq_true]
    intro a hm
    obtain ⟨i, hi, rfl⟩ := List.mem_map.1 hm
    simp [hreg i (List.mem_range.1 hi)]
  simp only [State.physWrite, hsel, if_true, State.ccStore]
  rw [hnone, hevery, List.map_fst_zip (le_of_eq hlen), List.map_snd_zip (le_of_eq hlen.symm), List.foldl_nil]
  exact regBytesGo_eight h8 (by unfold regBase at hlo; omega) hkey w

theorem registerWrite_kabase {s : State} (ha : s.awake = true) (w : W64) :
    exec (.registerWrite (.phys 0x10304000100 w)) s
      = .next { s with kabase := (s.kabase &&& 0xFFFF0000000FFFFF) ||| (w &&& 0x0000FFFFFFF00000) } := by
  refine congrArg Host.Outcome.next ?_
  exact State.physWrite_reg (pa := 0x10304000100) ha rfl (by decide) (by decide) w

/-- A write of DIRBASE looks the directory up at its new place. -/
theorem registerWrite_dirbase {s : State} (ha : s.awake = true) (w : W64) :
    exec (.registerWrite (.phys 0x10304000108 w)) s
      = .next ({ s with dirbase := (s.dirbase &&& 0xFFFF00007FFFFFFF) ||| (w &&& 0x0000FFFF80000000) }.rebase
          ((s.dirbase &&& 0xFFFF00007FFFFFFF) ||| (w &&& 0x0000FFFF80000000)).toNat) := by
  refine congrArg Host.Outcome.next ?_
  exact State.physWrite_reg (pa := 0x10304000108) ha rfl (by decide) (by decide) w

theorem State.rebase_stays {s : State} {nb : Nat} (h : s.layout.live = false ∨ nb = s.layout.dirBase) : s.rebase nb = s :=
  if_pos (by simpa using h)

theorem State.rebase_moves {s : State} {nb : Nat} (h : s.layout.live = true) :
    (s.rebase nb).dirbase = s.dirbase ∧ (s.rebase nb).layout.dirBase = nb := by
  by_cases hb : nb = s.layout.dirBase
  · rw [State.rebase_stays (.inr hb)]
    exact ⟨rfl, hb.symm⟩
  · unfold State.rebase
    rw [if_neg (by simp [h, hb])]
    exact ⟨rfl, rfl⟩

theorem registerWrite_route {s : State} (ha : s.awake = true) (n : Fin 128) (i : Fin 32) (src : Fin 384) (v : Bool)
    (task : BitVec 6) (h : src.val < 300 ∨ 320 ≤ src.val) :
    ∃ t : State, exec (.registerWrite (.route (.eng n) i src v task)) s = .next t
      ∧ spGet? (t.core (.eng n)).evroute i.val = some { src := BitVec.ofNat 9 src.val, v := v }
      ∧ spGet? (t.core (.eng n)).evtask i.val = some task := by
  have hout : ¬ (300 ≤ src.val ∧ src.val < 320) := by omega
  have hexec : exec (.registerWrite (.route (.eng n) i src v task)) s = .next (s.setCore (.eng n) { s.core (.eng n) with
      evroute := spPut (s.core (.eng n)).evroute i.val { src := BitVec.ofNat 9 src.val, v := v }
      evtask := spPut (s.core (.eng n)).evtask i.val task }) := by
    refine (if_pos ha).trans (congrArg Host.Outcome.next (if_neg ?_))
    simp only [isCc, Bool.not_false, Bool.true_and, Bool.and_eq_true, decide_eq_true_eq]
    exact hout
  refine ⟨_, hexec, ?_, ?_⟩
  · rw [State.core_setCore]
    exact spGet?_spPut_self _ _ _
  · rw [State.core_setCore]
    exact spGet?_spPut_self _ _ _

/-- Settles O58. -/
theorem flashAndRegisters : Obligations.FlashAndRegisters := by
  unfold Obligations.FlashAndRegisters
  intro s a w
  refine ⟨flashOps_mgmt, fun h c hc => ?_, fun g hg hb hn => ⟨congrArg _ (State.fwctl_other hg hb hn 1), congrArg _ (State.fwctl_other hg hb hn 2)⟩,
    fun x hx hw => ?_, fun x hx => ?_, fun hb hn => ?_, State.bar2Read_fields, fun g t q x => State.pageRead_fields,
    fun g q o => State.pageRead_none, fun ha => ⟨registerWrite_kabase ha w, ⟨fun h => ?_, fun h => ?_⟩, registerWrite_route ha⟩⟩
  · obtain ⟨he, -⟩ := exec_flashOps hc s
    rw [he, State.fwctl_busy h]
  · have hexec : exec (.flashOperationComplete false) s = .next (s.flashEnds x false) := by
      simp [execFlashOperationComplete, hx]
    have hend : (s.flashEnds x false).flashOp = none ∧ (s.flashEnds x false).fwerr = 0 := by
      unfold State.flashEnds; dsimp only; split <;> exact ⟨rfl, rfl⟩
    exact ⟨_, hexec, hend.1, hend.2, State.flashEnds_fields x hw⟩
  · have hexec : exec (.flashOperationComplete true) s = .next (s.flashEnds x true) := by
      simp [execFlashOperationComplete, hx]
    refine ⟨_, hexec, ?_⟩
    unfold State.flashEnds; dsimp only; split <;> exact ⟨rfl, rfl⟩
  · simp [execRegisterWrite, State.bar2Write, hb, hn]
  · rw [registerWrite_dirbase ha]
    exact congrArg Host.Outcome.next (State.rebase_stays (s := { s with dirbase := _ }) h)
  · exact ⟨_, registerWrite_dirbase ha w, State.rebase_moves (s := { s with dirbase := _ }) h⟩

end Sys2Proof.Machine

namespace Sys2Proof.Machine

/-! ### O57: function level resets of a port -/

/-- Every key of a canonical map names its own entry. -/
theorem Sparse.spGet?_of_mem {α : Type} {m : Sparse α} (h : m.wf) {k : Nat} {v : α} (hm : (k, v) ∈ m) : spGet? m k = some v := by
  induction m with
  | nil => cases hm
  | cons e r ih =>
    obtain ⟨j, w⟩ := e
    obtain ⟨hlt, hr⟩ := Sparse.wf_cons.1 h
    rcases List.mem_cons.1 hm with heq | hin
    · cases heq
      exact if_pos rfl
    · have hne : j ≠ k := Nat.ne_of_lt (hlt (k, v) hin)
      rw [spGet?_cons, if_neg hne]
      exact ih hr hin

/-- The first entry with a property stays the first when another entry keeps it. -/
theorem Sparse.find?_spPut {α : Type} {m : Sparse α} (h : m.wf) {k : Nat} {v w : α} (hv : spGet? m k = some v)
    (pr : α → Bool) (hpr : pr w = pr v) :
    ((spPut m k w).find? (fun t => pr t.2)).map (fun t => t.1) = (m.find? (fun t => pr t.2)).map (fun t => t.1) := by
  induction m with
  | nil => cases hv
  | cons e r ih =>
    obtain ⟨j, u⟩ := e
    obtain ⟨hlt, hr⟩ := Sparse.wf_cons.1 h
    rw [spGet?_cons] at hv
    by_cases hj : j = k
    · subst hj
      rw [if_pos rfl] at hv
      cases hv
      rw [spPut, if_neg (Nat.lt_irrefl _), if_pos rfl]
      simp only [List.find?_cons, hpr]
      cases pr v <;> rfl
    · rw [if_neg hj] at hv
      have hjk : j < k := hlt (k, v) (mem_of_spGet? hv)
      rw [spPut, if_neg (by omega), if_neg (by omega)]
      simp only [List.find?_cons]
      cases pr u with
      | true => rfl
      | false => exact ih hr hv

theorem State.tenOf_get {s : State} (hw : Sparse.wf s.tenancies) {f : FnId} {t : Nat} (h : s.tenOf f = some t) :
    spGet? s.tenancies t = some (s.tenancy t) := by
  obtain ⟨⟨k, x⟩, hfind, rfl⟩ := Option.map_eq_some_iff.1 h
  have hget := Sparse.spGet?_of_mem hw (List.mem_of_find?_eq_some hfind)
  rw [State.tenancy, spGet, hget]
  rfl

/-- A tenancy changed under its binding stays bound. -/
theorem State.tenOf_setTenancy {s : State} (hw : Sparse.wf s.tenancies) {f : FnId} {t : Nat} (h : s.tenOf f = some t)
    {x : Tenancy} (hx : x.bound = (s.tenancy t).bound) (g : FnId) : (s.setTenancy t x).tenOf g = s.tenOf g :=
  Sparse.find?_spPut hw (State.tenOf_get hw h) (fun y => y.bound == some g) (by rw [hx])

/-- What a function level reset leaves of the device outside tenancies, queues and batches. -/
def State.flrFrame (s t : State) : Prop :=
  t.mem = s.mem ∧ t.dir = s.dir ∧ t.hostPorts = s.hostPorts

/-- A tenancy whose function has been reset: queue pair 0 alone, DEVNO 0. -/
def Tenancy.flred (x : Tenancy) : Prop := x.devno = 0 ∧ x.qps.map (fun p => p.1) = [0]

theorem State.flr_none {s : State} {f : FnId} (h : s.tenOf f = none) : s.flr f = s := by
  simp only [State.flr, h]

theorem State.flr_frame (s : State) (f : FnId) : s.flrFrame (s.flr f) := by
  unfold State.flr State.flrFrame
  split
  · exact ⟨rfl, rfl, rfl⟩
  · next t _ =>
    exact ⟨foldl_keeps State.mem (f := fun s (p : Nat × QPair) => s.orphan t p.1) (fun _ _ => rfl) _ s,
      foldl_keeps State.dir (f := fun s (p : Nat × QPair) => s.orphan t p.1) (fun _ _ => rfl) _ s,
      foldl_keeps State.hostPorts (f := fun s (p : Nat × QPair) => s.orphan t p.1) (fun _ _ => rfl) _ s⟩

/-- A function level reset clears the tenancy of its function. -/
theorem State.flr_flred {s : State} {f : FnId} {t : Nat} (h : s.tenOf f = some t) : ((s.flr f).tenancy t).flred := by
  obtain ⟨u, -, -, hflr⟩ := State.flr_bound h
  rw [hflr, State.tenancy_setTenancy_self]
  exact ⟨rfl, rfl⟩

/-- A function level reset keeps the bindings, and the tenancies that are clear already. -/
theorem State.flr_tenancies {s : State} (hw : Sparse.wf s.tenancies) (f : FnId) :
    Sparse.wf (s.flr f).tenancies ∧ (∀ g, (s.flr f).tenOf g = s.tenOf g)
      ∧ ∀ t, (s.tenancy t).flred → ((s.flr f).tenancy t).flred := by
  cases h : s.tenOf f with
  | none =>
    rw [State.flr_none h]
    exact ⟨hw, fun _ => rfl, fun _ => id⟩
  | some t =>
    have hself := State.flr_flred h
    obtain ⟨u, hten, -, hflr⟩ := State.flr_bound h
    rw [hflr] at hself ⊢
    have hof (g : FnId) : u.tenOf g = s.tenOf g := by rw [State.tenOf, State.tenOf, hten]
    refine ⟨Sparse.wf_spPut (hten ▸ hw) _ _, fun g => ?_, fun n hn => ?_⟩
    · rw [State.tenOf_setTenancy (hten ▸ hw) ((hof f).trans h) (State.tenancy_congr hten t ▸ rfl), hof]
    · by_cases hnt : n = t
      · exact hnt ▸ hself
      · rw [State.tenancy_setTenancy_ne _ _ hnt, State.tenancy_congr hten]
        exact hn

/-- Function level resets of a list of functions. -/
def State.flrAll (s : State) (l : List FnId) : State := l.foldl (fun s f => s.flr f) s

theorem State.flrAll_frame (s : State) (l : List FnId) : s.flrFrame (s.flrAll l) :=
  ⟨foldl_keeps State.mem (fun s f => (s.flr_frame f).1) l s, foldl_keeps State.dir (fun s f => (s.flr_frame f).2.1) l s,
    foldl_keeps State.hostPorts (fun s f => (s.flr_frame f).2.2) l s⟩

theorem State.flrAll_keeps {s : State} (hw : Sparse.wf s.tenancies) (l : List FnId) {t : Nat} (h : (s.tenancy t).flred) :
    ((s.flrAll l).tenancy t).flred := by
  induction l generalizing s with
  | nil => exact h
  | cons f r ih =>
    obtain ⟨hwf, -, hkeep⟩ := State.flr_tenancies hw f
    exact ih hwf (hkeep t h)

/-- Every tenancy of the functions is clear. -/
theorem State.flrAll_flred {s : State} (hw : Sparse.wf s.tenancies) {l : List FnId} {f : FnId} (hf : f ∈ l) {t : Nat}
    (h : s.tenOf f = some t) : ((s.flrAll l).tenancy t).flred := by
  induction l generalizing s with
  | nil => cases hf
  | cons g r ih =>
    obtain ⟨hwf, hof, -⟩ := State.flr_tenancies hw g
    rcases List.mem_cons.1 hf with rfl | hr
    · exact State.flrAll_keeps hwf r (State.flr_flred h)
    · exact ih hwf hr ((hof f).trans h)

/-- The functions of a host port. -/
def portFns (h : Fin 2) : List FnId := (List.finRange 16).map (fun n => ⟨h, n⟩)

theorem mem_portFns (h : Fin 2) (n : Fin 16) : (⟨h, n⟩ : FnId) ∈ portFns h :=
  List.mem_map.2 ⟨n, List.mem_finRange n, rfl⟩

theorem State.portReset_eq (s : State) (h : Fin 2) :
    s.portReset h.val = (s.flrAll (portFns h)).setHostPort h.val { s.hostPort h.val with
      nwidth := 0, nrate := 0, rev := false, pol := 0, d3 := 0, pg := Patgen.reset, last := .none } := by
  have hports : (s.flrAll (portFns h)).hostPort h.val = s.hostPort h.val := by
    rw [State.hostPort, State.hostPort, (s.flrAll_frame (portFns h)).2.2]
  rw [← hports]
  unfold State.portReset State.flrAll portFns
  simp only [Fin.ofNat_val_eq_self]

/-! ### O57: links and configuration space -/

theorem getLsbD_setBit_self {w : Nat} (x : BitVec w) {i : Nat} (hi : i < w) (b : Bool) : (setBit x i b).getLsbD i = b := by
  unfold setBit setField
  dsimp only
  rw [BitVec.getLsbD_or, BitVec.getLsbD_and, BitVec.getLsbD_not, BitVec.getLsbD_ofNat, BitVec.getLsbD_ofNat]
  cases b with
  | true =>
    have hval : true.toNat % 2 ^ 1 * 2 ^ i = 2 ^ i := Nat.one_mul _
    rw [hval, Nat.testBit_two_pow_self, decide_eq_true hi]
    exact Bool.or_true _
  | false =>
    have hmask : (2 ^ 1 - 1) * 2 ^ i = 2 ^ i := Nat.one_mul _
    have hval : false.toNat % 2 ^ 1 * 2 ^ i = 0 := Nat.zero_mul _
    rw [hval, hmask, Nat.testBit_two_pow_self, Nat.zero_testBit]
    simp

theorem perst_low {s : State} {h : Fin 2} (hp : s.pins.pwrgood = true) :
    exec (.perst h false) s = .next ((s.portReset h.val).setHostPort h.val
      { (s.portReset h.val).hostPort h.val with perst := false }) := by
  simp [execPerst, hp]

theorem linkDown_up {s : State} {h : Fin 2} (hu : s.linkIsUp h.val = true) :
    ∃ t : State, exec (.linkDown h) s = .next t ∧ (t.hostPort h.val).nwidth = 0 ∧ (t.hostPort h.val).nrate = 0
      ∧ (t.hostPort h.val).st = (s.hostPort h.val).st ∧ t.dir = s.dir ∧ t.mem = s.mem := by
  obtain ⟨hmem, hdir, -⟩ := s.flrAll_frame (portFns h)
  refine ⟨_, if_pos hu, ?_⟩
  rw [State.portReset_eq, State.hostPort_setHostPort_self]
  generalize s.flrAll (portFns h) = u at hmem hdir ⊢
  exact ⟨rfl, rfl, rfl, hdir, hmem⟩

/-- What an entry of the list of fields does to the word at `a`. -/
def cfgField (a : Nat) (x : Nat × Nat × Nat) (w : W32) : W32 :=
  if x.1 = a then (w &&& ~~~ BitVec.ofNat 32 x.2.1) ||| BitVec.ofNat 32 x.2.2 else w

theorem State.configSpace_eq (s : State) (f : FnId) (off : Nat) :
    s.configSpace f off = (s.configFields f).foldr (cfgField (off / 4 * 4)) (Config.configWord s.free (off / 4 * 4)) := rfl

theorem cfgField_ne {a b : Nat} (h : b ≠ a) (m v : Nat) (w : W32) : cfgField a (b, m, v) w = w := if_neg h

theorem cfgField_full (a v : Nat) (w : W32) : cfgField a (a, 0xFFFFFFFF, v) w = BitVec.ofNat 32 v := by
  have hm : ~~~ (BitVec.ofNat 32 0xFFFFFFFF) = 0#32 := by decide
  rw [cfgField, if_pos rfl, hm, BitVec.and_zero, BitVec.zero_or]

/-- Bits 15 to 8 that an entry sets to zero. -/
theorem cfgField_zero (a : Nat) (w : W32) : (cfgField a (a, 0xFF00, 0) w).toNat / 2 ^ 8 % 2 ^ 8 = 0 := by
  rw [cfgField, if_pos rfl]
  refine Nat.eq_of_testBit_eq fun i => ?_
  rw [Nat.testBit_mod_two_pow, Nat.testBit_div_two_pow, BitVec.testBit_toNat, BitVec.getLsbD_or, BitVec.getLsbD_and,
    Nat.zero_testBit]
  by_cases hi : i < 8
  · have hmask : ∀ i < 8, (~~~ BitVec.ofNat 32 0xFF00).getLsbD (i + 8) = false := by decide
    rw [hmask i hi, BitVec.getLsbD_zero, Bool.and_false, Bool.or_false, Bool.and_false]
  · rw [decide_eq_false hi, Bool.false_and]

/-- The four fields of the identity lead the list. -/
theorem State.configFields_identity (s : State) (f : FnId) : ∃ rest, s.configFields f =
    (0x00, 0xFFFFFFFF, 0x1E9C + (if f.fn == 0 then 0x7C70 else 0x7C71) * 0x10000)
      :: (0x08, 0xFFFFFFFF, s.part.step.toNat + 0x120000 * 0x100) :: (0x2C, 0xFFFFFFFF, 0x1E9C + 0x7C70 * 0x10000)
      :: (0x3C, 0xFF00, 0) :: rest := ⟨_, rfl⟩

theorem configSpace_identity (s : State) (f : FnId) :
    s.configSpace f 0x00 = BitVec.ofNat 32 (0x1E9C + (if f.fn = 0 then 0x7C70 else 0x7C71) * 0x10000)
      ∧ s.configSpace f 0x08 = BitVec.ofNat 32 (s.part.step.toNat + 0x12000000)
      ∧ s.configSpace f 0x2C = 0x7C701E9C ∧ (s.configSpace f 0x3C).toNat / 256 % 256 = 0 := by
  obtain ⟨rest, hfields⟩ := s.configFields_identity f
  simp only [State.configSpace_eq, hfields, List.foldr_cons]
  refine ⟨?_, ?_, ?_, ?_⟩
  · rw [cfgField_full]
    simp only [beq_iff_eq]
  · rw [cfgField_ne (by decide), cfgField_full]
  · rw [cfgField_ne (by decide), cfgField_ne (by decide), cfgField_full]
    rfl
  · rw [cfgField_ne (by decide), cfgField_ne (by decide), cfgField_ne (by decide)]
    exact cfgField_zero 0x3C _

theorem HostPort.trainsTo_of {x : HostPort} {k : LinkFacts} (hw : k.width.toNat ∈ [1, 2, 4, 8, 16])
    (hl : k.width.toNat ≤ (if x.widthSet = 0 then 16 else if x.widthSet = 1 then 8 else 4)) (h1 : 1 ≤ k.rate.toNat)
    (hr : k.rate.toNat ≤ x.maxrate.toNat) : x.trainsTo k = true := by
  have hlanes : k.width.toNat ≤ x.lanes := hl
  rw [HostPort.trainsTo, List.contains_iff_mem.2 hw, decide_eq_true hlanes, decide_eq_true h1, decide_eq_true hr]
  rfl

theorem linkUp_trains {s : State} {h : Fin 2} {k : LinkFacts} (hh : s.held = false) (hst : s.boot.stage ≠ 0)
    (hp : (s.hostPort h.val).perst = true) (hn : (s.hostPort h.val).nwidth = 0) (ht : (s.hostPort h.val).tested = false)
    (hf : (s.hostPort h.val).st ≠ .faulted) (hk : (s.hostPort h.val).trainsTo k = true) :
    exec (.linkUp h k) s = .next (s.setHostPort h.val { s.hostPort h.val with
      nwidth := k.width, nrate := k.rate, rev := k.reversed, pol := k.polarity }) := by
  refine if_pos ?_
  have hst' : (s.boot.stage != 0) = true := bne_iff_ne.2 hst
  have hf' : ((s.hostPort h.val).st != .faulted) = true := bne_iff_ne.2 hf
  have hn' : ((s.hostPort h.val).nwidth == 0) = true := beq_iff_eq.2 hn
  rw [hh, hst', hp, hn', ht, hf', hk]
  rfl

theorem linkUp_stays {s : State} {h : Fin 2} (k : LinkFacts)
    (hx : (s.hostPort h.val).nwidth ≠ 0 ∨ (s.hostPort h.val).tested = true ∨ (s.hostPort h.val).st = .faulted) :
    exec (.linkUp h k) s = .next s := by
  refine if_neg fun hc => ?_
  simp only [Bool.and_eq_true, Bool.not_eq_true', beq_iff_eq, bne_iff_ne] at hc
  obtain ⟨⟨⟨⟨-, hn⟩, ht⟩, hf⟩, -⟩ := hc
  rcases hx with hx | hx | hx
  · exact hx hn
  · exact Bool.false_ne_true (ht.symm.trans hx)
  · exact hf hx

theorem linkRetrainTimeout_down {s : State} {h : Fin 2} (hst : (s.hostPort h.val).st = .running ∨ (s.hostPort h.val).st = .draining)
    (hp : (s.hostPort h.val).perst = true) (hn : (s.hostPort h.val).nwidth = 0) :
    exec (.linkRetrainTimeout h) s = .next ((s.setHostPort h.val { s.hostPort h.val with st := .faulted, fail := 2 }).report
      { sev := 2, hop := 0xF, code := 0x50, utype := 5, uidx := BitVec.ofNat 8 h.val, asp := 3, addr := 0, synd := 0, ten := 0
        task := 0, pc := 0 }) := if_pos ⟨hst, hp, hn⟩

/-- The clauses on a link that is up. -/
theorem linkUp_requests {s : State} {h : Fin 2} (n : Fin 16) (hu : s.linkIsUp h.val = true) :
    (s.boot.cfgRead = false → ∀ off, exec (.configurationRequest ⟨⟨h, n⟩, off⟩) s
      = .next (s.setHostPort h.val { s.hostPort h.val with last := .retry }))
    ∧ (s.boot.cfgRead = true → ∀ off : BitVec 12, ∃ t : State, exec (.configurationRequest ⟨⟨h, n⟩, off⟩) s = .next t
      ∧ (t.hostPort h.val).last = .success ∧ (t.hostPort h.val).data = s.configSpace ⟨h, n⟩ off.toNat
      ∧ (t.hostPort h.val).st = (s.hostPort h.val).st ∧ t.tenancies = s.tenancies)
    ∧ exec (.unsupportedRequest h) s = .next (s.setHostPort h.val { s.hostPort h.val with last := .unsupported })
    ∧ ∃ t : State, exec (.d3hotEntry ⟨h, n⟩) s = .next t ∧ (t.hostPort h.val).d3.getLsbD n.val = true
      ∧ ∀ y, t.fetches ⟨h, n⟩ y = false := by
  have hd3 : ((s.setHostPort h.val { s.hostPort h.val with d3 := setBit (s.hostPort h.val).d3 n.val true }).hostPort h.val).d3.getLsbD
      n.val = true := by
    rw [State.hostPort_setHostPort_self]
    exact getLsbD_setBit_self _ n.isLt true
  refine ⟨fun hc off => ?_, fun hc off => ?_, if_pos hu, _, if_pos hu, hd3, fun y => ?_⟩
  · simp [execConfigurationRequest, hu, hc]
  · refine ⟨{ s with free := s.free + 1 }.setHostPort h.val { s.hostPort h.val with
      last := .success, data := s.configSpace ⟨h, n⟩ off.toNat }, ?_, ?_⟩
    · simp [execConfigurationRequest, hu, hc]
    · rw [State.hostPort_setHostPort_self]
      exact ⟨rfl, rfl, rfl, rfl⟩
  · rw [State.fetches, hd3, Bool.not_true, Bool.and_false]

/-- The clauses on the return from D3hot. -/
theorem d0Return_resets {s : State} {h : Fin 2} {n : Fin 16} (hd : (s.hostPort h.val).d3.getLsbD n.val = true) :
    ∃ t : State, exec (.d0Return ⟨h, n⟩) s = .next t ∧ (t.hostPort h.val).d3.getLsbD n.val = false
      ∧ ∀ tn, s.tenOf ⟨h, n⟩ = some tn → (t.tenancy tn).devno = 0 ∧ (t.tenancy tn).qps.map (fun p => p.1) = [0] := by
  refine ⟨_, if_pos hd, ?_, fun tn ht => State.flr_flred ht⟩
  rw [State.hostPort, (State.flr_frame _ _).2.2]
  show ((s.setHostPort h.val _).hostPort h.val).d3.getLsbD n.val = false
  rw [State.hostPort_setHostPort_self]
  exact getLsbD_setBit_self _ n.isLt false

/-- Settles O57. -/
theorem hostLinks : Obligations.HostLinks := by
  unfold Obligations.HostLinks
  intro h n s
  refine ⟨fun hp l => ?_, fun hp => ?_, fun hp => ⟨_, perst_low hp, ?_⟩, linkDown_up, fun hu => if_neg (by simp [hu]),
    linkRetrainTimeout_down, fun k hh hst hp hn ht hf hw hl h1 hr => linkUp_trains hh hst hp hn ht hf (HostPort.trainsTo_of hw hl h1 hr),
    fun hx k => linkUp_stays k hx, fun hu => ?_, d0Return_resets, fun hd => if_neg (by rw [hd]; exact Bool.false_ne_true)⟩
  · exact if_pos (by simp [hp])
  · simp [execPerst, hp]
  · rw [State.hostPort_setHostPort_self, State.portReset_eq, State.hostPort_setHostPort_self]
    refine ⟨rfl, rfl, rfl, fun hw m tn ht => ?_⟩
    have hclear := State.flrAll_flred hw (mem_portFns h m) ht
    generalize s.flrAll (portFns h) = u at hclear ⊢
    exact hclear
  · obtain ⟨hretry, hok, hunsup, hd3⟩ := linkUp_requests n hu
    obtain ⟨h0, h8, h2c, h3c⟩ := configSpace_identity s ⟨h, n⟩
    exact ⟨hretry, hok, h0, h8, h2c, h3c, hunsup, hd3⟩

end Sys2Proof.Machine

namespace Sys2Proof.Machine

/-! ### O44: commands that report -/

/-- A row whose command ends has that effect alone. -/
theorem State.onCmd_ends {s0 s u : State} {r : CmdRef} {op : Nat} {c : Cmd} {f : Cmd → State → State} {a : Ans}
    (hc : s0.cmd? r (fun o => o == op) = some c ∧ s0.begin? c = some s) (hf : f c s = u.ends c a) :
    s0.onCmd r op f = u.ends c a := by
  rw [State.onCmd_of_started hc.1 hc.2 (by rw [hf]; exact State.ends_unstarted u c a), hf]

theorem identify_ends {s0 s : State} {r : CmdRef} {c : Cmd} (hc : s0.cmd? r (fun o => o == 0x01) = some c ∧ s0.begin? c = some s)
    (h71 : reserved71 c (fun _ => 0) = none) (h73 : ptrs73 c 1 0 = none) :
    exec (.identify r) s0 = .next ((s.replies c c.ptr0 (s.identity c)).ends c
      { status := 0, res0 := 256, res1 := s.part.serial.toNat, detail := 0 }) := by
  refine congrArg Host.Outcome.next (State.onCmd_ends hc ?_)
  have hpass : firstOf [reserved71 c (fun _ => 0), ptrs73 c 1 0] = none := by simp [firstOf, h71, h73]
  simp only [hpass]

theorem getConfig_ends {s0 s : State} {r : CmdRef} {c : Cmd} (hc : s0.cmd? r (fun o => o == 0x53) = some c ∧ s0.begin? c = some s)
    (h71 : reserved71 c (namedBytes [(8, 1), (10, 2)]) = none) (h72 : fn72 s c = none) (h73 : ptrs73 c 1 0 = none)
    (hfn : s.noFn c.fid = false) :
    exec (.getConfig r) s0 = .next ((s.replies c c.ptr0 ((paramsOf c.fid.1).flatMap (fun p =>
        leBytes 2 p.1 ++ zeros 6 ++ leBytes 8 (s.param c.fid p.1)))).ends c
      { status := 0, res0 := (paramsOf c.fid.1).length, res1 := 0, detail := if c.fid.1 = 0 then 0 else fcode (s.fst c.fid) }) := by
  refine congrArg Host.Outcome.next (State.onCmd_ends hc ?_)
  have hpass : firstOf [reserved71 c (namedBytes [(8, 1), (10, 2)]), fn72 s c, ptrs73 c 1 0, unless_ (!s.noFn c.fid) 0x1010 0]
      = none := by simp [firstOf, unless_, h71, h72, h73, hfn]
  simp only [hpass, List.flatMap_map, List.length_map]
  rfl

theorem State.length_identity (s : State) (c : Cmd) : (s.identity c).length = 256 := by
  simp only [State.identity, fit, List.length_take, List.length_append, zeros, List.length_replicate]
  omega

/-- A byte of a string within what it is filled to. -/
theorem byteAt_fit {n i : Nat} (h : i < n) (l : List Byte) : byteAt (fit n l) i = byteAt l i := by
  rw [byteAt, byteAt, fit, List.getElem?_take_of_lt h]
  by_cases hi : i < l.length
  · rw [List.getElem?_append_left hi]
  · rw [List.getElem?_append_right (by omega), zeros, List.getElem?_replicate, if_pos (by omega),
      List.getElem?_eq_none (by omega)]
    rfl

/-- The identification structure up to DEVNO (Table 13-4). -/
def State.identityHead (s : State) (c : Cmd) : List Byte :=
  ordCode s.part.t20 ++ leBytes 1 (if s.part.t20 then 0x20 else 0x16) ++ [s.part.step] ++ leBytes 1 s.fuses.lc.toNat
    ++ leBytes 1 (if c.fn == s.mgmtFn then s.kerb.tampstat.toNat else 0) ++ beBytes 4 s.boot.fwver.toNat
    ++ leBytes 4 s.arcgen.toNat ++ leBytes 1 c.t ++ leBytes 1 (s.tenancy c.t).devno.toNat

theorem State.identity_head (s : State) (c : Cmd) : ∃ rest, s.identity c = fit 256 (s.identityHead c ++ rest) := by
  have hprefix : ∃ l, s.identityHead c <+: l ∧ s.identity c = fit 256 l := by
    refine ⟨_, ?_, rfl⟩
    iterate 12 refine List.IsPrefix.trans ?_ (List.prefix_append _ _)
    exact List.prefix_rfl
  obtain ⟨_, ⟨rest, rfl⟩, hid⟩ := hprefix
  exact ⟨rest, hid⟩

theorem State.length_identityHead (s : State) (c : Cmd) : (s.identityHead c).length = 30 := by
  simp [State.identityHead, length_ordCode]

theorem State.identity_byte (s : State) (c : Cmd) {i : Nat} (h : i < 30) :
    byteAt (s.identity c) i = byteAt (s.identityHead c) i := by
  obtain ⟨rest, hid⟩ := s.identity_head c
  rw [hid, byteAt_fit (by omega), byteAt, List.getElem?_append_left (by rw [s.length_identityHead]; exact h), byteAt]

/-- The bytes of the identification structure that the statement names. -/
theorem State.identity_bytes (s : State) (c : Cmd) :
    slice (s.identity c) 0 8 = [0x4C, 0x58, 0x37, 0x2D, 0x31, 0x32, 0x38, 0x2D]
      ∧ byteAt (s.identity c) 18 = BitVec.ofNat 8 s.fuses.lc.toNat ∧ byteAt (s.identity c) 28 = BitVec.ofNat 8 c.t
      ∧ byteAt (s.identity c) 29 = BitVec.ofNat 8 (s.tenancy c.t).devno.toNat := by
  refine ⟨?_, ?_, ?_, ?_⟩
  · obtain ⟨rest, hid⟩ := s.identity_head c
    rw [hid]
    simp [slice, fit, State.identityHead, ordCode]
  · rw [s.identity_byte c (by decide)]
    cases h : s.part.t20 <;> simp [byteAt, State.identityHead, h, ordCode, leBytes]
  · rw [s.identity_byte c (by decide)]
    cases h : s.part.t20 <;> simp [byteAt, State.identityHead, h, ordCode, leBytes, beBytes]
  · rw [s.identity_byte c (by decide)]
    cases h : s.part.t20 <;> simp [byteAt, State.identityHead, h, ordCode, leBytes, beBytes]

/-- READ_LOG of a range, with the log readable. -/
theorem readLog_ends {s0 s : State} {r : CmdRef} {c : Cmd} (hc : s0.cmd? r (fun o => o == 0x70) = some c ∧ s0.begin? c = some s)
    (hheld : s.heldPa logBase = false) (h71 : reserved71 c (namedBytes [(8, 12)]) = none) (h73 : ptrs73 c 1 0 = none)
    (h72 : issuer72 s c = none) (h1 : 1 ≤ c.le 16 4) (hn : c.le 16 4 ≤ 65536) :
    let oldest : Nat := s.lseq - 16384
    let i0 : Nat := max (c.le 8 8) oldest
    let m : Nat := min (c.le 16 4) (s.lseq - i0)
    let a : Ans := { status := if c.le 8 8 < oldest then 5 else 0, res0 := m, res1 := if m = 0 then s.lseq else i0 + m
                     detail := oldest - c.le 8 8 }
    (m = 0 → exec (.readLog r) s0 = .next (s.ends c a))
    ∧ (m ≠ 0 → exec (.readLog r) s0 = .next ((s.replies c c.ptr0 ((List.range m).flatMap (fun i =>
        if BitVec.ofNat 64 (i0 + i) ∈ r.logBad then logDamaged (i0 + i)
        else s.rdN (sqPa 0 0x100000 + (i0 + i) % 16384 * 64) 64))).ends c a)) := by
  intro oldest i0 m a
  have hpass : firstOf [reserved71 c (namedBytes [(8, 12)]), issuer72 s c, ptrs73 c 1 0,
      unless_ (decide (1 ≤ c.le 16 4) && decide (c.le 16 4 ≤ 65536)) 0x100A 16] = none := by
    simp [firstOf, unless_, h71, h72, h73, h1, hn]
  have hentry : (fun i => s.logRead (i0 + i) (r.logBad.contains (BitVec.ofNat 64 (i0 + i))))
      = fun i => if BitVec.ofNat 64 (i0 + i) ∈ r.logBad then logDamaged (i0 + i)
          else s.rdN (sqPa 0 0x100000 + (i0 + i) % 16384 * 64) 64 := by
    funext i
    by_cases hi : BitVec.ofNat 64 (i0 + i) ∈ r.logBad
    · rw [if_pos hi, List.contains_iff_mem.2 hi]
      rfl
    · have hno : r.logBad.contains (BitVec.ofNat 64 (i0 + i)) = false := by simpa using hi
      rw [if_neg hi, hno]
      rfl
  have hexec : exec (.readLog r) s0 = .next ((if m = 0 then s else s.replies c c.ptr0 ((List.range m).flatMap (fun i =>
      s.logRead (i0 + i) (r.logBad.contains (BitVec.ofNat 64 (i0 + i)))))).ends c a) := by
    refine congrArg Host.Outcome.next (State.onCmd_ends hc ?_)
    simp only [hpass, hheld]
    rfl
  rw [hentry] at hexec
  exact ⟨fun hm => by rw [hexec, if_pos hm], fun hm => by rw [hexec, if_neg hm]⟩

/-- READ_JOURNAL while the tenancy retains. -/
theorem readJournal_ends {s0 s : State} {r : CmdRef} {c : Cmd} (hc : s0.cmd? r (fun o => o == 0x41) = some c ∧ s0.begin? c = some s)
    (h71 : reserved71 c (namedBytes [(8, 12)]) = none) (h73 : ptrs73 c 1 0 = none) (h76 : mem76 s c = none)
    (h1 : 1 ≤ c.le 16 4) (hn : c.le 16 4 ≤ 65536) (hj : (s.tenancy c.t).jret ≠ 0) :
    let l : List Retained := (((s.tenancy c.t).ring.filter (fun e => decide (c.le 8 8 ≤ e.jseq.toNat))).takeWhile
      (fun e => e.jent.isSome)).take (c.le 16 4)
    ((s.tenancy c.t).oldest ≤ c.le 8 8 → exec (.readJournal r) s0
        = .next ((if l = [] then s else s.replies c c.ptr0 (l.flatMap retainedBytes)).ends c
          { status := 0, res0 := l.length, res1 := c.le 8 8 + l.length, detail := 0 }))
    ∧ (c.le 8 8 < (s.tenancy c.t).oldest → exec (.readJournal r) s0
        = .next (s.ends c { status := 0x3006, res0 := 0, res1 := (s.tenancy c.t).oldest, detail := 0 })) := by
  intro l
  have hpass : firstOf [reserved71 c (namedBytes [(8, 12)]), ptrs73 c 1 0,
      unless_ (decide (1 ≤ c.le 16 4) && decide (c.le 16 4 ≤ 65536)) 0x100A 16, mem76 s c] = none := by
    simp [firstOf, unless_, h71, h73, h76, h1, hn]
  refine ⟨fun ho => ?_, fun ho => ?_⟩
  · refine congrArg Host.Outcome.next (State.onCmd_ends hc ?_)
    simp only [hpass, if_neg hj, if_neg (Nat.not_lt.2 ho)]
    rfl
  · refine congrArg Host.Outcome.next (State.onCmd_ends hc ?_)
    simp only [hpass, if_neg hj, if_pos ho]
    rfl

/-! ### O44: tenancies and queue pairs -/

theorem tenancyBind_ends {s0 s : State} {r : CmdRef} {c : Cmd} (hc : s0.cmd? r (fun o => o == 0x02) = some c ∧ s0.begin? c = some s)
    (h71 : reserved71 c (namedBytes [(8, 3)]) = none) (h72 : issuer72 s c = none) (h73 : ptrs73 c 0 0 = none)
    (ht : c.le 8 1 ≤ 15) (hp : c.le 9 1 ≤ 1) (hf : c.le 10 1 ≤ 15) (hb : (s.tenancy (c.le 8 1)).bound = none)
    (hfree : s.tenOf ⟨Fin.ofNat 2 (c.le 9 1), Fin.ofNat 16 (c.le 10 1)⟩ = none) (hheld : s.heldFn c (1, c.le 8 1) = false)
    (hlc : s.fuses.lc ≠ 3 ∨ c.le 8 1 = 0) (hq : s.qpTotal < 256) :
    exec (.tenancyBind r) s0 = .next ((s.setTenancy (c.le 8 1) ((s.tenancy (c.le 8 1)).bind
      ⟨Fin.ofNat 2 (c.le 9 1), Fin.ofNat 16 (c.le 10 1)⟩)).ends c (Ans.of 0)) := by
  refine congrArg Host.Outcome.next (State.onCmd_ends hc ?_)
  have hpass : firstOf
      [reserved71 c (namedBytes [(8, 3)]), issuer72 s c, ptrs73 c 0 0, unless_ (decide (c.le 8 1 ≤ 15)) 0x100A 8,
       unless_ (decide (c.le 9 1 ≤ 1)) 0x100A 9, unless_ (decide (c.le 10 1 ≤ 15)) 0x100A 10,
       unless_ ((s.tenancy (c.le 8 1)).bound.isNone && (s.tenOf ⟨Fin.ofNat 2 (c.le 9 1), Fin.ofNat 16 (c.le 10 1)⟩).isNone) 0x2003 0]
      = none := by
    rw [hfree]
    simp [firstOf, unless_, h71, h72, h73, ht, hp, hf, hb]
  have hlc' : (s.fuses.lc != 3 || c.le 8 1 == 0) = true := by
    rw [Bool.or_eq_true, bne_iff_ne, beq_iff_eq]
    exact hlc
  have hlater : firstOf [unless_ (s.fuses.lc != 3 || c.le 8 1 == 0) 0x2004 0, unless_ (decide (s.qpTotal < 256)) 0x3005 0] = none := by
    rw [hlc', decide_eq_true hq]
    rfl
  simp only [hpass, hheld, hlater]
  rfl

/-- A tenancy without records has none that a purge removes. -/
theorem State.purge_empty {s : State} (c : Cmd) {t : Nat} (h : s.dirUsed t = 0) :
    s.purge c t = (s.setTenancy t ((s.tenancy t).unbind true)).ends c (Ans.of 0) := by
  have hnone : ∀ p ∈ s.dir, p.2.key.ten.toNat ≠ t := fun p hp ht =>
    List.ne_nil_of_mem (List.mem_filter.2 ⟨hp, decide_eq_true ht⟩) (List.eq_nil_of_length_eq_zero h)
  have hgone : s.dir.filter (fun p => decide (p.2.key.ten.toNat = t) && (p.2.st == .settled || p.2.st == .removing)) = [] :=
    List.filter_eq_nil_iff.2 fun p hp => by simp [hnone p hp]
  simp only [State.purge, hgone, List.map_nil, List.foldl_nil, h, if_true]

theorem tenancyUnbind_ends {s0 s : State} {r : CmdRef} {c : Cmd} (hc : s0.cmd? r (fun o => o == 0x03) = some c ∧ s0.begin? c = some s)
    (hprog : c.e.prog = .none ∨ ∃ n, c.e.prog = .queued n)
    (h71 : reserved71 c (fun i => if i = 8 then 255 else if i = 9 then 1 else 0) = none) (h72 : issuer72 s c = none)
    (h73 : ptrs73 c 0 0 = none) (ht : c.le 8 1 ≤ 15) (hb : (s.tenancy (c.le 8 1)).bound ≠ none) (hown : c.le 8 1 ≠ c.t)
    (hheld : s.heldFn c (1, c.le 8 1) = false) :
    ((s.tenancy (c.le 8 1)).st ≠ .stopped → exec (.tenancyUnbind r) s0 = .next (s.ends c (Ans.of 0x2001)))
    ∧ ((s.tenancy (c.le 8 1)).st = .stopped → bit (c.le 9 1) 0 = false → exec (.tenancyUnbind r) s0
        = .next ((s.setTenancy (c.le 8 1) ((s.tenancy (c.le 8 1)).unbind false)).ends c (Ans.of 0)))
    ∧ ((s.tenancy (c.le 8 1)).st = .stopped → bit (c.le 9 1) 0 = true → s.dirUsed (c.le 8 1) = 0 → exec (.tenancyUnbind r) s0
        = .next ((s.setTenancy (c.le 8 1) ((s.tenancy (c.le 8 1)).unbind true)).ends c (Ans.of 0))) := by
  have hpass : firstOf
      [reserved71 c (fun i => if i = 8 then 255 else if i = 9 then 1 else 0), issuer72 s c, ptrs73 c 0 0,
       unless_ (decide (c.le 8 1 ≤ 15)) 0x100A 8, unless_ (s.tenancy (c.le 8 1)).bound.isSome 0x1010 0,
       unless_ (c.le 8 1 != c.t) 0x2003 0] = none := by
    simp [firstOf, unless_, h71, h72, h73, ht, Option.isSome_iff_ne_none.2 hb, hown]
  refine ⟨fun hst => ?_, fun hst hpurge => ?_, fun hst hpurge hused => ?_⟩
  · refine congrArg Host.Outcome.next (State.onCmd_ends hc ?_)
    rcases hprog with hp | ⟨n, hp⟩ <;> simp only [hp, hpass, hheld, if_pos hst] <;> rfl
  · refine congrArg Host.Outcome.next (State.onCmd_ends hc ?_)
    rcases hprog with hp | ⟨n, hp⟩ <;> simp only [hp, hpass, hheld, hst, hpurge] <;> rfl
  · refine congrArg Host.Outcome.next (State.onCmd_ends hc ?_)
    rw [← State.purge_empty c hused]
    rcases hprog with hp | ⟨n, hp⟩ <;> simp only [hp, hpass, hheld, hst, hpurge] <;> rfl

/-- A queue pair as QP_CREATE leaves it, over the commands that its number left behind. -/
def Cmd.newQp (c : Cmd) (s : State) : QPair :=
  { QPair.reset with
    nextSeq := ((s.tenancy c.t).ghostsOf (c.le 8 1)).foldl (fun n e => max n (e.seq + 1)) 0
    qcfg := BitVec.ofNat 32 (c.le 9 1 + c.le 10 1 * 16 + c.le 12 2 * 256)
    sqbase := BitVec.ofNat 64 c.ptr0, cqbase := BitVec.ofNat 64 c.ptr1 }

theorem leNat_lt (l : List Byte) : leNat l < 256 ^ l.length := by
  induction l with
  | nil => exact Nat.one_pos
  | cons b r ih =>
    rw [leNat, List.length_cons, pow_succ]
    omega

/-- A field of a submission fits its bytes. -/
theorem Cmd.le_lt (c : Cmd) (off n : Nat) : c.le off n < 256 ^ n :=
  Nat.lt_of_lt_of_le (leNat_lt _) (Nat.pow_le_pow_right (by decide) (by rw [slice, List.length_take]; exact Nat.min_le_left _ _))

theorem Cmd.newQp_fields {c : Cmd} (s : State) (h9 : c.le 9 1 ≤ 12) (h10 : c.le 10 1 ≤ 12) :
    (c.newQp s).st = .stopped ∧ (c.newQp s).sqDepth = 2 ^ (c.le 9 1 + 4) ∧ (c.newQp s).cqDepth = 2 ^ (c.le 10 1 + 4)
      ∧ (c.newQp s).vec = c.le 12 2 % 2048 ∧ (c.newQp s).sqbase.toNat = c.ptr0 ∧ (c.newQp s).cqbase.toNat = c.ptr1
      ∧ (c.newQp s).sqtail = 0 ∧ (c.newQp s).sqhead = 0 ∧ (c.newQp s).cqint = 0 ∧ (c.newQp s).qwt = 16 := by
  have h12 := c.le_lt 12 2
  have hcfg : (c.newQp s).qcfg.toNat = c.le 9 1 + c.le 10 1 * 16 + c.le 12 2 * 256 := Nat.mod_eq_of_lt (by omega)
  refine ⟨rfl, ?_, ?_, ?_, Nat.mod_eq_of_lt (c.le_lt 40 8), Nat.mod_eq_of_lt (c.le_lt 48 8), rfl, rfl, rfl, rfl⟩
  · rw [QPair.sqDepth, hcfg, bits]
    congr 2
    omega
  · rw [QPair.cqDepth, hcfg, bits]
    congr 2
    omega
  · rw [QPair.vec, hcfg, bits]
    omega

theorem qpCreate_ends {s0 s : State} {r : CmdRef} {c : Cmd} (hc : s0.cmd? r (fun o => o == 0x04) = some c ∧ s0.begin? c = some s)
    (h71 : reserved71 c (namedBytes [(8, 3), (12, 2)]) = none) (h73 : ptrs73 c 1 1 4096 = none) (hq : c.le 8 1 ≠ 0)
    (h9 : c.le 9 1 ≤ 12) (h10 : c.le 10 1 ≤ 12) (hv : c.le 12 2 < (s.tenancy c.t).vecCount) (hfree : s.qp? c.t (c.le 8 1) = none)
    (hquota : (s.tenancy c.t).qps.length < (s.tenancy c.t).qpQuota) (htotal : s.qpTotal < 256) :
    exec (.qpCreate r) s0 = .next ((s.setQp c.t (c.le 8 1) (c.newQp s)).ends c (Ans.of 0)) := by
  refine congrArg Host.Outcome.next (State.onCmd_ends hc ?_)
  have hpass : firstOf
      [reserved71 c (namedBytes [(8, 3), (12, 2)]), ptrs73 c 1 1 4096, unless_ (c.le 8 1 != 0) 0x100A 8,
       unless_ (decide (c.le 9 1 ≤ 12)) 0x100A 9, unless_ (decide (c.le 10 1 ≤ 12)) 0x100A 10,
       unless_ (decide (c.le 12 2 < (s.tenancy c.t).vecCount)) 0x100A 12, unless_ (s.qp? c.t (c.le 8 1)).isNone 0x2003 0,
       unless_ (decide ((s.tenancy c.t).qps.length < (s.tenancy c.t).qpQuota) && decide (s.qpTotal < 256)) 0x3005 0] = none := by
    simp [firstOf, unless_, h71, h73, hq, h9, h10, hv, hfree, hquota, htotal]
  simp only [hpass]
  rfl

theorem qpDelete_ends {s0 s : State} {r : CmdRef} {c : Cmd} (hc : s0.cmd? r (fun o => o == 0x05) = some c ∧ s0.begin? c = some s)
    (h71 : reserved71 c (namedBytes [(8, 1)]) = none) (h73 : ptrs73 c 0 0 = none) (hq : c.le 8 1 ≠ 0)
    (hx : s.qp? c.t (c.le 8 1) ≠ none) (hheld : s.heldFn c (2, c.t * 256 + c.le 8 1) = false) :
    (s.fst (2, c.t * 256 + c.le 8 1) = .stopped → exec (.qpDelete r) s0
        = .next ((s.setTenancy c.t { s.tenancy c.t with qps := spDel (s.tenancy c.t).qps (c.le 8 1) }).ends c (Ans.of 0)))
    ∧ (s.fst (2, c.t * 256 + c.le 8 1) ≠ .stopped → exec (.qpDelete r) s0 = .next (s.ends c (Ans.of 0x2001))) := by
  have hpass : firstOf
      [reserved71 c (namedBytes [(8, 1)]), ptrs73 c 0 0, unless_ (c.le 8 1 != 0) 0x100A 8,
       unless_ (s.qp? c.t (c.le 8 1)).isSome 0x1010 0] = none := by
    simp [firstOf, unless_, h71, h73, hq, Option.isSome_iff_ne_none.2 hx]
  refine ⟨fun hst => ?_, fun hst => ?_⟩
  · refine congrArg Host.Outcome.next (State.onCmd_ends hc ?_)
    simp only [hpass, hheld, hst]
    rfl
  · refine congrArg Host.Outcome.next (State.onCmd_ends hc ?_)
    simp only [hpass, hheld, if_pos hst]
    rfl

/-- Settles O44. -/
theorem reportingAndTenancies : Obligations.ReportingAndTenancies := by
  unfold Obligations.ReportingAndTenancies
  refine ⟨fun r s0 s c => ?_, fun r s0 s c => ?_⟩
  · refine ⟨fun hc hfit => identify_ends hc hfit.1 hfit.2, s.length_identity c, fun _ => s.identity_bytes c,
      fun hc h71 h72 h73 hfn => getConfig_ends hc h71 h72 h73 hfn,
      fun hc hheld hfit h72 h1 hn => readLog_ends hc hheld hfit.1 hfit.2 h72 h1 hn, fun hc hfit h76 h1 hn hj => ?_⟩
    obtain ⟨hfrom, hpast⟩ := readJournal_ends hc hfit.1 hfit.2 h76 h1 hn hj
    refine ⟨fun ho hl => ?_, fun ho hl => ?_, hpast⟩
    · rw [hfrom ho, if_pos hl, hl]
      rfl
    · rw [hfrom ho, if_neg hl]
  · refine ⟨fun hc h71 h72 h73 ht hp hf hb hfree hheld hlc hq => tenancyBind_ends hc h71 h72 h73 ht hp hf hb hfree hheld hlc hq,
      fun hc hprog h71 h72 h73 ht hb hown hheld => tenancyUnbind_ends hc hprog h71 h72 h73 ht hb hown hheld,
      fun hc h71 h73 hq h9 h10 hv hfree hquota htotal => ?_,
      fun hc h71 h73 hq hx hheld => qpDelete_ends hc h71 h73 hq hx hheld⟩
    exact ⟨_, _, qpCreate_ends hc h71 h73 hq h9 h10 hv hfree hquota htotal, rfl, c.newQp_fields s h9 h10⟩

end Sys2Proof.Machine

namespace Sys2Proof.Machine

/-! ### O45: programs and Arcade images -/

theorem retired76_none {s : State} (h : s.fuses.lc ≠ 3) : retired76 s = none := by
  have hlc : (s.fuses.lc != 3) = true := bne_iff_ne.2 h
  rw [retired76, hlc]
  rfl

theorem loadProgram_ends {s0 s : State} {r : CmdRef} {c : Cmd} (hc : s0.cmd? r (fun o => o == 0x10) = some c ∧ s0.begin? c = some s)
    (h71 : reserved71 c (fun i => if i = 10 then 1 else namedBytes [(8, 2), (12, 8)] i) = none) (h72 : issuer72 s c = none)
    (h73 : ptrs73 c 1 0 = none) (hmask : c.le 8 2 ≠ 0) (hlo : 16 ≤ c.le 12 4) (hhi : c.le 12 4 ≤ 262144) (h16 : c.le 12 4 % 16 = 0)
    (hlc : s.fuses.lc ≠ 3) (hread : c.readFails = false)
    (hgs : ∀ g < 16, bit (c.le 8 2) g = true → s.heldFn c (3, g) = false ∧ (s.street g).st = .stopped) :
    (c.le 16 4 ≠ crc32c (s.hostRd c.ptr0 (c.le 12 4)) → exec (.loadProgram r) s0 = .next (s.ends c (Ans.of 0x4001)))
    ∧ (c.le 16 4 = crc32c (s.hostRd c.ptr0 (c.le 12 4)) → exec (.loadProgram r) s0
        = .next ((((List.range 16).filter (fun g => bit (c.le 8 2) g)).foldl
            (State.loadStreet (s.hostRd c.ptr0 (c.le 12 4)) (bit (c.le 10 1) 0)) s).ends c
          { Ans.of 0 with res0 := ((List.range 16).filter (fun g => bit (c.le 8 2) g)).length })) := by
  have hpass : firstOf
      [reserved71 c (fun i => if i = 10 then 1 else namedBytes [(8, 2), (12, 8)] i), issuer72 s c, ptrs73 c 1 0,
       unless_ (c.le 8 2 != 0) 0x100A 8,
       unless_ (decide (16 ≤ c.le 12 4) && decide (c.le 12 4 ≤ 262144) && c.le 12 4 % 16 == 0) 0x100A 12] = none := by
    simp [firstOf, unless_, h71, h72, h73, hmask, hlo, hhi, h16]
  have hmem (g : Nat) (hg : g ∈ (List.range 16).filter (fun g => bit (c.le 8 2) g)) :
      s.heldFn c (3, g) = false ∧ (s.street g).st = .stopped := by
    obtain ⟨hlt, hb⟩ := List.mem_filter.1 hg
    exact hgs g (List.mem_range.1 hlt) hb
  have hfree : ((List.range 16).filter (fun g => bit (c.le 8 2) g)).any (fun g => s.heldFn c (3, g)) = false :=
    List.any_eq_false.2 fun g hg => by rw [(hmem g hg).1]; exact Bool.false_ne_true
  have hwell : ((List.range 16).filter (fun g => bit (c.le 8 2) g)).all (fun g => (s.street g).st != .faulted) = true :=
    List.all_eq_true.2 fun g hg => by rw [(hmem g hg).2]; rfl
  have hstop : ((List.range 16).filter (fun g => bit (c.le 8 2) g)).all (fun g => (s.street g).st == .stopped) = true :=
    List.all_eq_true.2 fun g hg => by rw [(hmem g hg).2]; rfl
  refine ⟨fun hcrc => ?_, fun hcrc => ?_⟩
  · refine congrArg Host.Outcome.next (State.onCmd_ends hc ?_)
    have hbad : (c.le 16 4 == crc32c (s.buffer c.ptr0 (c.le 12 4))) = false := beq_eq_false_iff_ne.2 hcrc
    simp only [hpass, hfree, hwell, hstop, retired76_none hlc, read77, hread, hbad]
    rfl
  · refine congrArg Host.Outcome.next (State.onCmd_ends hc ?_)
    have hgood : (c.le 16 4 == crc32c (s.buffer c.ptr0 (c.le 12 4))) = true := beq_iff_eq.2 hcrc
    simp only [hpass, hfree, hwell, hstop, retired76_none hlc, read77, hread, hgood]
    rfl

theorem stageArcade_ends {s0 s : State} {r : CmdRef} {c : Cmd} (hc : s0.cmd? r (fun o => o == 0x11) = some c ∧ s0.begin? c = some s)
    (h71 : reserved71 c (namedBytes [(8, 2), (12, 4)]) = none) (h72 : issuer72 s c = none) (h73 : ptrs73 c 1 1 = none)
    (hlo : 1 ≤ c.le 8 2) (hhi : c.le 8 2 ≤ 1024) (hread : c.readFails = false)
    (hcrc : c.le 12 4 = crc32c (s.hostRd c.ptr0 (4 * c.le 8 2) ++ s.hostRd c.ptr1 128)) :
    let img : List W32 := (List.range (c.le 8 2)).map (fun i => BitVec.ofNat 32 (leAt (s.hostRd c.ptr0 (4 * c.le 8 2)) (4 * i) 4))
    let es : List W64 := (List.range 16).map (fun i => BitVec.ofNat 64 (leAt (s.hostRd c.ptr1 128) (8 * i) 8))
    (loaderFails img es = none → exec (.stageArcade r) s0 = .next ({ s with staged := some (stagedOf img es) }.ends c (Ans.of 0)))
    ∧ (∀ x, loaderFails img es = some x → exec (.stageArcade r) s0
        = .next (s.ends c { Ans.of 0x100F with detail := x.1 + x.2.1 * 256 + x.2.2 * 65536 })) := by
  intro img es
  have hgood : (c.le 12 4 == crc32c (s.buffer c.ptr0 (4 * c.le 8 2) ++ s.buffer c.ptr1 128)) = true := beq_iff_eq.2 hcrc
  have hpass : firstOf
      [reserved71 c (namedBytes [(8, 2), (12, 4)]), issuer72 s c, ptrs73 c 1 1,
       unless_ (decide (1 ≤ c.le 8 2) && decide (c.le 8 2 ≤ 1024)) 0x100A 8, read77 c,
       unless_ (c.le 12 4 == crc32c (s.buffer c.ptr0 (4 * c.le 8 2) ++ s.buffer c.ptr1 128)) 0x4001 0] = none := by
    rw [hgood]
    simp [firstOf, unless_, read77, h71, h72, h73, hlo, hhi, hread]
  have himg : (wordsOf (c.le 8 2) 4 (s.buffer c.ptr0 (4 * c.le 8 2))).map (BitVec.ofNat 32) = img := by
    rw [wordsOf, List.map_map]
    rfl
  have hes : (wordsOf 16 8 (s.buffer c.ptr1 128)).map (BitVec.ofNat 64) = es := by
    rw [wordsOf, List.map_map]
    rfl
  refine ⟨fun hl => ?_, fun x hl => ?_⟩
  · refine congrArg Host.Outcome.next (State.onCmd_ends hc ?_)
    simp only [hpass, himg, hes, hl]
  · refine congrArg Host.Outcome.next (State.onCmd_ends hc ?_)
    simp only [hpass, himg, hes, hl]

/-- Words that an installation does not bring stay. -/
theorem Arcade.install_stays (old new : Arcade) {i : Nat} (h : i ∉ new.words.map (fun w => w.1)) :
    spGet? (old.install new).words i = spGet? old.words i := by
  unfold Arcade.install
  dsimp only
  generalize new.words = l at h ⊢
  generalize old.words = m
  induction l generalizing m with
  | nil => rfl
  | cons w r ih =>
    rw [List.map_cons, List.mem_cons, not_or] at h
    rw [List.foldl_cons, ih h.2, spGet?_spPut_ne _ _ h.1]

theorem installArcade_ends {s0 s : State} {r : CmdRef} {c : Cmd} (hc : s0.cmd? r (fun o => o == 0x12) = some c ∧ s0.begin? c = some s)
    (h71 : reserved71 c (fun _ => 0) = none) (h72 : issuer72 s c = none) (h73 : ptrs73 c 0 0 = none)
    (hfree : ∀ g < 16, s.heldFn c (3, g) = false) :
    (s.staged = none → exec (.installArcade r) s0 = .next (s.ends c (Ans.of 0x2005)))
    ∧ (∀ a, s.staged = some a → (∀ g < 16, (s.street g).st = .stopped) → exec (.installArcade r) s0
        = .next ({ s with arcade := s.arcade.install a, arcgen := s.arcgen + 1 }.ends c { Ans.of 0 with res0 := (s.arcgen + 1).toNat }))
    ∧ (∀ a, s.staged = some a → (∃ g < 16, (s.street g).st ≠ .stopped) → exec (.installArcade r) s0
        = .next (s.ends c (Ans.of 0x2001))) := by
  have hpass : firstOf [reserved71 c (fun _ => 0), issuer72 s c, ptrs73 c 0 0] = none := by simp [firstOf, h71, h72, h73]
  have hnone : (List.range 16).any (fun g => s.heldFn c (3, g)) = false :=
    List.any_eq_false.2 fun g hg => by rw [hfree g (List.mem_range.1 hg)]; exact Bool.false_ne_true
  refine ⟨fun hs => ?_, fun a hs hst => ?_, fun a hs hst => ?_⟩
  · refine congrArg Host.Outcome.next (State.onCmd_ends hc ?_)
    simp only [hpass, hnone, hs]
    rfl
  · refine congrArg Host.Outcome.next (State.onCmd_ends hc ?_)
    have hall : (List.range 16).all (fun g => (s.street g).st == .stopped) = true :=
      List.all_eq_true.2 fun g hg => by rw [hst g (List.mem_range.1 hg)]; rfl
    simp only [hpass, hnone, hs, hall]
    rfl
  · refine congrArg Host.Outcome.next (State.onCmd_ends hc ?_)
    have hall : (List.range 16).all (fun g => (s.street g).st == .stopped) = false := by
      obtain ⟨g, hg, hne⟩ := hst
      exact List.all_eq_false.2 ⟨g, List.mem_range.2 hg, by simpa using hne⟩
    simp only [hpass, hnone, hs, hall]
    rfl

/-! ### O45: extensions -/

theorem loadExtension_ends {s0 s : State} {r : CmdRef} {c : Cmd} {chash sig : Bool}
    (hc : s0.cmd? r (fun o => o == 0x13) = some c ∧ s0.begin? c = some s)
    (h71 : reserved71 c (namedBytes [(12, 4)]) = none) (h72 : issuer72 s c = none) (h73 : ptrs73 c 1 0 = none)
    (hlo : 64 ≤ c.le 12 4) (hhi : c.le 12 4 ≤ 1048576) (hlc : s.fuses.lc = 1 ∨ s.fuses.lc = 2) (hread : c.readFails = false) :
    ((extForm (s.hostRd c.ptr0 512) (c.le 12 4) && chash && sig) = false →
      exec (.loadExtension r chash sig) s0 = .next (s.ends c (Ans.of 0x4005)))
    ∧ ((extForm (s.hostRd c.ptr0 512) (c.le 12 4) && chash && sig) = true → ∀ m,
      extAccept s.extensions (extOf (s.hostRd c.ptr0 512)) = .ok m →
      exec (.loadExtension r chash sig) s0 = .next ({ s with extensions := m }.ends c (Ans.of 0))) := by
  have hlc' : (s.fuses.lc == 1 || s.fuses.lc == 2) = true := by rw [Bool.or_eq_true, beq_iff_eq, beq_iff_eq]; exact hlc
  have hchecks (ok : Bool) : firstOf
      [reserved71 c (namedBytes [(12, 4)]), issuer72 s c, ptrs73 c 1 0,
       unless_ (decide (64 ≤ c.le 12 4) && decide (c.le 12 4 ≤ 1048576)) 0x100A 12,
       unless_ (s.fuses.lc == 1 || s.fuses.lc == 2) 0x2004 0, read77 c, unless_ ok 0x4005 0] = unless_ ok 0x4005 0 := by
    rw [hlc']
    cases ok <;> simp [firstOf, unless_, deny, read77, h71, h72, h73, hlo, hhi, hread]
  refine ⟨fun hbad => ?_, fun hgood m hm => ?_⟩
  · refine congrArg Host.Outcome.next (State.onCmd_ends hc ?_)
    have hbad' : (extForm (s.buffer c.ptr0 512) (c.le 12 4) && chash && sig) = false := hbad
    simp only [hchecks, hbad']
    rfl
  · refine congrArg Host.Outcome.next (State.onCmd_ends hc ?_)
    have hgood' : (extForm (s.buffer c.ptr0 512) (c.le 12 4) && chash && sig) = true := hgood
    have hm' : extAccept s.extensions (extOf (s.buffer c.ptr0 512)) = .ok m := hm
    simp only [hchecks, hgood', hm']
    rfl

/-- A row whose command, one of those that `op` names, ends has that effect alone. -/
theorem State.onCmdIf_ends {s0 s u : State} {r : CmdRef} {op : Nat → Bool} {c : Cmd} {f : Cmd → State → State} {a : Ans}
    (hc : s0.cmd? r op = some c) (hb : s0.begin? c = some s) (hf : f c s = u.ends c a) : s0.onCmdIf r op f = u.ends c a := by
  have hs : (f c s).unstarted c = false := by rw [hf]; exact State.ends_unstarted u c a
  rw [hf] at hs
  simp [State.onCmdIf, hc, hb, hf, hs]

theorem extensionOpcode_ends {s0 s : State} {r : CmdRef} {c : Cmd} (ans : ExtAnswer)
    (hc : s0.cmd? r (fun o => decide (0xC0 ≤ o) && decide (o < 0xE0)) = some c) (hb : s0.begin? c = some s) :
    (s.claims c.e.opcode = none → exec (.extensionOpcode r ans) s0 = .next (s.ends c (Ans.of 0x1001)))
    ∧ (s.claims c.e.opcode ≠ none → ans.status.toNat ∈ statusCodes → exec (.extensionOpcode r ans) s0
      = .next (s.ends c { status := ans.status.toNat, res0 := ans.res0.toNat, res1 := ans.res1.toNat, detail := ans.detail.toNat })) := by
  refine ⟨fun hn => ?_, fun hn hst => ?_⟩
  · refine congrArg Host.Outcome.next (State.onCmdIf_ends hc hb ?_)
    rw [hn]
    rfl
  · refine congrArg Host.Outcome.next (State.onCmdIf_ends hc hb ?_)
    have hclaim : (s.claims c.e.opcode).isNone = false := Option.isNone_eq_false_iff.2 (Option.isSome_iff_ne_none.2 hn)
    rw [hclaim, List.contains_iff_mem.2 hst]
    rfl

/-! ### O45: the life cycle -/

/-- A 2-bit code and its number. -/
theorem toNat_eq_iff_two (x : BitVec 2) {n : Nat} (hn : n < 4) : x.toNat = n ↔ x = BitVec.ofNat 2 n := by
  rw [← BitVec.toNat_inj, BitVec.toNat_ofNat, Nat.mod_eq_of_lt hn]

/-- The transitions of Table 16-13, in the codes of the life cycle. -/
theorem lcPermits_table (f : Fuses) (tg : Nat) : lcPermits f tg = true ↔
    ((f.lc = 0 ∧ (tg = 1 ∨ tg = 3)) ∨ f.lc = 1 ∨ (f.lc = 2 ∧ (tg = 1 ∨ tg = 3))) ∧ (f.lccount = 31 → tg = 3)
      ∧ (tg = 1 → f.lc = 0 ∨ f.lc = 1 → f.ownerBanks < 8) := by
  have h0 : f.lc.toNat = 0 ↔ f.lc = 0 := toNat_eq_iff_two f.lc (by decide)
  have h1 : f.lc.toNat = 1 ↔ f.lc = 1 := toNat_eq_iff_two f.lc (by decide)
  have h2 : f.lc.toNat = 2 ↔ f.lc = 2 := toNat_eq_iff_two f.lc (by decide)
  have hnew : newOwner f.lc.toNat tg = false ↔ ¬ (tg = 1 ∧ (f.lc = 0 ∨ f.lc = 1)) := by
    simp only [newOwner, Bool.or_eq_false_iff, Bool.and_eq_false_iff, beq_eq_false_iff_ne, ne_eq, h0, h1]
    rw [← not_and_or, ← not_and_or, ← not_or, ← or_and_right, and_comm]
  rw [lcPermits_iff, hnew, h0, h1, h2, ← imp_iff_not_or, ← imp_iff_not_or, and_imp]

/-- What an accepted LC_CHANGE leaves. -/
theorem State.lcChanged_fields (s : State) (l : List Byte) {tg : Nat} (h : tg ≤ 3) :
    (s.lcChanged l tg).fuses.lc.toNat = tg ∧ (s.lcChanged l tg).fuses.floor = s.fuses.floor ∧ (s.lcChanged l tg).kerb.empty = true
      ∧ (s.lcChanged l tg).kerb.keyok = false ∧ (s.lcChanged l tg).kerb.image = none
      ∧ (s.lcChanged l tg).fuses.lccount.toNat = min 31 (s.fuses.lccount.toNat + 1)
      ∧ (s.lcChanged l tg).fuses.ownerBanks = s.fuses.ownerBanks + (if tg = 1 ∧ s.fuses.lc.toNat < 2 then 1 else 0)
      ∧ (∀ i < 0x200000, memRd (s.lcChanged l tg).mem (sqPa 0 0x600000 + i) = 0) := by
  obtain ⟨-, -, -, -, hzero, -⟩ := kerbWipe_fields s
  refine ⟨Nat.mod_eq_of_lt (by omega), rfl, rfl, rfl, rfl, ?_, ?_, hzero⟩
  · show (if s.fuses.lccount = 31 then (31 : BitVec 5) else s.fuses.lccount + 1).toNat = _
    generalize s.fuses.lccount = n
    revert n
    decide
  · show s.fuses.ownerBanks + (newOwner s.fuses.lc.toNat tg).toNat = _
    generalize s.fuses.lc = x
    congr 1
    by_cases ht : tg = 1
    · subst ht
      revert x
      decide
    · have htb : (tg == 1) = false := beq_eq_false_iff_ne.2 ht
      rw [newOwner, htb, Bool.and_false, Bool.and_false, if_neg fun hx => ht hx.1]
      rfl

/-- The functions that LC_CHANGE waits for: streets and tenancies. -/
def lcFunctions : List Fid := (List.range 16).map (fun g => (3, g)) ++ (List.range 16).map (fun t => (1, t))

theorem lcChange_ends {s0 s : State} {r : CmdRef} {c : Cmd} {sig : Bool}
    (hc : s0.cmd? r (fun o => o == 0x80) = some c ∧ s0.begin? c = some s)
    (h71 : reserved71 c (namedBytes [(8, 1), (12, 4)]) = none) (h72 : issuer72 s c = none) (h73 : ptrs73 c 1 0 = none)
    (hlo : 1 ≤ c.le 8 1) (hhi : c.le 8 1 ≤ 3) (hlen : c.le 12 4 = 512)
    (hfree : ∀ i < 16, s.heldFn c (3, i) = false ∧ s.heldFn c (1, i) = false) :
    (lcPermits s.fuses (c.le 8 1) = false → exec (.lcChange r sig) s0 = .next (s.ends c (Ans.of 0x2004)))
    ∧ (lcPermits s.fuses (c.le 8 1) = true → (∀ g < 16, (s.street g).st = .stopped) →
        (∀ p ∈ s.tenancies, p.1 = c.t ∨ p.2.bound = none ∨ p.2.st = .stopped) → c.readFails = false →
        lcForm s (s.hostRd c.ptr0 512) (c.le 8 1) = true → sig = true →
        exec (.lcChange r sig) s0 = .next ((s.lcChanged (s.hostRd c.ptr0 512) (c.le 8 1)).ends c { Ans.of 0 with res0 := c.le 8 1 })) := by
  have hpass : firstOf
      [reserved71 c (namedBytes [(8, 1), (12, 4)]), issuer72 s c, ptrs73 c 1 0,
       unless_ (decide (1 ≤ c.le 8 1) && decide (c.le 8 1 ≤ 3)) 0x100A 8, unless_ (c.le 12 4 == 512) 0x100A 12] = none := by
    simp [firstOf, unless_, h71, h72, h73, hlo, hhi, hlen]
  have hnone : lcFunctions.any (fun f => s.heldFn c f) = false := by
    refine List.any_eq_false.2 fun f hf => ?_
    rcases List.mem_append.1 hf with hf | hf
    · obtain ⟨g, hg, rfl⟩ := List.mem_map.1 hf
      rw [(hfree g (List.mem_range.1 hg)).1]
      exact Bool.false_ne_true
    · obtain ⟨g, hg, rfl⟩ := List.mem_map.1 hf
      rw [(hfree g (List.mem_range.1 hg)).2]
      exact Bool.false_ne_true
  unfold lcFunctions at hnone
  refine ⟨fun hp => ?_, fun hp hst hten hread hform hsig => ?_⟩
  · refine congrArg Host.Outcome.next (State.onCmd_ends hc ?_)
    simp only [hpass, hnone, hp]
    rfl
  · have hstop : (List.range 16).all (fun g => (s.street g).st == .stopped) = true :=
      List.all_eq_true.2 fun g hg => by rw [hst g (List.mem_range.1 hg)]; rfl
    have hten' : s.tenancies.all (fun t => t.1 == c.t || t.2.bound.isNone || t.2.st == .stopped) = true :=
      List.all_eq_true.2 fun p hpm => by simpa [or_assoc] using hten p hpm
    have hform' : lcForm s (s.buffer c.ptr0 512) (c.le 8 1) = true := hform
    refine congrArg Host.Outcome.next (State.onCmd_ends hc ?_)
    simp only [hpass, hnone, hp, hstop, hten', read77, hread, hform', hsig]
    rfl

/-- Settles O45. -/
theorem loadingCommands : Obligations.LoadingCommands := by
  unfold Obligations.LoadingCommands
  intro r s0 s c
  refine ⟨fun hc h71 h72 h73 hm hlo hhi h16 hlc hread hgs => loadProgram_ends hc h71 h72 h73 hm hlo hhi h16 hlc hread hgs,
    fun hc h71 h72 h73 hlo hhi hread hcrc => stageArcade_ends hc h71 h72 h73 hlo hhi hread hcrc,
    fun hc h71 h72 h73 hfree => ?_,
    fun chash sig hc h71 h72 h73 hlo hhi hlc hread => loadExtension_ends hc h71 h72 h73 hlo hhi hlc hread,
    fun ans hc hb => extensionOpcode_ends ans hc hb, fun sig hc h71 h72 h73 hlo hhi hlen hfree => ?_, lcPermits_table⟩
  · obtain ⟨hempty, hdone, hbusy⟩ := installArcade_ends hc h71 h72 h73 hfree
    exact ⟨hempty, hdone, fun a i => ⟨rfl, Arcade.install_stays _ _⟩, hbusy⟩
  · obtain ⟨hno, hyes⟩ := lcChange_ends (sig := sig) hc h71 h72 h73 hlo hhi hlen hfree
    exact ⟨hno, fun hp hst hten hread hform hsig => ⟨_, hyes hp hst hten hread hform hsig, s.lcChanged_fields _ hhi⟩⟩

end Sys2Proof.Machine

namespace Sys2Proof.Machine

/-! ### O48: what leaves the Record Directory -/

/-- The same Record Directory, laid out at the same place. -/
structure State.sameDir (s t : State) : Prop where
  layout : t.layout = s.layout
  kabase : t.kabase = s.kabase
  installed : t.installed = s.installed
  dir : t.dir = s.dir

theorem State.sameDir.refl (s : State) : s.sameDir s := ⟨rfl, rfl, rfl, rfl⟩

theorem State.sameDir.trans {s t u : State} (h : s.sameDir t) (g : t.sameDir u) : s.sameDir u :=
  ⟨g.layout.trans h.layout, g.kabase.trans h.kabase, g.installed.trans h.installed, g.dir.trans h.dir⟩

/-- An address holds no byte of a directory entry. -/
def State.offDir (s : State) (pa : Nat) : Prop := pKind pa = .attached → s.inKeys pa = true ∨ s.dirSlot pa = none

theorem State.wr_sameDir {s : State} {pa : Nat} (h : s.offDir pa) (b : Byte) : s.sameDir (s.wr pa b) := by
  cases hk : pKind pa with
  | attached =>
    rw [State.wr_attached b hk]
    cases hin : s.inKeys pa with
    | true => rw [State.attWr_inKeys b hin]; exact ⟨rfl, rfl, rfl, rfl⟩
    | false =>
      have hslot : s.dirSlot pa = none := (h hk).resolve_left (by simp [hin])
      rw [State.attWr_plain b hin hslot]
      exact ⟨rfl, rfl, rfl, rfl⟩
  | tile n o k => cases k <;> simp only [State.wr, hk] <;> exact ⟨rfl, rfl, rfl, rfl⟩
  | square | kerb | reg | resv => simp only [State.wr, hk]; exact ⟨rfl, rfl, rfl, rfl⟩

/-- The `n` bytes from an address on lie beside the directory. -/
def State.besideDir (s : State) (pa n : Nat) : Prop :=
  sqBase ≤ pa ∨ pa + n ≤ s.layout.dirBase ∨ s.layout.dirBase + dirSize ≤ pa

theorem State.besideDir.offDir {s : State} {pa n : Nat} (h : s.besideDir pa (n + 1)) : s.offDir pa := by
  intro hatt
  have hlt : pa < sqBase := pKind_attached.1 hatt
  refine .inr (if_neg fun hin => ?_)
  obtain ⟨-, hlo, hhi⟩ := hin
  rcases h with h | h | h <;> omega

theorem State.wrN_sameDir (l : List Byte) {pa : Nat} {s : State} (h : s.besideDir pa l.length) :
    s.sameDir (s.wrN pa l) := by
  induction l generalizing pa s with
  | nil => exact .refl s
  | cons b r ih =>
    have hw : s.sameDir (s.wr pa b) := State.wr_sameDir (State.besideDir.offDir h) b
    refine hw.trans (ih ?_)
    rw [State.besideDir, hw.layout]
    rw [State.besideDir, List.length_cons] at h
    omega

/-! ### Places taken (R285, R288, R293, R295) -/

theorem State.setFrameKey_sameDir {s : State} (hs : s.keysHeld) {f : Nat} (hf : f < s.layout.keyLen) (b : Byte) :
    s.sameDir (s.setFrameKey f b) := by
  refine State.wr_sameDir (fun _ => .inl ?_) b
  simp only [State.inKeys, hs.live, hs.base, Bool.true_and, Bool.and_eq_true, decide_eq_true_eq]
  omega

theorem State.keysHeld.of_sameDir {s t : State} (hs : s.keysHeld) (h : s.sameDir t) : t.keysHeld :=
  ⟨h.layout ▸ hs.live, by rw [h.kabase, h.layout]; exact hs.base, h.layout ▸ hs.fits⟩

/-- Key caches that write a frame's key byte back leave the directory. -/
theorem State.keysBack_sameDir {α : Type} {f : Nat} (cache : α → Sparse Byte) (l : List α) {s : State} (hs : s.keysHeld)
    (hf : f < s.layout.keyLen) :
    s.sameDir (l.foldl (fun s c => match spGet? (cache c) f with | some b => s.keyBack f b | none => s) s) := by
  induction l generalizing s with
  | nil => exact .refl s
  | cons a r ih =>
    rw [List.foldl_cons]
    have hstep : s.sameDir (match spGet? (cache a) f with | some b => s.keyBack f b | none => s) := by
      split
      · exact State.setFrameKey_sameDir hs hf _
      · exact .refl s
    exact hstep.trans (ih (hs.of_sameDir hstep) (hstep.layout ▸ hf))

theorem State.dropFrame_sameDir {s : State} (hs : s.keysHeld) {f : Nat} (hf : f < s.layout.keyLen) :
    s.sameDir (s.dropFrame f) := by
  have hcores := State.keysBack_sameDir (fun c : Nat × Core => c.2.keyCache) s.cores hs hf
  have htrams := State.keysBack_sameDir (fun u : Nat × Tram => u.2.keyCache)
    (s.cores.foldl (fun s c => match spGet? c.2.keyCache f with | some b => s.keyBack f b | none => s) s).trams
    (hs.of_sameDir hcores) (hcores.layout ▸ hf)
  obtain ⟨hlay, hka, hinst, hdir⟩ := hcores.trans htrams
  exact ⟨hlay, hka, hinst, hdir⟩

/-- The key byte of a region written leaves the directory: it lies in a key store, or in the key array. -/
theorem State.setRegionKey_sameDir {s : State} {p : Place}
    (h : p.cls ≠ 0 → p.cls ≠ 1 → s.keysHeld ∧ p.loc.toNat / 4096 < s.layout.keyLen) (b : Byte) :
    s.sameDir (s.setRegionKey p b) := by
  unfold State.setRegionKey
  dsimp only
  split
  · exact ⟨rfl, rfl, rfl, rfl⟩
  · next h0 =>
    split
    · exact ⟨rfl, rfl, rfl, rfl⟩
    · next h1 =>
      obtain ⟨hs, hf⟩ := h h0 h1
      have hdrop := State.dropFrame_sameDir hs hf
      exact hdrop.trans (State.setFrameKey_sameDir (hs.of_sameDir hdrop) (hdrop.layout ▸ hf) b)

/-- The record tables lie beside the directory, with a leaf for each frame of the installed memory. -/
structure State.tablesBeside (s : State) : Prop where
  whole : s.installed % 2 ^ 21 = 0
  fits : s.installed ≤ sqBase
  beside : s.besideDir s.layout.tabBase (16 * s.tabStride)

theorem State.laidOut.tablesBeside {s : State} (h : s.laidOut) : s.tablesBeside := by
  obtain ⟨-, -, -, -, hwhole, hfits, -, -, hbeside, -⟩ := h
  exact ⟨hwhole, hfits, .inr hbeside⟩

theorem State.tablesBeside.of_sameDir {s t : State} (hs : s.tablesBeside) (h : s.sameDir t) : t.tablesBeside := by
  obtain ⟨hwhole, hfits, hbeside⟩ := hs
  refine ⟨h.installed ▸ hwhole, h.installed ▸ hfits, ?_⟩
  rw [State.besideDir, State.tabStride, h.layout, h.installed]
  exact hbeside

theorem State.wr8_sameDir {s : State} {pa : Nat} (h : s.besideDir pa 8) (v : Nat) : s.sameDir (s.wr8 pa v) :=
  State.wrN_sameDir _ (by rw [length_beBytes]; exact h)

/-- An 8-byte entry of a tenancy's record tables lies beside the directory. -/
theorem State.tablesBeside.entry {s t : State} (hs : s.tablesBeside) (h : s.sameDir t) {ten o : Nat} (hten : ten < 16)
    (ho : o + 8 ≤ s.tabStride) : t.besideDir (s.tabPa ten + o) 8 := by
  have hmul : (ten + 1) * s.tabStride ≤ 16 * s.tabStride := Nat.mul_le_mul_right _ hten
  rw [Nat.add_mul, Nat.one_mul] at hmul
  rw [State.besideDir, h.layout, State.tabPa]
  have hb := hs.beside
  rw [State.besideDir] at hb
  generalize ten * s.tabStride = x at *
  generalize 16 * s.tabStride = y at *
  omega

theorem State.mapFrame_sameDir {s : State} (hs : s.tablesBeside) {ten f : Nat} (hten : ten < 16)
    (hf : f * 4096 < s.installed) : s.sameDir (s.mapFrame ten f true) := by
  unfold State.mapFrame
  split
  · exact .refl s
  · dsimp only
    have hwhole := hs.whole
    have hfits : s.installed ≤ 0x10000000000 := hs.fits
    have hstride : s.tabStride = 0x403000 + s.installed / 512 := rfl
    rw [if_pos rfl]
    have h1 := State.wr8_sameDir (hs.entry (.refl s) hten (o := 8 * (0x80 + f * 4096 / 2 ^ 39)) (by omega))
      (s.tabPa ten + 0x1000 * (1 + f * 4096 / 2 ^ 39) + 1)
    have h2 := h1.trans (State.wr8_sameDir (hs.entry h1 hten
      (o := 0x1000 * (1 + f * 4096 / 2 ^ 39) + 8 * (f * 4096 / 2 ^ 30 % 512)) (by omega))
      (s.tabPa ten + 0x3000 + f * 4096 / 2 ^ 30 * 0x1000 + 1))
    have h3 := h2.trans (State.wr8_sameDir (hs.entry h2 hten
      (o := 0x3000 + f * 4096 / 2 ^ 30 * 0x1000 + 8 * (f * 4096 / 2 ^ 21 % 512)) (by omega))
      (s.tabPa ten + 0x403000 + f * 4096 / 2 ^ 21 * 0x1000 + 1))
    have h4 := h3.trans (State.wr8_sameDir (hs.entry h3 hten
      (o := 0x403000 + f * 4096 / 2 ^ 21 * 0x1000 + 8 * (f % 512)) (by omega)) (f * 4096 + 7))
    simpa only [Nat.add_assoc] using h4

/-- A place that lies in an area of records lies beside the directory, in a frame that has a key byte (R290, R292). -/
theorem State.inArea_beside {s : State} {p : Place} {len : Nat} (h : s.inArea p len = true) (hlaid : p.cls = 2 → s.laidOut) :
    s.besideDir p.loc.toNat len ∧ (p.cls ≠ 0 → p.cls ≠ 1 → p.cls = 2 ∧ p.loc.toNat + len ≤ s.installed) := by
  unfold State.inArea at h
  dsimp only at h
  rw [Bool.and_eq_true] at h
  obtain ⟨-, h⟩ := h
  split at h
  · next h0 =>
    rw [Bool.and_eq_true, decide_eq_true_eq] at h
    exact ⟨.inl (Nat.le_trans (by unfold sqBase tilePa tileBase; omega) h.1), fun h => absurd h0 h⟩
  · split at h
    · next h1 =>
      rw [Bool.and_eq_true, decide_eq_true_eq] at h
      exact ⟨.inl (Nat.le_trans (by unfold sqPa; omega) h.1), fun _ h => absurd h1 h⟩
    · split at h
      · next h2 =>
        obtain ⟨-, -, hbase, -⟩ := hlaid h2
        simp only [Bool.and_eq_true, decide_eq_true_eq, Bool.not_eq_true', Bool.and_eq_false_iff, decide_eq_false_iff_not,
          hbase] at h
        obtain ⟨⟨⟨hfits, hdir⟩, -⟩, -⟩ := h
        refine ⟨.inr ?_, fun _ _ => ⟨h2, hfits⟩⟩
        unfold dirSize
        omega
      · cases h

/-- A record's place taken leaves the directory. -/
theorem State.take_sameDir {s : State} {p : Place} {len : Nat} (h : s.inArea p len = true) (hlen : 0 < len)
    (hlaid : p.cls = 2 → s.laidOut) (k : RecKey) : s.sameDir (s.take k p) := by
  obtain ⟨-, hcls⟩ := State.inArea_beside h hlaid
  unfold State.take
  dsimp only
  split
  · exact .refl s
  · next sk _ =>
    generalize (if (s.squareKey (p.home.val / 32) k.ten).isSome then (s.square (p.home.val / 32)).keys
      else (s.square (p.home.val / 32)).keys ++ [(k.ten, sk)]) = keys
    generalize { s.square (p.home.val / 32) with keys := keys } = sq
    have hsq : s.sameDir (s.setSquare (p.home.val / 32) sq) := ⟨rfl, rfl, rfl, rfl⟩
    have hkey : s.sameDir ((s.setSquare (p.home.val / 32) sq).setRegionKey p (BitVec.ofNat 8 (16 + sk.toNat))) := by
      refine hsq.trans (State.setRegionKey_sameDir (fun h0 h1 => ?_) _)
      obtain ⟨h2, hfits⟩ := hcls h0 h1
      have hl := hlaid h2
      obtain ⟨-, -, -, hkeys, -⟩ := id hl
      refine ⟨hl.keysHeld.of_sameDir hsq, ?_⟩
      show p.loc.toNat / 4096 < s.layout.keyLen
      omega
    split
    · next h2 =>
      obtain ⟨-, hfits⟩ := hcls (by rw [h2]; decide) (by rw [h2]; decide)
      refine hkey.trans (State.mapFrame_sameDir ((hlaid h2).tablesBeside.of_sameDir hkey) k.ten.isLt ?_)
      rw [hkey.installed, regionOf]
      omega
    · exact hkey

/-! ### A record defined (R366) -/

/-- The length that a definition gives. -/
def Cmd.defLen (c : Cmd) : Nat := (c.le 16 1 + 1) * 16

theorem Cmd.le_one (c : Cmd) (i : Nat) : c.le i 1 = (byteAt c.e.bytes i).toNat := by
  rw [Cmd.le, leAt, slice, List.take_one, List.head?_drop, byteAt]
  cases c.e.bytes[i]? with
  | none => rfl
  | some b => exact Nat.add_zero _

/-- The contents that a definition gives. -/
def State.newContents (s : State) (c : Cmd) : List Byte :=
  if c.ptr0 = 0 then zeros c.defLen else s.buffer c.ptr0 c.defLen

theorem State.length_newContents (s : State) (c : Cmd) : (s.newContents c).length = c.defLen := by
  unfold State.newContents
  split
  · exact List.length_replicate
  · exact s.length_hostRd _ _

/-- The entry of a record that is defined at a place. -/
def State.newEntry (s : State) (c : Cmd) (p : Place) : DirEnt :=
  { key := c.key, st := .settled, pin := bit (c.le 17 1) 0, cold := bit (c.le 17 1) 1, doubt := false, lost := false
    pinwait := bit (c.le 17 1) 0 && p.cls == 1
    skey := ((s.take c.key p).squareKey (p.home.val / 32) c.key.ten).getD 0, rlen := byteAt c.e.bytes 16
    group := BitVec.ofNat 16 (c.le 18 2), heat := 0, epoch := s.heatNow, rseq := 0, home := p.home, cls := p.cls
    loc := p.loc, moveix := 0 }

theorem State.newEntry_len (s : State) (c : Cmd) (p : Place) : (s.newEntry c p).len = c.defLen := by
  rw [Cmd.defLen, Cmd.le_one]
  rfl

theorem State.define_eq (s : State) (c : Cmd) (i : Nat) (p : Place) :
    s.define c i p = ((s.take c.key p).wrN p.loc.toNat (s.newContents c)).dirPut i (s.newEntry c p) := rfl

/-- A place that placement may choose lies in the area of its class. -/
theorem State.defineOk_inArea {s : State} {c : Cmd} {p : Place} (h : s.defineOk c p = true) : s.inArea p c.defLen = true := by
  simp only [State.defineOk, State.placeOk, Bool.and_eq_true] at h
  obtain ⟨⟨⟨⟨⟨⟨-, harea⟩, -⟩, -⟩, -⟩, -⟩, -⟩ := h
  exact harea

/-- A definition writes its entry, and no other. -/
theorem State.define_dir {s : State} {c : Cmd} {p : Place} (h : s.inArea p c.defLen = true) (hlaid : p.cls = 2 → s.laidOut)
    (i : Nat) : (s.define c i p).dir = spPut s.dir i (s.newEntry c p) := by
  have hlen : 0 < c.defLen := by unfold Cmd.defLen; omega
  obtain ⟨hbeside, -⟩ := State.inArea_beside h hlaid
  have htake := State.take_sameDir h hlen hlaid c.key
  have hwr : (s.take c.key p).sameDir ((s.take c.key p).wrN p.loc.toNat (s.newContents c)) := by
    refine State.wrN_sameDir _ ?_
    rw [State.length_newContents, State.besideDir, htake.layout]
    exact hbeside
  rw [State.define_eq, State.dirPut, (htake.trans hwr).dir]

/-! ### The row of a record command -/

/-- A fetched command of a record that starts now, whose directory slice can be reached. -/
structure RecStarts (op : Nat) (r : CmdRef) (s0 s : State) (c : Cmd) : Prop where
  cmd : s0.cmd? r (fun o => o == op) = some c
  share : s0.begin? c = some s
  fresh : c.e.prog = .none
  noBad : c.dirBad = []
  slice : s.sliceHeld c.key = false

theorem State.onRecord_reached {s : State} {c : Cmd} (hbad : c.dirBad = []) (hslice : s.sliceHeld c.key = false)
    (f : State → State) : s.onRecord c f = f s := by
  have hlook : s.lookedUp c.dirBad c.key = s := by simp [State.lookedUp, hbad]
  rw [State.onRecord, hslice, hlook]
  rfl

theorem State.unstarted_congr {s u : State} {c : Cmd}
    (h : (u.qp? c.t c.q).map QPair.fetched = (s.qp? c.t c.q).map QPair.fetched) : u.unstarted c = s.unstarted c := by
  have hof (s : State) : s.unstarted c
      = (((s.qp? c.t c.q).map QPair.fetched).map (fun l => l.any (fun e => e.seq == c.e.seq && e.prog == .none))).getD false := by
    unfold State.unstarted
    cases s.qp? c.t c.q <;> rfl
  rw [hof, hof, h]

theorem State.unstarted_of_tenancies {s u : State} (h : u.tenancies = s.tenancies) (c : Cmd) : u.unstarted c = s.unstarted c :=
  State.unstarted_congr (by rw [State.qp?_congr h])

/-- The queue pairs of a tenancy in a new round (R352). -/
def QPair.anew (x : QPair) : QPair := { x with share := 0, begun := 0 }
def Tenancy.anew (y : Tenancy) : Tenancy := { y with qps := y.qps.map (fun x => (x.1, x.2.anew)) }

theorem State.newRound_eq (s : State) :
    s.newRound = { s with tenancies := s.tenancies.map (fun y => (y.1, y.2.anew)) } := rfl

/-- A new round takes no command from a queue pair. -/
theorem State.newRound_fetched (s : State) (t q : Nat) :
    (s.newRound.qp? t q).map QPair.fetched = (s.qp? t q).map QPair.fetched := by
  rw [State.newRound_eq, State.qp?, State.tenancy, State.qp?, State.tenancy, spGet, spGet, spGet?_map]
  cases spGet? s.tenancies t with
  | none => rfl
  | some y =>
    simp only [Option.map_some, Option.getD_some, Tenancy.anew, spGet?_map, Option.map_map]
    rfl

theorem State.round_fetched {s u : State} {t q : Nat} {left : QPair → Nat} (h : s.round t q left = some u) :
    (u.qp? t q).map QPair.fetched = (s.qp? t q).map QPair.fetched := by
  unfold State.round at h
  split at h
  · cases h; rfl
  · split_ifs at h
    · cases h; rfl
    · cases h; exact s.newRound_fetched t q

/-- A command that counts against its share has not started by that. -/
theorem State.begin?_unstarted {s0 s : State} {c : Cmd} (h : s0.begin? c = some s) : s.unstarted c = s0.unstarted c := by
  unfold State.begin? at h
  split at h
  · cases h; rfl
  · obtain ⟨u, hu, rfl⟩ := Option.map_eq_some_iff.1 h
    refine State.unstarted_congr (Eq.trans ?_ (State.round_fetched hu))
    cases hx : u.qp? c.t c.q with
    | none => simp only [hx]
    | some x => simp only [State.qp?_setQp_self, Option.map_some]

/-- A command that its queue pair holds is one of those that the queue pair has fetched. -/
theorem State.cmd?_held {s : State} {r : CmdRef} {op : Nat → Bool} {c : Cmd} (h : s.cmd? r op = some c)
    (hg : c.ghost = false) : ∃ x, s.qp? c.t c.q = some x ∧ c.e ∈ x.fetched := by
  unfold State.cmd? at h
  split at h
  · cases h
  · dsimp only at h
    split at h
    · cases h
    · rcases Option.or_eq_some_iff.1 h with h | ⟨-, h⟩
      · obtain ⟨e, -, rfl⟩ := Option.map_eq_some_iff.1 h
        cases hg
      · obtain ⟨e, he, rfl⟩ := Option.map_eq_some_iff.1 h
        have hmem := List.mem_of_find?_eq_some he
        split at hmem
        · next x hx => exact ⟨x, hx, hmem⟩
        · cases hmem

section
variable {op : Nat} {r : CmdRef} {s0 s : State} {c : Cmd} (h : RecStarts op r s0 s c)
include h

/-- A row without effect leaves the command to start later, and its share. -/
theorem RecStarts.idle (hop : op ≠ 0x30) {f : Cmd → State → State} (hf : f c s = s) : s0.onCmd r op f = s0 := by
  have hon : s0.onCmd r op f = if s.unstarted c && !c.ghost && !c.e.isBatch then s0 else s := by
    simp only [State.onCmd, State.onCmdIf, h.cmd, h.share, hf]
  rw [hon]
  cases hg : c.ghost with
  | true =>
    have hs : s0 = s := by simpa [State.begin?, hg] using h.share
    simp [hs]
  | false =>
    obtain ⟨x, hx, hmem⟩ := State.cmd?_held h.cmd hg
    have hun : s.unstarted c = true := by
      rw [State.begin?_unstarted h.share, State.unstarted, hx]
      exact List.any_eq_true.2 ⟨c.e, hmem, by simp [h.fresh]⟩
    have hbatch : c.e.isBatch = false := by
      obtain ⟨hcode, -, -⟩ := State.cmd?_some h.cmd
      rw [beq_iff_eq] at hcode
      simpa [Fetched.isBatch, hcode] using hop
    simp [hun, hbatch]

/-- A row whose effect on the record starts its command, or completes it, has that effect. -/
theorem RecStarts.acts {f : Cmd → State → State} {u : State} (hf : f c s = u) (hu : u.unstarted c = false) :
    s0.onCmd r op (fun c s => s.onRecord c (f c)) = u := by
  have hrec : s.onRecord c (f c) = u := (State.onRecord_reached h.noBad h.slice (f c)).trans hf
  rw [State.onCmd_of_started h.cmd h.share (by rw [hrec]; exact hu), hrec]

theorem RecStarts.ends {f : Cmd → State → State} {u : State} {a : Ans} (hf : f c s = u.ends c a) :
    s0.onCmd r op (fun c s => s.onRecord c (f c)) = u.ends c a := h.acts hf (u.ends_unstarted c a)

end

/-! ### Postings that flow leave the commands (R302, R311) -/

theorem State.dirSet_tenancies (s : State) (k : RecKey) (f : DirEnt → DirEnt) : (s.dirSet k f).tenancies = s.tenancies := by
  unfold State.dirSet
  split <;> rfl

theorem State.flowGo_tenancies (k : RecKey) (n : Nat) (s : State) : (State.flowGo k n s).tenancies = s.tenancies := by
  induction n generalizing s with
  | zero => rfl
  | succ n ih =>
    unfold State.flowGo
    split
    · rfl
    · split
      · split
        · exact State.dirSet_tenancies _ _ _
        · rfl
      · split
        · exact ih _
        · rfl

theorem State.flow_unstarted {s : State} {c : Cmd} (h : s.unstarted c = false) (k : RecKey) : (s.flow k).unstarted c = false :=
  (State.unstarted_of_tenancies (State.flowGo_tenancies k _ s) c).trans h

/-- A replacement leaves its command completed, or as far as it has come. -/
theorem State.replace_unstarted {s : State} {c : Cmd} (h : s.unstarted c = false) (o : W16) : (s.replace c o).unstarted c = false := by
  unfold State.replace
  split
  · exact State.ends_unstarted _ _ _
  · split
    · exact State.flow_unstarted (State.ends_unstarted _ _ _) _
    · exact h

/-- So does a query. -/
theorem State.queryGo_unstarted {s : State} {c : Cmd} (h : s.unstarted c = false) (o : W16) : (s.queryGo c o).unstarted c = false := by
  unfold State.queryGo
  split
  · exact State.ends_unstarted _ _ _
  · split
    · exact State.flow_unstarted (State.ends_unstarted _ _ _) _
    · split
      · exact State.flow_unstarted (State.ends_unstarted _ _ _) _
      · split
        · exact State.flow_unstarted (State.ends_unstarted _ _ _) _
        · exact h

/-- And a removal. -/
theorem State.removeGo_unstarted {s : State} {c : Cmd} (h : s.unstarted c = false) : (s.removeGo c).unstarted c = false := by
  unfold State.removeGo
  split
  · exact State.ends_unstarted _ _ _
  · split
    · exact State.ends_unstarted _ _ _
    · exact h

/-! ### DEFINE_RECORD (R366) -/

section
variable {r : CmdRef} {s0 s : State} {c : Cmd}

/-- The checks of DEFINE_RECORD that a command passes (R319, R366). -/
structure DefinePasses (s : State) (c : Cmd) : Prop where
  reserved : reserved71 c (fun i => if i = 17 then 3 else namedBytes [(8, 9), (18, 6)] i) = none
  ptrs : ptrs73 c 2 0 = none
  memUp : mem76 s c = none
  notRetired : s.fuses.lc ≠ 3
  isNew : s.dirFind c.key = none
  quota : s.dirUsed c.t < (s.tenancy c.t).dirQuota
  sealHolds : if c.ptr0 = 0 then c.le 20 4 = 0 else c.readFails = false ∧ c.le 20 4 = crc32c (s.hostRd c.ptr0 c.defLen)
  hints : hints78 s c.t none c.defLen (bit (c.le 17 1) 0) (bit (c.le 17 1) 1) (BitVec.ofNat 16 (c.le 18 2)) = none

/-- The row of DEFINE_RECORD past its checks: defined where placement may, else nothing while some place is left, else
refused. -/
theorem DefinePasses.exec (h : DefinePasses s c) {i : Nat} (hfree : s.dirFree c.key = some i) (p : Place) :
    ∃ f : Cmd → State → State, exec (.defineRecord r p) s0 = .next (s0.onCmd r 0x20 (fun c s => s.onRecord c (f c)))
      ∧ f c s = if s.defineOk c p then (s.define c i p).ends c (Ans.of 0)
        else if s.anyPlace c.key c.defLen (bit (c.le 17 1) 0) (bit (c.le 17 1) 1) (s.groupHomes c.t (BitVec.ofNat 16 (c.le 18 2)))
        then s else s.ends c (Ans.of 0x3007) := by
  obtain ⟨h71, h73, hmem, hlc, hfind, hquota, hseal, hhints⟩ := h
  have hretired : retired76 s = none := retired76_none hlc
  have hpass : firstOf
      [reserved71 c (fun i => if i = 17 then 3 else namedBytes [(8, 9), (18, 6)] i), ptrs73 c 2 0,
       unless_ (c.ptr0 != 0 || c.le 20 4 == 0) 0x100A 20, unless_ (s.dirFind c.key).isNone 0x100D 0, retired76 s, mem76 s c,
       (if c.ptr0 = 0 then none else read77 c), unless_ (c.ptr0 == 0 || c.le 20 4 == crc32c (s.buffer c.ptr0 c.defLen)) 0x4001 0,
       unless_ (decide (s.dirUsed c.t < (s.tenancy c.t).dirQuota)) 0x3002 0, unless_ (s.dirFree c.key).isSome 0x3001 0,
       hints78 s c.t none c.defLen (bit (c.le 17 1) 0) (bit (c.le 17 1) 1) (BitVec.ofNat 16 (c.le 18 2))] = none := by
    by_cases hptr : c.ptr0 = 0
    · rw [if_pos hptr] at hseal
      simp [firstOf, unless_, h71, h73, hretired, hmem, hfind, hquota, hfree, hhints, hptr, hseal]
    · rw [if_neg hptr] at hseal
      simp [firstOf, unless_, read77, State.buffer, h71, h73, hretired, hmem, hfind, hquota, hfree, hhints, hptr, hseal]
  simp only [Cmd.defLen] at hpass ⊢
  refine ⟨_, rfl, ?_⟩
  simp only [hpass]
  simp only [hfree]
  rfl

theorem defineRecord_ends (hc : RecStarts 0x20 r s0 s c) (h : DefinePasses s c) {i : Nat} (hfree : s.dirFree c.key = some i)
    {p : Place} (hok : s.defineOk c p = true) : exec (.defineRecord r p) s0 = .next ((s.define c i p).ends c (Ans.of 0)) := by
  obtain ⟨f, hexec, hf⟩ := h.exec (r := r) (s0 := s0) hfree p
  rw [hexec, hc.ends (hf.trans (if_pos hok))]

theorem defineRecord_noPlace (hc : RecStarts 0x20 r s0 s c) (h : DefinePasses s c) {i : Nat} (hfree : s.dirFree c.key = some i)
    {p : Place} (hok : s.defineOk c p = false) (hany : s.anyPlace c.key c.defLen (bit (c.le 17 1) 0) (bit (c.le 17 1) 1)
      (s.groupHomes c.t (BitVec.ofNat 16 (c.le 18 2))) = false) :
    exec (.defineRecord r p) s0 = .next (s.ends c (Ans.of 0x3007)) := by
  obtain ⟨f, hexec, hf⟩ := h.exec (r := r) (s0 := s0) hfree p
  rw [hok, hany] at hf
  rw [hexec, hc.ends hf]

theorem defineRecord_idle (hc : RecStarts 0x20 r s0 s c) (h : DefinePasses s c) {i : Nat} (hfree : s.dirFree c.key = some i)
    {p : Place} (hok : s.defineOk c p = false) (hany : s.anyPlace c.key c.defLen (bit (c.le 17 1) 0) (bit (c.le 17 1) 1)
      (s.groupHomes c.t (BitVec.ofNat 16 (c.le 18 2))) = true) : exec (.defineRecord r p) s0 = .next s0 := by
  obtain ⟨f, hexec, hf⟩ := h.exec (r := r) (s0 := s0) hfree p
  rw [hok, hany] at hf
  rw [hexec, hc.idle (by decide) ((State.onRecord_reached hc.noBad hc.slice (f c)).trans hf)]

end

/-! ### The commands on a record that is defined (R366 to R368) -/

section
variable {r : CmdRef} {s0 s : State} {c : Cmd} {d : DirEnt}

theorem rec75_none (h : s.target c = some d) : rec75 s c = none := by
  simp [rec75, unless_, h]

/-- The row of SET_HINTS past the checks before 7.8. -/
theorem setHints_exec (h71 : reserved71 c (fun i => if i = 16 then 3 else namedBytes [(8, 8), (18, 2)] i) = none)
    (h73 : ptrs73 c 0 0 = none) (hup : mem76 s c = none) (ht : s.target c = some d) :
    ∃ f : Cmd → State → State, exec (.setHints r) s0 = .next (s0.onCmd r 0x22 (fun c s => s.onRecord c (f c)))
      ∧ (∀ a, hints78 s c.t (some d) d.len (bit (c.le 16 1) 0) (bit (c.le 16 1) 1) (BitVec.ofNat 16 (c.le 18 2)) = some a →
        f c s = s.ends c a)
      ∧ (hints78 s c.t (some d) d.len (bit (c.le 16 1) 0) (bit (c.le 16 1) 1) (BitVec.ofNat 16 (c.le 18 2)) = none →
        f c s = (s.dirSet c.key (fun d => { d with pin := bit (c.le 16 1) 0, cold := bit (c.le 16 1) 1
                                                   group := BitVec.ofNat 16 (c.le 18 2)
                                                   pinwait := d.pinwait && bit (c.le 16 1) 0 })).ends c (Ans.of 0)) := by
  have hpass : firstOf [reserved71 c (fun i => if i = 16 then 3 else namedBytes [(8, 8), (18, 2)] i), ptrs73 c 0 0, rec75 s c,
      mem76 s c] = none := by simp [firstOf, h71, h73, rec75_none ht, hup]
  refine ⟨_, rfl, fun a ha => ?_, fun hok => ?_⟩
  · simp only [hpass, ht, ha]
  · simp only [hpass, ht, hok]

/-- The row of CLEAR_FLAGS past the checks that each form makes. -/
theorem clearFlags_exec {rep : Bool} (hp : c.e.prog = .none) (hrep : bit (c.le 16 1) 0 = rep)
    (h71 : reserved71 c (fun i => if i = 16 then 1 else namedBytes [(8, 8), (20, 4)] i) = none)
    (h73 : ptrs73 c (if rep then 1 else 0) 0 = none) (hup : mem76 s c = none) (ht : s.target c = some d) :
    ∃ f : Cmd → State → State, exec (.clearFlags r) s0 = .next (s0.onCmd r 0x23 (fun c s => s.onRecord c (f c)))
      ∧ (rep = true → c.readFails = false → c.le 20 4 = crc32c (s.hostRd c.ptr0 d.len) →
        f c s = (s.progress c (.ordered d.rseq)).replace c d.rseq)
      ∧ (rep = false → f c s = if d.lost then s.ends c (Ans.of 0x4004)
        else (s.dirSet c.key (fun d => { d with doubt := false })).ends c (Ans.of 0)) := by
  have hpass : firstOf [reserved71 c (fun i => if i = 16 then 1 else namedBytes [(8, 8), (20, 4)] i),
      ptrs73 c (if rep then 1 else 0) 0, rec75 s c, mem76 s c] = none := by simp [firstOf, h71, h73, rec75_none ht, hup]
  refine ⟨_, rfl, fun hr hread hseal => ?_, fun hr => ?_⟩
  · have hread77 : firstOf [read77 c, unless_ (c.le 20 4 == crc32c (s.buffer c.ptr0 d.len)) 0x4001 0] = none := by
      simp [firstOf, unless_, read77, hread, hseal, State.buffer]
    simp only [hp, hrep, hpass, ht, hread77]
    exact if_pos hr
  · simp only [hp, hrep, hpass, ht]
    exact if_neg (Bool.eq_false_iff.1 hr)

/-- The row of REMOVE_RECORD past its checks. -/
theorem removeRecord_exec (hp : c.e.prog = .none) (h71 : reserved71 c (namedBytes [(8, 8)]) = none)
    (h73 : ptrs73 c 2 0 = none) (hup : mem76 s c = none) (ht : s.target c = some d) :
    ∃ f : Cmd → State → State, exec (.removeRecord r) s0 = .next (s0.onCmd r 0x21 (fun c s => s.onRecord c (f c)))
      ∧ f c s = s.removeStart c := by
  have hpass : firstOf [reserved71 c (namedBytes [(8, 8)]), ptrs73 c 2 0, rec75 s c, mem76 s c] = none := by
    simp [firstOf, h71, h73, rec75_none ht, hup]
  refine ⟨_, rfl, ?_⟩
  simp only [hp, hpass]

/-- A record that a command names is one that the directory finds. -/
theorem State.dirFind_of_target (h : s.target c = some d) : ∃ i, s.dirFind c.key = some (i, d) := by
  unfold State.target at h
  split at h
  · next i e he =>
    split_ifs at h
    cases h
    exact ⟨i, he⟩
  · cases h

/-- The row of QUERY_RECORD past the checks before 7.6. -/
theorem queryRecord_exec (hp : c.e.prog = .none) (h71 : reserved71 c (namedBytes [(8, 12)]) = none)
    (h73 : ptrs73 c 1 0 = none) (hlo : 16 ≤ c.le 16 4) (hhi : c.le 16 4 ≤ 4096) (hup : mem76 s c = none)
    (ht : s.target c = some d) :
    ∃ f : Cmd → State → State, exec (.queryRecord r) s0 = .next (s0.onCmd r 0x40 (fun c s => s.onRecord c (f c)))
      ∧ f c s = if d.lost then s.ends c { Ans.of 0x4004 with res1 := queryRes1 d d.rseq }
        else if c.le 16 4 < d.len then s.ends c { Ans.of 0x3008 with res0 := d.len }
        else (s.progress c (.ordered d.rseq)).queryGo c d.rseq := by
  have hpass : firstOf [reserved71 c (namedBytes [(8, 12)]), ptrs73 c 1 0,
      unless_ (decide (16 ≤ c.le 16 4) && decide (c.le 16 4 ≤ 4096)) 0x100A 16, rec75 s c, mem76 s c] = none := by
    simp [firstOf, unless_, h71, h73, hlo, hhi, rec75_none ht, hup]
  refine ⟨_, rfl, ?_⟩
  simp only [hp, hpass, ht]
  rfl

end

/-! ### The ends of a removal and of a query -/

theorem State.replies_dir (s : State) (c : Cmd) (a : Nat) (l : List Byte) : (s.replies c a l).dir = s.dir := by
  unfold State.replies State.reply
  repeat' split
  all_goals rfl

section
variable {s : State} {c : Cmd} {i : Nat} {d : DirEnt} (hfind : s.dirFind c.key = some (i, d))
include hfind

theorem State.removeGo_ends (hst : d.st = .removing) (hfwd : s.fwdOf c.key = []) (hdel : ∀ v ∈ s.deliveries, v.key ≠ c.key)
    (hord : s.orders c.key = []) (hheld : s.heldPa d.loc.toNat = false) (hbad : c.recBad = false) :
    s.removeGo c = ({ (if c.ptr0 = 0 ∨ d.lost = true then s else s.replies c c.ptr0 (s.rdN d.loc.toNat d.len)) with
        dir := spDel s.dir i }.release d.key d.place).ends c
      { Ans.of (if d.lost then 0x4004 else 0) with res0 := d.rseq.toNat } := by
  have hall : s.deliveries.all (fun v => v.key != c.key) = true := by simpa using hdel
  have hdir : (if c.ptr0 = 0 ∨ d.lost = true then s else s.replies c c.ptr0 (s.rdN d.loc.toNat d.len)).dir = s.dir := by
    split
    · rfl
    · exact State.replies_dir _ _ _ _
  have hgo : s.removeGo c = s.removed c i d := by
    simp [State.removeGo, hfind, hst, hfwd, hall, hord, hheld]
  rw [hgo, State.removed]
  simp only [hbad, Bool.false_and, Bool.or_false, Bool.false_eq_true, if_false, hdir]
  rfl

theorem State.queryGo_ends {o : W16} (hlost : d.lost = false) (hbad : c.recBad = false) (hheld : s.heldPa d.loc.toNat = false)
    (happ : s.applied c.key o = true) : s.queryGo c o = ((s.replies c c.ptr0 (s.rdN d.loc.toNat d.len)).ends c
      { status := 0, res0 := d.len, res1 := queryRes1 d o, detail := crc32c (s.rdN d.loc.toNat d.len) }).flow c.key := by
  simp [State.queryGo, hfind, hlost, hbad, hheld, happ]

end

/-! ### O48 -/

/-- Settles O48: records defined, hinted, cleared of flags, removed and queried. -/
theorem recordCommands : Obligations.RecordCommands := by
  unfold Obligations.RecordCommands
  intro r s0 s c is key up
  have starts {op : Nat} (h : is op) : RecStarts op r s0 s c := by
    obtain ⟨hcmd, hshare, hfresh, hbad, hslice⟩ := h
    exact ⟨hcmd, hshare, hfresh, hbad, hslice⟩
  refine ⟨fun p i hc h71 h73 hup hlc hfind hquota hfree => ?define, fun hc h71 h73 hup d ht => ⟨fun hok => ?hint, fun a ha => ?hintDenied⟩,
    fun hc h71 hup d ht => ⟨fun hrep h73 hlost => ?clear, fun hrep h73 hlost => ?clearLost, fun hrep h73 hread hseal => ?replace⟩,
    fun hc h71 h73 hup d ht => ⟨fun hst => ?removeWaits, fun hst => ?remove⟩,
    fun i d hfind hst hfwd hdel hord hheld hbad => State.removeGo_ends hfind hst hfwd hdel hord hheld hbad,
    fun hc h71 h73 hlo hhi hup d ht => ⟨fun hlost => ?queryLost, fun hlost hsize => ?queryShort, fun hlost hsize => ?query⟩,
    fun i d o hfind hlost hbad hheld happ => State.queryGo_ends hfind hlost hbad hheld happ⟩
  case define =>
    intro len pin cold group hseal hhints
    have hpass : DefinePasses s c := ⟨h71, h73, hup, hlc, hfind, hquota, hseal, hhints⟩
    refine ⟨fun hok hlaid => ?_, fun hany hok => defineRecord_noPlace (starts hc) hpass hfree hok hany,
      fun hany hok => defineRecord_idle (starts hc) hpass hfree hok hany⟩
    have hdir := State.define_dir (State.defineOk_inArea hok) hlaid i
    refine ⟨s.define c i p, s.newEntry c p, defineRecord_ends (starts hc) hpass hfree hok, ?_, rfl, rfl, rfl, rfl, rfl, rfl, rfl,
      rfl, rfl, rfl, s.newEntry_len c p, rfl, rfl, ?_, fun j hj => ?_⟩
    · rw [hdir, spGet?_spPut_self]
    · rw [State.newEntry, Bool.and_eq_true, beq_iff_eq]
    · rw [hdir, spGet?_spPut_ne _ _ hj]
  case hint =>
    obtain ⟨f, hexec, -, hf⟩ := setHints_exec (r := r) (s0 := s0) h71 h73 hup ht
    rw [hexec, (starts hc).ends (hf hok)]
  case hintDenied =>
    obtain ⟨f, hexec, hf, -⟩ := setHints_exec (r := r) (s0 := s0) h71 h73 hup ht
    rw [hexec, (starts hc).ends (hf a ha)]
  case clear =>
    obtain ⟨f, hexec, -, hf⟩ := clearFlags_exec (r := r) (s0 := s0) (starts hc).fresh hrep h71 h73 hup ht
    have hend := hf rfl
    rw [hlost] at hend
    rw [hexec, (starts hc).ends hend]
  case clearLost =>
    obtain ⟨f, hexec, -, hf⟩ := clearFlags_exec (r := r) (s0 := s0) (starts hc).fresh hrep h71 h73 hup ht
    have hend := hf rfl
    rw [hlost] at hend
    rw [hexec, (starts hc).ends hend]
  case replace =>
    obtain ⟨f, hexec, hf, -⟩ := clearFlags_exec (r := r) (s0 := s0) (starts hc).fresh hrep h71 h73 hup ht
    have hunstarted := State.replace_unstarted (State.progress_unstarted s c (p := .ordered d.rseq) (by simp)) d.rseq
    rw [hexec, (starts hc).acts (hf rfl hread hseal) hunstarted]
  case removeWaits =>
    obtain ⟨f, hexec, hf⟩ := removeRecord_exec (r := r) (s0 := s0) (starts hc).fresh h71 h73 hup ht
    obtain ⟨i, hfind⟩ := State.dirFind_of_target ht
    have hwait : s.removeStart c = s.progress c (.wait 0) := by simp [State.removeStart, hfind, hst]
    rw [hexec, (starts hc).acts (hf.trans hwait) (State.progress_unstarted s c (by simp))]
  case remove =>
    obtain ⟨f, hexec, hf⟩ := removeRecord_exec (r := r) (s0 := s0) (starts hc).fresh h71 h73 hup ht
    obtain ⟨i, hfind⟩ := State.dirFind_of_target ht
    have hgo : s.removeStart c
        = ((s.dirSet c.key (fun d => { d with st := .removing, moveix := 0 })).progress c .removing).removeGo c := by
      simp [State.removeStart, hfind, hst]
    rw [hexec, (starts hc).acts (hf.trans hgo) (State.removeGo_unstarted (State.progress_unstarted _ c (by simp)))]
  case queryLost =>
    obtain ⟨f, hexec, hf⟩ := queryRecord_exec (r := r) (s0 := s0) (starts hc).fresh h71 h73 hlo hhi hup ht
    rw [hlost] at hf
    rw [hexec, (starts hc).ends hf]
  case queryShort =>
    obtain ⟨f, hexec, hf⟩ := queryRecord_exec (r := r) (s0 := s0) (starts hc).fresh h71 h73 hlo hhi hup ht
    rw [hlost] at hf
    rw [hexec, (starts hc).ends (hf.trans (if_pos hsize))]
  case query =>
    obtain ⟨f, hexec, hf⟩ := queryRecord_exec (r := r) (s0 := s0) (starts hc).fresh h71 h73 hlo hhi hup ht
    rw [hlost] at hf
    have hgo : f c s = (s.progress c (.ordered d.rseq)).queryGo c d.rseq := hf.trans (if_neg (Nat.not_lt.2 hsize))
    rw [hexec, (starts hc).acts hgo (State.queryGo_unstarted (State.progress_unstarted s c (by simp)) _)]

end Sys2Proof.Machine
